-- ==== Sys2Proof/Word.lean ====
section
/-! DEFINITION. Word.lean: the bit vectors of the machine (spec 00 R4, R5). -/

namespace Sys2Proof

/-- A slot word, a scalar register or a 32-bit register of the machine (R30). -/
abbrev Word := BitVec 32
/-- One byte of any memory (R5). -/
abbrev Byte := BitVec 8
/-- A wafer address register, a cue entry, a page-table entry (R34, R37, R321). -/
abbrev DWord := BitVec 64
/-- A vector register, a stream-queue entry or a carry (R5, R30, R24). -/
abbrev VWord := BitVec 512

end Sys2Proof
end

