-- ==== Sys2Proof/Machine/Assoc.lean ====
section
/-! DEFINITION. Assoc.lean: finite tables as sorted lists. `Mem` is a memory in its one canonical form: addresses
strictly rising and no byte zero, since an unlisted byte reads as zero (log 3). `AMap` is a table of records by a
number. -/

namespace Sys2Proof.Machine

/-- A table from numbers to records, keys strictly rising. -/
abbrev AMap (α : Type) := List (Nat × α)

/-- The record at a key. -/
def AMap.get? {α : Type} (m : AMap α) (k : Nat) : Option α :=
  match m with
  | [] => none
  | (j, a) :: r => if k = j then some a else AMap.get? r k

/-- The record at a key, or a default. -/
def AMap.getD {α : Type} (m : AMap α) (k : Nat) (d : α) : α := (AMap.get? m k).getD d

/-- Put a record at a key. -/
def AMap.put {α : Type} (m : AMap α) (k : Nat) (a : α) : AMap α :=
  match m with
  | [] => [(k, a)]
  | (j, b) :: r => if k = j then (k, a) :: r else if k < j then (k, a) :: (j, b) :: r else (j, b) :: AMap.put r k a

/-- Remove a key. -/
def AMap.del {α : Type} (m : AMap α) (k : Nat) : AMap α := m.filter (fun e => decide (e.1 ≠ k))

/-- A memory: bytes by address, in canonical form. -/
abbrev Mem := List (Nat × BitVec 8)

/-- One byte; an unlisted byte is zero. -/
def Mem.read (m : Mem) (a : Nat) : Byte :=
  match m with
  | [] => 0
  | (j, b) :: r => if a = j then b else Mem.read r a

/-- Set one byte and keep the canonical form. -/
def Mem.write (m : Mem) (a : Nat) (v : Byte) : Mem :=
  match m with
  | [] => if v = 0 then [] else [(a, v)]
  | (j, b) :: r =>
    if a = j then (if v = 0 then r else (a, v) :: r)
    else if a < j then (if v = 0 then (j, b) :: r else (a, v) :: (j, b) :: r)
    else (j, b) :: Mem.write r a v

/-- The canonical form: every byte not zero and every address above `lo`, rising. -/
def Mem.wfFrom (lo : Nat) (m : Mem) : Bool :=
  match m with
  | [] => true
  | (j, b) :: r => decide (lo ≤ j) && decide (b ≠ 0) && Mem.wfFrom (j + 1) r

/-- The canonical form of a memory. -/
def Mem.wf (m : Mem) : Bool := Mem.wfFrom 0 m

/-- `n` bytes from address `a` as a number, the lowest address least significant (R5). -/
def Mem.readN (m : Mem) (a n : Nat) : Nat :=
  match n with
  | 0 => 0
  | k + 1 => (m.read a).toNat + 256 * m.readN (a + 1) k

/-- Store the low `n` bytes of a number from address `a` (R5). -/
def Mem.writeN (m : Mem) (a n v : Nat) : Mem :=
  match n with
  | 0 => m
  | k + 1 => (m.write a (BitVec.ofNat 8 v)).writeN (a + 1) k (v / 256)

/-- Zero the bytes of `[lo, hi)`. -/
def Mem.clear (m : Mem) (lo hi : Nat) : Mem := m.filter (fun e => !(decide (lo ≤ e.1) && decide (e.1 < hi)))

end Sys2Proof.Machine
end

