-- ==== Sys2Proof/Syntax/Operand.lean ====
section
/-! DEFINITION. Operand.lean: the operand forms that instructions name (spec 03 R70, R73, R77, R79, R85, R86),
and what the steps of the engines, the network, the director and the host name. -/

namespace Sys2Proof

/-- The cue index of a first word, 0 to 62 (R68). -/
abbrev Cue := Fin 63

/-- A scalar source specifier (R70): a register, the dequeued head or the peeked head of an input queue. -/
inductive Src where
  | reg (r : Fin 16)
  | deq (q : Fin 8)
  | peek (q : Fin 8)
  deriving DecidableEq, Repr

/-- A scalar destination specifier (R70): a register or an output queue. -/
inductive Dst where
  | reg (r : Fin 16)
  | oq (q : Fin 8)
  deriving DecidableEq, Repr

/-- A predicate action PM on predicate PX (R73). -/
structure PAct where
  pm : Fin 4
  px : Fin 8
  deriving DecidableEq, Repr

/-- A vector source (R77): a `v` register or a stream read queue. -/
inductive VSrc where
  | v (r : Fin 8)
  | sq (q : Fin 4)
  deriving DecidableEq, Repr

/-- A vector destination (R77): a `v` register or a stream write queue. -/
inductive VDst where
  | v (r : Fin 8)
  | so (q : Fin 4)
  deriving DecidableEq, Repr

/-- The lane types of R79 in code order. -/
inductive Ty where
  | f32 | bf16 | f16 | i32 | i16 | i8 | n8
  deriving DecidableEq, Repr

/-- What every LV instruction carries: cue, type, beats minus one, predicate action (R75, R162). -/
structure VHead where
  cue : Cue
  ty : Ty
  nb : Fin 64
  p : PAct
  deriving DecidableEq, Repr

/-- The conversions of VCVT by code VC (R173): to a lane type, to or from an 8-bit float. -/
inductive VConv where
  | toTy (t : Ty)
  | toE4m3 | toE5m2 | fromE4m3 | fromE5m2
  deriving DecidableEq, Repr

/-- Operand types of a matrix product, DT codes 0 to 5 (R79). -/
inductive MxTy where
  | bf16 | f16 | e4m3 | e5m2 | e4e5 | i8
  deriving DecidableEq, Repr

/-- The scan operators OPR of R86 in code order. -/
inductive ScanOp where
  | addF32 | addI32 | maxF32 | maxI32 | minF32 | minI32 | affine | lse | maxidx
  deriving DecidableEq, Repr

/-- The ordering codes ORD of R85. -/
inductive Ord where
  | relaxed | acquire | release | acqRel
  deriving DecidableEq, Repr

/-- The compare operand of WAITA (R273, R277): a word source, or a register pair named by its even register over 2. -/
inductive WCmp where
  | word (a : Src)
  | pair (n : Fin 8)
  deriving DecidableEq, Repr

/-- The four neighbours of a router (R20). -/
inductive Dir where
  | north | east | south | west
  deriving DecidableEq, Repr

/-- Where a remote write stands that is delivered (R32, R255): in the mesh, or held at its target. -/
inductive PutFrom where
  | mesh (i : Nat)
  | held (cell : Nat) (ctx : Fin 4) (r : Fin 8)
  deriving DecidableEq, Repr

/-- A wafer-space request: one of this module's, or one that came in through the edge (R28, R320). -/
inductive ReqRef where
  | own (i : Nat)
  | guest (i : Nat)
  deriving DecidableEq, Repr

/-- A record place (R343): of a context, or the cell's queue of asynchronous records. -/
inductive RecFrom where
  | ctx (c : Fin 4)
  | async
  deriving DecidableEq, Repr

/-- The quantities of a scan round (R204): cell prefix, segment aggregate, segment prefix, row aggregate, row
prefix, segment base, prefix of a member. -/
inductive ScanQ where
  | cellPfx (c h : Nat)
  | seg (s h : Nat)
  | segPfx (s h : Nat)
  | row (h : Nat)
  | rowPfx (h : Nat)
  | base (s h : Nat)
  | pfx (c h : Nat)
  deriving DecidableEq, Repr

/-- The table that a mapping update writes (R320, R325): a stage's own, or the guest table of a peer's stage. -/
inductive MapTable where
  | stage (s : Nat)
  | guest (module stage : Nat)
  deriving DecidableEq, Repr

/-- What one boot finds (R378): the serial number, the bytes of the casting table that the module was shipped with, the dead
positions and those whose oscillator fails its self-test (row, column). -/
structure BootFinds where
  serial : Nat
  table : List (BitVec 8)
  dead : List (Nat × Nat)
  osc : List (Nat × Nat)
  deriving DecidableEq, Repr

end Sys2Proof
end

