-- ==== Sys2Proof/Syntax.lean ====
section
/-! DEFINITION. Syntax.lean: the instructions and steps of the Axkel W64, one constructor for each row of
spec/opcode_table.json. Fields keep the names of spec 03 R69 and R75: c the cue, d the destination, a and b the
sources, p the predicate action. A step row that has no encoding carries what it concerns: n a module-logical
cell number (row times 320 plus column), i an index into a list of the state, st a stage ID. -/

namespace Sys2Proof

inductive Instr where
  -- Integer operations on two registers (R133, R134), division (R136)
  | add (c : Cue) (d : Dst) (a b : Src) (p : PAct)
  | sub (c : Cue) (d : Dst) (a b : Src) (p : PAct)
  | and (c : Cue) (d : Dst) (a b : Src) (p : PAct)
  | or (c : Cue) (d : Dst) (a b : Src) (p : PAct)
  | xor (c : Cue) (d : Dst) (a b : Src) (p : PAct)
  | sll (c : Cue) (d : Dst) (a b : Src) (p : PAct)
  | srl (c : Cue) (d : Dst) (a b : Src) (p : PAct)
  | sra (c : Cue) (d : Dst) (a b : Src) (p : PAct)
  | mul (c : Cue) (d : Dst) (a b : Src) (p : PAct)
  | mulh (c : Cue) (d : Dst) (a b : Src) (p : PAct)
  | mulhu (c : Cue) (d : Dst) (a b : Src) (p : PAct)
  | min (c : Cue) (d : Dst) (a b : Src) (p : PAct)
  | max (c : Cue) (d : Dst) (a b : Src) (p : PAct)
  | minu (c : Cue) (d : Dst) (a b : Src) (p : PAct)
  | maxu (c : Cue) (d : Dst) (a b : Src) (p : PAct)
  | seq (c : Cue) (d : Dst) (a b : Src) (p : PAct)
  | sne (c : Cue) (d : Dst) (a b : Src) (p : PAct)
  | slt (c : Cue) (d : Dst) (a b : Src) (p : PAct)
  | sltu (c : Cue) (d : Dst) (a b : Src) (p : PAct)
  | sel (c : Cue) (d : Dst) (a b : Src) (ps : Fin 8)
  | div (c : Cue) (d : Dst) (a b : Src) (p : PAct)
  | divu (c : Cue) (d : Dst) (a b : Src) (p : PAct)
  | rem (c : Cue) (d : Dst) (a b : Src) (p : PAct)
  | remu (c : Cue) (d : Dst) (a b : Src) (p : PAct)
  -- Immediate forms (R138, R139)
  | addi (c : Cue) (d : Dst) (a : Src) (imm : BitVec 10)
  | andi (c : Cue) (d : Dst) (a : Src) (imm : BitVec 10)
  | ori (c : Cue) (d : Dst) (a : Src) (imm : BitVec 10)
  | xori (c : Cue) (d : Dst) (a : Src) (imm : BitVec 10)
  | slli (c : Cue) (d : Dst) (a : Src) (sh : Fin 32)
  | srli (c : Cue) (d : Dst) (a : Src) (sh : Fin 32)
  | srai (c : Cue) (d : Dst) (a : Src) (sh : Fin 32)
  | slti (c : Cue) (d : Dst) (a : Src) (imm : BitVec 10)
  | sltiu (c : Cue) (d : Dst) (a : Src) (imm : BitVec 10)
  | seqi (c : Cue) (d : Dst) (a : Src) (imm : BitVec 10)
  | li (c : Cue) (d : Dst) (imm : BitVec 15)
  -- f32 arithmetic in scalar registers (R140)
  | fadd (c : Cue) (d : Dst) (a b : Src) (p : PAct)
  | fsub (c : Cue) (d : Dst) (a b : Src) (p : PAct)
  | fmul (c : Cue) (d : Dst) (a b : Src) (p : PAct)
  | fma (c : Cue) (d : Fin 16) (a b : Src) (p : PAct)
  | fnms (c : Cue) (d : Fin 16) (a b : Src) (p : PAct)
  | fmin (c : Cue) (d : Dst) (a b : Src) (p : PAct)
  | fmax (c : Cue) (d : Dst) (a b : Src) (p : PAct)
  | feq (c : Cue) (d : Dst) (a b : Src) (p : PAct)
  | flt (c : Cue) (d : Dst) (a b : Src) (p : PAct)
  | fle (c : Cue) (d : Dst) (a b : Src) (p : PAct)
  -- Single-operand functions (R143 to R148)
  | mov (c : Cue) (d : Dst) (a : Src) (p : PAct)
  | not (c : Cue) (d : Dst) (a : Src) (p : PAct)
  | neg (c : Cue) (d : Dst) (a : Src) (p : PAct)
  | abs (c : Cue) (d : Dst) (a : Src) (p : PAct)
  | clz (c : Cue) (d : Dst) (a : Src) (p : PAct)
  | ctz (c : Cue) (d : Dst) (a : Src) (p : PAct)
  | popc (c : Cue) (d : Dst) (a : Src) (p : PAct)
  | brev (c : Cue) (d : Dst) (a : Src) (p : PAct)
  | sextb (c : Cue) (d : Dst) (a : Src) (p : PAct)
  | sexth (c : Cue) (d : Dst) (a : Src) (p : PAct)
  | zextb (c : Cue) (d : Dst) (a : Src) (p : PAct)
  | zexth (c : Cue) (d : Dst) (a : Src) (p : PAct)
  | fabs (c : Cue) (d : Dst) (a : Src) (p : PAct)
  | fneg (c : Cue) (d : Dst) (a : Src) (p : PAct)
  | fclass (c : Cue) (d : Dst) (a : Src) (p : PAct)
  | cvtFi (c : Cue) (d : Dst) (a : Src) (p : PAct)
  | cvtIf (c : Cue) (d : Dst) (a : Src) (p : PAct)
  | cvtFn (c : Cue) (d : Dst) (a : Src) (p : PAct)
  | cvtNf (c : Cue) (d : Dst) (a : Src) (p : PAct)
  | frnd (c : Cue) (d : Dst) (a : Src) (p : PAct)
  | cvtBf (c : Cue) (d : Dst) (a : Src) (p : PAct)
  | cvtFb (c : Cue) (d : Dst) (a : Src) (p : PAct)
  | cvtHf (c : Cue) (d : Dst) (a : Src) (p : PAct)
  | cvtFh (c : Cue) (d : Dst) (a : Src) (p : PAct)
  | cvtE4f (c : Cue) (d : Dst) (a : Src) (p : PAct)
  | cvtFe4 (c : Cue) (d : Dst) (a : Src) (p : PAct)
  | cvtE5f (c : Cue) (d : Dst) (a : Src) (p : PAct)
  | cvtFe5 (c : Cue) (d : Dst) (a : Src) (p : PAct)
  | tag (c : Cue) (d : Dst) (q : Fin 8) (p : PAct)
  | qcnt (c : Cue) (d : Dst) (q : Fin 8) (p : PAct)
  | xbit (c : Cue) (d : Dst) (q : Fin 8) (p : PAct)
  -- Words on routes and remote writes (R252 to R255)
  | send (c : Cue) (o : Fin 8) (a b : Src) (p : PAct)
  | sendi (c : Cue) (o : Fin 8) (a : Src) (tag : Byte)
  | join (c : Cue) (d : Dst) (a b : Fin 8) (p : PAct)
  | drop (c : Cue) (a : Fin 8) (b : Option (Fin 8)) (p : PAct)
  | putr (c : Cue) (k : Fin 4) (r : Fin 8) (a b : Src) (p : PAct)
  -- Private loads and stores (R247)
  | ldw (c : Cue) (d : Dst) (a : Src) (imm : BitVec 10)
  | ldh (c : Cue) (d : Dst) (a : Src) (imm : BitVec 10)
  | ldhu (c : Cue) (d : Dst) (a : Src) (imm : BitVec 10)
  | ldb (c : Cue) (d : Dst) (a : Src) (imm : BitVec 10)
  | ldbu (c : Cue) (d : Dst) (a : Src) (imm : BitVec 10)
  | stw (c : Cue) (d : Src) (a : Src) (imm : BitVec 10)
  | sth (c : Cue) (d : Src) (a : Src) (imm : BitVec 10)
  | stb (c : Cue) (d : Src) (a : Src) (imm : BitVec 10)
  -- Predicate instructions (R149), NOP and FENCE.L (R150, R251)
  | pand (c : Cue) (d a b : Fin 8)
  | por (c : Cue) (d a b : Fin 8)
  | pxor (c : Cue) (d a b : Fin 8)
  | pnot (c : Cue) (d a : Fin 8)
  | pmovx (c : Cue) (d : Dst)
  | psetx (c : Cue) (a : Src)
  | nop (c : Cue)
  | fenceL (c : Cue)
  -- Vector instructions (R162 to R178)
  | vadd (h : VHead) (d : VDst) (a b : VSrc)
  | vsub (h : VHead) (d : VDst) (a b : VSrc)
  | vmul (h : VHead) (d : VDst) (a b : VSrc)
  | vfma (h : VHead) (d : Fin 8) (a b : VSrc)
  | vmin (h : VHead) (d : VDst) (a b : VSrc)
  | vmax (h : VHead) (d : VDst) (a b : VSrc)
  | vand (h : VHead) (d : VDst) (a b : VSrc)
  | vor (h : VHead) (d : VDst) (a b : VSrc)
  | vxor (h : VHead) (d : VDst) (a b : VSrc)
  | vshl (h : VHead) (d : VDst) (a b : VSrc)
  | vshr (h : VHead) (d : VDst) (a b : VSrc)
  | vsra (h : VHead) (d : VDst) (a b : VSrc)
  | vceq (h : VHead) (d : VDst) (a b : VSrc)
  | vclt (h : VHead) (d : VDst) (a b : VSrc)
  | vcle (h : VHead) (d : VDst) (a b : VSrc)
  | vsel (h : VHead) (d : VDst) (a b e : VSrc)
  | vcvt (h : VHead) (d : VDst) (a : VSrc) (conv : VConv) (xs : Fin 16)
  | vbcast (h : VHead) (d : VDst) (xs : Fin 16)
  | vext (h : VHead) (d : VDst) (a b : VSrc) (xs : Fin 16)
  | vins (h : VHead) (d : VDst) (a : VSrc) (xs : Fin 16)
  | vperm (h : VHead) (d : VDst) (a b : VSrc)
  | vrsum (h : VHead) (d : Fin 8) (a : VSrc)
  | vrmax (h : VHead) (d : Fin 8) (a : VSrc)
  | vrmin (h : VHead) (d : Fin 8) (a : VSrc)
  | vabs (h : VHead) (d : VDst) (a : VSrc)
  | vneg (h : VHead) (d : VDst) (a : VSrc)
  | vmov (h : VHead) (d : VDst) (a : VSrc)
  | vld (h : VHead) (d : VDst) (xs : Fin 16)
  | vst (h : VHead) (a : VSrc) (xs : Fin 16)
  | vldexp (h : VHead) (d : VDst) (a b : VSrc)
  | vdot2 (h : VHead) (d : Fin 8) (a b : VSrc)
  | vclamp (h : VHead) (d : VDst) (a b e : VSrc)
  -- Special functions (R179)
  | sfExp2 (h : VHead) (d : VDst) (a : VSrc)
  | sfLog2 (h : VHead) (d : VDst) (a : VSrc)
  | sfRcp (h : VHead) (d : VDst) (a : VSrc)
  | sfRsq (h : VHead) (d : VDst) (a : VSrc)
  | sfSqrt (h : VHead) (d : VDst) (a : VSrc)
  | sfTanh (h : VHead) (d : VDst) (a : VSrc)
  | sfSigm (h : VHead) (d : VDst) (a : VSrc)
  | sfSin (h : VHead) (d : VDst) (a : VSrc)
  | sfCos (h : VHead) (d : VDst) (a : VSrc)
  -- Matrix instructions (R183)
  | mxMma (c : Cue) (acc : Fin 4) (ga gb : Fin 8) (dt : MxTy) (accum : Bool) (rows cols : Fin 16) (popa popb trb : Bool) (p : PAct)
  | mxGmma (c : Cue) (acc : Fin 4) (ga gb : Fin 8) (dt : MxTy) (accum : Bool) (cols : Fin 16) (popa popb trb : Bool) (xv : Fin 16) (p : PAct)
  | mxZero (c : Cue) (acc : Fin 4) (p : PAct)
  | mxLda (c : Cue) (acc : Fin 4) (ga : Fin 8) (popa : Bool) (p : PAct)
  | mxRda (c : Cue) (acc : Fin 4) (ga : Fin 8) (code : Fin 8) (accum : Bool) (p : PAct)
  | mxScale (c : Cue) (acc : Fin 4) (trb : Bool) (xv : Fin 8) (p : PAct)
  | mxIssue (c : Cue) (q : Fin 6) (p : PAct)
  -- Scan instructions (R209)
  | scCfg (c : Cue) (grp : Fin 8) (dir : Bool) (p : PAct)
  | scLocal (c : Cue) (op : ScanOp) (cont : Bool) (a : VSrc) (d : VDst) (nb : Fin 64) (p : PAct)
  | scAgg (c : Cue) (op : ScanOp) (grp : Fin 8) (a : VSrc) (p : PAct)
  | scAggRel (c : Cue) (op : ScanOp) (grp : Fin 8) (a : VSrc) (p : PAct)
  | scPfx (c : Cue) (grp : Fin 8) (d : Fin 8) (p : PAct)
  | scApply (c : Cue) (op : ScanOp) (scan : Bool) (a : Fin 8) (d : VDst) (nb : Fin 64) (p : PAct)
  | scReset (c : Cue) (grp : Fin 8) (p : PAct)
  -- Stream and ring instructions (R257)
  | sgSetBase (c : Cue) (g : Fin 4) (a : Src) (p : PAct)
  | sgSetCtl (c : Cue) (g : Fin 4) (a : Src) (p : PAct)
  | sgSetLv (c : Cue) (g : Fin 4) (a b : Src) (lv : Fin 4) (p : PAct)
  | sgGo (c : Cue) (g : Fin 4) (p : PAct)
  | sgHalt (c : Cue) (g : Fin 4) (p : PAct)
  | sgStatCtl (c : Cue) (g : Fin 4) (d : Dst) (p : PAct)
  | sgStatIdx (c : Cue) (g : Fin 4) (d : Dst) (lv : Fin 4) (p : PAct)
  | sgStatOcc (c : Cue) (g : Fin 4) (d : Dst) (p : PAct)
  | gSetW0 (c : Cue) (g : Fin 8) (a : Src) (p : PAct)
  | gSetW1 (c : Cue) (g : Fin 8) (a : Src) (p : PAct)
  | gAdvPush (c : Cue) (g : Fin 8) (p : PAct)
  | gAdvPop (c : Cue) (g : Fin 8) (p : PAct)
  | gStatCnt (c : Cue) (g : Fin 8) (d : Dst) (p : PAct)
  | gStatHead (c : Cue) (g : Fin 8) (d : Dst) (p : PAct)
  | gStatTail (c : Cue) (g : Fin 8) (d : Dst) (p : PAct)
  | tsend (c : Cue) (g : Fin 8) (o : Fin 8) (p : PAct)
  -- Copy instructions (R265)
  | cpArm (c : Cue) (ct : Fin 16) (p : PAct)
  | cpArmSet (c : Cue) (ct : Fin 16) (a b : Src) (wr : Fin 4) (p : PAct)
  | cpFire (c : Cue) (ct : Fin 16) (p : PAct)
  | cpFireNow (c : Cue) (ct : Fin 16) (p : PAct)
  | cpGet (c : Cue) (a b : Src) (wr : Fin 4) (len : BitVec 14) (notify : Bool) (p : PAct)
  | cpPut (c : Cue) (a b : Src) (wr : Fin 4) (len : BitVec 14) (notify : Bool) (p : PAct)
  | cpCancel (c : Cue) (ct : Fin 16) (p : PAct)
  | cpStatDep (c : Cue) (ct : Fin 16) (d : Dst) (p : PAct)
  | cpStatEng (c : Cue) (d : Dst) (p : PAct)
  -- Wafer-space instructions (R273)
  | wstw (c : Cue) (rel : Bool) (wr : Fin 4) (off : BitVec 12) (d : Src) (p : PAct)
  | wstd (c : Cue) (rel : Bool) (wr : Fin 4) (off : BitVec 12) (lo hi : Src) (p : PAct)
  | wstv (c : Cue) (rel : Bool) (wr : Fin 4) (off : BitVec 12) (v : Fin 8) (p : PAct)
  | amoAdd (c : Cue) (ord : Ord) (wr : Fin 4) (off : BitVec 12) (d : Fin 8) (a : Src) (p : PAct)
  | amoAnd (c : Cue) (ord : Ord) (wr : Fin 4) (off : BitVec 12) (d : Fin 8) (a : Src) (p : PAct)
  | amoOr (c : Cue) (ord : Ord) (wr : Fin 4) (off : BitVec 12) (d : Fin 8) (a : Src) (p : PAct)
  | amoXor (c : Cue) (ord : Ord) (wr : Fin 4) (off : BitVec 12) (d : Fin 8) (a : Src) (p : PAct)
  | amoMin (c : Cue) (ord : Ord) (wr : Fin 4) (off : BitVec 12) (d : Fin 8) (a : Src) (p : PAct)
  | amoMax (c : Cue) (ord : Ord) (wr : Fin 4) (off : BitVec 12) (d : Fin 8) (a : Src) (p : PAct)
  | amoMinn (c : Cue) (ord : Ord) (wr : Fin 4) (off : BitVec 12) (d : Fin 8) (a : Src) (p : PAct)
  | amoMaxn (c : Cue) (ord : Ord) (wr : Fin 4) (off : BitVec 12) (d : Fin 8) (a : Src) (p : PAct)
  | amoSwap (c : Cue) (ord : Ord) (wr : Fin 4) (off : BitVec 12) (d : Fin 8) (a : Src) (p : PAct)
  | amoCas (c : Cue) (ord : Ord) (wr : Fin 4) (off : BitVec 12) (d : Fin 8) (a : Src) (p : PAct)
  | amoLd (c : Cue) (ord : Ord) (wr : Fin 4) (off : BitVec 12) (d : Fin 8) (p : PAct)
  | amodAdd (c : Cue) (ord : Ord) (wr : Fin 4) (off : BitVec 12) (d : Fin 4) (a : Fin 8) (p : PAct)
  | amodAnd (c : Cue) (ord : Ord) (wr : Fin 4) (off : BitVec 12) (d : Fin 4) (a : Fin 8) (p : PAct)
  | amodOr (c : Cue) (ord : Ord) (wr : Fin 4) (off : BitVec 12) (d : Fin 4) (a : Fin 8) (p : PAct)
  | amodXor (c : Cue) (ord : Ord) (wr : Fin 4) (off : BitVec 12) (d : Fin 4) (a : Fin 8) (p : PAct)
  | amodMin (c : Cue) (ord : Ord) (wr : Fin 4) (off : BitVec 12) (d : Fin 4) (a : Fin 8) (p : PAct)
  | amodMax (c : Cue) (ord : Ord) (wr : Fin 4) (off : BitVec 12) (d : Fin 4) (a : Fin 8) (p : PAct)
  | amodMinn (c : Cue) (ord : Ord) (wr : Fin 4) (off : BitVec 12) (d : Fin 4) (a : Fin 8) (p : PAct)
  | amodMaxn (c : Cue) (ord : Ord) (wr : Fin 4) (off : BitVec 12) (d : Fin 4) (a : Fin 8) (p : PAct)
  | amodSwap (c : Cue) (ord : Ord) (wr : Fin 4) (off : BitVec 12) (d : Fin 4) (a : Fin 8) (p : PAct)
  | amodCas (c : Cue) (ord : Ord) (wr : Fin 4) (off : BitVec 12) (d : Fin 4) (a : Fin 8) (p : PAct)
  | amodLd (c : Cue) (ord : Ord) (wr : Fin 4) (off : BitVec 12) (d : Fin 4) (p : PAct)
  | redAddI32 (c : Cue) (rel : Bool) (wr : Fin 4) (off : BitVec 12) (a : Src) (p : PAct)
  | redAddF32 (c : Cue) (rel : Bool) (wr : Fin 4) (off : BitVec 12) (a : Src) (p : PAct)
  | redAddBf16x2 (c : Cue) (rel : Bool) (wr : Fin 4) (off : BitVec 12) (a : Src) (p : PAct)
  | redMaxF32 (c : Cue) (rel : Bool) (wr : Fin 4) (off : BitVec 12) (a : Src) (p : PAct)
  | redMinF32 (c : Cue) (rel : Bool) (wr : Fin 4) (off : BitVec 12) (a : Src) (p : PAct)
  | redAnd (c : Cue) (rel : Bool) (wr : Fin 4) (off : BitVec 12) (a : Src) (p : PAct)
  | redOr (c : Cue) (rel : Bool) (wr : Fin 4) (off : BitVec 12) (a : Src) (p : PAct)
  | redXor (c : Cue) (rel : Bool) (wr : Fin 4) (off : BitVec 12) (a : Src) (p : PAct)
  | waita (c : Cue) (wr : Fin 4) (off : BitVec 12) (t : Src) (cmp : WCmp) (p : PAct)
  | wpoke (c : Cue) (dbl : Bool) (wr : Fin 4) (off : BitVec 12) (p : PAct)
  | fenceW (c : Cue) (p : PAct)
  | fenceC (c : Cue) (p : PAct)
  | fenceAll (c : Cue) (p : PAct)
  | mark (c : Cue) (a : Src) (p : PAct)
  -- Barrier, power and time instructions (R293, R305 to R313)
  | barArr (c : Cue) (g : Fin 16) (p : PAct)
  | barArrRel (c : Cue) (g : Fin 16) (p : PAct)
  | barStat (c : Cue) (g : Fin 16) (d : Dst) (p : PAct)
  | phase (c : Cue) (onset : BitVec 12) (int : Fin 16) (k : Fin 32) (p : PAct)
  | phaseGang (c : Cue) (a : Src) (onset : BitVec 12) (int : Fin 16) (k : Fin 32) (p : PAct)
  | phaseEnd (c : Cue) (p : PAct)
  | phaseEndGang (c : Cue) (a : Src) (p : PAct)
  | pwrRd (c : Cue) (d : Dst) (item : Fin 8) (p : PAct)
  -- System instructions (R157, R335, R347, R293)
  | trap (c : Cue) (a : Src) (code : Fin 32) (p : PAct)
  | trapPark (c : Cue) (a : Src) (code : Fin 32) (p : PAct)
  | bkpt (c : Cue) (a : Src) (code : Fin 32) (p : PAct)
  | cfgRd (c : Cue) (d : Dst) (a : Src) (ca : BitVec 12) (p : PAct)
  | cfgWr (c : Cue) (v a : Src) (ca : BitVec 12) (p : PAct)
  | slotLd (c : Cue) (a : Src) (first n1 : Fin 128) (p : PAct)
  | cueWr (c : Cue) (hi lo : Src) (idx : Fin 64) (p : PAct)
  | cueEn (c : Cue) (idx : Fin 64) (en : Bool) (p : PAct)
  | fcrRd (c : Cue) (d : Dst) (p : PAct)
  | fcrWr (c : Cue) (d : Dst) (a : Src) (mask : BitVec 21) (p : PAct)
  | halt (c : Cue) (mask : BitVec 4) (p : PAct)
  | presClr (c : Cue) (mask : BitVec 8) (p : PAct)
  | timeRd (c : Cue) (d : Dst) (p : PAct)
  | timeRdHi (c : Cue) (d : Dst) (p : PAct)
  | cycRd (c : Cue) (d : Dst) (p : PAct)
  | cycRdHi (c : Cue) (d : Dst) (p : PAct)
  | cycRdFired (c : Cue) (d : Dst) (p : PAct)
  | cycRdIdle (c : Cue) (d : Dst) (p : PAct)
  | idRd (c : Cue) (d : Dst) (item : Fin 8) (p : PAct)
  -- Long scalar instructions and long loads (R151, R250)
  | liw (c : Cue) (d : Dst) (imm : Word)
  | addip (c : Cue) (d : Dst) (a : Src) (imm : BitVec 16) (p : PAct)
  | addipHi (c : Cue) (d : Dst) (a : Src) (imm : BitVec 16) (p : PAct)
  | lea (c : Cue) (d : Dst) (a b : Src) (sh : Fin 4) (imm : BitVec 16) (p : PAct)
  | cmpiEq (c : Cue) (d : Dst) (a : Src) (imm : BitVec 16) (p : PAct)
  | cmpiNe (c : Cue) (d : Dst) (a : Src) (imm : BitVec 16) (p : PAct)
  | cmpiLt (c : Cue) (d : Dst) (a : Src) (imm : BitVec 16) (p : PAct)
  | cmpiLtu (c : Cue) (d : Dst) (a : Src) (imm : BitVec 16) (p : PAct)
  | extr (c : Cue) (d : Dst) (a : Src) (pos len1 : Fin 32) (p : PAct)
  | extrS (c : Cue) (d : Dst) (a : Src) (pos len1 : Fin 32) (p : PAct)
  | insr (c : Cue) (d : Fin 16) (a : Src) (pos len1 : Fin 32) (p : PAct)
  | madd (c : Cue) (d : Fin 16) (a b : Src) (p : PAct)
  | decp (c : Cue) (d : Fin 16) (px : Fin 8)
  | wSet (c : Cue) (w : Fin 4) (a b : Src) (p : PAct)
  | wAdd (c : Cue) (w : Fin 4) (a : Src) (sh : Fin 32) (p : PAct)
  | wAddi (c : Cue) (w : Fin 4) (imm : BitVec 16) (p : PAct)
  | wGet (c : Cue) (d : Dst) (w : Fin 4) (half : Bool) (p : PAct)
  | ldwp (c : Cue) (d : Dst) (a : Src) (imm : BitVec 16) (p : PAct)
  | ldhp (c : Cue) (d : Dst) (a : Src) (imm : BitVec 16) (p : PAct)
  | ldhup (c : Cue) (d : Dst) (a : Src) (imm : BitVec 16) (p : PAct)
  | ldbp (c : Cue) (d : Dst) (a : Src) (imm : BitVec 16) (p : PAct)
  | ldbup (c : Cue) (d : Dst) (a : Src) (imm : BitVec 16) (p : PAct)
  -- Steps of a cell and its engines
  | vectorBeat (n : Nat)
  | sliceAccessResume (n : Nat)
  | divideResult (n : Nat)
  | sfServiceStart (n : Nat)
  | sfResultWrite (n : Nat)
  | lineFillComplete (n : Nat) (line : Nat)
  | fenceLComplete (n : Nat)
  | mergeWindowClose (i : Nat)
  | sgTransfer (n : Nat) (g : Fin 4)
  | mxCommandStart (n : Nat)
  | mxCommandComplete (n : Nat)
  | copyStart (n : Nat)
  | copyBlock (n : Nat) (k : Fin 2) (i : Nat)
  | copyComplete (n : Nat) (k : Fin 2)
  | tsendUnit (n : Nat)
  | oqWordSend (n : Nat) (q : Fin 8)
  -- Steps of the mesh, the network interface and wafer space
  | meshFlitForward (i : Nat) (dir : Dir)
  | wordDeliver (i : Nat)
  | tileArrive (i : Nat)
  | putrNameWalk (n : Nat)
  | putrDeliver (w : PutFrom)
  | releaseStationIssue (n : Nat) (c : Fin 4)
  | translationWalk (r : ReqRef)
  | suuAccept (i : Nat)
  | suuApply (i : Nat) (half : Bool)
  | ackReceive (r : ReqRef)
  | responseReceive (r : ReqRef)
  | waitaTimeout (n : Nat) (c : Fin 4)
  | markerRecorded (i : Nat)
  -- Steps of barriers, scan ports, power and records
  | barrierComplete (st : Nat) (g : Fin 16)
  | scanCombine (st : Nat) (grp : Fin 8) (round : Word) (q : ScanQ)
  | phaseGrant (n : Nat) (c : Fin 4)
  | phaseWindowEnd (n : Nat) (c : Fin 4)
  | clockMaskApply (st : Nat)
  | faultRecordDeliver (n : Nat) (w : RecFrom)
  | recordDivert (n : Nat) (w : RecFrom)
  -- Steps of the stage managers and the director
  | launch (off : Nat)
  | launchAccept
  | placement
  | requestAged (st : Nat)
  | forcedPreempt (st : Nat)
  | sceneInstall (st : Nat)
  | curtainUp (st : Nat)
  | curtainDown (st : Nat)
  | stallReport (st : Nat)
  | sceneWatchdog (st : Nat)
  | heartbeatPoll (row col : Nat) (answer : Bool)
  | cellSelfTest (row col : Nat) (pass : Bool)
  | preempt (st : Nat)
  | restore (st : Nat) (x0 y0 : Nat)
  | drainAndSwap (st : Nat)
  | mappingUpdate (t : MapTable) (level2 : Bool) (idx : Nat) (entry : DWord)
  | stageWithdraw (st : Nat)
  | hostEndStage (st : Nat)
  | hostRelease (st : Nat) (v : Word)
  -- Steps of the host and the edge
  | ingressDoorbell (port : Fin 8) (off : Nat) (v : DWord)
  | tokenDeliver (k : Nat)
  | apertureWrite (port : Fin 8) (off : Nat) (ws : List Word)
  | apertureRead (port : Fin 8) (off : Nat) (n : Nat)
  | egressEntryWrite (q : Nat)
  | pciePortDown (port : Fin 8)
  | pciePortUp (port : Fin 8)
  | pcapWrite (v : Word)
  | domainCommit (v : Word) (held : Bool)
  | portTraining (p : Fin 128) (m : Byte) (peer : Fin 128)
  | collectiveEnable (k : Fin 64) (v : Word)
  | collectiveRound (k : Fin 64)
  | reshapeGo (v : Word)
  | reshapeDrainDone
  | reshapeDrainTimeout
  | portRelock (p : Fin 128) (m : Byte) (peer : Fin 128)
  | portRelockTimeout (p : Fin 128)
  | linkLoss (p : Fin 128)
  | linkDeclaredDown (p : Fin 128)
  | sobSubmit (v : Word)
  | sobCheckDone (testPass : Bool)
  | sobOreqCasting
  | sobOreqQuote
  | sobOreqCert
  | powerOnBoot (f : BootFinds)
  | registerWrite (off : Nat) (v : Word)
  | clockStretch (n : Nat) (on : Bool)
  deriving DecidableEq, Repr

end Sys2Proof
end

