-- ==== Sys2Proof/WellFormed.lean ====
section
/-! DEFINITION. WellFormed.lean: the conditions that spec 03 R80, R88 and the field tables put on the fields of an
instruction beyond what their types say. Conditions that depend on the scene (membership of groups and of a route,
R48, R209, R264, R293) are checked where words enter the instruction store (Machine/Scene.lean). -/

namespace Sys2Proof

/-- The sets of lane types that R162 names: all, i32 alone, integers, signed integers, floats, 16-bit floats. -/
inductive TySet where
  | all | i32 | int | sgn | flt | half
  deriving DecidableEq, Repr

/-- Whether a lane type belongs to a set of R162. -/
def TySet.has (s : TySet) (t : Ty) : Bool :=
  match s with
  | .all => true
  | .i32 => decide (t = .i32)
  | .int => decide (t = .i32 ∨ t = .i16 ∨ t = .i8 ∨ t = .n8)
  | .sgn => decide (t = .i32 ∨ t = .i16 ∨ t = .i8)
  | .flt => decide (t = .f32 ∨ t = .bf16 ∨ t = .f16)
  | .half => decide (t = .bf16 ∨ t = .f16)

/-- The TY values that a conversion allows (R173). -/
def VConv.ok (k : VConv) (t : Ty) : Bool :=
  match k with
  | .toTy u => decide (u ≠ t)
  | .toE4m3 | .toE5m2 | .fromE4m3 | .fromE5m2 => TySet.flt.has t

/-- Whether a vector destination is a `v` register. -/
def VDst.isV (d : VDst) : Bool :=
  match d with
  | .v _ => true
  | .so _ => false

/-- The instructions that the opcode map admits (R80, R88, R151, R162, R173, R183, R209, R293, R335), as a test. -/
def Instr.wf (i : Instr) : Bool :=
  match i with
  | .add _ _ _ _ _ => true
  | .sub _ _ _ _ _ => true
  | .and _ _ _ _ _ => true
  | .or _ _ _ _ _ => true
  | .xor _ _ _ _ _ => true
  | .sll _ _ _ _ _ => true
  | .srl _ _ _ _ _ => true
  | .sra _ _ _ _ _ => true
  | .mul _ _ _ _ _ => true
  | .mulh _ _ _ _ _ => true
  | .mulhu _ _ _ _ _ => true
  | .min _ _ _ _ _ => true
  | .max _ _ _ _ _ => true
  | .minu _ _ _ _ _ => true
  | .maxu _ _ _ _ _ => true
  | .seq _ _ _ _ _ => true
  | .sne _ _ _ _ _ => true
  | .slt _ _ _ _ _ => true
  | .sltu _ _ _ _ _ => true
  | .sel _ _ _ _ _ => true
  | .div _ _ _ _ _ => true
  | .divu _ _ _ _ _ => true
  | .rem _ _ _ _ _ => true
  | .remu _ _ _ _ _ => true
  | .addi _ _ _ _ => true
  | .andi _ _ _ _ => true
  | .ori _ _ _ _ => true
  | .xori _ _ _ _ => true
  | .slli _ _ _ _ => true
  | .srli _ _ _ _ => true
  | .srai _ _ _ _ => true
  | .slti _ _ _ _ => true
  | .sltiu _ _ _ _ => true
  | .seqi _ _ _ _ => true
  | .li _ _ _ => true
  | .fadd _ _ _ _ _ => true
  | .fsub _ _ _ _ _ => true
  | .fmul _ _ _ _ _ => true
  | .fma _ _ _ _ _ => true
  | .fnms _ _ _ _ _ => true
  | .fmin _ _ _ _ _ => true
  | .fmax _ _ _ _ _ => true
  | .feq _ _ _ _ _ => true
  | .flt _ _ _ _ _ => true
  | .fle _ _ _ _ _ => true
  | .mov _ _ _ _ => true
  | .not _ _ _ _ => true
  | .neg _ _ _ _ => true
  | .abs _ _ _ _ => true
  | .clz _ _ _ _ => true
  | .ctz _ _ _ _ => true
  | .popc _ _ _ _ => true
  | .brev _ _ _ _ => true
  | .sextb _ _ _ _ => true
  | .sexth _ _ _ _ => true
  | .zextb _ _ _ _ => true
  | .zexth _ _ _ _ => true
  | .fabs _ _ _ _ => true
  | .fneg _ _ _ _ => true
  | .fclass _ _ _ _ => true
  | .cvtFi _ _ _ _ => true
  | .cvtIf _ _ _ _ => true
  | .cvtFn _ _ _ _ => true
  | .cvtNf _ _ _ _ => true
  | .frnd _ _ _ _ => true
  | .cvtBf _ _ _ _ => true
  | .cvtFb _ _ _ _ => true
  | .cvtHf _ _ _ _ => true
  | .cvtFh _ _ _ _ => true
  | .cvtE4f _ _ _ _ => true
  | .cvtFe4 _ _ _ _ => true
  | .cvtE5f _ _ _ _ => true
  | .cvtFe5 _ _ _ _ => true
  | .tag _ _ _ _ => true
  | .qcnt _ _ _ _ => true
  | .xbit _ _ _ _ => true
  | .send _ _ _ _ _ => true
  | .sendi _ _ _ _ => true
  | .join _ _ a b _ => decide (a ≠ b)
  | .drop _ a b _ => decide (b ≠ some a)
  | .putr _ _ _ _ _ _ => true
  | .ldw _ _ _ _ => true
  | .ldh _ _ _ _ => true
  | .ldhu _ _ _ _ => true
  | .ldb _ _ _ _ => true
  | .ldbu _ _ _ _ => true
  | .stw _ _ _ _ => true
  | .sth _ _ _ _ => true
  | .stb _ _ _ _ => true
  | .pand _ _ _ _ => true
  | .por _ _ _ _ => true
  | .pxor _ _ _ _ => true
  | .pnot _ _ _ => true
  | .pmovx _ _ => true
  | .psetx _ _ => true
  | .nop _ => true
  | .fenceL _ => true
  | .vadd _ _ _ _ => true
  | .vsub _ _ _ _ => true
  | .vmul _ _ _ _ => true
  | .vfma _ _ _ _ => true
  | .vmin _ _ _ _ => true
  | .vmax _ _ _ _ => true
  | .vand h _ _ _ => decide (TySet.i32.has h.ty = true)
  | .vor h _ _ _ => decide (TySet.i32.has h.ty = true)
  | .vxor h _ _ _ => decide (TySet.i32.has h.ty = true)
  | .vshl h _ _ _ => decide (TySet.int.has h.ty = true)
  | .vshr h _ _ _ => decide (TySet.int.has h.ty = true)
  | .vsra h _ _ _ => decide (TySet.sgn.has h.ty = true)
  | .vceq _ _ _ _ => true
  | .vclt _ _ _ _ => true
  | .vcle _ _ _ _ => true
  | .vsel h _ _ _ _ => decide (TySet.i32.has h.ty = true)
  | .vcvt h _ _ k _ => decide (VConv.ok k h.ty = true)
  | .vbcast h _ _ => decide (TySet.sgn.has h.ty = true)
  | .vext h _ _ _ _ => decide (TySet.sgn.has h.ty = true)
  | .vins h _ _ _ => decide (TySet.sgn.has h.ty = true)
  | .vperm h _ _ _ => decide (TySet.sgn.has h.ty = true)
  | .vrsum _ _ _ => true
  | .vrmax _ _ _ => true
  | .vrmin _ _ _ => true
  | .vabs _ _ _ => true
  | .vneg _ _ _ => true
  | .vmov h _ _ => decide (TySet.i32.has h.ty = true)
  | .vld h _ _ => decide (TySet.i32.has h.ty = true)
  | .vst h _ _ => decide (TySet.i32.has h.ty = true)
  | .vldexp h _ _ _ => decide (TySet.flt.has h.ty = true)
  | .vdot2 h _ _ _ => decide (TySet.half.has h.ty = true)
  | .vclamp _ _ _ _ _ => true
  | .sfExp2 h _ _ => decide (TySet.flt.has h.ty = true)
  | .sfLog2 h _ _ => decide (TySet.flt.has h.ty = true)
  | .sfRcp h _ _ => decide (TySet.flt.has h.ty = true)
  | .sfRsq h _ _ => decide (TySet.flt.has h.ty = true)
  | .sfSqrt h _ _ => decide (TySet.flt.has h.ty = true)
  | .sfTanh h _ _ => decide (TySet.flt.has h.ty = true)
  | .sfSigm h _ _ => decide (TySet.flt.has h.ty = true)
  | .sfSin h _ _ => decide (TySet.flt.has h.ty = true)
  | .sfCos h _ _ => decide (TySet.flt.has h.ty = true)
  | .mxMma _ _ ga gb _ _ _ _ _ _ _ _ => decide (ga ≠ gb)
  | .mxGmma _ _ ga gb _ _ _ _ _ _ _ _ => decide (ga ≠ gb)
  | .mxZero _ _ _ => true
  | .mxLda _ _ _ _ _ => true
  | .mxRda _ _ _ _ _ _ => true
  | .mxScale _ _ _ _ _ => true
  | .mxIssue _ _ _ => true
  | .scCfg _ _ _ _ => true
  | .scLocal _ _ k _ d _ _ => decide (k = true → d.isV = true)
  | .scAgg _ _ _ _ _ => true
  | .scAggRel _ _ _ _ _ => true
  | .scPfx _ _ _ _ => true
  | .scApply _ _ _ _ d nb _ => decide (d.isV = true → nb = 0)
  | .scReset _ _ _ => true
  | .sgSetBase _ _ _ _ => true
  | .sgSetCtl _ _ _ _ => true
  | .sgSetLv _ _ _ _ _ _ => true
  | .sgGo _ _ _ => true
  | .sgHalt _ _ _ => true
  | .sgStatCtl _ _ _ _ => true
  | .sgStatIdx _ _ _ _ _ => true
  | .sgStatOcc _ _ _ _ => true
  | .gSetW0 _ _ _ _ => true
  | .gSetW1 _ _ _ _ => true
  | .gAdvPush _ _ _ => true
  | .gAdvPop _ _ _ => true
  | .gStatCnt _ _ _ _ => true
  | .gStatHead _ _ _ _ => true
  | .gStatTail _ _ _ _ => true
  | .tsend _ _ _ _ => true
  | .cpArm _ _ _ => true
  | .cpArmSet _ _ _ _ _ _ => true
  | .cpFire _ _ _ => true
  | .cpFireNow _ _ _ => true
  | .cpGet _ _ _ _ _ _ _ => true
  | .cpPut _ _ _ _ _ _ _ => true
  | .cpCancel _ _ _ => true
  | .cpStatDep _ _ _ _ => true
  | .cpStatEng _ _ _ => true
  | .wstw _ _ _ _ _ _ => true
  | .wstd _ _ _ _ _ _ _ => true
  | .wstv _ _ _ _ _ _ => true
  | .amoAdd _ _ _ _ _ _ _ => true
  | .amoAnd _ _ _ _ _ _ _ => true
  | .amoOr _ _ _ _ _ _ _ => true
  | .amoXor _ _ _ _ _ _ _ => true
  | .amoMin _ _ _ _ _ _ _ => true
  | .amoMax _ _ _ _ _ _ _ => true
  | .amoMinn _ _ _ _ _ _ _ => true
  | .amoMaxn _ _ _ _ _ _ _ => true
  | .amoSwap _ _ _ _ _ _ _ => true
  | .amoCas _ _ _ _ _ _ _ => true
  | .amoLd _ _ _ _ _ _ => true
  | .amodAdd _ _ _ _ _ _ _ => true
  | .amodAnd _ _ _ _ _ _ _ => true
  | .amodOr _ _ _ _ _ _ _ => true
  | .amodXor _ _ _ _ _ _ _ => true
  | .amodMin _ _ _ _ _ _ _ => true
  | .amodMax _ _ _ _ _ _ _ => true
  | .amodMinn _ _ _ _ _ _ _ => true
  | .amodMaxn _ _ _ _ _ _ _ => true
  | .amodSwap _ _ _ _ _ _ _ => true
  | .amodCas _ _ _ _ _ _ _ => true
  | .amodLd _ _ _ _ _ _ => true
  | .redAddI32 _ _ _ _ _ _ => true
  | .redAddF32 _ _ _ _ _ _ => true
  | .redAddBf16x2 _ _ _ _ _ _ => true
  | .redMaxF32 _ _ _ _ _ _ => true
  | .redMinF32 _ _ _ _ _ _ => true
  | .redAnd _ _ _ _ _ _ => true
  | .redOr _ _ _ _ _ _ => true
  | .redXor _ _ _ _ _ _ => true
  | .waita _ _ _ _ _ _ => true
  | .wpoke _ _ _ _ _ => true
  | .fenceW _ _ => true
  | .fenceC _ _ => true
  | .fenceAll _ _ => true
  | .mark _ _ _ => true
  | .barArr _ _ _ => true
  | .barArrRel _ _ _ => true
  | .barStat _ _ _ _ => true
  | .phase _ _ int k _ => decide (int ≠ 0 ∧ k ≤ 16)
  | .phaseGang _ _ _ int k _ => decide (int ≠ 0 ∧ k ≤ 16)
  | .phaseEnd _ _ => true
  | .phaseEndGang _ _ _ => true
  | .pwrRd _ _ item _ => decide (item ≤ 3)
  | .trap _ _ _ _ => true
  | .trapPark _ _ _ _ => true
  | .bkpt _ _ _ _ => true
  | .cfgRd _ _ _ _ _ => true
  | .cfgWr _ _ _ _ _ => true
  | .slotLd _ _ first n1 _ => decide (first.val + n1.val + 1 ≤ 128)
  | .cueWr _ _ _ idx _ => decide (idx ≤ 62)
  | .cueEn _ idx _ _ => decide (idx ≤ 62)
  | .fcrRd _ _ _ => true
  | .fcrWr _ _ _ mask _ => decide (mask.toNat / 2 ^ 11 % 2 ^ 5 = 0)
  | .halt _ _ _ => true
  | .presClr _ _ _ => true
  | .timeRd _ _ _ => true
  | .timeRdHi _ _ _ => true
  | .cycRd _ _ _ => true
  | .cycRdHi _ _ _ => true
  | .cycRdFired _ _ _ => true
  | .cycRdIdle _ _ _ => true
  | .idRd _ _ item _ => decide (item ≤ 6)
  | .liw _ _ _ => true
  | .addip _ _ _ _ _ => true
  | .addipHi _ _ _ _ _ => true
  | .lea _ _ _ _ _ _ _ => true
  | .cmpiEq _ _ _ _ _ => true
  | .cmpiNe _ _ _ _ _ => true
  | .cmpiLt _ _ _ _ _ => true
  | .cmpiLtu _ _ _ _ _ => true
  | .extr _ _ _ pos len1 _ => decide (pos.val + len1.val + 1 ≤ 32)
  | .extrS _ _ _ pos len1 _ => decide (pos.val + len1.val + 1 ≤ 32)
  | .insr _ _ _ pos len1 _ => decide (pos.val + len1.val + 1 ≤ 32)
  | .madd _ _ _ _ _ => true
  | .decp _ _ _ => true
  | .wSet _ _ _ _ _ => true
  | .wAdd _ _ _ _ _ => true
  | .wAddi _ _ _ _ => true
  | .wGet _ _ _ _ _ => true
  | .ldwp _ _ _ _ _ => true
  | .ldhp _ _ _ _ _ => true
  | .ldhup _ _ _ _ _ => true
  | .ldbp _ _ _ _ _ => true
  | .ldbup _ _ _ _ _ => true
  | .vectorBeat _ => true
  | .sliceAccessResume _ => true
  | .divideResult _ => true
  | .sfServiceStart _ => true
  | .sfResultWrite _ => true
  | .lineFillComplete _ _ => true
  | .fenceLComplete _ => true
  | .mergeWindowClose _ => true
  | .sgTransfer _ _ => true
  | .mxCommandStart _ => true
  | .mxCommandComplete _ => true
  | .copyStart _ => true
  | .copyBlock _ _ _ => true
  | .copyComplete _ _ => true
  | .tsendUnit _ => true
  | .oqWordSend _ _ => true
  | .meshFlitForward _ _ => true
  | .wordDeliver _ => true
  | .tileArrive _ => true
  | .putrNameWalk _ => true
  | .putrDeliver _ => true
  | .releaseStationIssue _ _ => true
  | .translationWalk _ => true
  | .suuAccept _ => true
  | .suuApply _ _ => true
  | .ackReceive _ => true
  | .responseReceive _ => true
  | .waitaTimeout _ _ => true
  | .markerRecorded _ => true
  | .barrierComplete _ _ => true
  | .scanCombine _ _ _ _ => true
  | .phaseGrant _ _ => true
  | .phaseWindowEnd _ _ => true
  | .clockMaskApply _ => true
  | .faultRecordDeliver _ _ => true
  | .recordDivert _ _ => true
  | .launch _ => true
  | .launchAccept => true
  | .placement => true
  | .requestAged _ => true
  | .forcedPreempt _ => true
  | .sceneInstall _ => true
  | .curtainUp _ => true
  | .curtainDown _ => true
  | .stallReport _ => true
  | .sceneWatchdog _ => true
  | .heartbeatPoll _ _ _ => true
  | .cellSelfTest _ _ _ => true
  | .preempt _ => true
  | .restore _ _ _ => true
  | .drainAndSwap _ => true
  | .mappingUpdate _ _ _ _ => true
  | .stageWithdraw _ => true
  | .hostEndStage _ => true
  | .hostRelease _ _ => true
  | .ingressDoorbell _ _ _ => true
  | .tokenDeliver _ => true
  | .apertureWrite _ _ _ => true
  | .apertureRead _ _ _ => true
  | .egressEntryWrite _ => true
  | .pciePortDown _ => true
  | .pciePortUp _ => true
  | .pcapWrite _ => true
  | .domainCommit _ _ => true
  | .portTraining _ _ _ => true
  | .collectiveEnable _ _ => true
  | .collectiveRound _ => true
  | .reshapeGo _ => true
  | .reshapeDrainDone => true
  | .reshapeDrainTimeout => true
  | .portRelock _ _ _ => true
  | .portRelockTimeout _ => true
  | .linkLoss _ => true
  | .linkDeclaredDown _ => true
  | .sobSubmit _ => true
  | .sobCheckDone _ => true
  | .sobOreqCasting => true
  | .sobOreqQuote => true
  | .sobOreqCert => true
  | .powerOnBoot _ => true
  | .registerWrite _ _ => true
  | .clockStretch _ _ => true

/-- A well-formed instruction. -/
abbrev Instr.WellFormed (i : Instr) : Prop := i.wf = true

end Sys2Proof
end

