-- ==== Sys2Proof/Decode.lean ====
section
/-! DEFINITION. Decode.lean: the layouts of spec 03 (R68 to R90) read field by field, and after them the encoder.
Words are natural numbers below 2^32. Where a word breaks several rules the checks run in the order opcode,
function, type, specifier or range, zero field (log 10). -/

namespace Sys2Proof

/-- The causes 0x01 to 0x06 for which a slot word is refused (R90). -/
inductive DecodeError where
  | op | fn | ty | spec | field | cont
  deriving DecidableEq, Repr

/-- The code of R90. -/
def DecodeError.code (e : DecodeError) : Nat :=
  match e with
  | .op => 1
  | .fn => 2
  | .ty => 3
  | .spec => 4
  | .field => 5
  | .cont => 6

/-- The field of `n` bits whose lowest bit is `lo`. -/
def bits (w lo n : Nat) : Nat := w / 2 ^ lo % 2 ^ n

/-- One bit as a truth value. -/
def bit1 (w lo : Nat) : Bool := bits w lo 1 == 1

/-- Answer `r` if the test holds, the error otherwise. -/
def need {α : Type} (t : Bool) (e : DecodeError) (r : Except DecodeError α) : Except DecodeError α :=
  if t then r else .error e

/-! Codes of the operand forms, in both directions (R70, R73, R77, R79, R85, R86, R173). -/

def Src.code (s : Src) : Nat :=
  match s with
  | .reg r => r
  | .deq q => 16 + q
  | .peek q => 24 + q

def Src.ofCode (n : Nat) : Src :=
  if n < 16 then .reg (Fin.ofNat 16 n) else if n < 24 then .deq (Fin.ofNat 8 n) else .peek (Fin.ofNat 8 n)

def Dst.code (d : Dst) : Nat :=
  match d with
  | .reg r => r
  | .oq q => 16 + q

def Dst.ofCode (n : Nat) : Dst :=
  if n < 16 then .reg (Fin.ofNat 16 n) else .oq (Fin.ofNat 8 n)

def VSrc.code (s : VSrc) : Nat :=
  match s with
  | .v r => r
  | .sq q => 8 + q

def VSrc.ofCode (n : Nat) : VSrc := if n < 8 then .v (Fin.ofNat 8 n) else .sq (Fin.ofNat 4 n)

def VDst.code (d : VDst) : Nat :=
  match d with
  | .v r => r
  | .so q => 8 + q

def VDst.ofCode (n : Nat) : VDst := if n < 8 then .v (Fin.ofNat 8 n) else .so (Fin.ofNat 4 n)

def PAct.code (p : PAct) : Nat := p.pm * 8 + p.px

def PAct.ofCode (n : Nat) : PAct := ⟨Fin.ofNat 4 (n / 8), Fin.ofNat 8 n⟩

def Ty.code (t : Ty) : Nat :=
  match t with
  | .f32 => 0 | .bf16 => 1 | .f16 => 2 | .i32 => 3 | .i16 => 4 | .i8 => 5 | .n8 => 6

def Ty.ofCode (n : Nat) : Ty :=
  match n with
  | 0 => .f32 | 1 => .bf16 | 2 => .f16 | 3 => .i32 | 4 => .i16 | 5 => .i8 | _ => .n8

def MxTy.code (t : MxTy) : Nat :=
  match t with
  | .bf16 => 0 | .f16 => 1 | .e4m3 => 2 | .e5m2 => 3 | .e4e5 => 4 | .i8 => 5

def MxTy.ofCode (n : Nat) : MxTy :=
  match n with
  | 0 => .bf16 | 1 => .f16 | 2 => .e4m3 | 3 => .e5m2 | 4 => .e4e5 | _ => .i8

def ScanOp.code (o : ScanOp) : Nat :=
  match o with
  | .addF32 => 0 | .addI32 => 1 | .maxF32 => 2 | .maxI32 => 3 | .minF32 => 4 | .minI32 => 5 | .affine => 6
  | .lse => 7 | .maxidx => 8

def ScanOp.ofCode (n : Nat) : ScanOp :=
  match n with
  | 0 => .addF32 | 1 => .addI32 | 2 => .maxF32 | 3 => .maxI32 | 4 => .minF32 | 5 => .minI32 | 6 => .affine
  | 7 => .lse | _ => .maxidx

def Ord.code (o : Ord) : Nat :=
  match o with
  | .relaxed => 0 | .acquire => 1 | .release => 2 | .acqRel => 3

def Ord.ofCode (n : Nat) : Ord :=
  match n with
  | 0 => .relaxed | 1 => .acquire | 2 => .release | _ => .acqRel

def VConv.code (k : VConv) : Nat :=
  match k with
  | .toTy t => t.code
  | .toE4m3 => 8 | .toE5m2 => 9 | .fromE4m3 => 10 | .fromE5m2 => 11

def VConv.ofCode (n : Nat) : VConv :=
  if n < 7 then .toTy (Ty.ofCode n)
  else if n = 8 then .toE4m3 else if n = 9 then .toE5m2 else if n = 10 then .fromE4m3 else .fromE5m2

def WCmp.code (k : WCmp) : Nat :=
  match k with
  | .word a => a.code
  | .pair n => 2 * n

/-- The SZ code of a compare operand (R85). -/
def WCmp.sz (k : WCmp) : Nat :=
  match k with
  | .word _ => 0
  | .pair _ => 1

def relCode (rel : Bool) : Nat := if rel then 2 else 0

/-- The B field of DROP (R80): 0, or the second queue. -/
def dropCode (b : Option (Fin 8)) : Nat :=
  match b with
  | none => 0
  | some q => 16 + q

/-! The layouts as sums of their fields (R69, R74, R75). -/

/-- Formats R and U. -/
def encR (c : Cue) (op d a b : Nat) (p : PAct) : Option (Nat × Option Nat) :=
  some (c * 2 ^ 26 + op * 2 ^ 20 + d * 2 ^ 15 + a * 2 ^ 10 + b * 2 ^ 5 + p.code, none)

/-- Formats I and M. -/
def encI (c : Cue) (op d a imm : Nat) : Option (Nat × Option Nat) :=
  some (c * 2 ^ 26 + op * 2 ^ 20 + d * 2 ^ 15 + a * 2 ^ 10 + imm, none)

/-- Format L. -/
def encL (c : Cue) (op d imm : Nat) : Option (Nat × Option Nat) :=
  some (c * 2 ^ 26 + op * 2 ^ 20 + d * 2 ^ 15 + imm, none)

/-- A long instruction from its LOP, LA and LB. -/
def encLong (c : Cue) (lop la lb : Nat) : Option (Nat × Option Nat) :=
  some (c * 2 ^ 26 + 63 * 2 ^ 20 + lop * 2 ^ 12 + la, some (63 * 2 ^ 26 + lb))

def encLV (lop : Nat) (h : VHead) (d a b vc xs : Nat) : Option (Nat × Option Nat) :=
  encLong h.cue lop (d * 2 ^ 8 + a * 2 ^ 4 + b)
    (h.ty.code * 2 ^ 23 + h.nb * 2 ^ 17 + vc * 2 ^ 13 + xs * 2 ^ 9 + h.p.code)

def encLM (lop : Nat) (c : Cue) (acc ga gb dt : Nat) (ac : Bool) (r k : Nat) (pa pb tr : Bool) (xv : Nat) (p : PAct) :
    Option (Nat × Option Nat) :=
  encLong c lop (acc * 2 ^ 10 + ga * 2 ^ 7 + gb * 2 ^ 4 + dt)
    (ac.toNat * 2 ^ 25 + r * 2 ^ 21 + k * 2 ^ 17 + pa.toNat * 2 ^ 16 + pb.toNat * 2 ^ 15 + tr.toNat * 2 ^ 14
      + xv * 2 ^ 10 + p.code)

def encLS (lop : Nat) (c : Cue) (opr grp : Nat) (dir : Bool) (va vd nb : Nat) (rel : Bool) (p : PAct) :
    Option (Nat × Option Nat) :=
  encLong c lop (opr * 2 ^ 8 + grp * 2 ^ 5 + dir.toNat * 2 ^ 4 + va)
    (vd * 2 ^ 22 + nb * 2 ^ 16 + rel.toNat * 2 ^ 15 + p.code)

def encLG (lop : Nat) (c : Cue) (idx xa sub xb imm : Nat) (p : PAct) : Option (Nat × Option Nat) :=
  encLong c lop (idx * 2 ^ 8 + xa * 2 ^ 3 + sub) (xb * 2 ^ 21 + imm * 2 ^ 5 + p.code)

def encLC (lop : Nat) (c : Cue) (ct xa sub xb wr len : Nat) (p : PAct) : Option (Nat × Option Nat) :=
  encLong c lop (ct * 2 ^ 8 + xa * 2 ^ 3 + sub) (xb * 2 ^ 21 + wr * 2 ^ 19 + len * 2 ^ 5 + p.code)

def encLW (lop : Nat) (c : Cue) (wr xa xd : Nat) (off : BitVec 12) (fn ord sz : Nat) (p : PAct) :
    Option (Nat × Option Nat) :=
  encLong c lop (wr * 2 ^ 10 + xa * 2 ^ 5 + xd)
    (off.toNat * 2 ^ 14 + fn * 2 ^ 9 + ord * 2 ^ 7 + sz * 2 ^ 5 + p.code)

def encLY (lop : Nat) (c : Cue) (xd xa sub imm : Nat) (p : PAct) : Option (Nat × Option Nat) :=
  encLong c lop (xd * 2 ^ 7 + xa * 2 ^ 2 + sub) (imm * 2 ^ 5 + p.code)

def encLX (lop : Nat) (c : Cue) (xd xa sub xb imm : Nat) (p : PAct) : Option (Nat × Option Nat) :=
  encLong c lop (xd * 2 ^ 7 + xa * 2 ^ 2 + sub) (xb * 2 ^ 21 + imm * 2 ^ 5 + p.code)

/-! The fields of the short formats. -/

def fCue (w : Nat) : Cue := Fin.ofNat 63 (bits w 26 6)
def fD (w : Nat) : Nat := bits w 15 5
def fA (w : Nat) : Nat := bits w 10 5
def fB (w : Nat) : Nat := bits w 5 5
def fP (w : Nat) : PAct := PAct.ofCode (bits w 0 5)

/-- A destination specifier (R70). -/
def isDst (n : Nat) : Bool := n < 24
/-- A specifier of a scalar register. -/
def isReg (n : Nat) : Bool := n < 16
/-- A specifier 16 to 23: a dequeued input queue or an output queue. -/
def isQ (n : Nat) : Bool := decide (16 ≤ n ∧ n < 24)
/-- A vector specifier (R77). -/
def isV (n : Nat) : Bool := n < 12

def decR (f : Cue → Dst → Src → Src → PAct → Instr) (w : Nat) : Except DecodeError Instr :=
  need (isDst (fD w)) .spec
    (.ok (f (fCue w) (Dst.ofCode (fD w)) (Src.ofCode (fA w)) (Src.ofCode (fB w)) (fP w)))

/-- FMA and FNMS, whose destination is a register (R80). -/
def decR3 (f : Cue → Fin 16 → Src → Src → PAct → Instr) (w : Nat) : Except DecodeError Instr :=
  need (isReg (fD w)) .spec
    (.ok (f (fCue w) (Fin.ofNat 16 (fD w)) (Src.ofCode (fA w)) (Src.ofCode (fB w)) (fP w)))

def decSel (w : Nat) : Except DecodeError Instr :=
  need (isDst (fD w)) .spec <| need (bits w 3 2 == 0) .field
    (.ok (.sel (fCue w) (Dst.ofCode (fD w)) (Src.ofCode (fA w)) (Src.ofCode (fB w)) (Fin.ofNat 8 (bits w 0 3))))

def decI (f : Cue → Dst → Src → BitVec 10 → Instr) (w : Nat) : Except DecodeError Instr :=
  need (isDst (fD w)) .spec
    (.ok (f (fCue w) (Dst.ofCode (fD w)) (Src.ofCode (fA w)) (BitVec.ofNat 10 (bits w 0 10))))

def decShift (f : Cue → Dst → Src → Fin 32 → Instr) (w : Nat) : Except DecodeError Instr :=
  need (isDst (fD w)) .spec <| need (bits w 5 5 == 0) .field
    (.ok (f (fCue w) (Dst.ofCode (fD w)) (Src.ofCode (fA w)) (Fin.ofNat 32 (bits w 0 5))))

def decL (w : Nat) : Except DecodeError Instr :=
  need (isDst (fD w)) .spec (.ok (.li (fCue w) (Dst.ofCode (fD w)) (BitVec.ofNat 15 (bits w 0 15))))

def decM (f : Cue → Src → Src → BitVec 10 → Instr) (w : Nat) : Except DecodeError Instr :=
  .ok (f (fCue w) (Src.ofCode (fD w)) (Src.ofCode (fA w)) (BitVec.ofNat 10 (bits w 0 10)))

def decU (f : Cue → Dst → Src → PAct → Instr) (w : Nat) : Except DecodeError Instr :=
  need (isDst (fD w)) .spec (.ok (f (fCue w) (Dst.ofCode (fD w)) (Src.ofCode (fA w)) (fP w)))

/-- TAG, QCNT and XBIT, whose source is a peeked queue (R81). -/
def decPeek (f : Cue → Dst → Fin 8 → PAct → Instr) (w : Nat) : Except DecodeError Instr :=
  need (isDst (fD w) && decide (24 ≤ fA w)) .spec
    (.ok (f (fCue w) (Dst.ofCode (fD w)) (Fin.ofNat 8 (fA w)) (fP w)))

def decSend (w : Nat) : Except DecodeError Instr :=
  need (isQ (fD w)) .spec
    (.ok (.send (fCue w) (Fin.ofNat 8 (fD w)) (Src.ofCode (fA w)) (Src.ofCode (fB w)) (fP w)))

def decSendi (w : Nat) : Except DecodeError Instr :=
  need (isQ (fD w)) .spec <| need (bits w 8 2 == 0) .field
    (.ok (.sendi (fCue w) (Fin.ofNat 8 (fD w)) (Src.ofCode (fA w)) (BitVec.ofNat 8 (bits w 0 8))))

def decJoin (w : Nat) : Except DecodeError Instr :=
  need (isDst (fD w) && isQ (fA w) && isQ (fB w) && fA w != fB w) .spec
    (.ok (.join (fCue w) (Dst.ofCode (fD w)) (Fin.ofNat 8 (fA w)) (Fin.ofNat 8 (fB w)) (fP w)))

def decDrop (w : Nat) : Except DecodeError Instr :=
  need (isQ (fA w) && (fB w == 0 || isQ (fB w) && fA w != fB w)) .spec <| need (fD w == 0) .field
    (.ok (.drop (fCue w) (Fin.ofNat 8 (fA w)) (if fB w = 0 then none else some (Fin.ofNat 8 (fB w))) (fP w)))

def decPutr (w : Nat) : Except DecodeError Instr :=
  .ok (.putr (fCue w) (Fin.ofNat 4 (bits w 18 2)) (Fin.ofNat 8 (bits w 15 3)) (Src.ofCode (fA w)) (Src.ofCode (fB w))
    (fP w))

/-- A predicate index stands in the low three bits of its field (R72, R82). -/
def isP (n : Nat) : Bool := n < 8

def decP3 (f : Cue → Fin 8 → Fin 8 → Fin 8 → Instr) (w : Nat) : Except DecodeError Instr :=
  need (isP (fD w) && isP (fA w) && bits w 3 2 == 0) .field
    (.ok (f (fCue w) (Fin.ofNat 8 (fD w)) (Fin.ofNat 8 (fA w)) (Fin.ofNat 8 (bits w 0 3))))

/-- Functions of PRED (R82). -/
def decPred (fn w : Nat) : Except DecodeError Instr :=
  match fn with
  | 0 => decP3 .pand w
  | 1 => decP3 .por w
  | 2 => decP3 .pxor w
  | 3 => need (isP (fD w) && isP (fA w) && bits w 0 5 == 0) .field
      (.ok (.pnot (fCue w) (Fin.ofNat 8 (fD w)) (Fin.ofNat 8 (fA w))))
  | 4 => need (isDst (fD w)) .spec <| need (fA w == 0 && bits w 0 5 == 0) .field
      (.ok (.pmovx (fCue w) (Dst.ofCode (fD w))))
  | 5 => need (fD w == 0 && bits w 0 5 == 0) .field (.ok (.psetx (fCue w) (Src.ofCode (fA w))))
  | _ => .error .fn

/-- Functions of SYS (R83). -/
def decSys (fn w : Nat) : Except DecodeError Instr :=
  match fn with
  | 0 => need (fD w == 0 && fA w == 0 && bits w 0 5 == 0) .field (.ok (.nop (fCue w)))
  | 1 => need (fD w == 0 && fA w == 0 && bits w 0 5 == 0) .field (.ok (.fenceL (fCue w)))
  | _ => .error .fn

/-! Layout LV (R75, R162). -/

def lvD (la : Nat) : Nat := bits la 8 4
def lvA (la : Nat) : Nat := bits la 4 4
def lvB (la : Nat) : Nat := bits la 0 4
def lvC (lb : Nat) : Nat := bits lb 13 4
def lvX (lb : Nat) : Nat := bits lb 9 4
def lbP (lb : Nat) : PAct := PAct.ofCode (bits lb 0 5)

def lvHead (c : Cue) (lb : Nat) : VHead :=
  ⟨c, Ty.ofCode (bits lb 23 3), Fin.ofNat 64 (bits lb 17 6), lbP lb⟩

/-- The check of TY against a set, and that bits 8 to 5 of LB are zero. -/
def lvOk (s : TySet) (lb : Nat) (specs zeros : Bool) (r : Except DecodeError Instr) : Except DecodeError Instr :=
  need (decide (bits lb 23 3 < 7) && s.has (Ty.ofCode (bits lb 23 3))) .ty <| need specs .spec
    <| need (zeros && bits lb 5 4 == 0) .field r

def decVdab (s : TySet) (f : VHead → VDst → VSrc → VSrc → Instr) (c : Cue) (la lb : Nat) : Except DecodeError Instr :=
  lvOk s lb (isV (lvD la) && isV (lvA la) && isV (lvB la)) (lvC lb == 0 && lvX lb == 0)
    (.ok (f (lvHead c lb) (VDst.ofCode (lvD la)) (VSrc.ofCode (lvA la)) (VSrc.ofCode (lvB la))))

def decVrab (s : TySet) (f : VHead → Fin 8 → VSrc → VSrc → Instr) (c : Cue) (la lb : Nat) : Except DecodeError Instr :=
  lvOk s lb (decide (lvD la < 8) && isV (lvA la) && isV (lvB la)) (lvC lb == 0 && lvX lb == 0)
    (.ok (f (lvHead c lb) (Fin.ofNat 8 (lvD la)) (VSrc.ofCode (lvA la)) (VSrc.ofCode (lvB la))))

def decVdabe (s : TySet) (f : VHead → VDst → VSrc → VSrc → VSrc → Instr) (c : Cue) (la lb : Nat) :
    Except DecodeError Instr :=
  lvOk s lb (isV (lvD la) && isV (lvA la) && isV (lvB la) && isV (lvC lb)) (lvX lb == 0)
    (.ok (f (lvHead c lb) (VDst.ofCode (lvD la)) (VSrc.ofCode (lvA la)) (VSrc.ofCode (lvB la)) (VSrc.ofCode (lvC lb))))

def decVda (s : TySet) (f : VHead → VDst → VSrc → Instr) (c : Cue) (la lb : Nat) : Except DecodeError Instr :=
  lvOk s lb (isV (lvD la) && isV (lvA la)) (lvB la == 0 && lvC lb == 0 && lvX lb == 0)
    (.ok (f (lvHead c lb) (VDst.ofCode (lvD la)) (VSrc.ofCode (lvA la))))

def decVra (s : TySet) (f : VHead → Fin 8 → VSrc → Instr) (c : Cue) (la lb : Nat) : Except DecodeError Instr :=
  lvOk s lb (decide (lvD la < 8) && isV (lvA la)) (lvB la == 0 && lvC lb == 0 && lvX lb == 0)
    (.ok (f (lvHead c lb) (Fin.ofNat 8 (lvD la)) (VSrc.ofCode (lvA la))))

def decVdx (s : TySet) (f : VHead → VDst → Fin 16 → Instr) (c : Cue) (la lb : Nat) : Except DecodeError Instr :=
  lvOk s lb (isV (lvD la)) (lvA la == 0 && lvB la == 0 && lvC lb == 0)
    (.ok (f (lvHead c lb) (VDst.ofCode (lvD la)) (Fin.ofNat 16 (lvX lb))))

def decVext (c : Cue) (la lb : Nat) : Except DecodeError Instr :=
  lvOk .sgn lb (isV (lvD la) && isV (lvA la) && isV (lvB la)) (lvC lb == 0)
    (.ok (.vext (lvHead c lb) (VDst.ofCode (lvD la)) (VSrc.ofCode (lvA la)) (VSrc.ofCode (lvB la))
      (Fin.ofNat 16 (lvX lb))))

def decVins (c : Cue) (la lb : Nat) : Except DecodeError Instr :=
  lvOk .sgn lb (isV (lvD la) && isV (lvA la)) (lvB la == 0 && lvC lb == 0)
    (.ok (.vins (lvHead c lb) (VDst.ofCode (lvD la)) (VSrc.ofCode (lvA la)) (Fin.ofNat 16 (lvX lb))))

def decVst (c : Cue) (la lb : Nat) : Except DecodeError Instr :=
  lvOk .i32 lb (isV (lvA la)) (lvD la == 0 && lvB la == 0 && lvC lb == 0)
    (.ok (.vst (lvHead c lb) (VSrc.ofCode (lvA la)) (Fin.ofNat 16 (lvX lb))))

/-- The conversion codes that R173 does not reserve. -/
def isConv (n : Nat) : Bool := decide (n < 7 ∨ 8 ≤ n ∧ n < 12)

def decVcvt (c : Cue) (la lb : Nat) : Except DecodeError Instr :=
  need (decide (bits lb 23 3 < 7)) .ty <| need (isConv (lvC lb)) .spec
    <| need ((VConv.ofCode (lvC lb)).ok (Ty.ofCode (bits lb 23 3))) .ty
    <| need (isV (lvD la) && isV (lvA la)) .spec <| need (lvB la == 0 && bits lb 5 4 == 0) .field
    (.ok (.vcvt (lvHead c lb) (VDst.ofCode (lvD la)) (VSrc.ofCode (lvA la)) (VConv.ofCode (lvC lb))
      (Fin.ofNat 16 (lvX lb))))

/-! Layout LM (R75, R183: a field of its table that breaks a row has code 0x03 for DT and 0x04 else). -/

def lmAcc (la : Nat) : Fin 4 := Fin.ofNat 4 (bits la 10 2)
def lmGA (la : Nat) : Fin 8 := Fin.ofNat 8 (bits la 7 3)
def lmGB (la : Nat) : Fin 8 := Fin.ofNat 8 (bits la 4 3)
def lmDt (la : Nat) : Nat := bits la 0 4
def lmRows (lb : Nat) : Nat := bits lb 21 4
def lmCols (lb : Nat) : Nat := bits lb 17 4
def lmXv (lb : Nat) : Nat := bits lb 10 4
/-- Bits 9 to 5 of LB, which every LM word leaves zero. -/
def lmZ (lb : Nat) : Bool := bits lb 5 5 == 0

def decMma (c : Cue) (la lb : Nat) : Except DecodeError Instr :=
  need (decide (lmDt la < 6)) .ty <| need (lmGA la != lmGB la && lmXv lb == 0) .spec <| need (lmZ lb) .field
    (.ok (.mxMma c (lmAcc la) (lmGA la) (lmGB la) (MxTy.ofCode (lmDt la)) (bit1 lb 25) (Fin.ofNat 16 (lmRows lb))
      (Fin.ofNat 16 (lmCols lb)) (bit1 lb 16) (bit1 lb 15) (bit1 lb 14) (lbP lb)))

def decGmma (c : Cue) (la lb : Nat) : Except DecodeError Instr :=
  need (decide (lmDt la < 6)) .ty <| need (lmGA la != lmGB la && lmRows lb == 0) .spec <| need (lmZ lb) .field
    (.ok (.mxGmma c (lmAcc la) (lmGA la) (lmGB la) (MxTy.ofCode (lmDt la)) (bit1 lb 25)
      (Fin.ofNat 16 (lmCols lb)) (bit1 lb 16) (bit1 lb 15) (bit1 lb 14) (Fin.ofNat 16 (lmXv lb)) (lbP lb)))

def decMxZero (c : Cue) (la lb : Nat) : Except DecodeError Instr :=
  need (lmDt la == 0) .ty <| need (bits la 4 6 == 0 && bits lb 10 16 == 0) .spec <| need (lmZ lb) .field
    (.ok (.mxZero c (lmAcc la) (lbP lb)))

def decMxLda (c : Cue) (la lb : Nat) : Except DecodeError Instr :=
  need (lmDt la == 0) .ty <| need (bits la 4 3 == 0 && bits lb 17 9 == 0 && bits lb 10 6 == 0) .spec <| need (lmZ lb) .field
    (.ok (.mxLda c (lmAcc la) (lmGA la) (bit1 lb 16) (lbP lb)))

def decMxRda (c : Cue) (la lb : Nat) : Except DecodeError Instr :=
  need (decide (lmDt la < 8)) .ty <| need (bits la 4 3 == 0 && bits lb 10 15 == 0) .spec <| need (lmZ lb) .field
    (.ok (.mxRda c (lmAcc la) (lmGA la) (Fin.ofNat 8 (lmDt la)) (bit1 lb 25) (lbP lb)))

def decMxScale (c : Cue) (la lb : Nat) : Except DecodeError Instr :=
  need (lmDt la == 0) .ty <| need (decide (lmXv lb < 8) && bits la 4 6 == 0 && bits lb 15 11 == 0) .spec <| need (lmZ lb) .field
    (.ok (.mxScale c (lmAcc la) (bit1 lb 14) (Fin.ofNat 8 (lmXv lb)) (lbP lb)))

def decMxIssue (c : Cue) (la lb : Nat) : Except DecodeError Instr :=
  need (lmDt la == 0) .ty <| need (decide (lmXv lb < 6) && bits la 4 8 == 0 && bits lb 14 12 == 0) .spec <| need (lmZ lb) .field
    (.ok (.mxIssue c (Fin.ofNat 6 (lmXv lb)) (lbP lb)))

/-! Layout LS (R75, R209). -/

/-- OPR: beyond the range of a row that has one it has code 0x04 (R209), in a row without one a reserved value has 0x02 (R86, R90; log 10). -/
def lsOp (la : Nat) : Nat := bits la 8 4
def lsGrp (la : Nat) : Fin 8 := Fin.ofNat 8 (bits la 5 3)
def lsDir (la : Nat) : Bool := bit1 la 4
def lsA (la : Nat) : Nat := bits la 0 4
def lsD (lb : Nat) : Nat := bits lb 22 4
def lsNb (lb : Nat) : Fin 64 := Fin.ofNat 64 (bits lb 16 6)

def decScCfg (c : Cue) (la lb : Nat) : Except DecodeError Instr :=
  need (decide (lsOp la < 9)) .fn <| need (lsOp la == 0 && lsA la == 0 && bits lb 5 21 == 0) .field
    (.ok (.scCfg c (lsGrp la) (lsDir la) (lbP lb)))

def decScLocal (c : Cue) (la lb : Nat) : Except DecodeError Instr :=
  need (decide (lsOp la < 9) && isV (lsA la) && isV (lsD lb) && (!lsDir la || decide (lsD lb < 8))) .spec
    <| need (bits la 5 3 == 0 && bits lb 5 11 == 0) .field
    (.ok (.scLocal c (ScanOp.ofCode (lsOp la)) (lsDir la) (VSrc.ofCode (lsA la)) (VDst.ofCode (lsD lb)) (lsNb lb)
      (lbP lb)))

def decScAgg (c : Cue) (la lb : Nat) : Except DecodeError Instr :=
  need (decide (lsOp la < 9) && isV (lsA la)) .spec
    <| need (!lsDir la && bits lb 16 10 == 0 && bits lb 5 10 == 0) .field
    (if bit1 lb 15 then .ok (.scAggRel c (ScanOp.ofCode (lsOp la)) (lsGrp la) (VSrc.ofCode (lsA la)) (lbP lb))
     else .ok (.scAgg c (ScanOp.ofCode (lsOp la)) (lsGrp la) (VSrc.ofCode (lsA la)) (lbP lb)))

def decScPfx (c : Cue) (la lb : Nat) : Except DecodeError Instr :=
  need (decide (lsOp la < 9)) .fn <| need (decide (lsD lb < 8)) .spec
    <| need (lsOp la == 0 && bits la 0 5 == 0 && bits lb 5 17 == 0) .field
    (.ok (.scPfx c (lsGrp la) (Fin.ofNat 8 (lsD lb)) (lbP lb)))

def decScApply (c : Cue) (la lb : Nat) : Except DecodeError Instr :=
  need (decide (lsOp la < 9) && decide (lsA la < 8) && isV (lsD lb) && (decide (8 ≤ lsD lb) || bits lb 16 6 == 0)) .spec
    <| need (bits la 5 3 == 0 && bits lb 5 11 == 0) .field
    (.ok (.scApply c (ScanOp.ofCode (lsOp la)) (lsDir la) (Fin.ofNat 8 (lsA la)) (VDst.ofCode (lsD lb)) (lsNb lb)
      (lbP lb)))

def decScReset (c : Cue) (la lb : Nat) : Except DecodeError Instr :=
  need (decide (lsOp la < 9)) .fn <| need (lsOp la == 0 && bits la 0 5 == 0 && bits lb 5 21 == 0) .field
    (.ok (.scReset c (lsGrp la) (lbP lb)))

/-! Layout LG (R75, R76, R257). -/

def lgI (la : Nat) : Nat := bits la 8 4
def lgA (la : Nat) : Nat := bits la 3 5
def lgS (la : Nat) : Nat := bits la 0 3
def lgB (lb : Nat) : Nat := bits lb 21 5
def lgM (lb : Nat) : Nat := bits lb 5 16
def lgSg (la : Nat) : Fin 4 := Fin.ofNat 4 (lgI la)
def lgG (la : Nat) : Fin 8 := Fin.ofNat 8 (lgI la)

def decSgSet (c : Cue) (la lb : Nat) : Except DecodeError Instr :=
  need (decide (lgS la < 3)) .fn <| need (decide (lgI la < 4)) .spec <|
    match lgS la with
    | 0 => need (lgB lb == 0 && lgM lb == 0) .field (.ok (.sgSetBase c (lgSg la) (Src.ofCode (lgA la)) (lbP lb)))
    | 1 => need (lgB lb == 0 && lgM lb == 0) .field (.ok (.sgSetCtl c (lgSg la) (Src.ofCode (lgA la)) (lbP lb)))
    | _ => need (decide (lgM lb < 4)) .field
        (.ok (.sgSetLv c (lgSg la) (Src.ofCode (lgA la)) (Src.ofCode (lgB lb)) (Fin.ofNat 4 (lgM lb)) (lbP lb)))

def decSgGo (c : Cue) (la lb : Nat) : Except DecodeError Instr :=
  need (lgS la == 0) .fn <| need (decide (lgI la < 4)) .spec
    <| need (lgA la == 0 && lgB lb == 0 && lgM lb == 0) .field (.ok (.sgGo c (lgSg la) (lbP lb)))

def decSgHalt (c : Cue) (la lb : Nat) : Except DecodeError Instr :=
  need (lgS la == 0) .fn <| need (decide (lgI la < 4)) .spec
    <| need (lgA la == 0 && lgB lb == 0 && lgM lb == 0) .field (.ok (.sgHalt c (lgSg la) (lbP lb)))

def decSgStat (c : Cue) (la lb : Nat) : Except DecodeError Instr :=
  need (decide (lgS la < 3)) .fn <| need (decide (lgI la < 4) && isDst (lgA la)) .spec <|
    match lgS la with
    | 0 => need (lgB lb == 0 && lgM lb == 0) .field (.ok (.sgStatCtl c (lgSg la) (Dst.ofCode (lgA la)) (lbP lb)))
    | 1 => need (lgB lb == 0 && decide (lgM lb < 4)) .field
        (.ok (.sgStatIdx c (lgSg la) (Dst.ofCode (lgA la)) (Fin.ofNat 4 (lgM lb)) (lbP lb)))
    | _ => need (lgB lb == 0 && lgM lb == 0) .field (.ok (.sgStatOcc c (lgSg la) (Dst.ofCode (lgA la)) (lbP lb)))

def decGSet (c : Cue) (la lb : Nat) : Except DecodeError Instr :=
  need (decide (lgS la < 2)) .fn <| need (decide (lgI la < 8)) .spec <| need (lgB lb == 0 && lgM lb == 0) .field
    (if lgS la = 0 then .ok (.gSetW0 c (lgG la) (Src.ofCode (lgA la)) (lbP lb))
     else .ok (.gSetW1 c (lgG la) (Src.ofCode (lgA la)) (lbP lb)))

def decGAdv (c : Cue) (la lb : Nat) : Except DecodeError Instr :=
  need (decide (lgS la < 2)) .fn <| need (decide (lgI la < 8)) .spec
    <| need (lgA la == 0 && lgB lb == 0 && lgM lb == 0) .field
    (if lgS la = 0 then .ok (.gAdvPush c (lgG la) (lbP lb)) else .ok (.gAdvPop c (lgG la) (lbP lb)))

def decGStat (c : Cue) (la lb : Nat) : Except DecodeError Instr :=
  need (decide (lgS la < 3)) .fn <| need (decide (lgI la < 8) && isDst (lgA la)) .spec
    <| need (lgB lb == 0 && lgM lb == 0) .field
    (match lgS la with
     | 0 => .ok (.gStatCnt c (lgG la) (Dst.ofCode (lgA la)) (lbP lb))
     | 1 => .ok (.gStatHead c (lgG la) (Dst.ofCode (lgA la)) (lbP lb))
     | _ => .ok (.gStatTail c (lgG la) (Dst.ofCode (lgA la)) (lbP lb)))

def decTsend (c : Cue) (la lb : Nat) : Except DecodeError Instr :=
  need (lgS la == 0) .fn <| need (decide (lgI la < 8) && isQ (lgA la)) .spec
    <| need (lgB lb == 0 && lgM lb == 0) .field (.ok (.tsend c (lgG la) (Fin.ofNat 8 (lgA la)) (lbP lb)))

/-! Layout LC (R75, R265). -/

def lcCt (la : Nat) : Fin 16 := Fin.ofNat 16 (bits la 8 4)
def lcA (la : Nat) : Nat := bits la 3 5
def lcS (la : Nat) : Nat := bits la 0 3
def lcB (lb : Nat) : Nat := bits lb 21 5
def lcW (lb : Nat) : Nat := bits lb 19 2
def lcLen (lb : Nat) : Nat := bits lb 5 14

def decCpArm (c : Cue) (la lb : Nat) : Except DecodeError Instr :=
  need (decide (lcS la < 2)) .fn <|
    if lcS la = 0 then need (lcA la == 0 && bits lb 5 21 == 0) .field (.ok (.cpArm c (lcCt la) (lbP lb)))
    else need (lcLen lb == 0) .field
      (.ok (.cpArmSet c (lcCt la) (Src.ofCode (lcA la)) (Src.ofCode (lcB lb)) (Fin.ofNat 4 (lcW lb)) (lbP lb)))

def decCpFire (c : Cue) (la lb : Nat) : Except DecodeError Instr :=
  need (decide (lcS la < 2)) .fn <| need (lcA la == 0 && bits lb 5 21 == 0) .field
    (if lcS la = 0 then .ok (.cpFire c (lcCt la) (lbP lb)) else .ok (.cpFireNow c (lcCt la) (lbP lb)))

/-- SUB above 1 has code 0x02, not that of bits which R265 marks 0 (log 10). -/
def decCpGet (c : Cue) (la lb : Nat) : Except DecodeError Instr :=
  need (decide (lcS la < 2)) .fn <| need (bits la 8 4 == 0) .field
    (.ok (.cpGet c (Src.ofCode (lcA la)) (Src.ofCode (lcB lb)) (Fin.ofNat 4 (lcW lb)) (BitVec.ofNat 14 (lcLen lb))
      (lcS la == 1) (lbP lb)))

def decCpPut (c : Cue) (la lb : Nat) : Except DecodeError Instr :=
  need (decide (lcS la < 2)) .fn <| need (bits la 8 4 == 0) .field
    (.ok (.cpPut c (Src.ofCode (lcA la)) (Src.ofCode (lcB lb)) (Fin.ofNat 4 (lcW lb)) (BitVec.ofNat 14 (lcLen lb))
      (lcS la == 1) (lbP lb)))

def decCpCancel (c : Cue) (la lb : Nat) : Except DecodeError Instr :=
  need (lcS la == 0) .fn <| need (lcA la == 0 && bits lb 5 21 == 0) .field (.ok (.cpCancel c (lcCt la) (lbP lb)))

def decCpStat (c : Cue) (la lb : Nat) : Except DecodeError Instr :=
  need (decide (lcS la < 2)) .fn <| need (isDst (lcA la)) .spec <| need (bits lb 5 21 == 0) .field <|
    if lcS la = 0 then .ok (.cpStatDep c (lcCt la) (Dst.ofCode (lcA la)) (lbP lb))
    else need (bits la 8 4 == 0) .field (.ok (.cpStatEng c (Dst.ofCode (lcA la)) (lbP lb)))

/-! Layout LW (R75, R85, R273). -/

def lwW (la : Nat) : Fin 4 := Fin.ofNat 4 (bits la 10 2)
def lwA (la : Nat) : Nat := bits la 5 5
def lwD (la : Nat) : Nat := bits la 0 5
def lwOff (lb : Nat) : BitVec 12 := BitVec.ofNat 12 (bits lb 14 12)
def lwFn (lb : Nat) : Nat := bits lb 9 5
def lwOrd (lb : Nat) : Nat := bits lb 7 2
def lwSz (lb : Nat) : Nat := bits lb 5 2
/-- ORD of a store or reduction: relaxed or release (R85). -/
def ordW (lb : Nat) : Bool := decide (lwOrd lb = 0 ∨ lwOrd lb = 2)
/-- REL from ORD. -/
def lwRel (lb : Nat) : Bool := lwOrd lb == 2
def isEven (n lo hi : Nat) : Bool := decide (lo ≤ n ∧ n ≤ hi ∧ n % 2 = 0)

def decWstw (c : Cue) (la lb : Nat) : Except DecodeError Instr :=
  need (lwFn lb == 0 && ordW lb && lwSz lb == 0) .fn <| need (lwA la == 0) .field
    (.ok (.wstw c (lwRel lb) (lwW la) (lwOff lb) (Src.ofCode (lwD la)) (lbP lb)))

def decWstd (c : Cue) (la lb : Nat) : Except DecodeError Instr :=
  need (lwFn lb == 0 && ordW lb && lwSz lb == 1) .fn
    (.ok (.wstd c (lwRel lb) (lwW la) (lwOff lb) (Src.ofCode (lwD la)) (Src.ofCode (lwA la)) (lbP lb)))

def decWstv (c : Cue) (la lb : Nat) : Except DecodeError Instr :=
  need (lwFn lb == 0 && ordW lb && lwSz lb == 2) .fn <| need (decide (lwD la < 8)) .spec
    <| need (lwA la == 0) .field
    (.ok (.wstv c (lwRel lb) (lwW la) (lwOff lb) (Fin.ofNat 8 (lwD la)) (lbP lb)))

def decAmo (c : Cue) (la lb : Nat) : Except DecodeError Instr :=
  let o := Ord.ofCode (lwOrd lb)
  let d : Fin 8 := Fin.ofNat 8 (lwD la)
  let a := Src.ofCode (lwA la)
  need (decide (lwFn lb < 11) && lwSz lb == 0) .fn <| need (decide (8 ≤ lwD la ∧ lwD la < 16)) .spec <|
    match lwFn lb with
    | 0 => .ok (.amoAdd c o (lwW la) (lwOff lb) d a (lbP lb))
    | 1 => .ok (.amoAnd c o (lwW la) (lwOff lb) d a (lbP lb))
    | 2 => .ok (.amoOr c o (lwW la) (lwOff lb) d a (lbP lb))
    | 3 => .ok (.amoXor c o (lwW la) (lwOff lb) d a (lbP lb))
    | 4 => .ok (.amoMin c o (lwW la) (lwOff lb) d a (lbP lb))
    | 5 => .ok (.amoMax c o (lwW la) (lwOff lb) d a (lbP lb))
    | 6 => .ok (.amoMinn c o (lwW la) (lwOff lb) d a (lbP lb))
    | 7 => .ok (.amoMaxn c o (lwW la) (lwOff lb) d a (lbP lb))
    | 8 => .ok (.amoSwap c o (lwW la) (lwOff lb) d a (lbP lb))
    | 9 => .ok (.amoCas c o (lwW la) (lwOff lb) d a (lbP lb))
    | _ => need (lwA la == 0) .field (.ok (.amoLd c o (lwW la) (lwOff lb) d (lbP lb)))

/-- An odd XA of AMOD.LD has the code of an odd register, an even one that is not 0 that of a field (log 10). -/
def decAmod (c : Cue) (la lb : Nat) : Except DecodeError Instr :=
  let o := Ord.ofCode (lwOrd lb)
  let d : Fin 4 := Fin.ofNat 4 (lwD la / 2)
  let a : Fin 8 := Fin.ofNat 8 (lwA la / 2)
  need (decide (lwFn lb < 11) && lwSz lb == 1) .fn <| need (isEven (lwD la) 8 14 && isEven (lwA la) 0 14) .spec <|
    match lwFn lb with
    | 0 => .ok (.amodAdd c o (lwW la) (lwOff lb) d a (lbP lb))
    | 1 => .ok (.amodAnd c o (lwW la) (lwOff lb) d a (lbP lb))
    | 2 => .ok (.amodOr c o (lwW la) (lwOff lb) d a (lbP lb))
    | 3 => .ok (.amodXor c o (lwW la) (lwOff lb) d a (lbP lb))
    | 4 => .ok (.amodMin c o (lwW la) (lwOff lb) d a (lbP lb))
    | 5 => .ok (.amodMax c o (lwW la) (lwOff lb) d a (lbP lb))
    | 6 => .ok (.amodMinn c o (lwW la) (lwOff lb) d a (lbP lb))
    | 7 => .ok (.amodMaxn c o (lwW la) (lwOff lb) d a (lbP lb))
    | 8 => .ok (.amodSwap c o (lwW la) (lwOff lb) d a (lbP lb))
    | 9 => .ok (.amodCas c o (lwW la) (lwOff lb) d a (lbP lb))
    | _ => need (lwA la == 0) .field (.ok (.amodLd c o (lwW la) (lwOff lb) d (lbP lb)))

def decRed (c : Cue) (la lb : Nat) : Except DecodeError Instr :=
  let a := Src.ofCode (lwA la)
  let r := lwRel lb
  need (decide (lwFn lb < 8) && ordW lb && lwSz lb == 0) .fn <| need (lwD la == 0) .field <|
    match lwFn lb with
    | 0 => .ok (.redAddI32 c r (lwW la) (lwOff lb) a (lbP lb))
    | 1 => .ok (.redAddF32 c r (lwW la) (lwOff lb) a (lbP lb))
    | 2 => .ok (.redAddBf16x2 c r (lwW la) (lwOff lb) a (lbP lb))
    | 3 => .ok (.redMaxF32 c r (lwW la) (lwOff lb) a (lbP lb))
    | 4 => .ok (.redMinF32 c r (lwW la) (lwOff lb) a (lbP lb))
    | 5 => .ok (.redAnd c r (lwW la) (lwOff lb) a (lbP lb))
    | 6 => .ok (.redOr c r (lwW la) (lwOff lb) a (lbP lb))
    | _ => .ok (.redXor c r (lwW la) (lwOff lb) a (lbP lb))

def decWaita (c : Cue) (la lb : Nat) : Except DecodeError Instr :=
  need (lwFn lb == 0 && lwOrd lb == 0 && decide (lwSz lb < 2)) .fn
    <| need (lwSz lb == 0 || isEven (lwA la) 0 14) .spec
    (.ok (.waita c (lwW la) (lwOff lb) (Src.ofCode (lwD la))
      (if lwSz lb = 0 then .word (Src.ofCode (lwA la)) else .pair (Fin.ofNat 8 (lwA la / 2))) (lbP lb)))

def decWpoke (c : Cue) (la lb : Nat) : Except DecodeError Instr :=
  need (lwFn lb == 0 && lwOrd lb == 0 && decide (lwSz lb < 2)) .fn <| need (lwA la == 0 && lwD la == 0) .field
    (.ok (.wpoke c (lwSz lb == 1) (lwW la) (lwOff lb) (lbP lb)))

def decFence (c : Cue) (la lb : Nat) : Except DecodeError Instr :=
  need (decide (lwFn lb < 3) && lwOrd lb == 0 && lwSz lb == 0) .fn <| need (la == 0 && bits lb 14 12 == 0) .field
    (match lwFn lb with
     | 0 => .ok (.fenceW c (lbP lb))
     | 1 => .ok (.fenceC c (lbP lb))
     | _ => .ok (.fenceAll c (lbP lb)))

def decMark (c : Cue) (la lb : Nat) : Except DecodeError Instr :=
  need (lwFn lb == 0 && lwOrd lb == 0 && lwSz lb == 0) .fn
    <| need (bits la 10 2 == 0 && lwD la == 0 && bits lb 14 12 == 0) .field
    (.ok (.mark c (Src.ofCode (lwA la)) (lbP lb)))

/-! Layout LY (R75, R157, R293, R335, R347). -/

def lyD (la : Nat) : Nat := bits la 7 5
def lyA (la : Nat) : Nat := bits la 2 5
def lyS (la : Nat) : Nat := bits la 0 2
def lyM (lb : Nat) : Nat := bits lb 5 21

def decBarArr (c : Cue) (la lb : Nat) : Except DecodeError Instr :=
  need (lyS la == 0) .fn <| need (lyD la == 0 && lyA la == 0 && decide (lyM lb < 32)) .field
    (if lyM lb < 16 then .ok (.barArr c (Fin.ofNat 16 (lyM lb)) (lbP lb))
     else .ok (.barArrRel c (Fin.ofNat 16 (lyM lb)) (lbP lb)))

def decBarStat (c : Cue) (la lb : Nat) : Except DecodeError Instr :=
  need (lyS la == 0) .fn <| need (isDst (lyD la)) .spec <| need (lyA la == 0 && decide (lyM lb < 16)) .field
    (.ok (.barStat c (Fin.ofNat 16 (lyM lb)) (Dst.ofCode (lyD la)) (lbP lb)))

def decPhase (c : Cue) (la lb : Nat) : Except DecodeError Instr :=
  let on := BitVec.ofNat 12 (bits lb 5 12)
  let int : Fin 16 := Fin.ofNat 16 (bits lb 17 4)
  let k : Fin 32 := Fin.ofNat 32 (bits lb 21 5)
  need (decide (lyS la < 2)) .fn <| need (bits lb 17 4 != 0 && decide (bits lb 21 5 ≤ 16)) .spec
    <| need (lyD la == 0) .field <|
    if lyS la = 0 then need (lyA la == 0) .field (.ok (.phase c on int k (lbP lb)))
    else .ok (.phaseGang c (Src.ofCode (lyA la)) on int k (lbP lb))

def decPhaseEnd (c : Cue) (la lb : Nat) : Except DecodeError Instr :=
  need (decide (lyS la < 2)) .fn <| need (lyD la == 0 && lyM lb == 0) .field <|
    if lyS la = 0 then need (lyA la == 0) .field (.ok (.phaseEnd c (lbP lb)))
    else .ok (.phaseEndGang c (Src.ofCode (lyA la)) (lbP lb))

def decPwrRd (c : Cue) (la lb : Nat) : Except DecodeError Instr :=
  need (lyS la == 0) .fn <| need (isDst (lyD la) && decide (lyM lb % 8 ≤ 3)) .spec
    <| need (lyA la == 0 && decide (lyM lb < 8)) .field
    (.ok (.pwrRd c (Dst.ofCode (lyD la)) (Fin.ofNat 8 (lyM lb)) (lbP lb)))

def decTrap (c : Cue) (la lb : Nat) : Except DecodeError Instr :=
  need (decide (lyS la < 2)) .fn <| need (lyD la == 0 && decide (lyM lb < 32)) .field
    (if lyS la = 0 then .ok (.trap c (Src.ofCode (lyA la)) (Fin.ofNat 32 (lyM lb)) (lbP lb))
     else .ok (.trapPark c (Src.ofCode (lyA la)) (Fin.ofNat 32 (lyM lb)) (lbP lb)))

def decBkpt (c : Cue) (la lb : Nat) : Except DecodeError Instr :=
  need (lyS la == 0) .fn <| need (lyD la == 0 && decide (lyM lb < 32)) .field
    (.ok (.bkpt c (Src.ofCode (lyA la)) (Fin.ofNat 32 (lyM lb)) (lbP lb)))

def decCfgRd (c : Cue) (la lb : Nat) : Except DecodeError Instr :=
  need (lyS la == 0) .fn <| need (isDst (lyD la)) .spec <| need (decide (lyM lb < 2 ^ 12)) .field
    (.ok (.cfgRd c (Dst.ofCode (lyD la)) (Src.ofCode (lyA la)) (BitVec.ofNat 12 (lyM lb)) (lbP lb)))

def decCfgWr (c : Cue) (la lb : Nat) : Except DecodeError Instr :=
  need (lyS la == 0) .fn <| need (decide (lyM lb < 2 ^ 12)) .field
    (.ok (.cfgWr c (Src.ofCode (lyD la)) (Src.ofCode (lyA la)) (BitVec.ofNat 12 (lyM lb)) (lbP lb)))

def decSlotLd (c : Cue) (la lb : Nat) : Except DecodeError Instr :=
  need (lyS la == 0) .fn <| need (decide (bits (lyM lb) 0 7 + bits (lyM lb) 7 7 + 1 ≤ 128)) .spec
    <| need (lyD la == 0 && decide (lyM lb < 2 ^ 14)) .field
    (.ok (.slotLd c (Src.ofCode (lyA la)) (Fin.ofNat 128 (bits (lyM lb) 0 7)) (Fin.ofNat 128 (bits (lyM lb) 7 7))
      (lbP lb)))

def decCueWr (c : Cue) (la lb : Nat) : Except DecodeError Instr :=
  need (lyS la == 0) .fn <| need (lyM lb % 64 != 63) .spec <| need (decide (lyM lb < 64)) .field
    (.ok (.cueWr c (Src.ofCode (lyD la)) (Src.ofCode (lyA la)) (Fin.ofNat 64 (lyM lb)) (lbP lb)))

def decCueEn (c : Cue) (la lb : Nat) : Except DecodeError Instr :=
  need (lyS la == 0) .fn <| need (lyM lb % 64 != 63) .spec
    <| need (lyD la == 0 && lyA la == 0 && decide (lyM lb < 128)) .field
    (.ok (.cueEn c (Fin.ofNat 64 (lyM lb)) (bit1 (lyM lb) 6) (lbP lb)))

def decFcrRd (c : Cue) (la lb : Nat) : Except DecodeError Instr :=
  need (lyS la == 0) .fn <| need (isDst (lyD la)) .spec <| need (lyA la == 0 && lyM lb == 0) .field
    (.ok (.fcrRd c (Dst.ofCode (lyD la)) (lbP lb)))

def decFcrWr (c : Cue) (la lb : Nat) : Except DecodeError Instr :=
  need (lyS la == 0) .fn <| need (isDst (lyD la)) .spec <| need (bits (lyM lb) 11 5 == 0) .field
    (.ok (.fcrWr c (Dst.ofCode (lyD la)) (Src.ofCode (lyA la)) (BitVec.ofNat 21 (lyM lb)) (lbP lb)))

def decHalt (c : Cue) (la lb : Nat) : Except DecodeError Instr :=
  need (lyS la == 0) .fn <| need (lyD la == 0 && lyA la == 0 && decide (lyM lb < 16)) .field
    (.ok (.halt c (BitVec.ofNat 4 (lyM lb)) (lbP lb)))

def decPresClr (c : Cue) (la lb : Nat) : Except DecodeError Instr :=
  need (lyS la == 0) .fn <| need (lyD la == 0 && lyA la == 0 && decide (lyM lb < 256)) .field
    (.ok (.presClr c (BitVec.ofNat 8 (lyM lb)) (lbP lb)))

def decTimeRd (c : Cue) (la lb : Nat) : Except DecodeError Instr :=
  need (decide (lyS la < 2)) .fn <| need (isDst (lyD la)) .spec <| need (lyA la == 0 && lyM lb == 0) .field
    (if lyS la = 0 then .ok (.timeRd c (Dst.ofCode (lyD la)) (lbP lb))
     else .ok (.timeRdHi c (Dst.ofCode (lyD la)) (lbP lb)))

def decCycRd (c : Cue) (la lb : Nat) : Except DecodeError Instr :=
  need (isDst (lyD la)) .spec <| need (lyA la == 0 && lyM lb == 0) .field
    (match lyS la with
     | 0 => .ok (.cycRd c (Dst.ofCode (lyD la)) (lbP lb))
     | 1 => .ok (.cycRdHi c (Dst.ofCode (lyD la)) (lbP lb))
     | 2 => .ok (.cycRdFired c (Dst.ofCode (lyD la)) (lbP lb))
     | _ => .ok (.cycRdIdle c (Dst.ofCode (lyD la)) (lbP lb)))

def decIdRd (c : Cue) (la lb : Nat) : Except DecodeError Instr :=
  need (lyS la == 0) .fn <| need (isDst (lyD la) && lyM lb % 8 != 7) .spec
    <| need (lyA la == 0 && decide (lyM lb < 8)) .field
    (.ok (.idRd c (Dst.ofCode (lyD la)) (Fin.ofNat 8 (lyM lb)) (lbP lb)))

/-- The instructions of layout LX behind LIW (R75), under the names and fields of their constructors in Instr. The
decoder answers them by this type of their own because Lean compiles no constructor numbered above 244. -/
inductive Lx where
  | addip (c : Cue) (d : Dst) (a : Src) (imm : BitVec 16) (p : PAct)
  | addipHi (c : Cue) (d : Dst) (a : Src) (imm : BitVec 16) (p : PAct)
  | lea (c : Cue) (d : Dst) (a b : Src) (sh : Fin 4) (imm : BitVec 16) (p : PAct)
  | cmpiEq (c : Cue) (d : Dst) (a : Src) (imm : BitVec 16) (p : PAct)
  | cmpiNe (c : Cue) (d : Dst) (a : Src) (imm : BitVec 16) (p : PAct)
  | cmpiLt (c : Cue) (d : Dst) (a : Src) (imm : BitVec 16) (p : PAct)
  | cmpiLtu (c : Cue) (d : Dst) (a : Src) (imm : BitVec 16) (p : PAct)
  | extr (c : Cue) (d : Dst) (a : Src) (pos len1 : Fin 32) (p : PAct)
  | extrS (c : Cue) (d : Dst) (a : Src) (pos len1 : Fin 32) (p : PAct)
  | insr (c : Cue) (d : Fin 16) (a : Src) (pos len1 : Fin 32) (p : PAct)
  | madd (c : Cue) (d : Fin 16) (a b : Src) (p : PAct)
  | decp (c : Cue) (d : Fin 16) (px : Fin 8)
  | wSet (c : Cue) (w : Fin 4) (a b : Src) (p : PAct)
  | wAdd (c : Cue) (w : Fin 4) (a : Src) (sh : Fin 32) (p : PAct)
  | wAddi (c : Cue) (w : Fin 4) (imm : BitVec 16) (p : PAct)
  | wGet (c : Cue) (d : Dst) (w : Fin 4) (half : Bool) (p : PAct)
  | ldwp (c : Cue) (d : Dst) (a : Src) (imm : BitVec 16) (p : PAct)
  | ldhp (c : Cue) (d : Dst) (a : Src) (imm : BitVec 16) (p : PAct)
  | ldhup (c : Cue) (d : Dst) (a : Src) (imm : BitVec 16) (p : PAct)
  | ldbp (c : Cue) (d : Dst) (a : Src) (imm : BitVec 16) (p : PAct)
  | ldbup (c : Cue) (d : Dst) (a : Src) (imm : BitVec 16) (p : PAct)
  deriving DecidableEq, Repr

/-- The instruction itself. -/
noncomputable def Lx.instr (x : Lx) : Instr :=
  match x with
  | .addip c d a imm p => .addip c d a imm p
  | .addipHi c d a imm p => .addipHi c d a imm p
  | .lea c d a b sh imm p => .lea c d a b sh imm p
  | .cmpiEq c d a imm p => .cmpiEq c d a imm p
  | .cmpiNe c d a imm p => .cmpiNe c d a imm p
  | .cmpiLt c d a imm p => .cmpiLt c d a imm p
  | .cmpiLtu c d a imm p => .cmpiLtu c d a imm p
  | .extr c d a pos len1 p => .extr c d a pos len1 p
  | .extrS c d a pos len1 p => .extrS c d a pos len1 p
  | .insr c d a pos len1 p => .insr c d a pos len1 p
  | .madd c d a b p => .madd c d a b p
  | .decp c d px => .decp c d px
  | .wSet c w a b p => .wSet c w a b p
  | .wAdd c w a sh p => .wAdd c w a sh p
  | .wAddi c w imm p => .wAddi c w imm p
  | .wGet c d w half p => .wGet c d w half p
  | .ldwp c d a imm p => .ldwp c d a imm p
  | .ldhp c d a imm p => .ldhp c d a imm p
  | .ldhup c d a imm p => .ldhup c d a imm p
  | .ldbp c d a imm p => .ldbp c d a imm p
  | .ldbup c d a imm p => .ldbup c d a imm p

/-- What the decoder answers. -/
abbrev Decoded := Instr ⊕ Lx

noncomputable def Decoded.instr (d : Decoded) : Instr :=
  match d with
  | .inl i => i
  | .inr x => x.instr

/-! Layout LX (R75, R151, R250). -/

def lxB (lb : Nat) : Nat := bits lb 21 5
def lxI (lb : Nat) : Nat := bits lb 5 16
def lxImm (lb : Nat) : BitVec 16 := BitVec.ofNat 16 (lxI lb)
def lxD (la : Nat) : Dst := Dst.ofCode (lyD la)
def lxA (la : Nat) : Src := Src.ofCode (lyA la)

def decLiw (c : Cue) (la lb : Nat) : Except DecodeError Instr :=
  need (isDst (lyD la)) .spec <| need (bits lb 25 1 == 0) .field
    (.ok (.liw c (lxD la) (BitVec.ofNat 32 (bits la 0 7 * 2 ^ 25 + bits lb 0 25))))

def decAddip (c : Cue) (la lb : Nat) : Except DecodeError Lx :=
  need (decide (lyS la < 2)) .fn <| need (isDst (lyD la)) .spec <| need (lxB lb == 0) .field
    (if lyS la = 0 then .ok (.addip c (lxD la) (lxA la) (lxImm lb) (lbP lb))
     else .ok (.addipHi c (lxD la) (lxA la) (lxImm lb) (lbP lb)))

def decLea (c : Cue) (la lb : Nat) : Except DecodeError Lx :=
  need (isDst (lyD la)) .spec
    (.ok (.lea c (lxD la) (lxA la) (Src.ofCode (lxB lb)) (Fin.ofNat 4 (lyS la)) (lxImm lb) (lbP lb)))

def decCmpi (c : Cue) (la lb : Nat) : Except DecodeError Lx :=
  need (isDst (lyD la)) .spec <| need (lxB lb == 0) .field
    (match lyS la with
     | 0 => .ok (.cmpiEq c (lxD la) (lxA la) (lxImm lb) (lbP lb))
     | 1 => .ok (.cmpiNe c (lxD la) (lxA la) (lxImm lb) (lbP lb))
     | 2 => .ok (.cmpiLt c (lxD la) (lxA la) (lxImm lb) (lbP lb))
     | _ => .ok (.cmpiLtu c (lxD la) (lxA la) (lxImm lb) (lbP lb)))

/-- Position and length of EXTR and INSR (R151): pos + len at most 32, bits 15 to 10 zero. -/
def fieldOk {α : Type} (lb : Nat) (r : Except DecodeError α) : Except DecodeError α :=
  need (decide (bits lb 5 5 + bits lb 10 5 + 1 ≤ 32)) .spec <| need (lxB lb == 0 && bits lb 15 6 == 0) .field r

def decExtr (c : Cue) (la lb : Nat) : Except DecodeError Lx :=
  need (decide (lyS la < 2)) .fn <| need (isDst (lyD la)) .spec <| fieldOk lb
    (if lyS la = 0 then
      .ok (.extr c (lxD la) (lxA la) (Fin.ofNat 32 (bits lb 5 5)) (Fin.ofNat 32 (bits lb 10 5)) (lbP lb))
     else .ok (.extrS c (lxD la) (lxA la) (Fin.ofNat 32 (bits lb 5 5)) (Fin.ofNat 32 (bits lb 10 5)) (lbP lb)))

def decInsr (c : Cue) (la lb : Nat) : Except DecodeError Lx :=
  need (lyS la == 0) .fn <| need (isReg (lyD la)) .spec <| fieldOk lb
    (.ok (.insr c (Fin.ofNat 16 (lyD la)) (lxA la) (Fin.ofNat 32 (bits lb 5 5)) (Fin.ofNat 32 (bits lb 10 5)) (lbP lb)))

def decMadd (c : Cue) (la lb : Nat) : Except DecodeError Lx :=
  need (lyS la == 0) .fn <| need (isReg (lyD la)) .spec <| need (lxI lb == 0) .field
    (.ok (.madd c (Fin.ofNat 16 (lyD la)) (lxA la) (Src.ofCode (lxB lb)) (lbP lb)))

def decDecp (c : Cue) (la lb : Nat) : Except DecodeError Lx :=
  need (lyS la == 0) .fn <| need (isReg (lyD la)) .spec
    <| need (lyA la == 0 && lxB lb == 0 && lxI lb == 0 && bits lb 3 2 == 3) .field
    (.ok (.decp c (Fin.ofNat 16 (lyD la)) (Fin.ofNat 8 (bits lb 0 3))))

def decWSet (c : Cue) (la lb : Nat) : Except DecodeError Lx :=
  need (lyD la == 0 && lxI lb == 0) .field
    (.ok (.wSet c (Fin.ofNat 4 (lyS la)) (lxA la) (Src.ofCode (lxB lb)) (lbP lb)))

def decWAdd (c : Cue) (la lb : Nat) : Except DecodeError Lx :=
  need (lyD la == 0 && lxB lb == 0 && decide (lxI lb < 32)) .field
    (.ok (.wAdd c (Fin.ofNat 4 (lyS la)) (lxA la) (Fin.ofNat 32 (lxI lb)) (lbP lb)))

def decWAddi (c : Cue) (la lb : Nat) : Except DecodeError Lx :=
  need (lyD la == 0 && lyA la == 0 && lxB lb == 0) .field
    (.ok (.wAddi c (Fin.ofNat 4 (lyS la)) (lxImm lb) (lbP lb)))

def decWGet (c : Cue) (la lb : Nat) : Except DecodeError Lx :=
  need (isDst (lyD la)) .spec <| need (lyA la == 0 && lxB lb == 0 && decide (lxI lb < 2)) .field
    (.ok (.wGet c (lxD la) (Fin.ofNat 4 (lyS la)) (lxI lb == 1) (lbP lb)))

def decLdp (f : Cue → Dst → Src → BitVec 16 → PAct → Lx) (c : Cue) (la lb : Nat) : Except DecodeError Lx :=
  need (lyS la == 0) .fn <| need (isDst (lyD la)) .spec <| need (lxB lb == 0) .field
    (.ok (f c (lxD la) (lxA la) (lxImm lb) (lbP lb)))

/-- Functions of UNI (R81). -/
def decUni (fn w : Nat) : Except DecodeError Instr :=
  match fn with
  | 0x00 => decU .mov w
  | 0x01 => decU .not w
  | 0x02 => decU .neg w
  | 0x03 => decU .abs w
  | 0x04 => decU .clz w
  | 0x05 => decU .ctz w
  | 0x06 => decU .popc w
  | 0x07 => decU .brev w
  | 0x08 => decU .sextb w
  | 0x09 => decU .sexth w
  | 0x0a => decU .zextb w
  | 0x0b => decU .zexth w
  | 0x0c => decU .fabs w
  | 0x0d => decU .fneg w
  | 0x0e => decU .fclass w
  | 0x0f => decU .cvtFi w
  | 0x10 => decU .cvtIf w
  | 0x11 => decU .cvtFn w
  | 0x12 => decU .cvtNf w
  | 0x13 => decU .frnd w
  | 0x14 => decU .cvtBf w
  | 0x15 => decU .cvtFb w
  | 0x16 => decU .cvtHf w
  | 0x17 => decU .cvtFh w
  | 0x18 => decU .cvtE4f w
  | 0x19 => decU .cvtFe4 w
  | 0x1a => decU .cvtE5f w
  | 0x1b => decU .cvtFe5 w
  | 0x1c => decPeek .tag w
  | 0x1d => decPeek .qcnt w
  | 0x1e => decPeek .xbit w
  | _ => .error .fn

/-- The short opcode map (R80). -/
def decodeShort (op w : Nat) : Except DecodeError Instr :=
  match op with
  | 0x00 => decR .add w
  | 0x01 => decR .sub w
  | 0x02 => decR .and w
  | 0x03 => decR .or w
  | 0x04 => decR .xor w
  | 0x05 => decR .sll w
  | 0x06 => decR .srl w
  | 0x07 => decR .sra w
  | 0x08 => decR .mul w
  | 0x09 => decR .mulh w
  | 0x0a => decR .mulhu w
  | 0x0b => decR .min w
  | 0x0c => decR .max w
  | 0x0d => decR .minu w
  | 0x0e => decR .maxu w
  | 0x0f => decR .seq w
  | 0x10 => decR .sne w
  | 0x11 => decR .slt w
  | 0x12 => decR .sltu w
  | 0x13 => decSel w
  | 0x14 => decR .div w
  | 0x15 => decR .divu w
  | 0x16 => decR .rem w
  | 0x17 => decR .remu w
  | 0x18 => decI .addi w
  | 0x19 => decI .andi w
  | 0x1a => decI .ori w
  | 0x1b => decI .xori w
  | 0x1c => decShift .slli w
  | 0x1d => decShift .srli w
  | 0x1e => decShift .srai w
  | 0x1f => decI .slti w
  | 0x20 => decI .sltiu w
  | 0x21 => decI .seqi w
  | 0x22 => decL w
  | 0x23 => decR .fadd w
  | 0x24 => decR .fsub w
  | 0x25 => decR .fmul w
  | 0x26 => decR3 .fma w
  | 0x27 => decR3 .fnms w
  | 0x28 => decR .fmin w
  | 0x29 => decR .fmax w
  | 0x2a => decR .feq w
  | 0x2b => decR .flt w
  | 0x2c => decR .fle w
  | 0x2d => decUni (bits w 5 5) w
  | 0x2e => decSend w
  | 0x2f => decSendi w
  | 0x30 => decJoin w
  | 0x31 => decDrop w
  | 0x32 => decPutr w
  | 0x33 => decI .ldw w
  | 0x34 => decI .ldh w
  | 0x35 => decI .ldhu w
  | 0x36 => decI .ldb w
  | 0x37 => decI .ldbu w
  | 0x38 => decM .stw w
  | 0x39 => decM .sth w
  | 0x3a => decM .stb w
  | 0x3b => decPred (bits w 5 5) w
  | 0x3c => decSys (bits w 5 5) w
  | _ => .error .op

/-- Long opcodes 0x00 to 0x0f (R84). -/
def decodeLong0 (l : Nat) (c : Cue) (la lb : Nat) : Except DecodeError Instr :=
  match l with
  | 0x00 => decVdab .all .vadd c la lb
  | 0x01 => decVdab .all .vsub c la lb
  | 0x02 => decVdab .all .vmul c la lb
  | 0x03 => decVrab .all .vfma c la lb
  | 0x04 => decVdab .all .vmin c la lb
  | 0x05 => decVdab .all .vmax c la lb
  | 0x06 => decVdab .i32 .vand c la lb
  | 0x07 => decVdab .i32 .vor c la lb
  | 0x08 => decVdab .i32 .vxor c la lb
  | 0x09 => decVdab .int .vshl c la lb
  | 0x0a => decVdab .int .vshr c la lb
  | 0x0b => decVdab .sgn .vsra c la lb
  | 0x0c => decVdab .all .vceq c la lb
  | 0x0d => decVdab .all .vclt c la lb
  | 0x0e => decVdab .all .vcle c la lb
  | 0x0f => decVdabe .i32 .vsel c la lb
  | _ => .error .op

/-- Long opcodes 0x10 to 0x1f (R84). -/
def decodeLong1 (l : Nat) (c : Cue) (la lb : Nat) : Except DecodeError Instr :=
  match l with
  | 0x00 => decVcvt c la lb
  | 0x01 => decVdx .sgn .vbcast c la lb
  | 0x02 => decVext c la lb
  | 0x03 => decVins c la lb
  | 0x04 => decVdab .sgn .vperm c la lb
  | 0x05 => decVra .all .vrsum c la lb
  | 0x06 => decVra .all .vrmax c la lb
  | 0x07 => decVra .all .vrmin c la lb
  | 0x08 => decVda .all .vabs c la lb
  | 0x09 => decVda .all .vneg c la lb
  | 0x0a => decVda .i32 .vmov c la lb
  | 0x0b => decVdx .i32 .vld c la lb
  | 0x0c => decVst c la lb
  | 0x0d => decVdab .flt .vldexp c la lb
  | 0x0e => decVrab .half .vdot2 c la lb
  | 0x0f => decVdabe .all .vclamp c la lb
  | _ => .error .op

/-- Long opcodes 0x20 to 0x2f (R84). -/
def decodeLong2 (l : Nat) (c : Cue) (la lb : Nat) : Except DecodeError Instr :=
  match l with
  | 0x00 => decVda .flt .sfExp2 c la lb
  | 0x01 => decVda .flt .sfLog2 c la lb
  | 0x02 => decVda .flt .sfRcp c la lb
  | 0x03 => decVda .flt .sfRsq c la lb
  | 0x04 => decVda .flt .sfSqrt c la lb
  | 0x05 => decVda .flt .sfTanh c la lb
  | 0x06 => decVda .flt .sfSigm c la lb
  | 0x07 => decVda .flt .sfSin c la lb
  | 0x08 => decVda .flt .sfCos c la lb
  | _ => .error .op

/-- Long opcodes 0x30 to 0x3f (R84). -/
def decodeLong3 (l : Nat) (c : Cue) (la lb : Nat) : Except DecodeError Instr :=
  match l with
  | 0x00 => decMma c la lb
  | 0x01 => decGmma c la lb
  | 0x02 => decMxZero c la lb
  | 0x03 => decMxLda c la lb
  | 0x04 => decMxRda c la lb
  | 0x05 => decMxScale c la lb
  | 0x06 => decMxIssue c la lb
  | _ => .error .op

/-- Long opcodes 0x40 to 0x4f (R84). -/
def decodeLong4 (l : Nat) (c : Cue) (la lb : Nat) : Except DecodeError Instr :=
  match l with
  | 0x00 => decScCfg c la lb
  | 0x01 => decScLocal c la lb
  | 0x02 => decScAgg c la lb
  | 0x03 => decScPfx c la lb
  | 0x04 => decScApply c la lb
  | 0x05 => decScReset c la lb
  | _ => .error .op

/-- Long opcodes 0x50 to 0x5f (R84). -/
def decodeLong5 (l : Nat) (c : Cue) (la lb : Nat) : Except DecodeError Instr :=
  match l with
  | 0x00 => decSgSet c la lb
  | 0x01 => decSgGo c la lb
  | 0x02 => decSgHalt c la lb
  | 0x03 => decSgStat c la lb
  | 0x04 => decGSet c la lb
  | 0x05 => decGAdv c la lb
  | 0x06 => decGStat c la lb
  | 0x07 => decTsend c la lb
  | _ => .error .op

/-- Long opcodes 0x60 to 0x6f (R84). -/
def decodeLong6 (l : Nat) (c : Cue) (la lb : Nat) : Except DecodeError Instr :=
  match l with
  | 0x00 => decCpArm c la lb
  | 0x01 => decCpFire c la lb
  | 0x02 => decCpGet c la lb
  | 0x03 => decCpPut c la lb
  | 0x04 => decCpCancel c la lb
  | 0x05 => decCpStat c la lb
  | _ => .error .op

/-- Long opcodes 0x70 to 0x7f (R84). -/
def decodeLong7 (l : Nat) (c : Cue) (la lb : Nat) : Except DecodeError Instr :=
  match l with
  | 0x00 => decWstw c la lb
  | 0x01 => decWstd c la lb
  | 0x02 => decWstv c la lb
  | 0x03 => decAmo c la lb
  | 0x04 => decAmod c la lb
  | 0x05 => decRed c la lb
  | 0x06 => decWaita c la lb
  | 0x07 => decWpoke c la lb
  | 0x08 => decFence c la lb
  | 0x09 => decMark c la lb
  | _ => .error .op

/-- Long opcodes 0x90 to 0x9f (R84). -/
def decodeLong9 (l : Nat) (c : Cue) (la lb : Nat) : Except DecodeError Instr :=
  match l with
  | 0x00 => decBarArr c la lb
  | 0x01 => decBarStat c la lb
  | 0x02 => decPhase c la lb
  | 0x03 => decPhaseEnd c la lb
  | 0x04 => decPwrRd c la lb
  | _ => .error .op

/-- Long opcodes 0xa0 to 0xaf (R84). -/
def decodeLong10 (l : Nat) (c : Cue) (la lb : Nat) : Except DecodeError Instr :=
  match l with
  | 0x00 => decTrap c la lb
  | 0x01 => decBkpt c la lb
  | 0x02 => decCfgRd c la lb
  | 0x03 => decCfgWr c la lb
  | 0x04 => decSlotLd c la lb
  | 0x05 => decCueWr c la lb
  | 0x06 => decCueEn c la lb
  | 0x07 => decFcrRd c la lb
  | 0x08 => decFcrWr c la lb
  | 0x09 => decHalt c la lb
  | 0x0a => decPresClr c la lb
  | 0x0b => decTimeRd c la lb
  | 0x0c => decCycRd c la lb
  | 0x0d => decIdRd c la lb
  | _ => .error .op

/-- Long opcodes 0xc0 to 0xcf (R84). -/
def decodeLong12 (l : Nat) (c : Cue) (la lb : Nat) : Except DecodeError Decoded :=
  match l with
  | 0x00 => (decLiw c la lb).map .inl
  | 0x01 => (decAddip c la lb).map .inr
  | 0x02 => (decLea c la lb).map .inr
  | 0x03 => (decCmpi c la lb).map .inr
  | 0x04 => (decExtr c la lb).map .inr
  | 0x05 => (decInsr c la lb).map .inr
  | 0x06 => (decMadd c la lb).map .inr
  | 0x07 => (decDecp c la lb).map .inr
  | 0x08 => (decWSet c la lb).map .inr
  | 0x09 => (decWAdd c la lb).map .inr
  | 0x0a => (decWAddi c la lb).map .inr
  | 0x0b => (decWGet c la lb).map .inr
  | 0x0c => (decLdp .ldwp c la lb).map .inr
  | 0x0d => (decLdp .ldhp c la lb).map .inr
  | 0x0e => (decLdp .ldhup c la lb).map .inr
  | 0x0f => (decLdp .ldbp c la lb).map .inr
  | _ => .error .op

/-- Long opcodes 0xd0 to 0xdf (R84). -/
def decodeLong13 (l : Nat) (c : Cue) (la lb : Nat) : Except DecodeError Decoded :=
  match l with
  | 0x00 => (decLdp .ldbup c la lb).map .inr
  | _ => .error .op

/-- The long opcode map (R84). -/
def decodeLong (lop : Nat) (c : Cue) (la lb : Nat) : Except DecodeError Decoded :=
  match lop / 16 with
  | 0 => (decodeLong0 (lop % 16) c la lb).map .inl
  | 1 => (decodeLong1 (lop % 16) c la lb).map .inl
  | 2 => (decodeLong2 (lop % 16) c la lb).map .inl
  | 3 => (decodeLong3 (lop % 16) c la lb).map .inl
  | 4 => (decodeLong4 (lop % 16) c la lb).map .inl
  | 5 => (decodeLong5 (lop % 16) c la lb).map .inl
  | 6 => (decodeLong6 (lop % 16) c la lb).map .inl
  | 7 => (decodeLong7 (lop % 16) c la lb).map .inl
  | 9 => (decodeLong9 (lop % 16) c la lb).map .inl
  | 10 => (decodeLong10 (lop % 16) c la lb).map .inl
  | 12 => decodeLong12 (lop % 16) c la lb
  | 13 => decodeLong13 (lop % 16) c la lb
  | _ => .error .op

/-- The instruction that a first word, and the word of the next slot where it is long, stand for, or the cause for
which they are refused (R68, R74, R88, R89). -/
def decodeWords (w0 : Nat) (w1 : Option Nat) : Except DecodeError Decoded :=
  if bits w0 26 6 = 63 then .error .cont
  else if bits w0 20 6 = 63 then
    match w1 with
    | none => .error .cont
    | some w => if bits w 26 6 = 63 then decodeLong (bits w0 12 8) (fCue w0) (bits w0 0 12) (bits w 0 26) else .error .cont
  else (decodeShort (bits w0 20 6) w0).map .inl

/-- The decoder's answer as an instruction. -/
noncomputable def decode (w0 : Nat) (w1 : Option Nat) : Except DecodeError Instr := (decodeWords w0 w1).map Decoded.instr

/-- Whether a word is the first word of a long instruction (R74). -/
def isLongFirst (w : Nat) : Bool := decide (bits w 26 6 ≠ 63 ∧ bits w 20 6 = 63)

/-- Whether a word is the second word of a long instruction (R68). -/
def isContinuation (w : Nat) : Bool := decide (bits w 26 6 = 63)

/-- Decoding of a byte sequence: little-endian words (R5), a second word where the first asks for one. The answer
is the instruction and the bytes behind it. -/
noncomputable def decodeBytes (bs : List Byte) : Except DecodeError (Instr × List Byte) :=
  match bs with
  | a :: b :: c :: d :: rest =>
    let w0 := a.toNat + b.toNat * 2 ^ 8 + c.toNat * 2 ^ 16 + d.toNat * 2 ^ 24
    if isLongFirst w0 then
      match rest with
      | e :: f :: g :: h :: rest' =>
        (decode w0 (some (e.toNat + f.toNat * 2 ^ 8 + g.toNat * 2 ^ 16 + h.toNat * 2 ^ 24))).map (fun i => (i, rest'))
      | _ => .error .cont
    else (decode w0 none).map (fun i => (i, rest))
  | _ => .error .cont

/-- The instruction whose bits the opcode table numbers as `w`: bits 31 to 0 the first word, bits 63 to 32 the word
of the next slot, zero where the table gives no bits. -/
noncomputable def decodeTableWord (nbits w : Nat) : Option Instr :=
  match decode (w % 2 ^ 32) (some (w / 2 ^ 32 % 2 ^ (nbits - 32))) with
  | .ok i => some i
  | .error _ => none

/-- The words of an instruction (R69, R74, R75, R80, R84): its first word and, of a long one, its second. A step
of an engine, the network, the director or the host has no encoding. -/
def encode (i : Instr) : Option (Nat × Option Nat) :=
  match i with
  | .add c d a b p => encR c 0x00 d.code a.code b.code p
  | .sub c d a b p => encR c 0x01 d.code a.code b.code p
  | .and c d a b p => encR c 0x02 d.code a.code b.code p
  | .or c d a b p => encR c 0x03 d.code a.code b.code p
  | .xor c d a b p => encR c 0x04 d.code a.code b.code p
  | .sll c d a b p => encR c 0x05 d.code a.code b.code p
  | .srl c d a b p => encR c 0x06 d.code a.code b.code p
  | .sra c d a b p => encR c 0x07 d.code a.code b.code p
  | .mul c d a b p => encR c 0x08 d.code a.code b.code p
  | .mulh c d a b p => encR c 0x09 d.code a.code b.code p
  | .mulhu c d a b p => encR c 0x0a d.code a.code b.code p
  | .min c d a b p => encR c 0x0b d.code a.code b.code p
  | .max c d a b p => encR c 0x0c d.code a.code b.code p
  | .minu c d a b p => encR c 0x0d d.code a.code b.code p
  | .maxu c d a b p => encR c 0x0e d.code a.code b.code p
  | .seq c d a b p => encR c 0x0f d.code a.code b.code p
  | .sne c d a b p => encR c 0x10 d.code a.code b.code p
  | .slt c d a b p => encR c 0x11 d.code a.code b.code p
  | .sltu c d a b p => encR c 0x12 d.code a.code b.code p
  | .sel c d a b ps => encR c 0x13 d.code a.code b.code ⟨0, ps⟩
  | .div c d a b p => encR c 0x14 d.code a.code b.code p
  | .divu c d a b p => encR c 0x15 d.code a.code b.code p
  | .rem c d a b p => encR c 0x16 d.code a.code b.code p
  | .remu c d a b p => encR c 0x17 d.code a.code b.code p
  | .addi c d a imm => encI c 0x18 d.code a.code imm.toNat
  | .andi c d a imm => encI c 0x19 d.code a.code imm.toNat
  | .ori c d a imm => encI c 0x1a d.code a.code imm.toNat
  | .xori c d a imm => encI c 0x1b d.code a.code imm.toNat
  | .slli c d a k => encI c 0x1c d.code a.code k
  | .srli c d a k => encI c 0x1d d.code a.code k
  | .srai c d a k => encI c 0x1e d.code a.code k
  | .slti c d a imm => encI c 0x1f d.code a.code imm.toNat
  | .sltiu c d a imm => encI c 0x20 d.code a.code imm.toNat
  | .seqi c d a imm => encI c 0x21 d.code a.code imm.toNat
  | .li c d imm => encL c 0x22 d.code imm.toNat
  | .fadd c d a b p => encR c 0x23 d.code a.code b.code p
  | .fsub c d a b p => encR c 0x24 d.code a.code b.code p
  | .fmul c d a b p => encR c 0x25 d.code a.code b.code p
  | .fma c d a b p => encR c 0x26 d a.code b.code p
  | .fnms c d a b p => encR c 0x27 d a.code b.code p
  | .fmin c d a b p => encR c 0x28 d.code a.code b.code p
  | .fmax c d a b p => encR c 0x29 d.code a.code b.code p
  | .feq c d a b p => encR c 0x2a d.code a.code b.code p
  | .flt c d a b p => encR c 0x2b d.code a.code b.code p
  | .fle c d a b p => encR c 0x2c d.code a.code b.code p
  | .mov c d a p => encR c 0x2D d.code a.code 0 p
  | .not c d a p => encR c 0x2D d.code a.code 1 p
  | .neg c d a p => encR c 0x2D d.code a.code 2 p
  | .abs c d a p => encR c 0x2D d.code a.code 3 p
  | .clz c d a p => encR c 0x2D d.code a.code 4 p
  | .ctz c d a p => encR c 0x2D d.code a.code 5 p
  | .popc c d a p => encR c 0x2D d.code a.code 6 p
  | .brev c d a p => encR c 0x2D d.code a.code 7 p
  | .sextb c d a p => encR c 0x2D d.code a.code 8 p
  | .sexth c d a p => encR c 0x2D d.code a.code 9 p
  | .zextb c d a p => encR c 0x2D d.code a.code 10 p
  | .zexth c d a p => encR c 0x2D d.code a.code 11 p
  | .fabs c d a p => encR c 0x2D d.code a.code 12 p
  | .fneg c d a p => encR c 0x2D d.code a.code 13 p
  | .fclass c d a p => encR c 0x2D d.code a.code 14 p
  | .cvtFi c d a p => encR c 0x2D d.code a.code 15 p
  | .cvtIf c d a p => encR c 0x2D d.code a.code 16 p
  | .cvtFn c d a p => encR c 0x2D d.code a.code 17 p
  | .cvtNf c d a p => encR c 0x2D d.code a.code 18 p
  | .frnd c d a p => encR c 0x2D d.code a.code 19 p
  | .cvtBf c d a p => encR c 0x2D d.code a.code 20 p
  | .cvtFb c d a p => encR c 0x2D d.code a.code 21 p
  | .cvtHf c d a p => encR c 0x2D d.code a.code 22 p
  | .cvtFh c d a p => encR c 0x2D d.code a.code 23 p
  | .cvtE4f c d a p => encR c 0x2D d.code a.code 24 p
  | .cvtFe4 c d a p => encR c 0x2D d.code a.code 25 p
  | .cvtE5f c d a p => encR c 0x2D d.code a.code 26 p
  | .cvtFe5 c d a p => encR c 0x2D d.code a.code 27 p
  | .tag c d q p => encR c 0x2D d.code (24 + q) 28 p
  | .qcnt c d q p => encR c 0x2D d.code (24 + q) 29 p
  | .xbit c d q p => encR c 0x2D d.code (24 + q) 30 p
  | .send c o a b p => encR c 0x2E (16 + o) a.code b.code p
  | .sendi c o a tag => encI c 0x2F (16 + o) a.code tag.toNat
  | .join c d a b p => encR c 0x30 d.code (16 + a) (16 + b) p
  | .drop c a b p => encR c 0x31 0 (16 + a) (dropCode b) p
  | .putr c k r a b p => encR c 0x32 (k * 8 + r) a.code b.code p
  | .ldw c d a imm => encI c 0x33 d.code a.code imm.toNat
  | .ldh c d a imm => encI c 0x34 d.code a.code imm.toNat
  | .ldhu c d a imm => encI c 0x35 d.code a.code imm.toNat
  | .ldb c d a imm => encI c 0x36 d.code a.code imm.toNat
  | .ldbu c d a imm => encI c 0x37 d.code a.code imm.toNat
  | .stw c d a imm => encI c 0x38 d.code a.code imm.toNat
  | .sth c d a imm => encI c 0x39 d.code a.code imm.toNat
  | .stb c d a imm => encI c 0x3a d.code a.code imm.toNat
  | .pand c d a b => encR c 0x3B d a 0 ⟨0, b⟩
  | .por c d a b => encR c 0x3B d a 1 ⟨0, b⟩
  | .pxor c d a b => encR c 0x3B d a 2 ⟨0, b⟩
  | .pnot c d a => encR c 0x3B d a 3 ⟨0, 0⟩
  | .pmovx c d => encR c 0x3B d.code 0 4 ⟨0, 0⟩
  | .psetx c a => encR c 0x3B 0 a.code 5 ⟨0, 0⟩
  | .nop c => encR c 0x3C 0 0 0 ⟨0, 0⟩
  | .fenceL c => encR c 0x3C 0 0 1 ⟨0, 0⟩
  | .vadd h d a b => encLV 0x00 h d.code a.code b.code 0 0
  | .vsub h d a b => encLV 0x01 h d.code a.code b.code 0 0
  | .vmul h d a b => encLV 0x02 h d.code a.code b.code 0 0
  | .vfma h d a b => encLV 0x03 h d a.code b.code 0 0
  | .vmin h d a b => encLV 0x04 h d.code a.code b.code 0 0
  | .vmax h d a b => encLV 0x05 h d.code a.code b.code 0 0
  | .vand h d a b => encLV 0x06 h d.code a.code b.code 0 0
  | .vor h d a b => encLV 0x07 h d.code a.code b.code 0 0
  | .vxor h d a b => encLV 0x08 h d.code a.code b.code 0 0
  | .vshl h d a b => encLV 0x09 h d.code a.code b.code 0 0
  | .vshr h d a b => encLV 0x0a h d.code a.code b.code 0 0
  | .vsra h d a b => encLV 0x0b h d.code a.code b.code 0 0
  | .vceq h d a b => encLV 0x0c h d.code a.code b.code 0 0
  | .vclt h d a b => encLV 0x0d h d.code a.code b.code 0 0
  | .vcle h d a b => encLV 0x0e h d.code a.code b.code 0 0
  | .vsel h d a b e => encLV 0x0f h d.code a.code b.code e.code 0
  | .vcvt h d a k x => encLV 0x10 h d.code a.code 0 k.code x
  | .vbcast h d x => encLV 0x11 h d.code 0 0 0 x
  | .vext h d a b x => encLV 0x12 h d.code a.code b.code 0 x
  | .vins h d a x => encLV 0x13 h d.code a.code 0 0 x
  | .vperm h d a b => encLV 0x14 h d.code a.code b.code 0 0
  | .vrsum h d a => encLV 0x15 h d a.code 0 0 0
  | .vrmax h d a => encLV 0x16 h d a.code 0 0 0
  | .vrmin h d a => encLV 0x17 h d a.code 0 0 0
  | .vabs h d a => encLV 0x18 h d.code a.code 0 0 0
  | .vneg h d a => encLV 0x19 h d.code a.code 0 0 0
  | .vmov h d a => encLV 0x1a h d.code a.code 0 0 0
  | .vld h d x => encLV 0x1B h d.code 0 0 0 x
  | .vst h a x => encLV 0x1C h 0 a.code 0 0 x
  | .vldexp h d a b => encLV 0x1d h d.code a.code b.code 0 0
  | .vdot2 h d a b => encLV 0x1e h d a.code b.code 0 0
  | .vclamp h d a b e => encLV 0x1f h d.code a.code b.code e.code 0
  | .sfExp2 h d a => encLV 0x20 h d.code a.code 0 0 0
  | .sfLog2 h d a => encLV 0x21 h d.code a.code 0 0 0
  | .sfRcp h d a => encLV 0x22 h d.code a.code 0 0 0
  | .sfRsq h d a => encLV 0x23 h d.code a.code 0 0 0
  | .sfSqrt h d a => encLV 0x24 h d.code a.code 0 0 0
  | .sfTanh h d a => encLV 0x25 h d.code a.code 0 0 0
  | .sfSigm h d a => encLV 0x26 h d.code a.code 0 0 0
  | .sfSin h d a => encLV 0x27 h d.code a.code 0 0 0
  | .sfCos h d a => encLV 0x28 h d.code a.code 0 0 0
  | .mxMma c acc ga gb dt ac r k pa pb tr p => encLM 0x30 c acc ga gb dt.code ac r k pa pb tr 0 p
  | .mxGmma c acc ga gb dt ac k pa pb tr x p => encLM 0x31 c acc ga gb dt.code ac 0 k pa pb tr x p
  | .mxZero c acc p => encLM 0x32 c acc 0 0 0 false 0 0 false false false 0 p
  | .mxLda c acc ga pa p => encLM 0x33 c acc ga 0 0 false 0 0 pa false false 0 p
  | .mxRda c acc ga code ac p => encLM 0x34 c acc ga 0 code ac 0 0 false false false 0 p
  | .mxScale c acc tr x p => encLM 0x35 c acc 0 0 0 false 0 0 false false tr x p
  | .mxIssue c q p => encLM 0x36 c 0 0 0 0 false 0 0 false false false q p
  | .scCfg c g dir p => encLS 0x40 c 0 g dir 0 0 0 false p
  | .scLocal c op k a d nb p => encLS 0x41 c op.code 0 k a.code d.code nb false p
  | .scAgg c op g a p => encLS 0x42 c op.code g false a.code 0 0 false p
  | .scAggRel c op g a p => encLS 0x42 c op.code g false a.code 0 0 true p
  | .scPfx c g d p => encLS 0x43 c 0 g false 0 d 0 false p
  | .scApply c op k a d nb p => encLS 0x44 c op.code 0 k a d.code nb false p
  | .scReset c g p => encLS 0x45 c 0 g false 0 0 0 false p
  | .sgSetBase c g a p => encLG 0x50 c g a.code 0 0 0 p
  | .sgSetCtl c g a p => encLG 0x50 c g a.code 1 0 0 p
  | .sgSetLv c g a b lv p => encLG 0x50 c g a.code 2 b.code lv p
  | .sgGo c g p => encLG 0x51 c g 0 0 0 0 p
  | .sgHalt c g p => encLG 0x52 c g 0 0 0 0 p
  | .sgStatCtl c g d p => encLG 0x53 c g d.code 0 0 0 p
  | .sgStatIdx c g d lv p => encLG 0x53 c g d.code 1 0 lv p
  | .sgStatOcc c g d p => encLG 0x53 c g d.code 2 0 0 p
  | .gSetW0 c g a p => encLG 0x54 c g a.code 0 0 0 p
  | .gSetW1 c g a p => encLG 0x54 c g a.code 1 0 0 p
  | .gAdvPush c g p => encLG 0x55 c g 0 0 0 0 p
  | .gAdvPop c g p => encLG 0x55 c g 0 1 0 0 p
  | .gStatCnt c g d p => encLG 0x56 c g d.code 0 0 0 p
  | .gStatHead c g d p => encLG 0x56 c g d.code 1 0 0 p
  | .gStatTail c g d p => encLG 0x56 c g d.code 2 0 0 p
  | .tsend c g o p => encLG 0x57 c g (16 + o) 0 0 0 p
  | .cpArm c ct p => encLC 0x60 c ct 0 0 0 0 0 p
  | .cpArmSet c ct a b wr p => encLC 0x60 c ct a.code 1 b.code wr 0 p
  | .cpFire c ct p => encLC 0x61 c ct 0 0 0 0 0 p
  | .cpFireNow c ct p => encLC 0x61 c ct 0 1 0 0 0 p
  | .cpGet c a b wr len nt p => encLC 0x62 c 0 a.code nt.toNat b.code wr len.toNat p
  | .cpPut c a b wr len nt p => encLC 0x63 c 0 a.code nt.toNat b.code wr len.toNat p
  | .cpCancel c ct p => encLC 0x64 c ct 0 0 0 0 0 p
  | .cpStatDep c ct d p => encLC 0x65 c ct d.code 0 0 0 0 p
  | .cpStatEng c d p => encLC 0x65 c 0 d.code 1 0 0 0 p
  | .wstw c rel wr off d p => encLW 0x70 c wr 0 d.code off 0 (relCode rel) 0 p
  | .wstd c rel wr off lo hi p => encLW 0x71 c wr hi.code lo.code off 0 (relCode rel) 1 p
  | .wstv c rel wr off v p => encLW 0x72 c wr 0 v off 0 (relCode rel) 2 p
  | .amoAdd c ord wr off d a p => encLW 0x73 c wr a.code (8 + d) off 0 ord.code 0 p
  | .amoAnd c ord wr off d a p => encLW 0x73 c wr a.code (8 + d) off 1 ord.code 0 p
  | .amoOr c ord wr off d a p => encLW 0x73 c wr a.code (8 + d) off 2 ord.code 0 p
  | .amoXor c ord wr off d a p => encLW 0x73 c wr a.code (8 + d) off 3 ord.code 0 p
  | .amoMin c ord wr off d a p => encLW 0x73 c wr a.code (8 + d) off 4 ord.code 0 p
  | .amoMax c ord wr off d a p => encLW 0x73 c wr a.code (8 + d) off 5 ord.code 0 p
  | .amoMinn c ord wr off d a p => encLW 0x73 c wr a.code (8 + d) off 6 ord.code 0 p
  | .amoMaxn c ord wr off d a p => encLW 0x73 c wr a.code (8 + d) off 7 ord.code 0 p
  | .amoSwap c ord wr off d a p => encLW 0x73 c wr a.code (8 + d) off 8 ord.code 0 p
  | .amoCas c ord wr off d a p => encLW 0x73 c wr a.code (8 + d) off 9 ord.code 0 p
  | .amoLd c ord wr off d p => encLW 0x73 c wr 0 (8 + d) off 10 ord.code 0 p
  | .amodAdd c ord wr off d a p => encLW 0x74 c wr (2 * a) (8 + 2 * d) off 0 ord.code 1 p
  | .amodAnd c ord wr off d a p => encLW 0x74 c wr (2 * a) (8 + 2 * d) off 1 ord.code 1 p
  | .amodOr c ord wr off d a p => encLW 0x74 c wr (2 * a) (8 + 2 * d) off 2 ord.code 1 p
  | .amodXor c ord wr off d a p => encLW 0x74 c wr (2 * a) (8 + 2 * d) off 3 ord.code 1 p
  | .amodMin c ord wr off d a p => encLW 0x74 c wr (2 * a) (8 + 2 * d) off 4 ord.code 1 p
  | .amodMax c ord wr off d a p => encLW 0x74 c wr (2 * a) (8 + 2 * d) off 5 ord.code 1 p
  | .amodMinn c ord wr off d a p => encLW 0x74 c wr (2 * a) (8 + 2 * d) off 6 ord.code 1 p
  | .amodMaxn c ord wr off d a p => encLW 0x74 c wr (2 * a) (8 + 2 * d) off 7 ord.code 1 p
  | .amodSwap c ord wr off d a p => encLW 0x74 c wr (2 * a) (8 + 2 * d) off 8 ord.code 1 p
  | .amodCas c ord wr off d a p => encLW 0x74 c wr (2 * a) (8 + 2 * d) off 9 ord.code 1 p
  | .amodLd c ord wr off d p => encLW 0x74 c wr 0 (8 + 2 * d) off 10 ord.code 1 p
  | .redAddI32 c rel wr off a p => encLW 0x75 c wr a.code 0 off 0 (relCode rel) 0 p
  | .redAddF32 c rel wr off a p => encLW 0x75 c wr a.code 0 off 1 (relCode rel) 0 p
  | .redAddBf16x2 c rel wr off a p => encLW 0x75 c wr a.code 0 off 2 (relCode rel) 0 p
  | .redMaxF32 c rel wr off a p => encLW 0x75 c wr a.code 0 off 3 (relCode rel) 0 p
  | .redMinF32 c rel wr off a p => encLW 0x75 c wr a.code 0 off 4 (relCode rel) 0 p
  | .redAnd c rel wr off a p => encLW 0x75 c wr a.code 0 off 5 (relCode rel) 0 p
  | .redOr c rel wr off a p => encLW 0x75 c wr a.code 0 off 6 (relCode rel) 0 p
  | .redXor c rel wr off a p => encLW 0x75 c wr a.code 0 off 7 (relCode rel) 0 p
  | .waita c wr off t cmp p => encLW 0x76 c wr cmp.code t.code off 0 0 cmp.sz p
  | .wpoke c dbl wr off p => encLW 0x77 c wr 0 0 off 0 0 dbl.toNat p
  | .fenceW c p => encLW 0x78 c 0 0 0 0 0 0 0 p
  | .fenceC c p => encLW 0x78 c 0 0 0 0 1 0 0 p
  | .fenceAll c p => encLW 0x78 c 0 0 0 0 2 0 0 p
  | .mark c a p => encLW 0x79 c 0 a.code 0 0 0 0 0 p
  | .barArr c g p => encLY 0x90 c 0 0 0 g p
  | .barArrRel c g p => encLY 0x90 c 0 0 0 (g + 16) p
  | .barStat c g d p => encLY 0x91 c d.code 0 0 g p
  | .phase c on int k p => encLY 0x92 c 0 0 0 (on.toNat + int * 2 ^ 12 + k * 2 ^ 16) p
  | .phaseGang c a on int k p => encLY 0x92 c 0 a.code 1 (on.toNat + int * 2 ^ 12 + k * 2 ^ 16) p
  | .phaseEnd c p => encLY 0x93 c 0 0 0 0 p
  | .phaseEndGang c a p => encLY 0x93 c 0 a.code 1 0 p
  | .pwrRd c d item p => encLY 0x94 c d.code 0 0 item p
  | .trap c a code p => encLY 0xA0 c 0 a.code 0 code p
  | .trapPark c a code p => encLY 0xA0 c 0 a.code 1 code p
  | .bkpt c a code p => encLY 0xA1 c 0 a.code 0 code p
  | .cfgRd c d a ca p => encLY 0xA2 c d.code a.code 0 ca.toNat p
  | .cfgWr c v a ca p => encLY 0xA3 c v.code a.code 0 ca.toNat p
  | .slotLd c a first n1 p => encLY 0xA4 c 0 a.code 0 (first + n1 * 2 ^ 7) p
  | .cueWr c hi lo idx p => encLY 0xA5 c hi.code lo.code 0 idx p
  | .cueEn c idx en p => encLY 0xA6 c 0 0 0 (idx + en.toNat * 2 ^ 6) p
  | .fcrRd c d p => encLY 0xA7 c d.code 0 0 0 p
  | .fcrWr c d a mask p => encLY 0xA8 c d.code a.code 0 mask.toNat p
  | .halt c mask p => encLY 0xA9 c 0 0 0 mask.toNat p
  | .presClr c mask p => encLY 0xAA c 0 0 0 mask.toNat p
  | .timeRd c d p => encLY 0xAB c d.code 0 0 0 p
  | .timeRdHi c d p => encLY 0xAB c d.code 0 1 0 p
  | .cycRd c d p => encLY 0xAC c d.code 0 0 0 p
  | .cycRdHi c d p => encLY 0xAC c d.code 0 1 0 p
  | .cycRdFired c d p => encLY 0xAC c d.code 0 2 0 p
  | .cycRdIdle c d p => encLY 0xAC c d.code 0 3 0 p
  | .idRd c d item p => encLY 0xAD c d.code 0 0 item p
  | .liw c d imm => encLong c 0xC0 (d.code * 2 ^ 7 + imm.toNat / 2 ^ 25) (imm.toNat % 2 ^ 25)
  | .addip c d a imm p => encLX 0xC1 c d.code a.code 0 0 imm.toNat p
  | .addipHi c d a imm p => encLX 0xC1 c d.code a.code 1 0 imm.toNat p
  | .lea c d a b s imm p => encLX 0xC2 c d.code a.code s b.code imm.toNat p
  | .cmpiEq c d a imm p => encLX 0xC3 c d.code a.code 0 0 imm.toNat p
  | .cmpiNe c d a imm p => encLX 0xC3 c d.code a.code 1 0 imm.toNat p
  | .cmpiLt c d a imm p => encLX 0xC3 c d.code a.code 2 0 imm.toNat p
  | .cmpiLtu c d a imm p => encLX 0xC3 c d.code a.code 3 0 imm.toNat p
  | .extr c d a pos len1 p => encLX 0xC4 c d.code a.code 0 0 (pos + len1 * 2 ^ 5) p
  | .extrS c d a pos len1 p => encLX 0xC4 c d.code a.code 1 0 (pos + len1 * 2 ^ 5) p
  | .insr c d a pos len1 p => encLX 0xC5 c d a.code 0 0 (pos + len1 * 2 ^ 5) p
  | .madd c d a b p => encLX 0xC6 c d a.code 0 b.code 0 p
  | .decp c d px => encLX 0xC7 c d 0 0 0 0 ⟨3, px⟩
  | .wSet c wi a b p => encLX 0xC8 c 0 a.code wi b.code 0 p
  | .wAdd c wi a s p => encLX 0xC9 c 0 a.code wi 0 s p
  | .wAddi c wi imm p => encLX 0xCA c 0 0 wi 0 imm.toNat p
  | .wGet c d wi half p => encLX 0xCB c d.code 0 wi 0 half.toNat p
  | .ldwp c d a imm p => encLX 0xcc c d.code a.code 0 0 imm.toNat p
  | .ldhp c d a imm p => encLX 0xcd c d.code a.code 0 0 imm.toNat p
  | .ldhup c d a imm p => encLX 0xce c d.code a.code 0 0 imm.toNat p
  | .ldbp c d a imm p => encLX 0xcf c d.code a.code 0 0 imm.toNat p
  | .ldbup c d a imm p => encLX 0xd0 c d.code a.code 0 0 imm.toNat p
  | .vectorBeat _ => none
  | .sliceAccessResume _ => none
  | .divideResult _ => none
  | .sfServiceStart _ => none
  | .sfResultWrite _ => none
  | .lineFillComplete _ _ => none
  | .fenceLComplete _ => none
  | .mergeWindowClose _ => none
  | .sgTransfer _ _ => none
  | .mxCommandStart _ => none
  | .mxCommandComplete _ => none
  | .copyStart _ => none
  | .copyBlock _ _ _ => none
  | .copyComplete _ _ => none
  | .tsendUnit _ => none
  | .oqWordSend _ _ => none
  | .meshFlitForward _ _ => none
  | .wordDeliver _ => none
  | .tileArrive _ => none
  | .putrNameWalk _ => none
  | .putrDeliver _ => none
  | .releaseStationIssue _ _ => none
  | .translationWalk _ => none
  | .suuAccept _ => none
  | .suuApply _ _ => none
  | .ackReceive _ => none
  | .responseReceive _ => none
  | .waitaTimeout _ _ => none
  | .markerRecorded _ => none
  | .barrierComplete _ _ => none
  | .scanCombine _ _ _ _ => none
  | .phaseGrant _ _ => none
  | .phaseWindowEnd _ _ => none
  | .clockMaskApply _ => none
  | .faultRecordDeliver _ _ => none
  | .recordDivert _ _ => none
  | .launch _ => none
  | .launchAccept => none
  | .placement => none
  | .requestAged _ => none
  | .forcedPreempt _ => none
  | .sceneInstall _ => none
  | .curtainUp _ => none
  | .curtainDown _ => none
  | .stallReport _ => none
  | .sceneWatchdog _ => none
  | .heartbeatPoll _ _ _ => none
  | .cellSelfTest _ _ _ => none
  | .preempt _ => none
  | .restore _ _ _ => none
  | .drainAndSwap _ => none
  | .mappingUpdate _ _ _ _ => none
  | .stageWithdraw _ => none
  | .hostEndStage _ => none
  | .hostRelease _ _ => none
  | .ingressDoorbell _ _ _ => none
  | .tokenDeliver _ => none
  | .apertureWrite _ _ _ => none
  | .apertureRead _ _ _ => none
  | .egressEntryWrite _ => none
  | .pciePortDown _ => none
  | .pciePortUp _ => none
  | .pcapWrite _ => none
  | .domainCommit _ _ => none
  | .portTraining _ _ _ => none
  | .collectiveEnable _ _ => none
  | .collectiveRound _ => none
  | .reshapeGo _ => none
  | .reshapeDrainDone => none
  | .reshapeDrainTimeout => none
  | .portRelock _ _ _ => none
  | .portRelockTimeout _ => none
  | .linkLoss _ => none
  | .linkDeclaredDown _ => none
  | .sobSubmit _ => none
  | .sobCheckDone _ => none
  | .sobOreqCasting => none
  | .sobOreqQuote => none
  | .sobOreqCert => none
  | .powerOnBoot _ => none
  | .registerWrite _ _ => none
  | .clockStretch _ _ => none

end Sys2Proof
end

