-- ==== Sys2Proof/Config.lean ====
section
/-! DEFINITION. Config.lean: what the spec leaves free or takes from elsewhere. Every constant here is opaque: no
proof can see a value, so a statement holds whatever it is. -/

namespace Sys2Proof.Config

/-- Which value within its bound an inexact special function returns (R122, R123): a choice by function code, input
and captured FCR bits. The model reduces it to the candidates within the bound (log 8). -/
opaque sfChoice : Nat → BitVec 32 → BitVec 32 → Nat

/-- Whether the output flush acts on a conversion to a wider format: R114 calls such a conversion exact but for NaNs and the input flush,
R35, R110 and R147 have FTZ flush subnormal results (log 11). -/
opaque wideningFlush : Bool

/-- Public keys as 133-byte points (R329): the Relyith root and the owner key of shipment. -/
opaque rootKey : List (BitVec 8)
opaque ownerKey : List (BitVec 8)

/-- The private half of the device identity key, which never leaves the director, and the per-message number of its signature of
a digest (R329; log 20). -/
opaque deviceScalar : Nat
opaque nonce : BitVec 512 → Nat

/-- Which of the two firmware images an accepted image replaces: its body says (R332, R360; log 32). -/
opaque firmwareSlot : List (BitVec 8) → Bool

/-- The certificate of the device identity key (R329, R380). -/
opaque deviceCert : List (BitVec 8)

/-- The two firmware images that the boot ROM measures, by number (R332, R378). -/
opaque firmware : Nat → List (BitVec 8)

/-- Module input power averaged over 1 ms, in 0.1 kW units, at a tick (R371, R382: a measured quantity). -/
opaque power : Nat → BitVec 16

/-- Strip cycles that the posted writes of a port take, by the number of the write (R237 gives no time). -/
opaque linkDelay : Nat → Nat

/-- Which of several words is applied next, where any order is allowed (R236, R239), by a number of the step. -/
opaque pick : Nat → Nat

/-- Buffer slots beyond the first of a class at a router port (R21 gives no number). -/
opaque portSlots : Nat

/-- The mesh position, as a logical number, at which the traffic of a peer module enters and leaves (R28 gives none). -/
opaque edgeAt : Nat → Nat

/-- The mesh position, as a logical number, of a host port (R237 names none). -/
opaque portAt : Nat → Nat

/-- A byte of a save area whose place no rule gives, by the number of the save and the offset (R355; log 79). -/
opaque saveByte : Nat → Nat → BitVec 8

/-- The neighbour through which a module that is no neighbour is reached after formation, by the domain table (R361, R374;
log 36). -/
opaque farRoute : List Nat → Nat → Option Nat

/-- Strip cycles after which the peer has taken a relayed request, by its number here, so that the send allowance is back (R361 gives no
time; log 38). -/
opaque allowanceDelay : Nat → Nat

end Sys2Proof.Config
end

