-- ==== Sys2Proof/Machine/State.lean ====
section
/-! DEFINITION. State.lean: the state of one module as plain data, piece by piece from spec 00 to 13 and 19 R403,
and the state right after reset. The fields `agenda`, `turn` and `focus` are the model's own (log 1,
2). -/

namespace Sys2Proof.Machine

/-! ## Words, records, requests -/

/-- A channel word (R47). -/
structure QWord where
  data : Word
  tag : Byte
  x : Bool
  deriving DecidableEq, Repr

/-- A stream-queue entry with its mark (R56, R124). -/
structure SEnt where
  data : VWord
  x : Bool
  deriving DecidableEq, Repr

/-- Where a fault record goes (R340, R343). -/
inductive RecDest where
  | trap | log | host
  deriving DecidableEq, Repr

/-- A fault record: its four words (R342), and what its log entry keeps besides (R344); `made` is the strip cycle of its
making. -/
structure Record where
  w1 : Word
  w2 : Word
  w3 : Word
  w4 : Word
  scene : Nat
  made : Nat
  dest : RecDest
  deriving DecidableEq, Repr

/-- A fault as an instruction or a piece of work raises it: class, code, unit, module number, high address bits and
operand word (R342). -/
structure FaultInfo where
  cls : Nat
  code : Nat
  opnd : Word
  unit : Nat := 0
  modNum : Nat := 0
  ahi : Nat := 0
  deriving DecidableEq, Repr

/-- Functions of AMO and AMOD in code order (R275). -/
inductive AmoFn where
  | add | and | or | xor | min | max | minn | maxn | swap | cas | ld
  deriving DecidableEq, Repr

/-- Functions of RED in code order (R276). -/
inductive RedFn where
  | addI32 | addF32 | addBf16x2 | maxF32 | minF32 | and | or | xor
  deriving DecidableEq, Repr

/-- What a wafer-space request asks for (R274 to R279), and the blocks of copies between modules (R320). `dst` counts
from x8; `cnew` is the value a CAS stores; `wanted` is false once the watch of a registration has timed out. -/
inductive ReqKind where
  | store4 (d : Word)
  | store8 (d : DWord)
  | store64 (d : VWord)
  | amo (fn : AmoFn) (dbl acquire : Bool) (opnd cnew : DWord) (dst : Fin 8) (p : PAct)
  | red (fn : RedFn) (a : Word)
  | waita (dbl : Bool) (cmp : DWord) (wanted : Bool)
  | wpoke (dbl : Bool)
  | getBlock
  | putBlock (d : BitVec 256)
  deriving DecidableEq, Repr

/-- Where a request stands: issued and not translated, translated to its home (a strip and the byte address within
the DRAM wafer), in the SUU window of its home (R223, R297, R320), on its way to the edge for another module, or sent through
the edge under a number (R28). -/
inductive ReqLoc where
  | issued
  | homed (strip addr : Nat)
  | window (strip addr : Nat)
  | away
  | edge (id : Nat)
  deriving DecidableEq, Repr

/-- Where a flit of the mesh stands (R21): the column of its source, the router, the directions it has moved, latest first,
and the strip cycle in which it came to the router. -/
structure Hop where
  sx : Nat
  x : Nat
  y : Nat
  trail : List Dir
  came : Nat
  deriving DecidableEq, Repr

def Hop.zero : Hop := ⟨0, 0, 0, [], 0⟩

/-- A wafer-space request (R223 to R228). `ordered` is its SUUORD bit, `lo` and `hi` the halves of a WSTV that are
applied, `words` and `got` the words of a copy block that are and the data read (R239), `origin` the module and the request
number there for a request of a peer module, `qp`, `qs` and `wq` the values of its stage (R327), `hop` its place on the mesh,
`path` the DRAM places of the table entries that translated it (R325), `good` that its check holds (R351), `serial` how many watches
its context had begun before it (R277). -/
structure Req where
  kind : ReqKind
  addr : DWord
  cell : Nat
  ctx : Fin 4
  slot : Nat
  stage : Nat
  ordered : Bool
  loc : ReqLoc
  lo : Bool
  hi : Bool
  origin : Option (Nat × Nat)
  words : BitVec 8 := 0
  got : BitVec 256 := 0
  qp : Nat := 64
  qs : Nat := 64
  wq : Nat := 128
  hop : Hop := Hop.zero
  path : List Nat := []
  good : Bool := true
  serial : Nat := 0
  deriving DecidableEq, Repr

/-- The answer to a request (R225, R275, R282). -/
inductive AckRes where
  | done
  | value (old : DWord)
  | block (d : BitVec 256)
  | fault (cls code : Nat)
  deriving DecidableEq, Repr

/-- An acknowledgement or response on its way back: its place on the mesh, and whether its check holds (R21, R351). -/
structure Ack where
  req : Req
  res : AckRes
  hop : Hop := Hop.zero
  good : Bool := true
  deriving DecidableEq, Repr

/-- A watch registered at an SUU (R277, R278): its home address in the DRAM wafer, its size, its watcher. -/
structure Watch where
  strip : Nat
  addr : Nat
  size : Nat
  cell : Nat
  ctx : Fin 4
  stage : Nat
  origin : Option (Nat × Nat)
  deriving DecidableEq, Repr

/-- What a release station holds (R228, R281, R299). -/
inductive Station where
  | req (r : Req)
  | mark (num : Nat)
  | arrive (g : Fin 16)
  deriving DecidableEq, Repr

/-! ## Contexts -/

/-- The states of R46. -/
inductive CtxStatus where
  | running | parkSf | parkDiv | parkMiss | parkFault | parkTrap | halted
  deriving DecidableEq, Repr

/-- A power-phase declaration (R305 to R308): grant and end in strip cycles, intensity, K, the gang's group, the
budget left, whether its window is open, and whether this context declared it. -/
structure Phase where
  grant : Nat
  stop : Nat
  int : Nat
  k : Nat
  gang : Option (Fin 16)
  budget : Nat
  opened : Bool
  own : Bool
  deriving DecidableEq, Repr

/-- One context (R30): `resv` the destinations of returning atomics (R275), `was` the
registers whose presence bit or reservation stood at the start of the last cycle (R32), `beside` records that wait beside the
record place and `release` a release that waits for it (R343), `respFaults` failed responses that wait for the end of
another park (R282), `watchNo` how many watches it has begun (R277), `parkDeq` and `parkCue` what a skip dequeues and which cue it consumes (R346). -/
structure Context where
  x : Vector Word 16
  pres : BitVec 8
  p : BitVec 8
  v : Vector VWord 8
  w : Vector DWord 4
  fcr : Word
  status : CtxStatus
  wake : Bool
  granted : Bool
  uack : Nat
  station : Option Station
  acq : Bool
  resv : BitVec 8
  was : BitVec 8
  watch : Option Nat
  watchOut : Bool
  watchId : Option (Nat × Nat)
  watchNo : Nat
  record : Option (Record × Nat)
  beside : List Record
  release : Option Word
  respFaults : Nat
  parkDeq : List (Fin 8)
  parkCue : Option (Fin 63)
  fired : Word
  undeclared : Nat
  timeLatch : Word
  cycLatch : Word
  phase : Option Phase
  withdrawn : Bool
  deriving DecidableEq, Repr

/-! ## Rings, generators, templates, engines -/

/-- A ring descriptor (R51) with the partial counts and the marks of R55 and R124: `marks` of the full tiles, oldest
first, `part` entries in the tail tile, `drain` entries taken from the head tile (log 12), `acc` the mark gathered for
the tail tile, `bytes` what is packed into the tail tile by routes (R50), `buf` the words of it that are no whole
64-byte block yet and stand in no SRAM (R217), `told` the
last tile of each route, by stage-relative sender and output queue, whose failed check is reported (R351). -/
structure Ring where
  base : Nat
  tsz : Nat
  depth : Nat
  prod : Nat
  pidx : Nat
  head : Nat
  tail : Nat
  count : Nat
  part : Nat
  drain : Nat
  acc : Bool
  bytes : Nat
  buf : List Word
  marks : List Bool
  told : AMap Nat
  deriving DecidableEq, Repr

/-- One level of a generator (R54). -/
structure SgLevel where
  stride : BitVec 24
  cntm1 : BitVec 16
  idx : BitVec 16
  deriving DecidableEq, Repr

/-- A stream generator (R54, R55) with the context and slot of the SG.GO that started it (R350) and the first cycle that
may see a transfer of its sequence (R259). -/
structure Gen where
  base : Word
  dir : Bool
  active : Bool
  done : Bool
  fault : Bool
  rgen : Bool
  rg : Fin 8
  lv : Vector SgLevel 4
  ctx : Fin 4
  slot : Nat
  start : Nat
  deriving DecidableEq, Repr

/-- The kinds of matrix command (R183). -/
inductive MxKind where
  | mma | gmma | zero | lda | rda | scale
  deriving DecidableEq, Repr

/-- An accepted matrix command with its captures (R185): `counts` of MX.GMMA, `vec` of MX.SCALE, the FCR and context,
the marks of the words that MX.ISSUE took, and whether it was accepted before a pre-emption (R310). -/
structure MxCmd where
  kind : MxKind
  acc : Fin 4
  ga : Fin 8
  gb : Fin 8
  dt : Nat
  accum : Bool
  rows : Nat
  cols : Nat
  popa : Bool
  popb : Bool
  trb : Bool
  counts : Nat
  vec : VWord
  fcr : Word
  ctx : Fin 4
  mark : Bool
  early : Bool
  deriving DecidableEq, Repr

/-- The command that executes, its start cycle and the first cycle that sees its effects (R189). -/
structure MxRun where
  cmd : MxCmd
  start : Nat
  due : Nat
  deriving DecidableEq, Repr

/-- A copy template (R61). -/
structure Template where
  pa : Word
  wa : DWord
  len : Nat
  put : Bool
  ctx : Fin 4
  notify : Bool
  pinit : Nat
  s0 : Option (Fin 16)
  s1 : Option (Fin 16)
  s0f : Fin 16
  s1f : Fin 16
  count : Nat
  armed : Bool
  pending : Bool
  active : Bool
  deriving DecidableEq, Repr

/-- Where the wafer side of a block is (R265, R320, R368): its home, a host window and the byte in it, another module. -/
inductive BlockAt where
  | home (key : Nat)
  | window (w byte : Nat)
  | away
  deriving DecidableEq, Repr

/-- How far a copy block is: its private side is to be read (PUT); on the mesh to its wafer side; there, let in by the strip port
(R327); its answer on the mesh; its private side is to be written (GET). -/
inductive BlockPhase where
  | read | out | there | back | write
  deriving DecidableEq, Repr

/-- A copy block that is under way (R269): in wafer space each of its 4-byte words is read (`got`) or applied (`done`) by itself
(R239). `path` is as for a request, `hop` its place on the mesh, `res` the fault that its answer tells, `good` that its check holds
(R351). -/
structure Block where
  blk : Nat
  loc : BlockAt
  phase : BlockPhase
  path : List Nat
  data : BitVec 256
  got : BitVec 8
  done : BitVec 8
  hop : Hop := Hop.zero
  res : Option FaultInfo := none
  good : Bool := true
  deriving DecidableEq, Repr

/-- A copy that is pending or active (R62, R265 to R270): `tmpl` none for a direct copy, `left` the blocks not yet
issued, `work` those under way here, `flight` blocks sent through the edge with their numbers, `cancelled` and `failed` as R269 and R270 have it. -/
structure Copy where
  tmpl : Option (Fin 16)
  put : Bool
  pa : Nat
  wa : DWord
  len : Nat
  ctx : Fin 4
  slot : Nat
  notify : Bool
  left : List Nat
  work : List Block
  flight : List (Nat × Nat)
  cancelled : Bool
  failed : Option FaultInfo
  deriving DecidableEq, Repr

/-- The operands of a divide in the divider (R136, R137) and the cycle whose start sees its result. -/
structure DivJob where
  signed : Bool
  remainder : Bool
  a : Word
  b : Word
  ctx : Fin 4
  slot : Nat
  dst : Dst
  p : PAct
  x : Bool
  due : Nat
  deriving DecidableEq, Repr

/-- The element-wise, moving and reducing vector operations (R168 to R176). -/
inductive VOp where
  | add | sub | mul | fma | min | max | and | or | xor | shl | shr | sra | ceq | clt | cle | sel
  | cvt (k : VConv) | bcast | ext | ins | perm | rsum | rmax | rmin | abs | neg | mov | ldexp | dot2 | clamp
  deriving DecidableEq, Repr

/-- The special functions in code order (R179). -/
inductive SfFn where
  | exp2 | log2 | rcp | rsq | sqrt | tanh | sigm | sin | cos
  deriving DecidableEq, Repr

/-- What a beat of an N-beat instruction does (R164, R177, R180, R210, R213). -/
inductive BeatOp where
  | vec (op : VOp) (ty : Ty)
  | sf (fn : SfFn) (ty : Ty)
  | scanLocal (op : ScanOp)
  | scanApply (op : ScanOp) (rescan : Bool) (va : Fin 8)
  | vld
  | vst
  deriving DecidableEq, Repr

/-- A vector source as captured: the value of a `v` register at the start of the firing cycle, or a queue (R165). -/
inductive BSrc where
  | const (v : VWord)
  | sq (q : Fin 4)
  deriving DecidableEq, Repr

/-- An N-beat instruction that holds the arbiter (R43, R164 to R167). `run` is the accumulating or running value,
`flags` the flags so far, `xs` the scalar operand, `wait` extra cycles of the current beat. -/
structure BeatRun where
  op : BeatOp
  slot : Nat
  ctx : Fin 4
  total : Nat
  done : Nat
  a : BSrc
  b : BSrc
  e : BSrc
  dst : VDst
  run : Option VWord
  base : VWord
  xs : Word
  p : PAct
  fcr : Word
  flags : BitVec 5
  wait : Nat
  deriving DecidableEq, Repr

/-- An SF request after its firing (R180): its buffer, the strip cycle from which it is in its quad's queue, the end
of its service, how many results are written and the first strip cycle that may see the next one. -/
structure SfJob where
  fn : SfFn
  ty : Ty
  ctx : Fin 4
  slot : Nat
  buf : List SEnt
  dst : VDst
  p : PAct
  fcr : Word
  joined : Option Nat
  stop : Option Nat
  written : Nat
  due : Nat
  flags : BitVec 5
  deriving DecidableEq, Repr

/-- A scalar access to private space (R246 to R250). -/
structure Access where
  store : Bool
  size : Nat
  signed : Bool
  addr : Nat
  data : Word
  dst : Dst
  p : PAct
  x : Bool
  ctx : Fin 4
  slot : Nat
  deriving DecidableEq, Repr

/-- What a fill serves when it completes (R248): a parked load, or a store's bytes; VLD and VST beats wait themselves. -/
inductive FillUse where
  | load (a : Access)
  | store (a : Access)
  | beat
  deriving DecidableEq, Repr

/-- A fill in progress (R65, R407): its line, what it serves, whether its request has reached the strip port, and the
strip cycle of its arrival once its burst is issued. -/
structure Fill where
  line : Nat
  uses : FillUse
  asked : Bool
  arrive : Option Nat
  deriving DecidableEq, Repr

/-- A line of the line cache, most recently used first in the list (R65). `bad` marks a line whose check failed and that
a VLD or VST beat waits for (R167). -/
structure Line where
  line : Nat
  data : BitVec 256
  dirty : Bool
  bad : Bool
  deriving DecidableEq, Repr

/-- A write-back on its way to the strip (R14, R65, R251), and whether its request has reached the strip port. -/
structure WriteBack where
  line : Nat
  data : BitVec 256
  asked : Bool
  deriving DecidableEq, Repr

/-- Who asks the strip port for a slice line (R14): the line cache, a stream generator or a copy engine. -/
inductive PortUser where
  | cache
  | gen (g : Fin 4)
  | copy (k : Fin 2)
  deriving DecidableEq, Repr

/-- A slice access of a stream generator or copy engine at the strip port (R14), and whether its merge window has closed. -/
structure PortReq where
  user : PortUser
  line : Nat
  write : Bool
  served : Bool
  deriving DecidableEq, Repr

/-- What holds the arbiter (R43, R251, R338). -/
inductive Hold where
  | none
  | stall (n : Nat)
  | beats (r : BeatRun)
  | slice (a : Access)
  | fenceL
  | slotLd (left : Nat) (slot : Nat) (ctx : Fin 4) (cue : Fin 63) (a : Src) (first n1 : Nat) (t : Nat) (p : PAct)
  deriving DecidableEq, Repr

/-- The tile sender (R264): ring, output queue, units sent, units of the tile, context and slot. -/
structure TSend where
  g : Fin 8
  q : Fin 8
  sent : Nat
  units : Nat
  ctx : Fin 4
  slot : Nat
  deriving DecidableEq, Repr

/-- A remote write (R255): target as a stage-relative cell number, the register counted from x8, the first cycle
of the sender in which it may be delivered, and, once it has left its send place for the mesh, where it stands there. -/
structure Put where
  src : Nat
  num : Nat
  ctx : Fin 4
  r : Fin 8
  value : Word
  early : Nat
  hop : Option Hop := none
  deriving DecidableEq, Repr

/-- A scan port of one group (R60, R202, R203): `agg` the aggregate place with round, operator, mark, FCR and context,
`pfx` the prefix buffer with marks, `ops` the operators of rounds whose prefix is not taken yet, `work` the combines under
way: round, quantity and the cell cycle of their start (R207). -/
structure ScanPort where
  member : Bool
  pos : Nat
  sub : Word
  rcv : Word
  dir : Bool
  epoch : Bool
  pmark : Bool
  agg : Option Word
  pfx : List (Word × VWord × Bool)
  ops : List (Word × ScanOp)
  work : List (Word × ScanQ × Nat)
  deriving DecidableEq, Repr

/-- A barrier port of a cell (R298, R300). -/
structure Bar where
  member : Bool
  arr : Bool
  done : Bool
  relw : Bool
  gen : BitVec 16
  deriving DecidableEq, Repr

/-- The target of a route (R50, R100): an input queue or a ring of a cell at an offset, or a host egress queue. -/
inductive RouteTo where
  | queue (q : Fin 8) (dx dy : Int)
  | ring (g : Fin 8) (dx dy : Int)
  | host (q : Nat)
  deriving DecidableEq, Repr

/-- A route: the two words of its ROUTE record and its target (R100, R334), with the ordinals of words and tiles sent
in the scene (R126). -/
structure Route where
  w0 : Word
  w1 : Word
  target : RouteTo
  items : Nat
  deriving DecidableEq, Repr

/-- One logical cell (R30, R67). `bad…` are the places that SECDED or a line check finds uncorrectable (R349 to R352), `live` that
the cell evaluates its cues (R285, R354), `mail6` and `mail7` words that wait for a full mailbox (R49), `oqResv` reserved entries
(R135, R248), `port` engine accesses at the strip port (R14), `oqAt`, `soAt` and `ringAt` what of the start of the cycle an engine
may still take (R45), `mxPark` that the matrix unit of a stopping cell waits for a restore (R191), `sramTook` the engines whose
64-byte blocks the SRAM ports moved in this cycle, `sramA` that its port A served the firing instruction, `sramLast` the engine
served last (R64), `newPend` the copies that joined the pending list in this cycle (R62), `flip…` the places where one bit is
wrong (R352), `nameWalk` the walks under way with the cycles of their ends (R255), `lastAct` the tick at which an instruction,
engine or request of the cell last made progress (R301). -/
structure CellState where
  stage : Nat
  cx : Nat
  cy : Nat
  live : Bool
  slots : Vector (Option Word) 128
  cues : Vector DWord 63
  ctxs : Vector Context 4
  iq : Vector (List QWord) 8
  oq : Vector (List QWord) 8
  oqResv : Vector Nat 8
  mail6 : List QWord
  mail7 : List (List QWord)
  rings : Vector Ring 8
  gens : Vector Gen 4
  sq : Vector (List SEnt) 4
  so : Vector (List SEnt) 4
  accs : Vector (Vector Word 256) 4
  accMark : Vector Bool 4
  readCnt : Vector Nat 4
  mxq : List MxCmd
  mxRun : Option MxRun
  mxStop : Bool
  mxPark : Bool
  sramTook : List Nat
  sramA : Bool
  sramLast : Nat
  cts : Vector Template 16
  copyPend : List Copy
  copyAct : Vector (Option Copy) 2
  scan : Vector ScanPort 8
  sram : Mem
  cache : List Line
  fills : List Fill
  wbs : List WriteBack
  hold : Hold
  div : Option DivJob
  sf : Option SfJob
  tsend : Option TSend
  putSend : List Put
  putHeld : List Put
  names : List Nat
  nameWalk : List (Nat × Nat)
  port : List PortReq
  oqAt : Vector Nat 8
  soAt : Vector Nat 4
  ringAt : Vector Nat 8
  newPend : Nat
  bars : Vector Bar 16
  routes : Vector (Option Route) 8
  feeds : BitVec 6
  sliceMiB : Nat
  trap : Option (Nat × Nat)
  suuord : Bool
  asyncRecs : List (Record × Nat)
  cyc : Nat
  idle : Word
  lastFired : Option (Nat × Nat)
  lastAct : Nat
  ecc : Nat
  flipSram : List Nat
  flipSlots : List Nat
  flipCues : List Nat
  badSram : List Nat
  badSlots : List Nat
  badCues : List Nat
  badLines : List Nat
  deriving DecidableEq, Repr

/-! ## Stages -/

/-- Placement states of a stage block (R370). -/
inductive StageStatus where
  | queued | placed | preempted | ended
  deriving DecidableEq, Repr

/-- A quantity of a scan round that has been formed at a port (R204 to R206): its value and mark, the strip cycle in
which it left its port, the direction and epoch of that port, whether its check holds and, if not, is reported (R351), and
whether a port discarded it (R316). -/
structure Carry where
  round : Word
  grp : Fin 8
  q : ScanQ
  val : VWord
  mark : Bool
  formed : Nat
  dir : Bool
  epoch : Bool
  good : Bool
  told : Bool := false
  stray : Bool := false
  deriving DecidableEq, Repr

/-- An aggregate submitted by a member (R205, R211): the value, mark and captured mode of a round, and the
cycle of its cell in which SC.AGG fired. -/
structure Agg where
  round : Word
  grp : Fin 8
  cell : Nat
  op : ScanOp
  val : VWord
  mark : Bool
  fcr : Word
  ctx : Fin 4
  dir : Bool
  epoch : Bool
  sent : Nat
  deriving DecidableEq, Repr

/-- A scene's scan group (R100, R201): its rectangle in the stage. -/
structure ScanGroup where
  x : Nat
  y : Nat
  w : Nat
  h : Nat
  deriving DecidableEq, Repr

/-- What one scene of a stage has done so far (R291, R301 to R303, R311): `reportAt` the tick of its last stall report. -/
structure SceneStat where
  flog : Nat
  ubc : Nat
  masked : Bool
  stalls : Nat
  wdog : Bool
  lastAct : Nat
  reportAt : Option Nat
  egressLost : List (Nat × Nat × Nat)
  portalLost : Nat
  deriving DecidableEq, Repr

/-- One stage from acceptance to its end (R285, R314, R370, R372). `mask` is the strip cycle from which the clock mask
runs (R311); `arr` the arrivals received by the barrier logic, by group and stage-relative cell; `root`
the frame of its first-level table; `saved` its cells while pre-empted, by
stage-relative number, with their slices; `stopping` that a stop order is out (R354), `ending` that the host's is
(R408), `recast` that a retirement's is (R357); `startAt` the start tick of R285; `regroup` the tick of an order to
move, `movedFor` the ordinal of the request that it makes room for (R287). -/
structure Stage where
  status : StageStatus
  stopping : Bool
  ending : Bool
  recast : Bool
  startAt : Nat
  unplaceable : Bool
  w : Nat
  h : Nat
  x0 : Nat
  y0 : Nat
  placedOnce : Bool
  job : Nat
  prio : Nat
  debug : Bool
  swd : Nat
  ubl : Nat
  qp : Nat
  qs : Nat
  wq : Nat
  cqn : Nat
  image : List Word
  scene : Nat
  installed : Bool
  upAt : Option Nat
  arrived : Nat
  aged : Bool
  ordinal : Nat
  regroup : Option Nat
  movedFor : Option Nat
  reloc : Bool
  smax : Nat
  nsc : Nat
  stat : SceneStat
  mask : Option Nat
  arr : List (Fin 16 × Nat)
  groups : Vector (Option ScanGroup) 8
  aggs : List Agg
  carries : List Carry
  markers : List Nat
  elog : List (Word × Word × Word × Word)
  elogOvf : Nat
  flog : List (List Word)
  flogOvf : Nat
  stallLog : List (List Word)
  root : Option Nat
  egress : List Nat
  channels : List Nat
  portals : List (Nat × Nat)
  saved : AMap (CellState × Mem)
  heldWakes : List (Nat × Fin 4 × Nat)
  deriving DecidableEq, Repr

/-! ## The module -/

/-- Where a packet of the DATA class goes (R21, R50): an input queue or ring of a cell, that of a portal among them (R317), or a
host egress queue. -/
inductive PktTo where
  | queue (cell : Nat) (q : Fin 8)
  | ring (cell : Nat) (g : Fin 8)
  | egress (q : Nat)
  deriving DecidableEq, Repr

/-- A packet's payload: a channel word, or a 64-byte unit of a tile with its mark. -/
inductive PktData where
  | word (w : QWord)
  | unit (d : VWord) (x : Bool)
  deriving DecidableEq, Repr

/-- A packet on the mesh: its stage, sender and output queue, target, payload, its place, the module-logical position at which it
leaves the mesh, its ordinal on its route (R126) and whether its end-to-end check holds (R20, R351). -/
structure Packet where
  stage : Nat
  src : Nat
  oq : Fin 8
  target : PktTo
  data : PktData
  hop : Hop
  goal : Nat
  item : Nat
  good : Bool
  deriving DecidableEq, Repr

/-- What an item of the CTRL class is (R21, R23, R281, R298): a drain marker of a context, an arrival at a barrier group, the
completion of one of its generations, a drain token. -/
inductive CtrlWhat where
  | mark (k : Fin 4) (num : Nat)
  | arrive (g : Fin 16)
  | complete (g : Fin 16)
  | token
  deriving DecidableEq, Repr

/-- An item of the CTRL class: its stage, its endpoints (a cell, or the director's number), whether a drain-and-swap holds it at
its source (R23), and its place on the mesh. -/
structure CtrlItem where
  stage : Nat
  src : Nat
  dest : Nat
  what : CtrlWhat
  held : Bool
  hop : Hop
  deriving DecidableEq, Repr

/-- A merge window of a strip port (R14): half strip, line index, direction, opening strip cycle, and who joined: cell,
position, user, and the data of a write-back. -/
structure Merge where
  half : Nat
  line : Nat
  write : Bool
  opened : Nat
  who : List (Nat × Nat × PortUser × BitVec 256)
  deriving DecidableEq, Repr

/-- The casting table (R17, R331): GEN, the dead field of each field row, dead positions (row, column, retired) and
vacant rows (R358); `back` the reinstated positions, row and column (R360). -/
structure Casting where
  gen : Nat
  deadFields : List (Nat × Nat)
  dead : List (Nat × Nat × Bool)
  vacant : List Nat
  back : List (Nat × Nat)
  deriving DecidableEq, Repr

/-- An entry of a translation cache (R324): its stage, its virtual page and the entry, at either page size, and the DRAM
places that the walk read. -/
structure TlbEntry where
  field : Nat
  stage : Nat
  guest : Option Nat
  huge : Bool
  page : Nat
  entry : DWord
  path : List Nat
  deriving DecidableEq, Repr

/-- An ingress channel (R319, R366): binding (stage, cell, queue, portal), tokens with the port that carried each and
the ordinal of that port's write, and the discard count. -/
structure Channel where
  bound : Option (Nat × Nat × Fin 8)
  portal : Bool
  tokens : List (QWord × Fin 8 × Nat)
  discards : Nat
  deriving DecidableEq, Repr

/-- An egress queue (R367, R370): descriptor fields, entries written and the binding. -/
structure Egress where
  base : DWord
  log2n : Nat
  port : Fin 8
  cq : Bool
  ien : Bool
  vec : Nat
  lost : Nat
  head : Nat
  count : Nat
  bound : Option Nat
  deriving DecidableEq, Repr

/-- The registers of the signed-object mailbox and what the module holds for it (R329 to R332, R380): the sequence
numbers last accepted by type, the owner key, the measurement log, the table in force with its envelope, the firmware images
accepted since shipment (false the director's, true the stage managers'), the reason codes of reinstatements by position. -/
structure Mailbox where
  ilen : Nat
  istat : Nat
  ireason : Nat
  ostat : Nat
  olen : Nat
  nonce : BitVec 256
  inbox : Mem
  outbox : List Byte
  seqs : List (Nat × Nat)
  owner : List Byte
  log : List (Nat × Nat × BitVec 512)
  table : List Byte
  images : List (Bool × List Byte)
  reasons : List (Nat × Nat × Nat)
  deriving DecidableEq, Repr

/-- An edge port (R361, R363, R374): trained with its peer, dark in a reshape, declared down, or in retry since a
strip cycle; `was` is that it was down when the dark interval began (R379). -/
structure EdgePort where
  trained : Bool
  dark : Bool
  down : Bool
  retry : Option Nat
  was : Bool := false
  deriving DecidableEq, Repr

/-- What the engine of a collective does in wafer space (R376): it looks at START, takes EXPECT from it, reads a half of SRC,
stores DST, adds to DONE. -/
inductive CollOp where
  | poll
  | take
  | src (high : Bool)
  | dst
  | done
  deriving DecidableEq, Repr

/-- How far a round of a collective is (R376): none, EXPECT to be taken, halves of SRC to be read, a contribution to be sent, the
result awaited, DST to be stored, DONE to be added to. -/
inductive CollPhase where
  | idle | take | srcLow | srcHigh | give | wait | dst | done
  deriving DecidableEq, Repr

/-- A collective descriptor (R376, R377): words 0 to 9 as written, rounds, ABORT, REFUSED; a write of V = 0 that
waits, the phase of the round, its data, whether it goes well and whether a participant was lost, the other modules that take
part, the requests out at other modules by number, and how many rounds between this module and each participant are over. -/
structure Coll where
  v : Bool
  fn : Nat
  stage : Nat
  expect : Nat
  src : DWord
  dst : DWord
  start : DWord
  doneA : DWord
  rounds : Nat
  abort : Bool
  refused : Bool
  closing : Bool
  phase : CollPhase
  data : VWord
  ok : Bool
  lost : Bool
  members : List Nat
  out : List (Nat × CollOp)
  ended : AMap Nat
  deriving DecidableEq, Repr

/-- A contribution that the lowest participant holds (R376): of which module and collective, the job of the stage, the function, the
round by how many were over before, the data. -/
structure Part where
  src : Nat
  coll : Fin 64
  job : Nat
  fn : Nat
  turn : Nat
  data : VWord
  deriving DecidableEq, Repr

/-- The reshape order (R403): state, written words by index, and the strip cycle of its GO and dark interval. -/
structure Reshape where
  state : Nat
  words : AMap Word
  goAt : Nat
  darkAt : Nat
  deriving DecidableEq, Repr

/-- A message from or to a peer module (R28, R243, R374, R376): a request and its issuing stage, an answer, a wake, the end of a
watch by its timeout, a collective's participant, contribution or result, of the round behind `turn` others; a request of module `src`
for module `dst` that this one relays, and the answer to such a request (R361); the modules that a neighbour reaches no more. -/
inductive EdgeMsg where
  | request (peer id : Nat) (r : Req)
  | answer (peer id : Nat) (res : AckRes)
  | wake (peer id : Nat) (code : Nat)
  | cancel (peer id : Nat)
  | member (peer : Nat) (k : Fin 64) (on : Bool)
  | contribute (peer : Nat) (k : Fin 64) (job fn turn : Nat) (d : VWord)
  | result (peer : Nat) (k : Fin 64) (turn : Nat) (ok lost : Bool) (d : VWord)
  | transit (src dst id : Nat) (r : Req)
  | transitBack (src id : Nat) (res : AckRes)
  | unreached (peer : Nat) (l : List Nat)
  deriving DecidableEq, Repr

/-- A posted write on a link (R237): its port, bytes and data, or the interrupt behind an entry, and the strip cycle in which it
reaches the host. `wait` is that it reaches the host behind every posted write before it, whatever their ports (R241). -/
structure Posted where
  port : Fin 8
  addr : Nat
  size : Nat
  data : Nat
  vec : Option Nat
  due : Nat
  wait : Bool := false
  deriving DecidableEq, Repr

/-- A refused part of a host access: stage, class, code, address of its first word, number of words. -/
structure Refused where
  stage : Nat
  cls : Nat
  code : Nat
  addr : DWord
  count : Nat
  deriving DecidableEq, Repr

/-- A host access through BAR4 that is under way (R236, R239): its port and offset, the words of a write or those read so far,
the indices of the words that are left, the parts refused, and its ordinal among what the hosts send. -/
structure HostWork where
  port : Fin 8
  off : Nat
  write : Bool
  data : List Word
  left : List Nat
  refused : List Refused
  no : Nat
  deriving DecidableEq, Repr

/-- The side of the module that hosts reach (R364 to R373, R380, R382). -/
structure HostSide where
  modState : Nat
  serial : Nat
  modNum : Nat
  inDom : Bool
  pcap : Nat
  cecc : Nat
  aper : AMap DWord
  egress : AMap Egress
  wins : AMap DWord
  winPort : AMap Nat
  chans : AMap Channel
  heldCe : List (Nat × List Word)
  pcieUp : Vector Bool 8
  hostMem : Mem
  work : List HostWork
  badPayload : Vector Bool 8
  posted : List Posted
  postNo : Nat
  msix : List (Fin 8 × Nat)
  hostReads : List (Fin 8 × List Word)
  mapDone : List Nat
  launchArea : Mem
  launchStat : Word
  heldLaunch : List Nat
  nextOrdinal : Nat
  tokenNo : Nat
  release : AMap Word
  releases : List (Nat × Nat × Fin 4 × Word)
  mbox : Mailbox
  deriving DecidableEq, Repr

/-- The optical edge (R374 to R377, R403). `peers` is the table in force, `next` the neighbours that a reshape order gave
for each module, none while the director's own routes of the formation hold, `via` the port that each request
in flight left by, under its number, `relays` the requests relayed for other modules: module, number, port, and the strip cycle at
which the port's allowance is back, `cut` each neighbour with a module that it reaches no more (log 37), `waiting` messages whose port
takes no traffic now (R361). -/
structure EdgeSide where
  domPorts : Vector Word 128
  domNum : Nat
  domResult : Nat
  peers : Vector Word 128
  ports : Vector EdgePort 128
  next : Option (AMap Nat)
  via : AMap Nat
  colls : Vector Coll 64
  parts : List Part
  reshape : Reshape
  relays : List (Nat × Nat × Nat × Nat)
  cut : List (Nat × Nat)
  inbox : List EdgeMsg
  outbox : List EdgeMsg
  waiting : List EdgeMsg
  ids : Nat
  deriving DecidableEq, Repr

/-- An entry of a router's CTRL table: the direction in which an item for a destination leaves, none where the entry is missing
(R21). -/
structure CtrlEntry where
  router : Nat
  dest : Nat
  next : Option Dir
  deriving DecidableEq, Repr

/-- One bank of CTRL tables for the destinations of one stage or row: the rectangle of its cells, for which, and for the director,
every router holds the entry of the straight route (log 72), and the entries that differ from it. -/
structure CtrlBank where
  x0 : Nat
  y0 : Nat
  w : Nat
  h : Nat
  other : List CtrlEntry
  deriving DecidableEq, Repr

def CtrlBank.blank : CtrlBank := ⟨0, 0, 0, 0, []⟩

/-- The CTRL tables of the routers for one set of destinations (R21, R23): two banks, the one in use, whether a
drain-and-swap is under way, the pairs of endpoints between which items were sent since the last one, and those whose drain
token has not arrived. -/
structure CtrlTables where
  banks : Vector CtrlBank 2
  use : Fin 2
  pending : Bool
  sent : List (Nat × Nat)
  tokens : List (Nat × Nat)
  deriving DecidableEq, Repr

def CtrlTables.blank : CtrlTables :=
  { banks := Vector.replicate 2 CtrlBank.blank, use := 0, pending := false, sent := [], tokens := [] }

/-- A change of a mapping that is not complete (R325): its number, and the frames that the old entry gave. -/
structure MapJob where
  no : Nat
  frames : List Nat
  deriving DecidableEq, Repr

/-- Which instruction fires: the cell, the slot and the context that its cue selected (R41, R42; the model's own). -/
structure Focus where
  cell : Nat
  slot : Nat
  ctx : Fin 4
  deriving DecidableEq, Repr

/-- The whole module. `items` are what is on CTRL (R21), `links` the flits that a link of a router has carried in this strip cycle
(R20, R296). `tlb` of field 64 is the edge's; `guests` gives the root frame for module * 4096 + stage (R320); `retiring`
positions, row and column, that wait for their recast (R357); `frames` the job for which each frame of the pool is allocated, `dirty`
the job that gave a free one up and left its bytes in it (R15, R315); `silent` the miss count of each polled position and whether its poll
is a clear one, `slow` whether its clock is stretched and whether a throttle record tells of it, `flags` whether it was slowed
since its last answer and what flag that answer carried, `polled` the tick of its last poll, each by row * 384 + column (R304). `clocks` the neighbour whose clock a
position runs from, where its own oscillator failed (R25). `served` counts service in the epoch of 256 strip cycles, by unit,
class and stage (R328), `rr` the input port that each arbiter granted last (R22), `maps` changes of mappings under way (R325). -/
structure State where
  agenda : List Instr
  turn : Nat
  focus : Focus
  strip : Nat
  cells : AMap CellState
  firn : Mem
  badFirn : List Nat
  pl : AMap Nat
  casting : Casting
  merges : List Merge
  packets : List Packet
  reqs : List Req
  acks : List Ack
  watches : List Watch
  items : List CtrlItem
  links : AMap Nat
  tlb : List TlbEntry
  guests : AMap Nat
  stages : AMap Stage
  frames : AMap Nat
  dirty : AMap Nat
  fl : Vector Nat 64
  duty : Nat
  ctrl : AMap CtrlTables
  retiring : List (Nat × Nat)
  silent : AMap (Nat × Bool)
  slow : AMap (Bool × Bool)
  flags : AMap (Bool × Bool)
  polled : AMap Nat
  clocks : AMap Dir
  router : List Record
  served : AMap Nat
  rr : AMap Nat
  maps : List MapJob
  mapNo : Nat
  host : HostSide
  edge : EdgeSide
  deriving DecidableEq, Repr

/-! ## How a step stops -/

/-- Faults that end a run. Faults of the spec are no stops: they are taken as records and parks (R340 to R346). -/
inductive Fault where
  /-- Raised when a translation entry, a frame number or a casting position names DRAM that the wafer does not have
  (R322 gives frames 0 to 786,431 only). Safe: the machine stops where the spec says no such place exists. -/
  | noSuchFrame
  deriving DecidableEq, Repr

/-- Refusals. -/
inductive Refusal where
  /-- Raised by an arm of the dispatcher whose instruction has no meaning yet. Safe: the machine stops. -/
  | notModelled (mnemonic : String)
  deriving DecidableEq, Repr

/-! ## Values at install and reset -/

/-- A context at scene install where the image gives nothing (R36). -/
def Context.blank : Context :=
  { x := Vector.replicate 16 0, pres := 0, p := 0, v := Vector.replicate 8 0, w := Vector.replicate 4 0, fcr := 0
    status := .running, wake := false, granted := false, uack := 0, station := none, acq := false, resv := 0, was := 0
    watch := none, watchOut := false, watchId := none, watchNo := 0, record := none, beside := [], release := none, respFaults := 0, parkDeq := []
    parkCue := none, fired := 0, undeclared := 0, timeLatch := 0, cycLatch := 0, phase := none, withdrawn := false }

def Ring.blank : Ring :=
  { base := 0, tsz := 0, depth := 0, prod := 0, pidx := 0, head := 0, tail := 0, count := 0, part := 0
    drain := 0, acc := false, bytes := 0, buf := [], marks := [], told := [] }

def SgLevel.blank : SgLevel := { stride := 0, cntm1 := 0, idx := 0 }

def Gen.blank : Gen :=
  { base := 0, dir := false, active := false, done := false, fault := false, rgen := false, rg := 0
    lv := Vector.replicate 4 SgLevel.blank, ctx := 0, slot := 0, start := 0 }

def Template.blank : Template :=
  { pa := 0, wa := 0, len := 0, put := false, ctx := 0, notify := false, pinit := 0, s0 := none, s1 := none
    s0f := 0, s1f := 0, count := 0, armed := false, pending := false, active := false }

def ScanPort.blank : ScanPort :=
  { member := false, pos := 0, sub := 0, rcv := 0, dir := false, epoch := false, pmark := false, agg := none
    pfx := [], ops := [], work := [] }

def Bar.blank : Bar := { member := false, arr := false, done := false, relw := false, gen := 0 }

/-- A cell of stage `st` at (x, y) with an empty scene (R36, R37, R66, R67). -/
def CellState.blank (st x y : Nat) : CellState :=
  { stage := st, cx := x, cy := y, live := false, slots := Vector.replicate 128 none, cues := Vector.replicate 63 0
    ctxs := Vector.replicate 4 Context.blank, iq := Vector.replicate 8 [], oq := Vector.replicate 8 []
    oqResv := Vector.replicate 8 0, mail6 := [], mail7 := [], rings := Vector.replicate 8 Ring.blank
    gens := Vector.replicate 4 Gen.blank, sq := Vector.replicate 4 [], so := Vector.replicate 4 []
    accs := Vector.replicate 4 (Vector.replicate 256 0), accMark := Vector.replicate 4 false
    readCnt := Vector.replicate 4 0, mxq := [], mxRun := none, mxStop := false, mxPark := false, sramTook := [], sramA := false, sramLast := 4
    cts := Vector.replicate 16 Template.blank, copyPend := [], copyAct := Vector.replicate 2 none
    scan := Vector.replicate 8 ScanPort.blank, sram := [], cache := [], fills := [], wbs := [], hold := .none
    div := none, sf := none, tsend := none, putSend := [], putHeld := [], names := [], nameWalk := [], port := []
    oqAt := Vector.replicate 8 0, soAt := Vector.replicate 4 0, ringAt := Vector.replicate 8 0, newPend := 0
    bars := Vector.replicate 16 Bar.blank, routes := Vector.replicate 8 none, feeds := 0, sliceMiB := 1, trap := none
    suuord := false, asyncRecs := [], cyc := 0, idle := 0, lastFired := none, lastAct := 0
    ecc := 0, flipSram := [], flipSlots := [], flipCues := [], badSram := [], badSlots := [], badCues := [], badLines := [] }

def Mailbox.reset : Mailbox :=
  { ilen := 0, istat := 0, ireason := 0, ostat := 0, olen := 0, nonce := 0, inbox := [], outbox := [], seqs := []
    owner := [], log := [], table := [], images := [], reasons := [] }

/-- The host side after module reset: registers as R371 gives them, nothing bound, links up (log 6). -/
def HostSide.reset : HostSide :=
  { modState := 0, serial := 0, modNum := 0, inDom := false, pcap := 300, cecc := 0, aper := [], egress := [], wins := []
    winPort := [], chans := [], heldCe := [], pcieUp := Vector.replicate 8 true, hostMem := [], work := [], badPayload := Vector.replicate 8 false, posted := [], postNo := 0, msix := []
    hostReads := [], mapDone := [], launchArea := [], launchStat := 0, heldLaunch := [], nextOrdinal := 0, tokenNo := 0, release := []
    releases := []
    mbox := Mailbox.reset }

def Coll.blank : Coll :=
  { v := false, fn := 0, stage := 0, expect := 0, src := 0, dst := 0, start := 0, doneA := 0, rounds := 0
    abort := false, refused := false, closing := false, phase := .idle, data := 0, ok := true, lost := false
    members := [], out := [], ended := [] }

/-- The edge after module reset: every port unused (R375) and untrained. -/
def EdgeSide.reset : EdgeSide :=
  { domPorts := Vector.replicate 128 0x8000, domNum := 0, domResult := 0, peers := Vector.replicate 128 0x8000
    ports := Vector.replicate 128 { trained := false, dark := false, down := false, retry := none }, next := none, via := []
    colls := Vector.replicate 64 Coll.blank, parts := [], reshape := { state := 0, words := [], goAt := 0, darkAt := 0 }
    relays := [], cut := [], inbox := [], outbox := [], waiting := [], ids := 0 }

/-- An egress descriptor after module reset (R367). -/
def Egress.blank : Egress :=
  { base := 0, log2n := 0, port := 0, cq := false, ien := false, vec := 0, lost := 0, head := 0, count := 0
    bound := none }

def Channel.blank : Channel := { bound := none, portal := false, tokens := [], discards := 0 }

/-- The module at power-good, before boot (R371, R375, R378): no stage, no cell, FL 46,080 (R306), D 24 (R311). The
fields `agenda` to `focus` are the model's own (log 1, 2); memories list nothing (log 3). -/
def State.reset : State :=
  { agenda := [], turn := 0, focus := ⟨0, 0, 0⟩, strip := 0, cells := [], firn := [], badFirn := []
    pl := [], casting := { gen := 0, deadFields := [], dead := [], vacant := [], back := [] }, merges := [], packets := []
    reqs := [], acks := [], watches := [], items := [], links := [], tlb := [], guests := [], stages := [], frames := [], dirty := []
    fl := Vector.replicate 64 46080, duty := 24, ctrl := [], retiring := [], silent := [], slow := [], flags := [], polled := [], clocks := [], router := [], served := [], rr := [], maps := [], mapNo := 0
    host := HostSide.reset, edge := EdgeSide.reset }

end Sys2Proof.Machine
end

