-- ==== Sys2Proof/Machine/Float.lean ====
section
/-! DEFINITION. Float.lean: the number formats, Round, exact sums, minimum, maximum, comparison and conversion of
spec 04 (R102 to R117). A finite value is a sign, a natural number and a power of two; every operation forms its
exact value so and rounds once. -/

namespace Sys2Proof.Machine

/-- The floating-point formats of R102. -/
inductive Fmt where
  | f32 | bf16 | f16 | e4m3 | e5m2
  deriving DecidableEq, Repr

def Fmt.frac (f : Fmt) : Nat :=
  match f with
  | .f32 => 23 | .bf16 => 7 | .f16 => 10 | .e4m3 => 3 | .e5m2 => 2

def Fmt.expo (f : Fmt) : Nat :=
  match f with
  | .f32 => 8 | .bf16 => 8 | .f16 => 5 | .e4m3 => 4 | .e5m2 => 5

def Fmt.bias (f : Fmt) : Nat :=
  match f with
  | .f32 => 127 | .bf16 => 127 | .f16 => 15 | .e4m3 => 7 | .e5m2 => 15

/-- Width without the sign. -/
def Fmt.mag (f : Fmt) : Nat := f.frac + f.expo

/-- The magnitude of the largest finite encoding (R102). -/
def Fmt.maxMag (f : Fmt) : Nat :=
  match f with
  | .f32 => 0x7F7FFFFF | .bf16 => 0x7F7F | .f16 => 0x7BFF | .e4m3 => 0x7E | .e5m2 => 0x7B

/-- The magnitude of infinity; e4m3 has none. -/
def Fmt.infMag (f : Fmt) : Nat := f.maxMag + 1

/-- The default NaN of a format (R105). -/
def Fmt.nan (f : Fmt) : Nat :=
  match f with
  | .f32 => 0x7FC00000 | .bf16 => 0x7FC0 | .f16 => 0x7E00 | .e4m3 => 0x7F | .e5m2 => 0x7E

/-- What an encoding stands for. A finite value is `m * 2 ^ e`, negative if `neg`. -/
inductive Fval where
  | nan (signalling : Bool)
  | inf (neg : Bool)
  | fin (neg : Bool) (m : Nat) (e : Int)
  deriving DecidableEq, Repr

/-- The sticky flags NX, UF, OF, DZ, NV in the bit order of the FCR (R35). -/
abbrev Flags := BitVec 5

def flNX : Flags := 1
def flUF : Flags := 2
def flOF : Flags := 4
def flDZ : Flags := 8
def flNV : Flags := 16
/-- Whether NV, DZ, OF or UF is raised, which sets an exception mark (R124, R129). -/
def Flags.marks (f : Flags) : Bool := decide (f &&& 0x1E ≠ 0)

def flIf (b : Bool) (f : Flags) : Flags := if b then f else 0

/-- The captured controls of one unit (R112): rounding mode, output flush, input flush, SATF8. -/
structure Mode where
  rm : Nat
  ftz : Bool
  daz : Bool
  sat : Bool
  deriving DecidableEq, Repr

/-- Round to nearest even without flushes, the mode of products, scaling and reductions at homes (R119, R276). -/
def Mode.rne : Mode := ⟨0, false, false, false⟩

def signBit (f : Fmt) (n : Nat) : Bool := n / 2 ^ f.mag % 2 == 1
def magBits (f : Fmt) (n : Nat) : Nat := n % 2 ^ f.mag
/-- An encoding from its sign and magnitude. -/
def withSign (f : Fmt) (neg : Bool) (mag : Nat) : Nat := (if neg then 2 ^ f.mag else 0) + mag

/-- The value of an encoding (R102, R103, R105). -/
def Fval.of (f : Fmt) (n : Nat) : Fval :=
  let s := signBit f n
  let e := n / 2 ^ f.frac % 2 ^ f.expo
  let fr := n % 2 ^ f.frac
  if f.maxMag < magBits f n then
    (if f ≠ .e4m3 ∧ fr = 0 then .inf s
     else .nan (decide (f ≠ .e4m3 ∧ f ≠ .e5m2 ∧ fr < 2 ^ (f.frac - 1))))
  else if e = 0 then .fin s fr (1 - f.bias - f.frac)
  else .fin s (2 ^ f.frac + fr) (e - f.bias - f.frac)

/-- An input after the input flush (R110): a subnormal becomes a zero of its sign. -/
def dazIn (f : Fmt) (daz : Bool) (n : Nat) : Nat :=
  if daz && decide (n / 2 ^ f.frac % 2 ^ f.expo = 0) then withSign f (signBit f n) 0 else n

/-- An integer from `n / 2` with the half bit `n mod 2` and the rest `sticky` (RoundInt of R108). -/
def roundHalf (rm : Nat) (neg : Bool) (n : Nat) (sticky : Bool) : Nat :=
  let w := n / 2
  let half := decide (n % 2 = 1)
  let up :=
    if rm = 0 then half && (sticky || decide (w % 2 = 1))
    else if rm = 1 then false
    else if rm = 2 then !neg && (half || sticky)
    else neg && (half || sticky)
  if up then w + 1 else w

/-- `m * 2 ^ e` in halves of 2 ^ q: the floor of its quotient by 2 ^ (q - 1), and whether something is left. -/
def halves (m : Nat) (e q : Int) : Nat × Bool :=
  if q - 1 ≤ e then (m * 2 ^ (e - (q - 1)).toNat, false)
  else (m / 2 ^ (q - 1 - e).toNat, decide (m % 2 ^ (q - 1 - e).toNat ≠ 0))

/-- Overflow (R109): the encoding that replaces a too large magnitude. -/
def overflow (f : Fmt) (md : Mode) (neg : Bool) : Nat :=
  if f = .e4m3 ∨ f = .e5m2 ∧ md.sat = false then withSign f neg f.maxMag
  else if md.rm = 0 ∨ md.rm = 2 ∧ neg = false ∨ md.rm = 3 ∧ neg = true then withSign f neg f.infMag
  else withSign f neg f.maxMag

/-- Round (R108) of the exact non-zero magnitude `m * 2 ^ e`, or of a value just above it where `more` holds (an
irrational value cut to its leading bits). -/
def roundMag (f : Fmt) (md : Mode) (neg : Bool) (m : Nat) (e : Int) (more : Bool) : Nat × Flags :=
  let lg : Int := Nat.log2 m + e
  let q : Int := max lg (1 - f.bias) - f.frac
  let (n, st) := halves m e q
  let w := roundHalf md.rm neg n (st || more)
  let nx := st || more || decide (n % 2 = 1)
  let qu : Int := lg - f.frac
  let (nu, su) := halves m e qu
  let u := roundHalf md.rm neg nu (su || more)
  let tiny := decide (lg < 1 - f.bias) && decide (u < 2 ^ (1 - f.bias - qu).toNat)
  let code := (q + f.frac + f.bias).toNat * 2 ^ f.frac + w - 2 ^ f.frac
  let fl := flIf nx flNX ||| flIf (tiny && nx) flUF
  if f.maxMag < code then (overflow f md neg, fl ||| flOF ||| flNX)
  else if md.ftz && decide (code < 2 ^ f.frac) && decide (code ≠ 0) then (withSign f neg 0, fl ||| flUF ||| flNX)
  else (withSign f neg code, fl)

/-- An exact signed value as an integer times a power of two. -/
structure Dy where
  n : Int
  e : Int
  deriving DecidableEq, Repr

def Dy.add (a b : Dy) : Dy :=
  if a.e ≤ b.e then ⟨a.n + b.n * 2 ^ (b.e - a.e).toNat, a.e⟩ else ⟨a.n * 2 ^ (a.e - b.e).toNat + b.n, b.e⟩

/-- The exact product of two values, and whether it is 0 times infinity (R105). The sign of a zero product is the
exclusive or (R106). -/
def Fval.mul (a b : Fval) : Fval × Bool :=
  match a, b with
  | .nan s, .nan t => (.nan (s || t), false)
  | .nan s, _ => (.nan s, false)
  | _, .nan t => (.nan t, false)
  | .inf s, .inf t => (.inf (s != t), false)
  | .inf s, .fin t m _ => if m = 0 then (.nan false, true) else (.inf (s != t), false)
  | .fin t m _, .inf s => if m = 0 then (.nan false, true) else (.inf (s != t), false)
  | .fin s m d, .fin t n e => (.fin (s != t) (m * n) (d + e), false)

def Fval.neg (a : Fval) : Fval :=
  match a with
  | .nan s => .nan s
  | .inf s => .inf (!s)
  | .fin s m e => .fin (!s) m e

/-- What a sum has met so far: invalid, a NaN, infinities of either sign, whether every term was −0 and whether every
term was +0, and the exact sum of the finite terms. -/
structure Sum where
  bad : Bool
  nan : Bool
  pinf : Bool
  ninf : Bool
  allM : Bool
  allP : Bool
  v : Dy
  deriving DecidableEq, Repr

def Sum.zero : Sum := ⟨false, false, false, false, true, true, ⟨0, 0⟩⟩

/-- Add one term, itself perhaps an invalid product. -/
def Sum.add (s : Sum) (t : Fval × Bool) : Sum :=
  match t.1 with
  | .nan sg => { s with bad := s.bad || t.2 || sg, nan := true }
  | .inf false => { s with pinf := true, allM := false, allP := false }
  | .inf true => { s with ninf := true, allM := false, allP := false }
  | .fin ng m e =>
    { s with
      allM := s.allM && ng && decide (m = 0), allP := s.allP && !ng && decide (m = 0)
      v := if m = 0 then s.v else if s.v.n = 0 then ⟨if ng then -(m : Int) else m, e⟩
           else s.v.add ⟨if ng then -(m : Int) else m, e⟩ }

/-- The sign of an exact zero sum (R106). -/
def Sum.zeroNeg (s : Sum) (md : Mode) : Bool := s.allM || decide (md.rm = 3) && !s.allP

/-- One rounding of a sum (R105, R106, R108, R117). -/
def Sum.round (f : Fmt) (md : Mode) (s : Sum) : Nat × Flags :=
  if s.nan || s.pinf && s.ninf then (f.nan, flIf (s.bad || s.pinf && s.ninf) flNV)
  else if s.pinf then (withSign f false f.infMag, 0)
  else if s.ninf then (withSign f true f.infMag, 0)
  else if s.v.n = 0 then (withSign f (s.zeroNeg md) 0, 0)
  else roundMag f md (decide (s.v.n < 0)) s.v.n.natAbs s.v.e false

/-- An operand after its input flush. -/
def inVal (f : Fmt) (md : Mode) (n : Nat) : Fval := Fval.of f (dazIn f md.daz n)

def fAdd (f : Fmt) (md : Mode) (a b : Nat) : Nat × Flags :=
  ((Sum.zero.add (inVal f md a, false)).add (inVal f md b, false)).round f md

def fSub (f : Fmt) (md : Mode) (a b : Nat) : Nat × Flags :=
  ((Sum.zero.add (inVal f md a, false)).add ((inVal f md b).neg, false)).round f md

def fMul (f : Fmt) (md : Mode) (a b : Nat) : Nat × Flags :=
  (Sum.zero.add ((inVal f md a).mul (inVal f md b))).round f md

/-- `a * b + d` with one rounding (R117). -/
def fFma (f : Fmt) (md : Mode) (a b d : Nat) : Nat × Flags :=
  ((Sum.zero.add ((inVal f md a).mul (inVal f md b))).add (inVal f md d, false)).round f md

/-- `d - a * b` with one rounding (R140). -/
def fNms (f : Fmt) (md : Mode) (a b d : Nat) : Nat × Flags :=
  let t := (inVal f md a).mul (inVal f md b)
  ((Sum.zero.add (t.1.neg, t.2)).add (inVal f md d, false)).round f md

/-- The order of R107 for minimum and maximum, with −0 below +0. -/
def ordKey (f : Fmt) (n : Nat) : Int := if signBit f n then -(magBits f n : Int) - 1 else magBits f n

/-- The order of R107 for comparison, with equal zeros. -/
def cmpKey (f : Fmt) (n : Nat) : Int := if signBit f n then -(magBits f n : Int) else magBits f n

def isNan (f : Fmt) (n : Nat) : Bool :=
  match Fval.of f n with
  | .nan _ => true
  | _ => false

def isSNan (f : Fmt) (n : Nat) : Bool :=
  match Fval.of f n with
  | .nan s => s
  | _ => false

/-- Minimum or maximum by R107 of operands already flushed. -/
def fPick (f : Fmt) (max : Bool) (a b : Nat) : Nat × Flags :=
  let fl := flIf (isSNan f a || isSNan f b) flNV
  if isNan f a && isNan f b then (f.nan, fl)
  else if isNan f a then (b, fl)
  else if isNan f b then (a, fl)
  else if decide (ordKey f a < ordKey f b) != max then (a, fl) else (b, fl)

def fMin (f : Fmt) (md : Mode) (a b : Nat) : Nat × Flags := fPick f false (dazIn f md.daz a) (dazIn f md.daz b)
def fMax (f : Fmt) (md : Mode) (a b : Nat) : Nat × Flags := fPick f true (dazIn f md.daz a) (dazIn f md.daz b)

/-- The comparisons of R107: equality is quiet, the others signal for any NaN. -/
inductive CmpKind where
  | eq | lt | le
  deriving DecidableEq, Repr

def fCmp (f : Fmt) (md : Mode) (k : CmpKind) (a b : Nat) : Bool × Flags :=
  let a := dazIn f md.daz a
  let b := dazIn f md.daz b
  if isNan f a || isNan f b then (false, flIf (decide (k ≠ .eq) || isSNan f a || isSNan f b) flNV)
  else
    let x := cmpKey f a
    let y := cmpKey f b
    (match k with
     | .eq => decide (x = y)
     | .lt => decide (x < y)
     | .le => decide (x ≤ y), 0)

/-- Conversion between formats (R114). -/
def fCvt (src dst : Fmt) (md : Mode) (n : Nat) : Nat × Flags :=
  match inVal src md n with
  | .nan s => (dst.nan, flIf s flNV)
  | .inf s =>
    if dst = .e4m3 ∨ dst = .e5m2 ∧ md.sat = false then (withSign dst s dst.maxMag, flOF ||| flNX)
    else (withSign dst s dst.infMag, 0)
  | .fin s m e => if m = 0 then (withSign dst s 0, 0) else roundMag dst md s m e false

/-- The same as a conversion instruction: where the destination is wider the rules disagree on the output flush, which is then left open
(R114, R147; log 11). -/
def fCvtTo (src dst : Fmt) (md : Mode) (n : Nat) : Nat × Flags :=
  fCvt src dst { md with ftz := md.ftz && (decide (dst.mag ≤ src.mag) || Config.wideningFlush) } n

/-- An integral value: the magnitude of `m * 2 ^ e` rounded to an integer, and whether that changed it. -/
def roundInt (rm : Nat) (neg : Bool) (m : Nat) (e : Int) : Nat × Bool :=
  let (n, st) := halves m e 0
  (roundHalf rm neg n st, st || decide (n % 2 = 1))

/-- Conversion to an integer of the range `[lo, hi]`, as its two's complement at width `w` (R115). -/
def fToInt (src : Fmt) (md : Mode) (lo hi : Int) (w : Nat) (n : Nat) : Nat × Flags :=
  let put (i : Int) : Nat := (i % 2 ^ w).toNat
  match inVal src md n with
  | .nan _ => (0, flNV)
  | .inf s => (put (if s then lo else hi), flNV)
  | .fin s m e =>
    let (r, nx) := roundInt md.rm s m e
    let i : Int := if s then -(r : Int) else r
    if i < lo then (put lo, flNV) else if hi < i then (put hi, flNV) else (put i, flIf nx flNX)

/-- Conversion from an integer (R115). -/
def fOfInt (dst : Fmt) (md : Mode) (i : Int) : Nat × Flags :=
  if i = 0 then (0, 0) else roundMag dst md (decide (i < 0)) i.natAbs 0 false

/-- FRND (R146). -/
def fRnd (md : Mode) (n : Nat) : Nat × Flags :=
  let n := dazIn .f32 md.daz n
  match Fval.of .f32 n with
  | .nan s => (Fmt.nan .f32, flIf s flNV)
  | .inf _ => (n, 0)
  | .fin s m e =>
    if m = 0 then (n, 0)
    else
      let (r, nx) := roundInt md.rm s m e
      if r = 0 then (withSign .f32 s 0, flIf nx flNX)
      else ((roundMag .f32 Mode.rne s r 0 false).1, flIf nx flNX)

/-- FCLASS (R145). -/
def fClass (n : Nat) : Nat :=
  match Fval.of .f32 n with
  | .nan true => 2 ^ 8
  | .nan false => 2 ^ 9
  | .inf true => 1
  | .inf false => 2 ^ 7
  | .fin s m _ =>
    if m = 0 then (if s then 2 ^ 3 else 2 ^ 4)
    else if m < 2 ^ 23 then (if s then 2 ^ 2 else 2 ^ 5)
    else (if s then 2 ^ 1 else 2 ^ 6)

/-! The captured controls of each unit (R35, R110). -/

def fcrBit (fcr : Word) (i : Nat) : Bool := fcr.toNat.testBit i

def scalarMode (fcr : Word) : Mode := ⟨fcr.toNat % 4, fcrBit fcr 2, fcrBit fcr 3, fcrBit fcr 10⟩
def vectorMode (fcr : Word) : Mode := ⟨fcr.toNat % 4, fcrBit fcr 4, fcrBit fcr 5, fcrBit fcr 10⟩
def sfMode (fcr : Word) : Mode := ⟨fcr.toNat % 4, fcrBit fcr 6, fcrBit fcr 7, fcrBit fcr 10⟩
def scanMode (fcr : Word) : Mode := ⟨fcr.toNat % 4, fcrBit fcr 8, fcrBit fcr 9, fcrBit fcr 10⟩
/-- Read-out conversions use RM and SATF8 and no flush (R119, R196). -/
def readoutMode (fcr : Word) : Mode := ⟨fcr.toNat % 4, false, false, fcrBit fcr 10⟩

/-- Flags ORed into the sticky bits (R111, R113). -/
def fcrOr (fcr : Word) (fl : Flags) : Word := fcr ||| (fl.setWidth 32 <<< 16)

end Sys2Proof.Machine
end

