-- ==== Sys2Proof/Machine/Ops.lean ====
section
/-! DEFINITION. Ops.lean: the named operations over cells, contexts, queues and records; taking a precise fault (R340
to R345) and the release that ends a park (R346), each once. -/

namespace Sys2Proof.Machine

/-- Replace one entry of a vector. -/
def vset {α : Type} {n : Nat} (v : Vector α n) (i : Fin n) (a : α) : Vector α n := v.set i.val a i.isLt

/-- A natural number as a register word. -/
def word (n : Nat) : Word := BitVec.ofNat 32 n

/-! ## Cells and contexts -/

/-- The cell with a module-logical number. -/
def State.cell (s : State) (n : Nat) : CellState := s.cells.getD n (CellState.blank 0 0 0)

def State.setCell (s : State) (n : Nat) (c : CellState) : State := { s with cells := s.cells.put n c }

def CellState.ctx (c : CellState) (k : Fin 4) : Context := c.ctxs[k]

def CellState.setCtx (c : CellState) (k : Fin 4) (t : Context) : CellState := { c with ctxs := vset c.ctxs k t }

/-- The cell, context and slot of the firing instruction. -/
def State.cur (s : State) : CellState := s.cell s.focus.cell
def State.setCur (s : State) (c : CellState) : State := s.setCell s.focus.cell c
def State.here (s : State) : Context := s.cur.ctx s.focus.ctx

/-- Reference ticks since module reset: 100 MHz beside the 1.10 GHz of the strips (R3, R26). -/
def State.tick (s : State) : Nat := s.strip / 11

/-- A scalar register; `x0` reads zero (R31). -/
def Context.getX (t : Context) (r : Fin 16) : Word := if r = 0 then 0 else t.x[r]

/-- Write a scalar register; a write to `x0` is discarded (R31) and no presence bit changes (R32). -/
def Context.setX (t : Context) (r : Fin 16) (v : Word) : Context :=
  if r = 0 then t else { t with x := vset t.x r v }

def Context.pred (t : Context) (i : Fin 8) : Bool := t.p.getLsbD i

def setBit (p : BitVec 8) (i : Fin 8) (b : Bool) : BitVec 8 :=
  if b then p ||| (1#8 <<< i.val) else p &&& ~~~(1#8 <<< i.val)

def Context.setPred (t : Context) (i : Fin 8) (b : Bool) : Context := { t with p := setBit t.p i b }

/-- A predicate action (R73) with the truth of "result ≠ 0". -/
def Context.act (t : Context) (p : PAct) (nz : Bool) : Context :=
  if p.pm = 0 then t else if p.pm = 1 then t.setPred p.px true
  else if p.pm = 2 then t.setPred p.px false else t.setPred p.px nz

/-- Flags of a completed operation reach the sticky bits (R112, R113). -/
def Context.raise (t : Context) (f : Flags) : Context := { t with fcr := fcrOr t.fcr f }

def Context.setPres (t : Context) (r : Fin 8) (b : Bool) : Context := { t with pres := setBit t.pres r b }

/-- The register x8 + r. -/
def presReg (r : Fin 8) : Fin 16 := Fin.ofNat 16 (8 + r.val)

/-! ## Queues (R45, R47, R49) -/

def CellState.popIq (c : CellState) (q : Fin 8) : CellState := { c with iq := vset c.iq q (c.iq[q]).tail }

/-- Dequeue one word for every entry of a list of queues. -/
def CellState.dequeue (c : CellState) (l : List (Fin 8)) : CellState := l.foldl CellState.popIq c

def CellState.pushOq (c : CellState) (q : Fin 8) (w : QWord) : CellState := { c with oq := vset c.oq q (c.oq[q] ++ [w]) }

/-- Whether an output queue has a free entry: reserved entries count as full (R135), and so does a queue whose tile
is being sent (R264). -/
def CellState.oqRoom (c : CellState) (q : Fin 8) : Bool :=
  decide ((c.oq[q]).length + c.oqResv[q] < 4) &&
    (match c.tsend with
     | some t => decide (t.q ≠ q)
     | none => true)

/-- Post one word to the completion mailbox; it waits in order while `iq6` is full (R49). -/
def CellState.post6 (c : CellState) (w : QWord) : CellState :=
  if c.mail6.isEmpty && decide ((c.iq[6]).length < 8) then { c with iq := vset c.iq 6 (c.iq[6] ++ [w]) }
  else { c with mail6 := c.mail6 ++ [w] }

/-- Post words that stand together to the service mailbox (R49). -/
def CellState.post7 (c : CellState) (ws : List QWord) : CellState := { c with mail7 := c.mail7 ++ [ws] }

/-- At the end of a cycle a mailbox takes one waiting word if it has room; a four-word record starts when four
entries are free (R49). -/
def CellState.refill (c : CellState) : CellState :=
  let c :=
    match c.mail6 with
    | [] => c
    | w :: r => if (c.iq[6]).length < 8 then { c with iq := vset c.iq 6 (c.iq[6] ++ [w]), mail6 := r } else c
  match c.mail7 with
  | [] => c
  | [] :: r => { c with mail7 := r }
  | (w :: ws) :: r =>
    let need := if ws.length = 3 then 4 else 1
    if (c.iq[7]).length + need ≤ 8 then
      { c with iq := vset c.iq 7 (c.iq[7] ++ [w]), mail7 := if ws.isEmpty then r else ws :: r }
    else c

/-! ## Rings (R51 to R53, R197) -/

/-- Bytes of a tile, and the SRAM address of tile `i` (R52). -/
def Ring.size (r : Ring) : Nat := (r.tsz + 1) * 64
def Ring.tile (r : Ring) (i : Nat) : Nat := r.base + i % (r.depth + 1) * r.size
def Ring.room (r : Ring) : Bool := decide (r.count ≤ r.depth)

/-- Push the tail tile with its mark (R53, R124); the partial count returns to zero (R55). -/
def Ring.push (r : Ring) (x : Bool) : Ring :=
  { r with tail := (r.tail + 1) % (r.depth + 1), count := r.count + 1, marks := r.marks ++ [x], part := 0, acc := false
           bytes := 0, buf := [] }

/-- Pop the head tile (R53). -/
def Ring.pop (r : Ring) : Ring :=
  { r with head := (r.head + 1) % (r.depth + 1), count := r.count - 1, marks := r.marks.tail, drain := 0 }

/-- The mark of the head tile. -/
def Ring.mark (r : Ring) : Bool := (r.marks.head?).getD false

def CellState.setRing (c : CellState) (g : Fin 8) (r : Ring) : CellState := { c with rings := vset c.rings g r }

/-- Pop a ring; a read-out tile leaves the count of its accumulator (R197), and an engine finds one tile fewer in this
cycle (R45). -/
def CellState.popRing (c : CellState) (g : Fin 8) : CellState :=
  let r := c.rings[g]
  let c := { (c.setRing g r.pop) with ringAt := vset c.ringAt g (c.ringAt[g] - 1) }
  if r.prod = 3 then
    let a := Fin.ofNat 4 r.pidx
    { c with readCnt := vset c.readCnt a (c.readCnt[a] - 1) }
  else c

/-- The 64-bit SRAM words from address `a` over `n` bytes that SECDED finds uncorrectable (R352). -/
def CellState.badWord (c : CellState) (a n : Nat) : Option Nat :=
  c.badSram.find? (fun w => decide (w * 8 < a + n) && decide (a < w * 8 + 8))

/-- SECDED corrects what it reads of the SRAM words from `a` over `n` bytes and counts each correction; a corrected word is whole
again (R352; log 78). -/
def CellState.mend (c : CellState) (a n : Nat) : CellState :=
  let hit (w : Nat) : Bool := decide (w * 8 < a + n) && decide (a < w * 8 + 8)
  { c with ecc := c.ecc + (c.flipSram.filter hit).length, flipSram := c.flipSram.filter fun w => !hit w }

/-- The same for slot words and cue entries, which a cell that runs reads in every cycle. -/
def CellState.mendStore (c : CellState) : CellState :=
  { c with ecc := c.ecc + c.flipSlots.length + c.flipCues.length, flipSlots := [], flipCues := [] }

/-! ## Stages and records -/

def SceneStat.blank : SceneStat :=
  { flog := 0, ubc := 0, masked := false, stalls := 0, wdog := false, lastAct := 0, reportAt := none
    egressLost := [], portalLost := 0 }

/-- The counts of a new scene of a stage; the tick of the last stall report stays (R301). -/
def SceneStat.anew (r : SceneStat) : SceneStat := { SceneStat.blank with reportAt := r.reportAt }

def Stage.blank : Stage :=
  { status := .queued, stopping := false, ending := false, recast := false, startAt := 0, unplaceable := false, w := 1, h := 1, x0 := 0, y0 := 0, placedOnce := false
    job := 0, prio := 0, debug := false, swd := 0, ubl := 65535, qp := 64, qs := 64, wq := 128, cqn := 0, image := []
    scene := 0, installed := false, upAt := none, arrived := 0, aged := false, ordinal := 0, regroup := none, movedFor := none
    reloc := false, smax := 1, nsc := 1, stat := SceneStat.blank, mask := none, arr := []
    groups := Vector.replicate 8 none, aggs := [], carries := [], markers := [], elog := [], elogOvf := 0, flog := []
    flogOvf := 0, stallLog := [], root := none, egress := [], channels := [], portals := [], saved := []
    heldWakes := [] }

def State.stage (s : State) (id : Nat) : Stage := s.stages.getD id Stage.blank
def State.setStage (s : State) (id : Nat) (t : Stage) : State := { s with stages := s.stages.put id t }

/-- The stage-relative number of a cell (R8), and the module-logical number of a stage's cell (R17). -/
def CellState.num (c : CellState) (t : Stage) : Nat := c.cy * t.w + c.cx
def Stage.cellAt (t : Stage) (x y : Nat) : Nat := (t.y0 + y) * 320 + (t.x0 + x)
def Stage.cellNum (t : Stage) (n : Nat) : Nat := t.cellAt (n % t.w) (n / t.w)

/-- Whether a module-logical number lies in a placed stage's rectangle. -/
def Stage.owns (t : Stage) (n : Nat) : Bool :=
  decide (t.status = .placed ∧ t.y0 ≤ n / 320 ∧ n / 320 < t.y0 + t.h ∧ t.x0 ≤ n % 320 ∧ n % 320 < t.x0 + t.w)

/-! ## Casting (R11 to R17) -/

/-- Whether a physical position is live: outside the dead field of its field row and not dead. -/
def Casting.live (k : Casting) (col row : Nat) : Bool :=
  !k.deadFields.contains (row / 64, col / 48) && !k.dead.any (fun d => d.1 == row && d.2.1 == col)

/-- Physical columns of a row that are live, ascending; the first 320 are the logical columns (R17). -/
def Casting.cols (k : Casting) (row : Nat) : List Nat := (List.range 384).filter (fun c => k.live c row)

/-- The physical column of a module-logical cell. -/
def State.physCol (s : State) (n : Nat) : Nat := ((s.casting.cols (n / 320))[n % 320]?).getD 0

/-- The strip of a module-logical cell: its physical row times 24 plus its column over 16 (R12). -/
def State.stripOf (s : State) (n : Nat) : Nat := n / 320 * 24 + s.physCol n / 16

/-- Its half strip and its position in that half (R12, R13). -/
def State.halfOf (s : State) (n : Nat) : Nat := s.physCol n % 16 / 8
def State.posOf (s : State) (n : Nat) : Nat := s.physCol n % 8

/-- The key in `firn` of byte `o` of a cell's slice (R13). -/
def State.sliceKey (s : State) (n o : Nat) : Nat :=
  s.stripOf n * 2 ^ 27 + s.halfOf n * 2 ^ 26 + o / 32 * 256 + s.posOf n * 32 + o % 32

/-- Build a fault record (R342). -/
def mkRecord (s : State) (c : CellState) (ctx : Fin 4) (slot : Nat) (async : Bool) (f : FaultInfo) (dest : RecDest) :
    Record :=
  let sc := (s.stage c.stage).scene
  { w1 := word (f.cls % 16 + f.code % 32 * 2 ^ 4 + ctx.val * 2 ^ 9 + slot % 128 * 2 ^ 11 + async.toNat * 2 ^ 18
      + f.unit % 32 * 2 ^ 19 + f.modNum % 256 * 2 ^ 24)
    w2 := word (c.cx % 512 + c.cy % 512 * 2 ^ 9 + f.ahi % 2 ^ 14 * 2 ^ 18)
    w3 := f.opnd
    w4 := word (sc % 256 + s.tick % 2 ^ 24 * 2 ^ 8)
    scene := sc, made := s.strip, dest := dest }

/-- The reference tick of a record. -/
def Record.tick (r : Record) : Nat := r.made / 11

/-- Put a record in its context's place, or beside it while the place is occupied (R343). -/
def Context.addRecord (t : Context) (r : Record) (tick : Nat) : Context :=
  if t.record.isNone && t.beside.isEmpty then { t with record := some (r, tick) } else { t with beside := t.beside ++ [r] }

/-- Park a context: its status changes and the presence bit of its `x15` is cleared (R345). -/
def Context.park (t : Context) (st : CtxStatus) : Context := { (t.setPres 7 false) with status := st }

/-- A stage fault-log entry (R344). -/
def State.logFault (s : State) (id : Nat) (r : Record) (count : Nat) (div : Bool) : State :=
  let t := s.stage id
  let e : List Word := [r.w1, r.w2, r.w3, r.w4, word (r.scene % 2 ^ 16 + min count 0xFFFF * 2 ^ 16), word r.tick,
    word (r.tick / 2 ^ 32), word (id % 4096 + div.toNat * 2 ^ 12)]
  if t.flog.length < 4096 then
    s.setStage id { t with flog := t.flog ++ [e], stat := { t.stat with flog := t.stat.flog + 1 } }
  else s.setStage id { t with flogOvf := min (t.flogOvf + 1) 0xFFFFFFFF }

/-- A record of a cell that no context issued: into the cell's queue of 8, or to the stage fault log when that is full
(R343). -/
def State.cellRecord (s : State) (n : Nat) (ctx : Fin 4) (slot : Nat) (f : FaultInfo) : State :=
  let c := s.cell n
  let r := mkRecord s c ctx slot true f .trap
  if c.asyncRecs.length < 8 then s.setCell n { c with asyncRecs := c.asyncRecs ++ [(r, s.tick)] }
  else s.logFault c.stage r 1 true

/-- A record of asynchronous work (R343); the work of a halted context reports to the stage fault log (R353). -/
def State.asyncRecord (s : State) (n : Nat) (ctx : Fin 4) (slot : Nat) (f : FaultInfo) : State :=
  let c := s.cell n
  if (c.ctx ctx).status = .halted then s.logFault c.stage (mkRecord s c ctx slot true f .trap) 1 true
  else s.cellRecord n ctx slot f

/-- An engine or request of a cell makes progress (R301). -/
def State.active (s : State) (n : Nat) : State := s.setCell n { (s.cell n) with lastAct := s.tick }

/-! ## Cue fields and events (R37 to R39) -/

def cueF (e : DWord) (lo n : Nat) : Nat := bits e.toNat lo n
def cueEn (e : DWord) : Bool := cueF e 60 1 == 1
def cueEv (e : DWord) : Nat := cueF e 52 4
def cueEvn (e : DWord) : Nat := cueF e 56 4

/-- Whether a prefix of the next round stands in the buffer (R39, R212). -/
def ScanPort.pfxReady (p : ScanPort) : Bool := p.pfx.any (fun e => e.1 = p.rcv)

/-- The event test (R39). -/
def eventTrue (c : CellState) (t : Context) (ev evn : Nat) : Bool :=
  match ev with
  | 0 => true
  | 1 => (c.bars[Fin.ofNat 16 evn]).done
  | 2 => t.wake
  | 3 => (c.scan[Fin.ofNat 8 evn]).pfxReady
  | 4 => t.granted
  | 5 => c.mxq.isEmpty && c.mxRun.isNone
  | 6 => decide (0 < c.readCnt[Fin.ofNat 4 evn])
  | _ => false

/-- The count source (R37, R38). -/
def cueCount (c : CellState) (sel : Nat) : Nat :=
  if sel < 8 then (c.iq[Fin.ofNat 8 sel]).length
  else if sel < 12 then (c.sq[Fin.ofNat 4 (sel - 8)]).length
  else (c.rings[Fin.ofNat 8 (sel - 12)]).count

/-- The context that a true cue selects, none where the cue is not true (R38); an uncorrectable entry is never true
(R352). -/
def CellState.cueSel (c : CellState) (i : Cue) : Option (Fin 4) :=
  let e := c.cues[i]
  let q := c.iq[Fin.ofNat 8 (cueF e 16 3)]
  let tag := (q.head?.map (fun w => w.tag.toNat)).getD 0
  let k : Fin 4 := if cueF e 32 2 = 1 then Fin.ofNat 4 (tag / 64) else Fin.ofNat 4 (cueF e 34 2)
  let t := c.ctx k
  let pm := cueF e 0 8
  if cueEn e && !c.badCues.contains i.val && !c.badCues.contains (i.val + 64)
    && (cueF e 32 2 = 0 || !q.isEmpty)
    && (t.p.toNat &&& pm == cueF e 8 8 &&& pm)
    && (cueF e 19 1 = 0 || !q.isEmpty && (tag % 64 &&& cueF e 20 6 == cueF e 26 6 &&& cueF e 20 6))
    && (cueF e 40 6 = 0 || decide (cueF e 40 6 ≤ cueCount c (cueF e 36 4)))
    && (cueF e 50 1 = 0 || t.pres.getLsbD (cueF e 46 4 - 8))
    && eventTrue c t (cueEv e) (cueEvn e)
  then some k else none

/-- The effects of a firing that belong to its cue (R32, R39): a consumed event is consumed, PRESCLR clears the tested
presence bit. -/
def Context.consume (t : Context) (e : DWord) : Context :=
  let t := if cueEv e = 2 then { t with wake := false } else if cueEv e = 4 then { t with granted := false } else t
  if cueF e 51 1 = 1 then t.setPres (Fin.ofNat 8 (cueF e 46 4)) false else t

/-! ## Firing (R41, R42, R44, R71) -/

/-- The readiness conditions of an instruction beside its cue and context (R41): its sources, its destination, and
whether its implicit conditions hold. `more` are queues of which it dequeues a further word (MX.ISSUE, R199). -/
structure Needs where
  srcs : List Src
  dst : Option Dst
  ok : Bool
  more : List (Fin 8) := []
  deriving DecidableEq, Repr

/-- The queues that a firing dequeues, once for all operands that name one (R71), and the further words. -/
def Needs.takes (n : Needs) : List (Fin 8) :=
  (List.finRange 8).filter (fun q => n.srcs.contains (.deq q)) ++ n.more

def srcReady (c : CellState) (a : Src) : Bool :=
  match a with
  | .reg _ => true
  | .deq q => !(c.iq[q]).isEmpty
  | .peek q => !(c.iq[q]).isEmpty

def dstReady (c : CellState) (d : Dst) : Bool :=
  match d with
  | .reg _ => true
  | .oq q => c.oqRoom q

def Needs.met (n : Needs) (c : CellState) : Bool :=
  n.srcs.all (srcReady c) && (n.dst.all (dstReady c)) && n.ok

/-- Whether an instruction on a cue may fire at the focus: the arbiter is not held, the cue is true and selects the
focused running context, and its needs are met (R41 to R43, R46). -/
def canFire (s : State) (cue : Cue) (n : Needs) : Bool :=
  let c := s.cur
  c.live && decide (c.hold = .none) && decide (c.cueSel cue = some s.focus.ctx)
    && decide (s.here.status = .running) && n.met c

/-- Whether SECDED finds a word of the firing instruction uncorrectable (R352). -/
def slotBad (c : CellState) (k : Nat) : Bool :=
  c.badSlots.contains k ||
    (c.badSlots.contains (k + 1) &&
      (match c.slots[Fin.ofNat 128 (k + 1)] with
       | some w => isContinuation w.toNat
       | none => false))

/-- The slot word at an index, zero if empty (R68). -/
def CellState.slotWord (c : CellState) (k : Nat) : Word := (c.slots[Fin.ofNat 128 k]).getD 0

/-- What a firing instruction does beside what every firing does: its effect, or a precise fault. -/
inductive Effect where
  | done (s : State)
  | fault (f : FaultInfo)

/-- Taking a precise fault (R340, R345): the context of the firing instruction parks, its record is made, and nothing
else changes; what a skip needs is kept (R346). -/
def takeFault (s : State) (cue : Cue) (n : Needs) (f : FaultInfo) : State :=
  let c := s.cur
  let t := (s.here.addRecord (mkRecord s c s.focus.ctx s.focus.slot false f .trap) s.tick).park .parkFault
  s.setCur (c.setCtx s.focus.ctx { t with parkDeq := n.takes, parkCue := some cue })

/-- What every firing does: dequeue, consume the event of the cue's entry `e`, count (R39, R71, R302, R313). -/
def finish (s : State) (e : DWord) (n : Needs) : State :=
  let c := s.cur.dequeue n.takes
  let t := (c.ctx s.focus.ctx).consume e
  s.setCur { (c.setCtx s.focus.ctx { t with fired := t.fired + 1 }) with
    lastFired := some (s.focus.slot, s.tick), lastAct := s.tick }

/-- Firing: an instruction that is not ready waits; one that faults changes nothing but its park and record; any other
has its effect on the state at the start of the cycle and then what every firing does, under the cue's entry at the start of the
cycle. The record of an uncorrectable slot word (R352) has the word as its operand (log 86). -/
def fireState (s : State) (cue : Cue) (n : Needs) (eff : State → Effect) : State :=
  if canFire s cue n then
    if slotBad s.cur s.focus.slot then
      takeFault s cue n { cls := 11, code := 3, opnd := s.cur.slotWord s.focus.slot }
    else
      match eff s with
      | .fault f => takeFault s cue n f
      | .done s' => finish s' s.cur.cues[cue] n
  else s

/-- A firing as the outcome of a step. -/
def fire (s : State) (cue : Cue) (n : Needs) (eff : State → Effect) : Host.Outcome State Fault Refusal :=
  .next (fireState s cue n eff)

/-! ## Release of a parked context (R346) -/

/-- The end of a park by the action of the value in `x15`: a trap park just ends; a fault park resumes, halts, skips or
halts all. A failed response that waited parks the context again at once (R282). -/
def CellState.releaseNow (c : CellState) (k : Fin 4) (v : Word) : CellState :=
  let t := c.ctx k
  let act := if t.status = .parkTrap then 0 else v.toNat % 4
  let again (t : Context) : Context :=
    if 0 < t.respFaults then { (t.park .parkFault) with respFaults := t.respFaults - 1, parkDeq := [], parkCue := none }
    else { t with status := .running }
  match act with
  | 0 => c.setCtx k (again { t with release := none })
  | 1 => c.setCtx k { t with status := .halted, release := none }
  | 2 =>
    let c := c.dequeue t.parkDeq
    let t := match t.parkCue with
      | some q => t.consume c.cues[q]
      | none => t
    c.setCtx k (again { t with release := none })
  | _ => { c with ctxs := c.ctxs.map (fun u => { u with status := .halted, release := none }) }

/-- A write that sets the presence bit of `x15` of a parked context releases it; while a record waits beside the
record place the release waits too (R343, R346). -/
def CellState.released (c : CellState) (k : Fin 4) (v : Word) : CellState :=
  let t := c.ctx k
  if t.status = .parkFault ∨ t.status = .parkTrap then
    (if t.beside.isEmpty then c.releaseNow k v else c.setCtx k { t with release := some v })
  else c

/-- A remote write that is delivered: the register, its presence bit, and a release if it is `x15` (R32, R33, R346). -/
def CellState.putWrite (c : CellState) (k : Fin 4) (r : Fin 8) (v : Word) : CellState :=
  let t := ((c.ctx k).setX (presReg r) v).setPres r true
  let c := c.setCtx k t
  if r = 7 then c.released k v else c

end Sys2Proof.Machine
end

