-- ==== Sys2Proof/Machine/Operands.lean ====
section
/-! DEFINITION. Operands.lean: what every operand form supplies and where every destination form writes (spec 03 R70,
R71, 05 R128, R129), and address forms. -/

namespace Sys2Proof.Machine

/-- The head word of an input queue; readiness guarantees one. -/
def CellState.headIq (c : CellState) (q : Fin 8) : QWord := ((c.iq[q]).head?).getD ⟨0, 0, false⟩

/-- The 32 bits that a source supplies (R70, R71, R128). -/
def srcVal (c : CellState) (t : Context) (a : Src) : Word :=
  match a with
  | .reg r => t.getX r
  | .deq q => (c.headIq q).data
  | .peek q => (c.headIq q).data

/-- The X bit of a queue source; registers carry none (R71). -/
def srcX (c : CellState) (a : Src) : Bool :=
  match a with
  | .reg _ => false
  | .deq q => (c.headIq q).x
  | .peek q => (c.headIq q).x

def srcsX (c : CellState) (l : List Src) : Bool := l.any (srcX c)

/-- The value of a source of the firing instruction, at the start of the cycle. -/
def State.src (s : State) (a : Src) : Word := srcVal s.cur s.here a

/-- Tag of a word written through an operand: the context above a zero user tag (R71). -/
def ctxTag (k : Fin 4) : Byte := BitVec.ofNat 8 (k.val * 64)

/-- Write a result to its destination: a register, or one word on an output queue with its tag and mark (R129). -/
def writeDst (c : CellState) (k : Fin 4) (d : Dst) (v : Word) (x : Bool) : CellState :=
  match d with
  | .reg r => c.setCtx k ((c.ctx k).setX r v)
  | .oq q => c.pushOq q ⟨v, ctxTag k, x⟩

/-- Reserve an entry of an output queue for a later result (R135, R248). -/
def CellState.reserve (c : CellState) (d : Dst) : CellState :=
  match d with
  | .reg _ => c
  | .oq q => { c with oqResv := vset c.oqResv q (c.oqResv[q] + 1) }

/-- Give a reserved entry back as its word is enqueued. -/
def CellState.unreserve (c : CellState) (d : Dst) : CellState :=
  match d with
  | .reg _ => c
  | .oq q => { c with oqResv := vset c.oqResv q (c.oqResv[q] - 1) }

/-- The end of a divide, miss or SF park: the context runs again, or parks for a failed response that came meanwhile
(R46, R282); a context that was halted stays halted (R294). -/
def Context.unpark (t : Context) (st : CtxStatus) : Context :=
  if t.status = st then
    (if 0 < t.respFaults then
      { (t.park .parkFault) with respFaults := t.respFaults - 1, parkDeq := [], parkCue := none }
     else { t with status := .running })
  else t

/-- The needs of an instruction with two sources and a destination. -/
def needs2 (d : Dst) (a b : Src) : Needs := ⟨[a, b], some d, true, []⟩
def needs1 (d : Dst) (a : Src) : Needs := ⟨[a], some d, true, []⟩
def needs0 (d : Dst) : Needs := ⟨[], some d, true, []⟩
def needsR (l : List Src) : Needs := ⟨l, none, true, []⟩

/-- Sign extension of an immediate to 32 bits. -/
def sext {n : Nat} (i : BitVec n) : Word := i.signExtend 32

end Sys2Proof.Machine
end

