-- ==== Sys2Proof/Machine/Flags.lean ====
section
/-! DEFINITION. Flags.lean: what a completed scalar operation leaves besides its value: the predicate action (R73), the
sticky flags (R111, R112) and the exception mark of a word it enqueues (R124, R129). -/

namespace Sys2Proof.Machine

/-- The value and flags of an operation reach the destination, the predicate and the FCR of context `k`. `x` is the OR
of the marks of its queue sources; NX alone sets no mark. -/
def settle (c : CellState) (k : Fin 4) (d : Dst) (p : PAct) (v : Word) (x : Bool) (f : Flags) : CellState :=
  let c := writeDst c k d v (x || f.marks)
  c.setCtx k (((c.ctx k).act p (decide (v ≠ 0))).raise f)

/-- No predicate action. -/
def noAct : PAct := ⟨0, 0⟩

/-- The effect of a scalar operation at the focus. -/
def result (d : Dst) (p : PAct) (v : Word) (x : Bool) (f : Flags) (s : State) : Effect :=
  .done (s.setCur (settle s.cur s.focus.ctx d p v x f))

/-- The effect of an instruction without a destination on its context: the change, then the predicate action on the
result 0 (R73). -/
def onCtx (p : PAct) (g : Context → Context) (s : State) : Effect :=
  .done (s.setCur (s.cur.setCtx s.focus.ctx ((g s.here).act p false)))

/-- The same on the whole cell. -/
def onCell (p : PAct) (g : CellState → CellState) (s : State) : Effect :=
  let c := g s.cur
  .done (s.setCur (c.setCtx s.focus.ctx ((c.ctx s.focus.ctx).act p false)))

end Sys2Proof.Machine
end

