-- ==== Sys2Proof/Machine/Vector.lean ====
section
/-! DEFINITION. Vector.lean: lanes, and what one beat of each vector instruction computes (spec 06 R161, R165 to R176,
04 R118, R120). Where a beat reads and writes is in Beats.lean. -/

namespace Sys2Proof.Machine

/-- Lane width of a type (R161). -/
def tyWidth (t : Ty) : Nat :=
  match t with
  | .f32 => 32 | .bf16 => 16 | .f16 => 16 | .i32 => 32 | .i16 => 16 | .i8 => 8 | .n8 => 8

/-- The float format of a lane type, none for integers (R161). -/
def tyFmt (t : Ty) : Option Fmt :=
  match t with
  | .f32 => some .f32 | .bf16 => some .bf16 | .f16 => some .f16
  | .i32 => none | .i16 => none | .i8 => none | .n8 => none

/-- The lanes of a 512-bit value, lane 0 first (R5, R161). -/
def lanes (w : Nat) (v : VWord) : List Nat := (List.range (512 / w)).map fun i => v.toNat / 2 ^ (w * i) % 2 ^ w

def packNat (w : Nat) (l : List Nat) : Nat :=
  match l with
  | [] => 0
  | a :: r => a % 2 ^ w + 2 ^ w * packNat w r

/-- A 512-bit value from its lanes. -/
def pack (w : Nat) (l : List Nat) : VWord := BitVec.ofNat 512 (packNat w l)

/-- Lanes with the flags of each: the value and all flags. -/
def packF (w : Nat) (l : List (Nat × Flags)) : VWord × Flags :=
  (pack w (l.map (·.1)), l.foldl (fun f r => f ||| r.2) 0)

/-- An integer lane as a number, signed but for n8 (R168). -/
def laneInt (t : Ty) (n : Nat) : Int :=
  if t = .n8 ∨ n < 2 ^ (tyWidth t - 1) then n else (n : Int) - 2 ^ tyWidth t

/-- An integer reduced to a lane. -/
def laneOf (w : Nat) (i : Int) : Nat := (i % 2 ^ w).toNat

/-- All ones or zero, the result of a compare (R172). -/
def laneMask (w : Nat) (b : Bool) : Nat := if b then 2 ^ w - 1 else 0

/-- The float operation of two lanes (R168, R172); operations that no float type has give zero. -/
def floatBin (op : VOp) (f : Fmt) (md : Mode) (a b : Nat) : Nat × Flags :=
  let cmp (k : CmpKind) : Nat × Flags := let r := fCmp f md k a b; (laneMask (f.mag + 1) r.1, r.2)
  match op with
  | .add => fAdd f md a b
  | .sub => fSub f md a b
  | .mul => fMul f md a b
  | .min => fMin f md a b
  | .max => fMax f md a b
  | .ceq => cmp .eq
  | .clt => cmp .lt
  | .cle => cmp .le
  | .ldexp =>
    match inVal f md a with
    | .nan s => (f.nan, flIf s flNV)
    | .inf s => (withSign f s f.infMag, 0)
    | .fin s m e =>
      if m = 0 then (withSign f s 0, 0)
      else
        let k : Int := if b < 2 ^ f.mag then b else (b : Int) - 2 ^ (f.mag + 1)
        roundMag f md s m (e + max (-1000) (min 1000 k)) false
  | _ => (0, 0)

/-- The integer operation of two lanes (R168, R171, R172). -/
def intBin (op : VOp) (t : Ty) (a b : Nat) : Nat :=
  let w := tyWidth t
  let x := laneInt t a
  let y := laneInt t b
  match op with
  | .add => laneOf w (x + y)
  | .sub => laneOf w (x - y)
  | .mul => laneOf w (x * y)
  | .min => if x < y then a else b
  | .max => if y < x then a else b
  | .shl => laneOf w (a * 2 ^ (b % w))
  | .shr => a / 2 ^ (b % w)
  | .sra => laneOf w (x / 2 ^ (b % w))
  | .ceq => laneMask w (decide (x = y))
  | .clt => laneMask w (decide (x < y))
  | .cle => laneMask w (decide (x ≤ y))
  | _ => 0

/-- An element-wise operation of two lanes. -/
def laneBin (op : VOp) (t : Ty) (md : Mode) (a b : Nat) : Nat × Flags :=
  match tyFmt t with
  | some f => floatBin op f md a b
  | none => (intBin op t a b, 0)

def vBin (op : VOp) (t : Ty) (md : Mode) (a b : VWord) : VWord × Flags :=
  packF (tyWidth t) (List.zipWith (laneBin op t md) (lanes (tyWidth t) a) (lanes (tyWidth t) b))

/-- VABS and VNEG (R168). -/
def laneUn (neg : Bool) (t : Ty) (a : Nat) : Nat :=
  match tyFmt t with
  | some f => withSign f (neg && !signBit f a) (magBits f a)
  | none => if neg then laneOf (tyWidth t) (-laneInt t a) else laneOf (tyWidth t) (laneInt t a).natAbs

/-- The float operand of an accumulation, flushed once at the start (R166). -/
def runStart (t : Ty) (md : Mode) (v : VWord) : VWord :=
  match tyFmt t with
  | some f => pack (tyWidth t) ((lanes (tyWidth t) v).map (dazIn f md.daz))
  | none => v

/-- A fused multiply-add whose addend is used as it stands (R166, R169). -/
def laneFma (t : Ty) (md : Mode) (a b d : Nat) : Nat × Flags :=
  match tyFmt t with
  | some f => ((Sum.zero.add ((inVal f md a).mul (inVal f md b))).add (Fval.of f d, false)).round f md
  | none => (laneOf (tyWidth t) (laneInt t a * laneInt t b + laneInt t d), 0)

def zip3 (g : Nat → Nat → Nat → Nat × Flags) (a b c : List Nat) : List (Nat × Flags) :=
  List.zipWith (fun p z => g p.1 p.2 z) (List.zip a b) c

def vFma (t : Ty) (md : Mode) (a b d : VWord) : VWord × Flags :=
  let w := tyWidth t
  packF w (zip3 (laneFma t md) (lanes w a) (lanes w b) (lanes w d))

/-- Adjacent pairs. -/
def pairs {α : Type} (l : List α) : List (α × α) :=
  match l with
  | a :: b :: r => (a, b) :: pairs r
  | _ => []

/-- VDOT2 (R169): two products and the f32 addend with one rounding. -/
def vDot2 (t : Ty) (md : Mode) (a b d : VWord) : VWord × Flags :=
  let f := (tyFmt t).getD .bf16
  let p := pairs (List.zip (lanes 16 a) (lanes 16 b))
  packF 32 (List.zipWith (fun (q : (Nat × Nat) × (Nat × Nat)) z =>
    (((Sum.zero.add ((inVal f md q.1.1).mul (inVal f md q.1.2))).add
      ((inVal f md q.2.1).mul (inVal f md q.2.2))).add (Fval.of .f32 z, false)).round .f32 md) p (lanes 32 d))

/-- VCLAMP (R168): Min(Max(a, b), c). -/
def laneClamp (t : Ty) (md : Mode) (a b c : Nat) : Nat × Flags :=
  let r := laneBin .max t md a b
  let q := laneBin .min t md r.1 c
  (q.1, r.2 ||| q.2)

/-! ## Reductions (R120, R176) -/

/-- One level of the tree. -/
def treeLevel (g : Nat → Nat → Nat × Flags) (l : List (Nat × Flags)) : List (Nat × Flags) :=
  (pairs l).map fun q => let r := g q.1.1 q.2.1; (r.1, q.1.2 ||| q.2.2 ||| r.2)

def tree (g : Nat → Nat → Nat × Flags) (l : List (Nat × Flags)) (fuel : Nat) : Nat × Flags :=
  match fuel with
  | 0 => (l.head?).getD (0, 0)
  | k + 1 => if l.length ≤ 1 then (l.head?).getD (0, 0) else tree g (treeLevel g l) k

/-- A beat of VRSUM, VRMAX or VRMIN: `op` is the lane operation, the running value is lane 0 of `d`. The input flush
acts on the lanes, not on partial values (R166). -/
def vReduce (op : VOp) (t : Ty) (md : Mode) (a d : VWord) : VWord × Flags :=
  let w := tyWidth t
  let md' : Mode := { md with daz := false }
  let r := tree (laneBin op t md') ((lanes w (runStart t md a)).map fun v => (v, 0)) 6
  let q := laneBin op t md' (d.toNat % 2 ^ w) r.1
  (BitVec.ofNat 512 q.1, r.2 ||| q.2)

/-! ## Conversion (R173, R174) -/

/-- What one side of a conversion holds. -/
inductive ConvSide where
  | flt (f : Fmt)
  | int (t : Ty)
  deriving DecidableEq, Repr

def ConvSide.ofTy (t : Ty) : ConvSide :=
  match tyFmt t with
  | some f => .flt f
  | none => .int t

def ConvSide.width (s : ConvSide) : Nat :=
  match s with
  | .flt f => f.mag + 1
  | .int t => tyWidth t

def convSrc (k : VConv) (t : Ty) : ConvSide :=
  match k with
  | .toTy _ => .ofTy t | .toE4m3 => .ofTy t | .toE5m2 => .ofTy t
  | .fromE4m3 => .flt .e4m3 | .fromE5m2 => .flt .e5m2

def convDst (k : VConv) (t : Ty) : ConvSide :=
  match k with
  | .toTy u => .ofTy u | .toE4m3 => .flt .e4m3 | .toE5m2 => .flt .e5m2
  | .fromE4m3 => .ofTy t | .fromE5m2 => .ofTy t

/-- The range of an integer lane type. -/
def tyLo (t : Ty) : Int := if t = .n8 then 0 else -(2 ^ (tyWidth t - 1))
def tyHi (t : Ty) : Int := if t = .n8 then 255 else 2 ^ (tyWidth t - 1) - 1

/-- One element (R114, R115). -/
def convLane (md : Mode) (s d : ConvSide) (n : Nat) : Nat × Flags :=
  match s, d with
  | .flt f, .flt g => fCvtTo f g md n
  | .flt f, .int t => fToInt f md (tyLo t) (tyHi t) (tyWidth t) n
  | .int t, .flt g => fOfInt g md (laneInt t n)
  | .int t, .int u => (laneOf (tyWidth u) (max (tyLo u) (min (tyHi u) (laneInt t n))), 0)

/-- VCVT of one beat with part `x[XS]` (R174). -/
def vCvt (k : VConv) (t : Ty) (md : Mode) (xs : Word) (base a : VWord) : VWord × Flags :=
  let s := convSrc k t
  let d := convDst k t
  let ws := s.width
  let wd := d.width
  let e := 512 / max ws wd
  let p := xs.toNat % 4 % (max ws wd / min ws wd)
  if wd ≤ ws then
    let r := (lanes ws a).map (convLane md s d)
    let old := lanes wd base
    packF wd (old.take (p * e) |>.map (fun v => (v, 0)) |>.append r |>.append
      ((old.drop (p * e + e)).map fun v => (v, 0)))
  else packF wd (((lanes ws a).drop (p * e) |>.take e).map (convLane md s d))

/-! ## One beat -/

/-- The destination value and flags of one beat: `run` is the destination so far of an accumulating operation, `base`
the destination at the start of the firing cycle, `xs` the scalar operand. -/
def vecBeat (op : VOp) (t : Ty) (md : Mode) (xs : Word) (base run a b e : VWord) : VWord × Flags :=
  let w := tyWidth t
  let n := 512 / w
  match op with
  | .add => vBin .add t md a b
  | .sub => vBin .sub t md a b
  | .mul => vBin .mul t md a b
  | .fma => vFma t md a b run
  | .min => vBin .min t md a b
  | .max => vBin .max t md a b
  | .and => (a &&& b, 0)
  | .or => (a ||| b, 0)
  | .xor => (a ^^^ b, 0)
  | .shl => vBin .shl t md a b
  | .shr => vBin .shr t md a b
  | .sra => vBin .sra t md a b
  | .ceq => vBin .ceq t md a b
  | .clt => vBin .clt t md a b
  | .cle => vBin .cle t md a b
  | .sel => ((e &&& a) ||| (~~~e &&& b), 0)
  | .cvt k => vCvt k t md xs base a
  | .bcast => (pack w (List.replicate n xs.toNat), 0)
  | .ext => (pack w (((lanes w a ++ lanes w b).drop (xs.toNat % n)).take n), 0)
  | .ins => (pack w (xs.toNat :: (lanes w a).take (n - 1)), 0)
  | .perm => (pack w ((lanes w b).map fun j => if j < n then (lanes w a).getD j 0 else 0), 0)
  | .rsum => vReduce .add t md a run
  | .rmax => vReduce .max t md a run
  | .rmin => vReduce .min t md a run
  | .abs => (pack w ((lanes w a).map (laneUn false t)), 0)
  | .neg => (pack w ((lanes w a).map (laneUn true t)), 0)
  | .mov => (a, 0)
  | .ldexp => vBin .ldexp t md a b
  | .dot2 => vDot2 t md a b run
  | .clamp => packF w (zip3 (laneClamp t md) (lanes w a) (lanes w b) (lanes w e))

/-- Whether an operation accumulates into its destination (R78, R165). -/
def VOp.accumulates (op : VOp) : Bool :=
  match op with
  | .fma | .dot2 | .rsum | .rmax | .rmin => true
  | _ => false

/-- The accumulated value at the start: the destination after the input flush of R166. -/
def VOp.start (op : VOp) (t : Ty) (md : Mode) (v : VWord) : VWord :=
  match op with
  | .dot2 => runStart .f32 md v
  | _ => runStart t md v

end Sys2Proof.Machine
end

