-- ==== Sys2Proof/Machine/Matrix.lean ====
section
/-! DEFINITION. Matrix.lean: acceptance, checks, start and completion of matrix commands (spec 07 R183 to R200, 04 R119,
R124, 10 R310). -/

namespace Sys2Proof.Machine

/-- The type code of R79. -/
def mxCode (t : MxTy) : Nat :=
  match t with
  | .bf16 => 0 | .f16 => 1 | .e4m3 => 2 | .e5m2 => 3 | .e4e5 => 4 | .i8 => 5

/-- The formats of A and of B by type code; none for i8. -/
def mxFmts (dt : Nat) : Option (Fmt × Fmt) :=
  match dt with
  | 0 => some (.bf16, .bf16)
  | 1 => some (.f16, .f16)
  | 2 => some (.e4m3, .e4m3)
  | 3 => some (.e5m2, .e5m2)
  | 4 => some (.e4m3, .e5m2)
  | _ => none

/-- Element size in bytes and K (R188). -/
def mxElem (dt : Nat) : Nat := if dt < 2 then 2 else 1
def mxK (dt : Nat) : Nat := if dt < 2 then 16 else 32

/-- Bytes of a read-out element (R196). -/
def rdaSize (code : Nat) : Nat :=
  if code = 0 ∨ code = 5 then 4 else if code = 1 ∨ code = 2 ∨ code = 7 then 2 else 1

/-- The counts of a grouped product (R193). -/
def mxCount (counts g : Nat) : Nat := counts / 2 ^ (4 * g) % 16
def mxSum (counts : Nat) : Nat := mxCount counts 0 + mxCount counts 1 + mxCount counts 2 + mxCount counts 3
/-- The number of groups with a non-zero count. -/
def mxGroups (counts : Nat) : Nat := ((List.range 4).filter fun g => decide (mxCount counts g ≠ 0)).length

/-! ## Checks at firing (R186) -/

def shapeFault (code : Nat) (opnd : Word) : FaultInfo := { cls := 9, code := code, opnd := opnd }
def operandFault (code : Nat) (opnd : Word) : FaultInfo := { cls := 2, code := code, opnd := opnd }

/-- The check of a command on the descriptors at the start of the cycle, in the order of the table of R186. -/
def mxCheck (c : CellState) (m : MxCmd) (opnd : Word) : Option FaultInfo :=
  let a := c.rings[m.ga]
  let b := c.rings[m.gb]
  match m.kind with
  | .mma => if a.tsz < 7 ∨ b.tsz < 7 then some (shapeFault 1 opnd) else none
  | .gmma =>
    if a.tsz < 7 ∨ b.tsz < 7 then some (shapeFault 1 opnd)
    else if 16 < mxSum m.counts then some (shapeFault 2 opnd)
    else if b.depth < 3 then some (shapeFault 3 opnd)
    else none
  | .zero => none
  | .lda => if a.tsz < 15 then some (shapeFault 1 opnd) else none
  | .rda =>
    if a.size < 256 * rdaSize m.dt then some (shapeFault 1 opnd)
    else if a.prod ≠ 3 ∨ a.pidx ≠ m.acc.val then some (operandFault 1 opnd)
    else none
  | .scale => none

/-- The fields of a command in the token layout of R199; the kind of MX.SCALE, which no token has, is 5. -/
def mxToken (m : MxCmd) : Nat :=
  (match m.kind with | .mma => 0 | .gmma => 1 | .zero => 2 | .lda => 3 | .rda => 4 | .scale => 5)
    + m.acc.val * 2 ^ 3 + m.ga.val * 2 ^ 5 + m.gb.val * 2 ^ 8 + m.dt * 2 ^ 11 + m.accum.toNat * 2 ^ 15
    + m.popa.toNat * 2 ^ 16 + m.popb.toNat * 2 ^ 17 + m.trb.toNat * 2 ^ 18 + (m.rows - 1) % 16 * 2 ^ 19
    + (m.cols - 1) % 16 * 2 ^ 23

/-- The ECC 0x05 record of a discarded command (R191, R350). -/
def mxDiscard (s : State) (n : Nat) (m : MxCmd) : State :=
  s.asyncRecord n m.ctx 0 { cls := 11, code := 5, opnd := word (mxToken m), unit := m.acc.val }

/-- Whether the queue has a free entry at the start of the cycle: the entry of a command that starts in this cycle is
free from the next (R44, R185). -/
def CellState.mxRoom (c : CellState) : Bool :=
  decide (c.mxq.length + (match c.mxRun with | some r => if r.start = c.cyc then 1 else 0 | none => 0) < 8)

/-- Acceptance (R185): the command waits, or is discarded by a stopped unit (R191). The predicate acts on 0. -/
def mxAccept (p : PAct) (m : MxCmd) (opnd : Word) (s : State) : Effect :=
  match mxCheck s.cur m opnd with
  | some f => .fault f
  | none =>
    let s := s.setCur (s.cur.setCtx s.focus.ctx (s.here.act p false))
    if s.cur.mxStop then .done (mxDiscard s s.focus.cell m)
    else .done (s.setCur { s.cur with mxq := s.cur.mxq ++ [m] })

/-- A command with the captures of the firing context (R112, R185). -/
def mxCmd (s : State) (k : MxKind) (acc : Fin 4) : MxCmd :=
  { kind := k, acc := acc, ga := 0, gb := 0, dt := 0, accum := false, rows := 16, cols := 16, popa := false
    popb := false, trb := false, counts := 0, vec := 0, fcr := s.here.fcr, ctx := s.focus.ctx, mark := false
    early := false }

def mxNeeds (s : State) : Needs := ⟨[], none, s.cur.mxRoom, []⟩

def mxFire (c : Cue) (p : PAct) (m : State → MxCmd) (o : State → Word) (s : State) :
    Host.Outcome State Fault Refusal :=
  fire s c (mxNeeds s) (fun s => mxAccept p (m s) (o s) s)

def execMxMma (c : Cue) (acc : Fin 4) (ga gb : Fin 8) (dt : MxTy) (accum : Bool) (rows cols : Fin 16)
    (popa popb trb : Bool) (p : PAct) (s : State) : Host.Outcome State Fault Refusal :=
  mxFire c p (fun s => { mxCmd s .mma acc with
    ga := ga, gb := gb, dt := mxCode dt, accum := accum, rows := rows.val + 1, cols := cols.val + 1, popa := popa
    popb := popb, trb := trb }) (fun _ => 0) s

def execMxGmma (c : Cue) (acc : Fin 4) (ga gb : Fin 8) (dt : MxTy) (accum : Bool) (cols : Fin 16)
    (popa popb trb : Bool) (xv : Fin 16) (p : PAct) (s : State) : Host.Outcome State Fault Refusal :=
  mxFire c p (fun s => { mxCmd s .gmma acc with
    ga := ga, gb := gb, dt := mxCode dt, accum := accum, rows := 1, cols := cols.val + 1, popa := popa, popb := popb
    trb := trb, counts := (s.here.getX xv).toNat % 2 ^ 16 }) (fun s => s.here.getX xv) s

def execMxZero (c : Cue) (acc : Fin 4) (p : PAct) (s : State) : Host.Outcome State Fault Refusal :=
  mxFire c p (fun s => { mxCmd s .zero acc with rows := 1, cols := 1 }) (fun _ => 0) s

def execMxLda (c : Cue) (acc : Fin 4) (ga : Fin 8) (popa : Bool) (p : PAct) (s : State) :
    Host.Outcome State Fault Refusal :=
  mxFire c p (fun s => { mxCmd s .lda acc with ga := ga, popa := popa, rows := 1, cols := 1 }) (fun _ => 0) s

def execMxRda (c : Cue) (acc : Fin 4) (ga : Fin 8) (code : Fin 8) (accum : Bool) (p : PAct) (s : State) :
    Host.Outcome State Fault Refusal :=
  mxFire c p (fun s => { mxCmd s .rda acc with ga := ga, dt := code.val, accum := accum, rows := 1, cols := 1 })
    (fun _ => 0) s

def execMxScale (c : Cue) (acc : Fin 4) (trb : Bool) (xv : Fin 8) (p : PAct) (s : State) :
    Host.Outcome State Fault Refusal :=
  mxFire c p (fun s => { mxCmd s .scale acc with trb := trb, vec := s.here.v[xv], rows := 1, cols := 1 }) (fun _ => 0) s

/-! ## MX.ISSUE (R199, R200) -/

/-- Which fields of a token its kind leaves unused: GA, GB, DT, ACCUM, POPA, POPB, TRB, MROWS, NCOLS. -/
def tokenZero (t lo n : Nat) : Bool := bits t lo n == 0

/-- A token as a command, with the second word of a grouped product; none where R200 rejects it. -/
def mxOfToken (t : Nat) (second : Nat) (base : MxCmd) : Option MxCmd :=
  let acc : Fin 4 := Fin.ofNat 4 (bits t 3 2)
  let ga : Fin 8 := Fin.ofNat 8 (bits t 5 3)
  let gb : Fin 8 := Fin.ofNat 8 (bits t 8 3)
  let dt := bits t 11 4
  let m : MxCmd :=
    { base with
      acc := acc, ga := ga, gb := gb, dt := dt, accum := bit1 t 15, popa := bit1 t 16, popb := bit1 t 17
      trb := bit1 t 18, rows := bits t 19 4 + 1, cols := bits t 23 4 + 1 }
  if !tokenZero t 27 5 then none
  else
    match bits t 0 3 with
    | 0 => if dt < 6 ∧ ga ≠ gb then some { m with kind := .mma } else none
    | 1 => if dt < 6 ∧ ga ≠ gb ∧ tokenZero t 19 4 ∧ second < 2 ^ 16 then
        some { m with kind := .gmma, counts := second } else none
    | 2 => if tokenZero t 5 22 then some { m with kind := .zero } else none
    | 3 => if tokenZero t 8 8 && tokenZero t 17 10 then some { m with kind := .lda } else none
    | 4 => if dt < 8 && tokenZero t 8 3 && tokenZero t 16 11 then some { m with kind := .rda } else none
    | _ => none

/-- Whether the head of a queue is a token of kind 1. -/
def issueTwo (c : CellState) (q : Fin 8) : Bool :=
  match (c.iq[q]).head? with
  | some w => bits w.data.toNat 0 3 == 1
  | none => false

def issueQ (q : Fin 6) : Fin 8 := Fin.ofNat 8 q.val

def issueNeeds (q : Fin 6) (s : State) : Needs :=
  let two := issueTwo s.cur (issueQ q)
  ⟨[.deq (issueQ q)], none, s.cur.mxRoom && (!two || decide (2 ≤ (s.cur.iq[issueQ q]).length)),
    if two then [issueQ q] else []⟩

def execMxIssue (c : Cue) (q : Fin 6) (p : PAct) (s : State) : Host.Outcome State Fault Refusal :=
  fire s c (issueNeeds q s) (fun s =>
    let h := s.cur.headIq (issueQ q)
    let two := issueTwo s.cur (issueQ q)
    let w2 := ((s.cur.iq[issueQ q])[1]?).getD ⟨0, 0, false⟩
    match mxOfToken h.data.toNat w2.data.toNat (mxCmd s .mma 0) with
    | none => .fault (operandFault 2 h.data)
    | some m => mxAccept p { m with mark := h.x || two && w2.x } h.data s)

/-! ## Execution (R189, R310) -/

/-- Whether the tiles of a command are present (R189). -/
def mxPresent (c : CellState) (m : MxCmd) : Bool :=
  let a := c.rings[m.ga]
  let b := c.rings[m.gb]
  match m.kind with
  | .mma => decide (1 ≤ a.count ∧ 1 ≤ b.count)
  | .gmma => decide (1 ≤ a.count ∧ 4 ≤ b.count)
  | .zero => true
  | .lda => decide (1 ≤ a.count)
  | .rda => a.room
  | .scale => true

/-- Cycles at full width (R189). -/
def mxCycles (m : MxCmd) : Nat :=
  match m.kind with
  | .mma => 16
  | .gmma => 16 * max 1 (mxGroups m.counts)
  | .zero => 1
  | .lda => 16
  | .rda => 4 * rdaSize m.dt
  | .scale => 4

/-- Whether a command is a product, which needs a power window for full width (R310). -/
def mxProduct (m : MxCmd) : Bool :=
  match m.kind with
  | .mma | .gmma => true
  | _ => false

/-- The command at the head of the queue starts (R189): full width in an open window with budget for it, else half
width and one more undeclared burst (R310, R311). In a stage that stops, the first one that finds a tile missing stops the unit: it and
what is behind it are saved (R191). -/
def execMxCommandStart (n : Nat) (s : State) : Host.Outcome State Fault Refusal :=
  let c := s.cell n
  match c.mxq with
  | [] => .next s
  | m :: r =>
    if c.mxRun.isSome || c.mxStop || c.mxPark then .next s
    else if mxPresent c m then
      let t := c.ctx m.ctx
      let l := mxCycles m
      let run (c : CellState) (l : Nat) : CellState :=
        { c with mxq := r, mxRun := some ⟨m, c.cyc, c.cyc + l⟩ }
      if mxProduct m && !m.early then
        match t.phase with
        | some ph =>
          if decide (ph.grant ≤ s.strip) && decide (s.strip < ph.stop) && decide (l ≤ ph.budget) then
            .next (s.setCell n (run (c.setCtx m.ctx { t with phase := some { ph with budget := ph.budget - l } }) l))
          else .next (half s n c m run l)
        | none => .next (half s n c m run l)
      else .next (s.setCell n (run c l))
    else .next (if (s.stage c.stage).stopping then s.setCell n { c with mxPark := true } else s)
where
  half (s : State) (n : Nat) (c : CellState) (m : MxCmd) (run : CellState → Nat → CellState) (l : Nat) : State :=
    let t := c.ctx m.ctx
    let c := c.setCtx m.ctx { t with undeclared := min (t.undeclared + 1) 0xFFFFFFFF }
    let s := s.setCell n (run c (2 * l))
    let st := s.stage c.stage
    s.setStage c.stage { st with stat := { st.stat with ubc := st.stat.ubc + 1 } }

/-- Element (i, k) of the A tile at `base`, element (k, j) of a B tile (R188). -/
def elemA (mem : Mem) (base dt i k : Nat) : Nat := mem.readN (base + i * 32 + k * mxElem dt) (mxElem dt)
def elemB (mem : Mem) (base dt : Nat) (trb : Bool) (k j : Nat) : Nat :=
  mem.readN (base + (if trb then j * 32 + k * mxElem dt else k * 16 * mxElem dt + j * mxElem dt)) (mxElem dt)

/-- One updated element (R119). -/
def mxDot (mem : Mem) (ba bb dt : Nat) (trb accum : Bool) (i j : Nat) (old : Word) : Nat × Flags :=
  match mxFmts dt with
  | some (fa, fb) =>
    let start : Sum := Sum.zero.add (Fval.of .f32 (if accum then old.toNat else 0), false)
    ((List.range (mxK dt)).foldl (fun (sm : Sum) k =>
      sm.add ((Fval.of fa (elemA mem ba dt i k)).mul (Fval.of fb (elemB mem bb dt trb k j)))) start).round .f32 Mode.rne
  | none =>
    let sm : Int := (List.range (mxK dt)).foldl (fun (a : Int) k =>
      a + laneInt .i8 (elemA mem ba dt i k) * laneInt .i8 (elemB mem bb dt trb k j)) (if accum then old.toNat else 0)
    (laneOf 32 sm, 0)

/-- The group of a row of a grouped product, none for a row of no group (R193). -/
def mxGroupOf (counts row : Nat) : Option Nat :=
  (List.range 4).find? fun g =>
    let lo := ((List.range g).map (mxCount counts)).sum
    decide (lo ≤ row) && decide (row < lo + mxCount counts g)

/-- The whole product: new elements with the flags of those updated (R192, R193). -/
def mxProductOf (c : CellState) (m : MxCmd) : List (Nat × Flags) :=
  let a := c.rings[m.ga]
  let b := c.rings[m.gb]
  let old := c.accs[m.acc]
  (List.finRange 256).map fun e =>
    let i := e.val / 16
    let j := e.val % 16
    let v := old[e]
    let g : Option Nat := if m.kind = .gmma then mxGroupOf m.counts i else if i < m.rows then some 0 else none
    match g with
    | some g => if j < m.cols then mxDot c.sram (a.tile a.head) (b.tile (b.head + g)) m.dt m.trb m.accum i j v
                else (v.toNat, 0)
    | none => (v.toNat, 0)

/-- A read-out element (R196). -/
def rdaElem (code : Nat) (fcr : Word) (v : Word) : Nat × Flags :=
  let md := readoutMode fcr
  match code with
  | 1 => fCvt .f32 .bf16 md v.toNat
  | 2 => fCvt .f32 .f16 md v.toNat
  | 3 => fCvt .f32 .e4m3 md v.toNat
  | 4 => fCvt .f32 .e5m2 md v.toNat
  | 5 => fOfInt .f32 md v.toInt
  | 6 => (laneOf 8 (max (-128) (min 127 v.toInt)), 0)
  | 7 => (laneOf 16 (max (-32768) (min 32767 v.toInt)), 0)
  | _ => (v.toNat, 0)

def orFlags (l : List (Nat × Flags)) : Flags := l.foldl (fun f r => f ||| r.2) 0

/-- NV, OF or UF (R124: DZ does not occur). -/
def accOf (l : List (Nat × Flags)) : Vector Word 256 := Vector.ofFn fun i => word ((l[i.val]?).getD (0, 0)).1

/-- Whether a product replaces the whole accumulator (R192, R193). -/
def mxReplaces (m : MxCmd) : Bool :=
  !m.accum && decide (m.cols = 16) && decide ((if m.kind = .gmma then mxSum m.counts else m.rows) = 16)

/-- The marks of the operand tiles that a product reads: the head of GA, and the head or the first four of GB. -/
def mxTileMarks (c : CellState) (m : MxCmd) : Bool :=
  (c.rings[m.ga]).mark || ((c.rings[m.gb]).marks.take (if m.kind = .gmma then 4 else 1)).any id

/-- Pop as many tiles as a command takes from a ring. -/
def popN (c : CellState) (g : Fin 8) (n : Nat) : CellState :=
  match n with
  | 0 => c
  | k + 1 => popN (c.popRing g) g k

/-- The effect of a completed command on its cell, and its flags. -/
def mxEffect (c : CellState) (m : MxCmd) : CellState × Flags :=
  let setAcc (c : CellState) (v : Vector Word 256) (x : Bool) : CellState :=
    { c with accs := vset c.accs m.acc v, accMark := vset c.accMark m.acc x }
  let old := c.accMark[m.acc]
  let product : CellState × Flags :=
    let l := mxProductOf c m
    let fl := orFlags l
    let c := setAcc c (accOf l) ((old && !mxReplaces m) || mxTileMarks c m || fl.marks || m.mark)
    let c := popN c m.ga m.popa.toNat
    (popN c m.gb (if m.popb then (if m.kind = .gmma then 4 else 1) else 0), fl)
  match m.kind with
  | .mma => product
  | .gmma => product
  | .zero => (setAcc c (Vector.replicate 256 0) false, 0)
  | .lda =>
    let r := c.rings[m.ga]
    let v : Vector Word 256 := Vector.ofFn fun i => word (c.sram.readN (r.tile r.head + 4 * i.val) 4)
    (popN (setAcc c v (r.mark || m.mark)) m.ga m.popa.toNat, 0)
  | .rda =>
    let r := c.rings[m.ga]
    let l := (c.accs[m.acc]).toList.map (rdaElem m.dt m.fcr)
    let fl := orFlags l
    let sz := rdaSize m.dt
    let mem := c.sram.writeN (r.tile r.tail) (256 * sz) (packNat (8 * sz) (l.map (·.1)))
    let c := { (c.setRing m.ga (r.push (old || fl.marks || m.mark))) with
      sram := mem, readCnt := vset c.readCnt m.acc (c.readCnt[m.acc] + 1) }
    (if m.accum then c else setAcc c (Vector.replicate 256 0) false, fl)
  | .scale =>
    let l := (List.finRange 256).map fun e =>
      fMul .f32 Mode.rne (c.accs[m.acc])[e].toNat
        (m.vec.toNat / 2 ^ (32 * (if m.trb then e.val % 16 else e.val / 16)) % 2 ^ 32)
    let fl := orFlags l
    (setAcc c (accOf l) (old || fl.marks), fl)

/-- The SRAM ranges that a command accesses, with the ring of each (R188, R191): the operand tiles that its groups read,
since the tile of an empty group is popped unread (R193), and the tile that a read-out fills. -/
def mxReads (c : CellState) (m : MxCmd) : List (Nat × Nat × Fin 8) :=
  let a := c.rings[m.ga]
  let b := c.rings[m.gb]
  match m.kind with
  | .mma => [(a.tile a.head, 512, m.ga), (b.tile b.head, 512, m.gb)]
  | .gmma =>
    let gs := (List.range 4).filter fun g => decide (0 < mxCount m.counts g)
    (if gs.isEmpty then [] else [(a.tile a.head, 512, m.ga)]) ++ gs.map fun g => (b.tile (b.head + g), 512, m.gb)
  | .lda => [(a.tile a.head, 1024, m.ga)]
  | .rda => [(a.tile a.tail, 256 * rdaSize m.dt, m.ga)]
  | .zero | .scale => []

/-- The executing command completes after its last cycle (R189), or ends with an ECC record that stops the unit
(R191). Of several bad words the record names the first of tile A, else of the first B tile that has one (log 64). -/
def execMxCommandComplete (n : Nat) (s : State) : Host.Outcome State Fault Refusal :=
  let c := s.cell n
  match c.mxRun with
  | none => .next s
  | some r =>
    if c.cyc < r.due then .next s
    else
      let m := r.cmd
      match (mxReads c m).findSome? (fun q => (c.badWord q.1 q.2.1).map fun w => (w * 8, q.2.2)) with
      | some (a, g) =>
        let s := s.setCell n { c with mxRun := none, mxq := [], mxStop := true }
        let s := s.asyncRecord n m.ctx 0
          { cls := 11, code := 2, opnd := word (a % 2 ^ 18 + g.val * 2 ^ 18), unit := m.acc.val }
        .next (c.mxq.foldl (fun s q => mxDiscard s n q) s)
      | none =>
        let q := mxEffect c m
        let c := (mxReads c m).foldl (fun (c : CellState) r => c.mend r.1 r.2.1) q.1
        .next ((s.setCell n { (c.setCtx m.ctx ((c.ctx m.ctx).raise q.2)) with mxRun := none }).active n)

end Sys2Proof.Machine
end

