-- ==== Sys2Proof/Machine/Report.lean ====
section
/-! DEFINITION. Report.lean: what the module writes for its hosts: egress entries, completion entries, the logs of a stage
(spec 04 R125, R126, 12 R343, R344, 13 R367, R369, R373). -/

namespace Sys2Proof.Machine

/-! ## Egress rings (R367) -/

def State.egress (s : State) (q : Nat) : Egress := s.host.egress.getD q Egress.blank
def State.setEgress (s : State) (q : Nat) (e : Egress) : State :=
  { s with host := { s.host with egress := s.host.egress.put q e } }

/-- Whether the next entry may be written, with `n` entries before it on their way. -/
def Egress.room (e : Egress) (n : Nat) : Bool := decide ((e.count + 2 ^ 21 - e.head) % 2 ^ 21 + n < 2 ^ e.log2n)

def Egress.size (e : Egress) : Nat := if e.cq then 64 else 8
def Egress.addr (e : Egress) : Nat := e.base.toNat + e.count % 2 ^ e.log2n * e.size
def Egress.phase (e : Egress) : Bool := decide (e.count / 2 ^ e.log2n % 2 = 0)

def State.portUp (s : State) (p : Fin 8) : Bool := s.host.pcieUp[p]

/-- A posted write, or the interrupt of a vector, leaves on a port's link (R237); with `wait` it reaches the host behind all that
other ports sent before (R241). -/
def State.postOn (s : State) (port : Fin 8) (addr size v : Nat) (vec : Option Nat) (wait : Bool) : State :=
  { s with host := { s.host with
      posted := s.host.posted ++ [⟨port, addr, size, v, vec, s.strip + Config.linkDelay s.host.postNo, wait⟩], postNo := s.host.postNo + 1 } }
def State.post (s : State) (port : Fin 8) (addr size v : Nat) : State := s.postOn port addr size v none false

/-- A posted write reaches the host. -/
def HostSide.land (h : HostSide) (p : Posted) : HostSide :=
  match p.vec with
  | some v => { h with msix := h.msix ++ [(p.port, v)] }
  | none => { h with hostMem := h.hostMem.writeN p.addr p.size p.data }

/-- The oldest posted write of a port, if it is due, and those behind it that are due: in the order in which the port sent
them, whatever other ports do (R237); a curtain record also waits for what other ports sent before it (R241). -/
def landPort (h : HostSide) (strip : Nat) (port : Fin 8) (fuel : Nat) : HostSide :=
  match fuel, h.posted.find? (fun p => decide (p.port = port)) with
  | k + 1, some p => if p.due ≤ strip ∧ (p.wait = false ∨ h.posted.head? = some p) then landPort ({ h with posted := h.posted.erase p }.land p) strip port k else h
  | _, _ => h

/-- What is due on every link reaches its host. -/
def State.landPosted (s : State) : State :=
  { s with host := (List.finRange 8).foldl (fun h p => landPort h s.strip p h.posted.length) s.host }

/-- Write an entry of a queue: its bytes, the count, the interrupt behind it on the same port. -/
def writeEntry (s : State) (q : Nat) (bytes : Nat) (wait : Bool) : State :=
  let e := s.egress q
  let s1 := s.postOn e.port (e.addr % 2 ^ 64) e.size bytes none wait
  (if e.ien then s1.postOn e.port 0 0 0 (some e.vec) false else s1).setEgress q { e with count := (e.count + 1) % 2 ^ 21 }

/-- The bytes of a word entry. In a queue of 64-byte entries the phase stands in byte 63 too (log 27). -/
def wordEntry (e : Egress) (w : QWord) : Nat :=
  w.data.toNat + w.tag.toNat * 2 ^ 32 + w.x.toNat * 2 ^ 40 + e.phase.toNat * 2 ^ 63
    + (if e.cq then e.phase.toNat * 2 ^ 511 else 0)

/-- The bytes of a completion entry from its words. -/
def wordsNat (l : List Word) : Nat :=
  match l with
  | [] => 0
  | w :: r => w.toNat + 2 ^ 32 * wordsNat r

def ceEntry (e : Egress) (l : List Word) : Nat := wordsNat l % 2 ^ 511 + e.phase.toNat * 2 ^ 511

/-! ## Completion entries (R369, R373) -/

/-- A completion entry as it is written: word 9 of TYPE 5 is the origin of its stage at that time (R373). -/
def ceNow (s : State) (l : List Word) : List Word :=
  if l.head? = some 5 then
    let t := s.stage (((l[8]?).getD 0).toNat)
    l.set 9 (if t.placedOnce then word (t.x0 + t.y0 * 2 ^ 16) else 0xFFFFFFFF)
  else l

/-- Write the oldest held completion entry of a queue, where its ring and its port allow. A curtain record, TYPE 1, is ordered
after every host write of its scene (R241). -/
def writeHeld (s : State) (q : Nat) : State :=
  let e := s.egress q
  match s.host.heldCe.find? (fun h => decide (h.1 = q)) with
  | none => s
  | some h =>
    if s.portUp e.port && e.room 0 then
      writeEntry { s with host := { s.host with heldCe := s.host.heldCe.erase h } } q (ceEntry e (ceNow s h.2)) (h.2.head? == some 1)
    else s

/-- Post a completion entry to a queue. With its port down at most 256 are held, and a further one is lost; with its
ring full the entry waits. -/
def postCe (s : State) (q : Nat) (l : List Word) : State :=
  let e := s.egress q
  let held := (s.host.heldCe.filter (fun h => decide (h.1 = q))).length
  if !s.portUp e.port && decide (256 ≤ held) then s.setEgress q { e with lost := min (e.lost + 1) 2047 }
  else
    let s := { s with host := { s.host with heldCe := s.host.heldCe ++ [(q, l)] } }
    if held = 0 then writeHeld s q else s

/-- A completion entry of a type with its payload words. -/
def ceWords (ty : Nat) (payload : List Word) : List Word :=
  word ty :: List.replicate 7 0 ++ payload ++ List.replicate (8 - payload.length) 0

/-- Post an entry to a stage's completion queue, unless another stage holds that queue by now (R372). -/
def State.complete (s : State) (st ty : Nat) (payload : List Word) : State :=
  if (s.egress (s.stage st).cqn).bound.all fun b => decide (b = st) then postCe s (s.stage st).cqn (ceWords ty payload) else s

/-! ## Records for the host and the logs of a stage (R343, R344) -/

/-- The entry of a record in the stage fault log. -/
def flogEntry (st : Nat) (r : Record) (count : Nat) (div : Bool) : List Word :=
  [r.w1, r.w2, r.w3, r.w4, word (r.scene % 2 ^ 16 + min count 0xFFFF * 2 ^ 16), word r.tick, word (r.tick / 2 ^ 32),
    word (st % 4096 + div.toNat * 2 ^ 12)]

/-- A record whose destination is the host: in the stage fault log and on the stage's completion queue. -/
def State.hostRecord (s : State) (st : Nat) (r : Record) : State :=
  (s.logFault st r 1 false).complete st 2 (flogEntry st r 1 false)

/-- A record of the director about a stage: no context, no slot, coordinates as given. -/
def stageRecord (s : State) (st scene cls code : Nat) (async : Bool) (slot x y : Nat) (opnd : Word) (dest : RecDest) :
    Record :=
  mkRecord (s.setStage st { (s.stage st) with scene := scene }) (CellState.blank st x y) 0 slot async
    { cls := cls, code := code, opnd := opnd } dest

/-- A marked item that leaves its stage is entered in the stage exception log (R125, R126). -/
def State.logMark (s : State) (st cx cy : Nat) (oq : Fin 8) (item : Nat) : State :=
  let t := s.stage st
  if t.elog.length < 1024 then
    s.setStage st { t with
      elog := t.elog ++
        [(word (cx % 512 + cy % 512 * 2 ^ 9 + oq.val * 2 ^ 20), word (t.scene % 2 ^ 16), word item, word s.tick)] }
  else s.setStage st { t with elogOvf := min (t.elogOvf + 1) 0xFFFFFFFF }

/-- A record of a router for the director (R316): physical row and column, and the port. -/
def State.routerRecord (s : State) (n port : Nat) : State :=
  let r := mkRecord s (CellState.blank 0 0 0) 0 0 true
    { cls := 10, code := 5, opnd := word (s.physCol n % 2 ^ 9 + n / 320 % 2 ^ 9 * 2 ^ 9 + port * 2 ^ 18) } .host
  { s with router := s.router ++ [r] }

end Sys2Proof.Machine
end

