-- ==== Sys2Proof/Machine/Scan.lean ====
section
/-! DEFINITION. Scan.lean: the operators, the scan instructions and the combines of the carry line (spec 07 R201 to
R215). -/

namespace Sys2Proof.Machine

/-! ## Operators (R207, R208) -/

/-- The lanes that the input flush acts on: floats of the operator, value lanes of a pair with an index. -/
def scanFloat (op : ScanOp) (i : Nat) : Bool :=
  match op with
  | .addF32 | .maxF32 | .minF32 | .affine | .lse => true
  | .addI32 | .maxI32 | .minI32 => false
  | .maxidx => decide (i % 2 = 0)

/-- DAZC on an operand (R110). -/
def scanFlush (op : ScanOp) (md : Mode) (v : VWord) : VWord :=
  pack 32 ((lanes 32 v).mapIdx fun i n => if scanFloat op i then dazIn .f32 md.daz n else n)

/-- A rational power of two as weight: `2 ^ -d` for `d = n * 2 ^ e`, d not negative: the exact weight where d is an
integer, else its leading bits, with `true`. -/
def lseWeight (n : Nat) (e : Int) : Nat × Int × Bool :=
  if 0 ≤ e ∨ n % 2 ^ (-e).toNat = 0 then
    let d := if 0 ≤ e then n * 2 ^ e.toNat else n / 2 ^ (-e).toNat
    (1, -(min d 1000 : Nat), false)
  else
    let q := 2 ^ (-e).toNat
    let d := n / q
    let f := (q - n % q) * 2 ^ 600 / q
    (expLoop600 (f * ln2x / 2 ^ 600), -(min d 1000 : Nat) - 1 - 600, true)
where
  ln2x : Nat := 0xb17217f7d1cf79abc9e3b39803f2f6af40f343267298b62d8a0d175b8baafa2be7b876206debac98559552fb4afa1b10ed2eae35c138214427573b291169b8253e96ca16224ae8c51acbda
  expLoop600 (z : Nat) : Nat := loop z (2 ^ 600) (2 ^ 600) 1 150
  loop (z term acc i : Nat) (fuel : Nat) : Nat :=
    match fuel with
    | 0 => acc
    | k + 1 =>
      let t := term * z / 2 ^ 600 / i
      loop z t (acc + t) (i + 1) k

/-- The sum of LSE with weight 1 on `big` and an inexact weight `w * 2 ^ e`, cut below, on `small`: one rounding of the
exact real value (R208; log 8). -/
def lseIrr (md : Mode) (big small : Fval) (w : Nat) (e : Int) : Nat × Flags :=
  match small with
  | .fin ng m x =>
    if m = 0 then ((Sum.zero.add (big, false)).add (small, false)).round .f32 md
    else
      match big with
      | .fin bg bm bx =>
        let lo := min (x + e) (if bm = 0 then x + e else bx)
        let k : Int := 2 ^ (x + e - lo).toNat
        let b : Int := if bm = 0 then 0 else (if bg then -1 else 1) * (bm * 2 ^ (bx - lo).toNat : Int)
        let sgn : Int := if ng then -1 else 1
        let a0 : Int := b + sgn * m * w * k
        let a1 : Int := b + sgn * m * (w + 2 ^ 16) * k
        let neg := decide (a0 + a1 < 0)
        roundMag .f32 md neg (max 1 (min a0.natAbs a1.natAbs)) lo true
      | _ => ((Sum.zero.add (big, false)).add (small, false)).round .f32 md
  | _ => ((Sum.zero.add (big, false)).add (small, false)).round .f32 md

/-- LSE on a pair (R208). A NaN `m` leaves the `s` components unread: a signalling NaN among them raises nothing (log 71). -/
def lsePair (md : Mode) (m1 s1 m2 s2 : Nat) : (Nat × Nat) × Flags :=
  let p := fPick .f32 true m1 m2
  let v1 := Fval.of .f32 s1
  let v2 := Fval.of .f32 s2
  let two (w1 w2 : Fval) : Nat × Flags := ((Sum.zero.add (w1.mul v1)).add (w2.mul v2)).round .f32 md
  let one : Fval := .fin false 1 0
  let zero : Fval := .fin false 0 0
  let r : Nat × Flags :=
    if isNan .f32 m1 || isNan .f32 m2 then (Fmt.nan .f32, 0)
    else
      match Fval.of .f32 p.1, Fval.of .f32 m1, Fval.of .f32 m2 with
      | .inf true, _, _ => two one one
      | .inf false, a, b => two (if a = .inf false then one else zero) (if b = .inf false then one else zero)
      | .fin _ _ _, a, b =>
        let first := decide (cmpKey .f32 m2 ≤ cmpKey .f32 m1)
        let big := if first then a else b
        let low := if first then b else a
        match big, low with
        | .fin g m x, .fin h n y =>
          let bigD : Dy := ⟨if g then -(m : Int) else m, x⟩
          let lowD : Dy := ⟨if h then (n : Int) else -(n : Int), y⟩
          let d := bigD.add lowD
          let w := lseWeight d.n.natAbs d.e
          if w.2.2 then (if first then lseIrr md v1 v2 w.1 w.2.1 else lseIrr md v2 v1 w.1 w.2.1)
          else
            let wv : Fval := .fin false w.1 w.2.1
            if first then two one wv else two wv one
        | _, _ => (if first then two one zero else two zero one)
      | _, _, _ => (Fmt.nan .f32, 0)
  ((p.1, r.1), p.2 ||| r.2)

/-- MAXIDX on a pair (R208). -/
def maxidxPair (v1 i1 v2 i2 : Nat) : (Nat × Nat) × Flags :=
  let low : Nat := if (word i2).toInt < (word i1).toInt then i2 else i1
  let fl := flIf (isSNan .f32 v1 || isSNan .f32 v2) flNV
  if isNan .f32 v1 && isNan .f32 v2 then ((Fmt.nan .f32, low), fl)
  else if isNan .f32 v1 then ((v2, i2), fl)
  else if isNan .f32 v2 then ((v1, i1), fl)
  else if v1 = v2 then ((v1, low), fl)
  else if ordKey .f32 v1 < ordKey .f32 v2 then ((v2, i2), fl)
  else ((v1, i1), fl)

/-- A pair operator on all eight pairs. -/
def onPairs (g : Nat × Nat → Nat × Nat → (Nat × Nat) × Flags) (a b : VWord) : VWord × Flags :=
  packF 32 ((List.zipWith g (pairs (lanes 32 a)) (pairs (lanes 32 b))).flatMap fun r => [(r.1.1, r.2), (r.1.2, 0)])

/-- `op` of a left and a right operand that are flushed where they need be (R207). -/
def scanOp (op : ScanOp) (md : Mode) (a b : VWord) : VWord × Flags :=
  let md : Mode := { md with daz := false }
  match op with
  | .addF32 => vBin .add .f32 md a b
  | .addI32 => vBin .add .i32 md a b
  | .maxF32 => vBin .max .f32 md a b
  | .maxI32 => vBin .max .i32 md a b
  | .minF32 => vBin .min .f32 md a b
  | .minI32 => vBin .min .i32 md a b
  | .affine => onPairs (fun l r =>
      let x := fMul .f32 md l.1 r.1
      let y := fFma .f32 md r.1 l.2 r.2
      ((x.1, y.1), x.2 ||| y.2)) a b
  | .lse => onPairs (fun l r => lsePair md l.1 l.2 r.1 r.2) a b
  | .maxidx => onPairs (fun l r => maxidxPair l.1 l.2 r.1 r.2) a b

/-- Combine latency in cycles (R207). -/
def scanLat (op : ScanOp) : Nat :=
  match op with
  | .affine => 3
  | .lse => 6
  | _ => 1

/-- The identity of an operator (R207). -/
def scanIdent (op : ScanOp) : VWord :=
  let all (n : Nat) : VWord := pack 32 (List.replicate 16 n)
  let two (m n : Nat) : VWord := pack 32 ((List.replicate 8 [m, n]).flatten)
  match op with
  | .addF32 => all 0x80000000
  | .addI32 => 0
  | .maxF32 => all 0xFF800000
  | .maxI32 => all 0x80000000
  | .minF32 => all 0x7F800000
  | .minI32 => all 0x7FFFFFFF
  | .affine => two 0x3F800000 0x80000000
  | .lse => two 0xFF800000 0
  | .maxidx => two 0xFF800000 0x7FFFFFFF

/-- One beat of SC.LOCAL: the running value so far, none if empty, and the beat's entry (R210). The running value meets
no further input flush (R166; log 13). -/
def scanLocalBeat (op : ScanOp) (md : Mode) (run : Option VWord) (e : VWord) : VWord × Flags :=
  match run with
  | none => (scanFlush op md e, 0)
  | some r => scanOp op md r (scanFlush op md e)

/-- One beat of SC.APPLY: `op(P, e)` (R213). -/
def scanApplyBeat (op : ScanOp) (md : Mode) (p e : VWord) : VWord × Flags := scanOp op md p (scanFlush op md e)

/-! ## Instructions on the port (R209, R211, R212, R214) -/

/-- sub − rcv as a signed value (R203). -/
def ScanPort.lead (p : ScanPort) : Int := (p.sub - p.rcv).toInt

/-- The head of a vector source; readiness guarantees an entry of a queue. -/
def vsrcVal (c : CellState) (t : Context) (a : VSrc) : SEnt :=
  match a with
  | .v r => ⟨t.v[r], false⟩
  | .sq q => ((c.sq[q]).head?).getD ⟨0, false⟩

def vsrcReady (c : CellState) (a : VSrc) : Bool :=
  match a with
  | .v _ => true
  | .sq q => !(c.sq[q]).isEmpty

def CellState.popSq (c : CellState) (q : Fin 4) : CellState := { c with sq := vset c.sq q (c.sq[q]).tail }

def popVSrc (c : CellState) (a : VSrc) : CellState :=
  match a with
  | .v _ => c
  | .sq q => c.popSq q

/-- SC.AGG (R211), released where `rel` holds. -/
def aggNeeds (rel : Bool) (grp : Fin 8) (a : VSrc) (s : State) : Needs :=
  let p := s.cur.scan[grp]
  ⟨[], none, vsrcReady s.cur a && decide (p.lead < 2) && p.agg.isNone && (!rel || decide (s.here.uack = 0)), []⟩

def aggEff (op : ScanOp) (grp : Fin 8) (a : VSrc) (p : PAct) (s : State) : Effect :=
  let e := vsrcVal s.cur s.here a
  let port := s.cur.scan[grp]
  let ag : Agg :=
    { round := port.sub, grp := grp, cell := s.focus.cell, op := op, val := e.data, mark := e.x, fcr := s.here.fcr
      ctx := s.focus.ctx, dir := port.dir, epoch := port.epoch, sent := s.cur.cyc }
  let c := popVSrc s.cur a
  let port := { port with sub := port.sub + 1, agg := some port.sub, ops := port.ops ++ [(port.sub, op)] }
  let c := { c with scan := vset c.scan grp port }
  let st := s.stage c.stage
  let s := s.setStage c.stage { st with aggs := st.aggs ++ [ag] }
  onCell p (fun _ => c) s

def execScAgg (c : Cue) (op : ScanOp) (grp : Fin 8) (a : VSrc) (p : PAct) (s : State) :
    Host.Outcome State Fault Refusal := fire s c (aggNeeds false grp a s) (aggEff op grp a p)

def execScAggRel (c : Cue) (op : ScanOp) (grp : Fin 8) (a : VSrc) (p : PAct) (s : State) :
    Host.Outcome State Fault Refusal := fire s c (aggNeeds true grp a s) (aggEff op grp a p)

/-- The predicate action of a vector result (R73). -/
def Context.actV (t : Context) (p : PAct) (v : VWord) : Context := t.act p (decide (v ≠ 0))

def pfxNeeds (grp : Fin 8) (s : State) : Needs := ⟨[], none, (s.cur.scan[grp]).pfxReady, []⟩

/-- SC.PFX (R212). -/
def execScPfx (c : Cue) (grp : Fin 8) (d : Fin 8) (p : PAct) (s : State) : Host.Outcome State Fault Refusal :=
  fire s c (pfxNeeds grp s) (fun s =>
    let port := s.cur.scan[grp]
    let e := ((port.pfx.find? (fun e => e.1 = port.rcv)).map (·.2)).getD (0, false)
    let port := { port with
      rcv := port.rcv + 1, pmark := e.2, pfx := port.pfx.filter (fun q => decide (q.1 ≠ port.rcv))
      ops := port.ops.filter (fun q => decide (q.1 ≠ port.rcv)) }
    let t := s.here
    let t := ({ t with v := vset t.v d e.1 } : Context).actV p e.1
    .done (s.setCur ({ s.cur with scan := vset s.cur.scan grp port }.setCtx s.focus.ctx t)))

def resetNeeds (grp : Fin 8) (s : State) : Needs :=
  let p := s.cur.scan[grp]
  ⟨[], none, decide (p.sub = p.rcv) && p.agg.isNone, []⟩

/-- The position of a member after its group's direction is set: a new direction counts from the opposite corner (R201). -/
def turnedPos (st : Stage) (grp : Fin 8) (port : ScanPort) (dir : Bool) : Nat :=
  if dir = port.dir then port.pos else ((st.groups[grp]).elim 0 fun g => g.w * g.h) - 1 - port.pos

/-- SC.CFG and SC.RESET (R214): captures of the old epoch go with it. -/
def resetEff (grp : Fin 8) (dir : Option Bool) (p : PAct) (s : State) : Effect :=
  let port := s.cur.scan[grp]
  let st := s.stage s.cur.stage
  let d := dir.getD port.dir
  let port := { port with
    sub := 0, rcv := 0, pfx := [], ops := [], work := [], epoch := !port.epoch, pmark := false, dir := d
    pos := turnedPos st grp port d }
  let s := s.setStage s.cur.stage
    { st with aggs := st.aggs.filter (fun a => !(decide (a.grp = grp) && decide (a.cell = s.focus.cell))) }
  onCell p (fun c => { c with scan := vset c.scan grp port }) s

def execScCfg (c : Cue) (grp : Fin 8) (dir : Bool) (p : PAct) (s : State) : Host.Outcome State Fault Refusal :=
  fire s c (resetNeeds grp s) (resetEff grp (some dir) p)

def execScReset (c : Cue) (grp : Fin 8) (p : PAct) (s : State) : Host.Outcome State Fault Refusal :=
  fire s c (resetNeeds grp s) (resetEff grp none p)

/-! ## Combines of the carry line (R201 to R206) -/

/-- The number of segments of a group row. -/
def ScanGroup.segs (g : ScanGroup) : Nat := (g.w + 15) / 16

/-- The last member of a segment. -/
def ScanGroup.segLast (g : ScanGroup) (sg : Nat) : Nat := min (16 * sg + 15) (g.w - 1)

/-- The member at whose port a quantity is formed, none where the quantity does not exist or nobody reads it (R204;
log 14). -/
def ScanGroup.portOf (g : ScanGroup) (q : ScanQ) : Option (Nat × Nat) :=
  match q with
  | .cellPfx c h => if c % 16 ≠ 0 ∧ c < g.w ∧ h < g.h then some (c - 1, h) else none
  | .seg sg h => if sg < g.segs ∧ h < g.h then some (g.segLast sg, h) else none
  | .segPfx sg h => if 1 ≤ sg ∧ sg < g.segs ∧ h < g.h then some (16 * sg, h) else none
  | .row h => if h + 1 < g.h then some (16 * (g.segs - 1), h) else none
  | .rowPfx h => if 1 ≤ h ∧ h < g.h then some (0, h - 1) else none
  | .base sg h => if sg < g.segs ∧ h < g.h ∧ (sg ≠ 0 ∨ h ≠ 0) then some (16 * sg, h) else none
  | .pfx c h => if c < g.w ∧ h < g.h then some (c, h) else none

/-- One operand of a combine: none, the port's own aggregate, or a quantity. -/
inductive ScanArg where
  | empty
  | own
  | carry (q : ScanQ)
  deriving DecidableEq, Repr

/-- The left and right operands of a quantity (R204). -/
def ScanGroup.args (g : ScanGroup) (q : ScanQ) : ScanArg × ScanArg :=
  match q with
  | .cellPfx c h => (if (c - 1) % 16 = 0 then .empty else .carry (.cellPfx (c - 1) h), .own)
  | .seg sg h => (if g.segLast sg % 16 = 0 then .empty else .carry (.cellPfx (g.segLast sg) h), .own)
  | .segPfx sg h => (if sg = 1 then .empty else .carry (.segPfx (sg - 1) h), .carry (.seg (sg - 1) h))
  | .row h => (if g.segs = 1 then .empty else .carry (.segPfx (g.segs - 1) h), .carry (.seg (g.segs - 1) h))
  | .rowPfx h => (if h = 1 then .empty else .carry (.rowPfx (h - 1)), .carry (.row (h - 1)))
  | .base sg h => (if h = 0 then .empty else .carry (.rowPfx h), if sg = 0 then .empty else .carry (.segPfx sg h))
  | .pfx c h =>
    (if c / 16 = 0 ∧ h = 0 then .empty else .carry (.base (c / 16) h),
      if c % 16 = 0 then .empty else .carry (.cellPfx c h))

/-- The module-logical number of the member at (c, h) for a direction (R201). -/
def scanCell (st : Stage) (g : ScanGroup) (dir : Bool) (p : Nat × Nat) : Nat :=
  if dir then st.cellAt (g.x + (g.w - 1 - p.1)) (g.y + (g.h - 1 - p.2)) else st.cellAt (g.x + p.1) (g.y + p.2)

/-- Hops that a quantity takes to the member that uses it (R206). -/
def scanHops (s : State) (st : Stage) (g : ScanGroup) (dir : Bool) (q : ScanQ) (p : Nat × Nat) : Nat :=
  let gap (c1 c2 : Nat) : Nat :=
    let a := s.physCol (scanCell st g dir (c1, p.2))
    let b := s.physCol (scanCell st g dir (c2, p.2))
    (a - b) + (b - a)
  match q with
  | .cellPfx c _ => gap (c - 1) p.1
  | .seg sg _ => if p.1 = 16 * sg then min 1 (gap (g.segLast sg) p.1) else gap (g.segLast sg) p.1
  | .segPfx sg _ => p.1 / 16 - sg
  | .row _ => g.segs - 1
  | .rowPfx _ => 1 + p.1 / 16
  | .base sg _ => gap (16 * sg) p.1
  | .pfx _ _ => 0

/-- An operand of a combine: its value, its mark, the strip cycle in which it arrives, whether its check holds. -/
structure ScanIn where
  val : VWord
  mark : Bool
  due : Nat
  good : Bool
  deriving DecidableEq, Repr

/-- A port's captured aggregate of a round under its own direction and epoch (R205). -/
def ownAgg (st : Stage) (grp : Fin 8) (n : Nat) (round : Word) (port : ScanPort) : Option Agg :=
  st.aggs.find? fun a =>
    decide (a.grp = grp) && decide (a.cell = n) && decide (a.round = round) && a.dir == port.dir
      && a.epoch == port.epoch

def findCarry (st : Stage) (grp : Fin 8) (round : Word) (q : ScanQ) (port : ScanPort) : Option Carry :=
  st.carries.find? fun k =>
    decide (k.grp = grp) && decide (k.round = round) && decide (k.q = q) && k.dir == port.dir && k.epoch == port.epoch

/-- An operand: none where it has not come, `some none` where it is empty. A carry arrives 2 cycles of the strip clock a
hop after it was formed (R24, R206): which clock counts them is the model's choice (log 61). -/
def scanArg (s : State) (st : Stage) (g : ScanGroup) (grp : Fin 8) (n : Nat) (p : Nat × Nat) (round : Word)
    (port : ScanPort) (a : ScanArg) : Option (Option ScanIn) :=
  match a with
  | .empty => some none
  | .own => (ownAgg st grp n round port).map fun g => some ⟨g.val, g.mark, 0, true⟩
  | .carry q => ((findCarry st grp round q port).filter fun k => !k.stray).map fun k =>
      some ⟨k.val, k.mark, k.formed + 2 * scanHops s st g port.dir q p, k.good⟩

/-- What a port forms: the value, its mark, the strip cycle by which its operands have arrived, the cell cycles that the
combine takes, the flags, and whether the operands' checks hold. -/
structure ScanOut where
  val : VWord
  mark : Bool
  due : Nat
  lat : Nat
  flags : Flags
  good : Bool
  deriving DecidableEq, Repr

/-- Form a quantity from its operands (R204, R205, R212). The prefix of the first member is the identity of its own
operator; a combine needs the port's own submission; a lone operand passes unchanged. -/
def scanForm (own : Option Agg) (l r : Option ScanIn) : Option ScanOut :=
  match l, r with
  | none, none => own.map fun a => ⟨scanIdent a.op, false, 0, 0, 0, true⟩
  | some a, none => some ⟨a.val, a.mark, a.due, 0, 0, a.good⟩
  | none, some a => some ⟨a.val, a.mark, a.due, 0, 0, a.good⟩
  | some a, some b => own.map fun g =>
      let md := scanMode g.fcr
      let v := scanOp g.op md (scanFlush g.op md a.val) (scanFlush g.op md b.val)
      ⟨v.1, a.mark || b.mark || v.2.marks, max a.due b.due, scanLat g.op, v.2, a.good && b.good⟩

/-- Whether a port may deliver a prefix to its buffer: of the rounds rcv and rcv + 1 (R203). -/
def pfxRoom (port : ScanPort) (round : Word) : Bool := decide ((round - port.rcv).toNat < 2)

/-- Every quantity of a group, which clears a finished round from the line. -/
def ScanGroup.all (g : ScanGroup) : List ScanQ :=
  (List.range g.h).flatMap (fun h =>
    (List.range g.w).flatMap (fun c => [ScanQ.cellPfx c h, .pfx c h])
      ++ (List.range g.segs).flatMap (fun sg => [ScanQ.seg sg h, .segPfx sg h, .base sg h])
      ++ [ScanQ.row h, .rowPfx h]) |>.filter fun q => (g.portOf q).isSome

/-- Whether two carries belong to one round under one label. -/
def Carry.mates (a b : Carry) : Bool :=
  decide (a.grp = b.grp) && decide (a.round = b.round) && a.dir == b.dir && a.epoch == b.epoch

/-- Whether every port that a carry is for has used it: what is formed from it stands on the line. -/
def Stage.used (st : Stage) (g : ScanGroup) (k : Carry) : Bool :=
  g.all.all fun q =>
    !(decide ((g.args q).1 = .carry k.q) || decide ((g.args q).2 = .carry k.q))
      || st.carries.any fun o => decide (o.q = q) && o.mates k

/-- Whether a port is held back: the carry that it sent on the same path before is not used yet, be it that its round
waits or that its label does not match (R202; log 62). -/
def Stage.heldBack (st : Stage) (g : ScanGroup) (grp : Fin 8) (q : ScanQ) : Bool :=
  st.carries.any fun k => decide (k.grp = grp) && decide (k.q = q) && !st.used g k

/-- The quantity that a member's port can form, with the member's number, once its operands have arrived: they are formed, and the
ports behind it take the result. -/
def scanCan (s : State) (st : Stage) (grp : Fin 8) (round : Word) (q : ScanQ) (dir : Bool) :
    Option (Nat × ScanOut) :=
  match st.groups[grp] with
  | none => none
  | some g =>
    match g.portOf q with
    | none => none
    | some p =>
      let n := scanCell st g dir p
      let port := (s.cell n).scan[grp]
      if !port.member || port.dir != dir || (findCarry st grp round q port).isSome || st.heldBack g grp q
        || (match q with | .pfx _ _ => !pfxRoom port round | _ => false) then none
      else
        let own := ownAgg st grp n round port
        let a := g.args q
        match scanArg s st g grp n p round port a.1, scanArg s st g grp n p round port a.2 with
        | some l, some r => (scanForm own l r).map fun o => (n, o)
        | _, _ => none

/-- The quantity that a member's port can form now: its operands have arrived, and its own submission is visible in its cell. -/
def scanReady (s : State) (st : Stage) (grp : Fin 8) (round : Word) (q : ScanQ) (dir : Bool) :
    Option (Nat × ScanOut) :=
  (scanCan s st grp round q dir).filter fun e =>
    decide (e.2.due ≤ s.strip) && (ownAgg st grp e.1 round (s.cell e.1).scan[grp]).all fun g => decide (g.sent < (s.cell e.1).cyc)

/-- Whether a port of a stage's groups can form a quantity of a round that has begun: a round in flight goes on (R215, R242). -/
def scanMoves (s : State) (st : Stage) : Bool :=
  (List.finRange 8).any fun grp => (st.groups[grp]).any fun g =>
    let rounds := ((st.aggs.filter fun a => decide (a.grp = grp)).map (·.round)
      ++ (st.carries.filter fun k => decide (k.grp = grp)).map (·.round)).dedup
    rounds.any fun r => g.all.any fun q => (scanCan s st grp r q false).isSome || (scanCan s st grp r q true).isSome

/-- Forget a round all of whose quantities are formed. -/
def Stage.clearRound (st : Stage) (grp : Fin 8) (round : Word) (port : ScanPort) : Stage :=
  match st.groups[grp] with
  | none => st
  | some g =>
    if g.all.all (fun q => (findCarry st grp round q port).isSome) then
      { st with
        carries := st.carries.filter fun k => !(decide (k.grp = grp) && decide (k.round = round)
          && k.dir == port.dir && k.epoch == port.epoch)
        aggs := st.aggs.filter fun a => !(decide (a.grp = grp) && decide (a.round = round)
          && a.dir == port.dir && a.epoch == port.epoch) }
    else st

/-- The operands of a quantity whose checks fail and are not reported (R351). -/
def badArgs (st : Stage) (grp : Fin 8) (round : Word) (q : ScanQ) (port : ScanPort) (k : Carry) : Bool :=
  let uses (a : ScanArg) : Bool := decide (a = .carry k.q)
  !k.good && !k.told && decide (k.grp = grp ∧ k.round = round) && k.dir == port.dir && k.epoch == port.epoch
    && (st.groups[grp]).any fun g => uses (g.args q).1 || uses (g.args q).2

/-- Perform a combine that is ready: the carry leaves the port, the aggregate place empties when its aggregate is used,
a prefix reaches the buffer, flags reach the captured context (R202 to R206). A carry whose check fails is reported once, at the
first port that combines it (R351). -/
def scanPerform (s : State) (id : Nat) (grp : Fin 8) (round : Word) (q : ScanQ) (n : Nat) (o : ScanOut) : State :=
  let st := s.stage id
  let c := s.cell n
  let port := c.scan[grp]
  let own := ownAgg st grp n round port
  let usesOwn := match q with
    | .cellPfx _ _ => true
    | .seg _ _ => true
    | _ => false
  let mark := o.mark || !o.good
  let pre := match q with
    | .pfx _ _ => port.pfx ++ [(round, o.val, mark)]
    | _ => port.pfx
  let port' := { port with
    agg := if usesOwn then none else port.agg, pfx := pre
    work := port.work.filter fun w => !(decide (w.1 = round) && decide (w.2.1 = q)) }
  let c := { c with scan := vset c.scan grp port' }
  let c := match own with
    | some a => c.setCtx a.ctx ((c.ctx a.ctx).raise o.flags)
    | none => c
  let k : Carry :=
    { round := round, grp := grp, q := q, val := o.val, mark := mark, formed := s.strip, dir := port.dir
      epoch := port.epoch, good := true }
  let bad := badArgs st grp round q port
  let told := st.carries.map fun (k : Carry) => if bad k then { k with told := true } else k
  let s := (s.setCell n c).setStage id (({ st with carries := told ++ [k] } : Stage).clearRound grp round port)
  (st.carries.filter bad).foldl (fun s _ => s.asyncRecord n ((own.map (·.ctx)).getD 0) 0 { cls := 10, code := 6, opnd := 0 }) s

/-- A combine that is ready starts, or ends once its latency has run in cycles of the performing cell (R3, R207); an
operand that passes unchanged takes no combine. -/
def scanTurn (s : State) (id : Nat) (grp : Fin 8) (round : Word) (q : ScanQ) (n : Nat) (o : ScanOut) : State :=
  let c := s.cell n
  let port := c.scan[grp]
  match port.work.find? (fun w => decide (w.1 = round) && decide (w.2.1 = q)) with
  | some w => if w.2.2 + o.lat ≤ c.cyc then scanPerform s id grp round q n o else s
  | none =>
    if o.lat = 0 then scanPerform s id grp round q n o
    else s.setCell n { c with scan := vset c.scan grp { port with work := port.work ++ [(round, q, c.cyc)] } }

/-- At the first member of a group the prefix of a round stands in the buffer from the cycle after that member submits the round: no
carry comes to it (R203, R212). -/
def ownPrefixes (n : Nat) (s : State) : Host.Outcome State Fault Refusal :=
  let id := (s.cell n).stage
  .next ((List.finRange 8).foldl (fun s grp =>
    ((s.stage id).aggs.filter fun a => decide (a.grp = grp ∧ a.cell = n)).foldl (fun s a =>
      match scanReady s (s.stage id) grp a.round (.pfx 0 0) (s.cell n).scan[grp].dir with
      | some (m, o) => if m = n then scanPerform s id grp a.round (.pfx 0 0) n o else s
      | none => s) s) s)

/-- The carries for a quantity that have arrived at the port of a cell that is no member of the group: the port discards them
(R316). -/
def strays (s : State) (st : Stage) (grp : Fin 8) (round : Word) (q : ScanQ) : Option (Nat × List Carry) :=
  match st.groups[grp], (st.groups[grp]).bind fun g => g.portOf q with
  | some g, some p =>
    let l := st.carries.filter fun k =>
      decide (k.grp = grp) && decide (k.round = round) && !k.stray
        && (decide ((g.args q).1 = .carry k.q) || decide ((g.args q).2 = .carry k.q))
        && decide (k.formed + 2 * scanHops s st g k.dir k.q p ≤ s.strip)
        && !((s.cell (scanCell st g k.dir p)).scan[grp]).member
    l.head?.map fun k => (scanCell st g k.dir p, l)
  | _, _ => none

/-- The port discards such carries, with a record for the director that names the cell's router and its network interface
(log 77). -/
def scanDiscard (s : State) (id n : Nat) (l : List Carry) : State :=
  let st := s.stage id
  (s.setStage id { st with
    carries := st.carries.map fun k => if l.contains k then { k with stray := true } else k }).routerRecord n 4

/-- A combine of the carry line. -/
def execScanCombine (id : Nat) (grp : Fin 8) (round : Word) (q : ScanQ) (s : State) :
    Host.Outcome State Fault Refusal :=
  let st := s.stage id
  if st.status ≠ .placed then .next s
  else
    match scanReady s st grp round q false with
    | some (n, o) => .next (scanTurn s id grp round q n o)
    | none =>
      match scanReady s st grp round q true with
      | some (n, o) => .next (scanTurn s id grp round q n o)
      | none =>
        match strays s st grp round q with
        | some (n, l) => .next (scanDiscard s id n l)
        | none => .next s

end Sys2Proof.Machine
end

