-- ==== Sys2Proof/Machine/Private.lean ====
section
/-! DEFINITION. Private.lean: the private space, loads and stores, the line cache with its fills and write-backs, merge
windows, FENCE.L, and the beats of VLD and VST (spec 02 R63, R65, 06 R177, R178, 09 R246 to R251, R407, 01 R14). -/

namespace Sys2Proof.Machine

/-! ## Addresses (R63) -/

def sliceBase : Nat := 0x40000000

/-- Bytes of the slice that the cell reaches. -/
def CellState.sliceReach (c : CellState) : Nat := c.sliceMiB * 2 ^ 20 - 2 ^ 19

def inSram (t n : Nat) : Bool := decide (t + n ≤ 0x40000)
def CellState.inSlice (c : CellState) (t n : Nat) : Bool :=
  decide (sliceBase ≤ t) && decide (t + n ≤ sliceBase + c.sliceReach)

/-- Whether an access lies wholly in SRAM or wholly in the reachable slice. -/
def CellState.inPrivate (c : CellState) (t n : Nat) : Bool := inSram t n || c.inSlice t n

def alignFault (t : Nat) : FaultInfo := { cls := 4, code := 0, opnd := word t }
def boundsFault (t : Nat) : FaultInfo := { cls := 3, code := 0, opnd := word t }

/-- The slice line of an address. -/
def lineOf (t : Nat) : Nat := (t - sliceBase) / 32

/-! ## The slice in the DRAM wafer (R13) -/

/-- `n` bytes of a slice from offset `o`. -/
def State.sliceRead (s : State) (cell o n : Nat) : Nat :=
  match n with
  | 0 => 0
  | k + 1 => (s.firn.read (s.sliceKey cell o)).toNat + 256 * s.sliceRead cell (o + 1) k

/-- Store `n` bytes of a slice. -/
def State.sliceWrite (s : State) (cell o n v : Nat) : State :=
  match n with
  | 0 => s
  | k + 1 =>
    ({ s with firn := s.firn.write (s.sliceKey cell o) (BitVec.ofNat 8 v) } : State).sliceWrite cell (o + 1) k (v / 256)

/-! ## Merge windows (R14) -/

/-- A request reaches the strip port: it joins the merge window of its line and direction, or opens one. A position that
stands in the open window already opens a second one beside it, which R14 does not decide (log 63). -/
def State.join (s : State) (cell line : Nat) (write : Bool) (user : PortUser) (data : BitVec 256) : State :=
  let h := s.stripOf cell * 2 + s.halfOf cell
  let me := (cell, s.posOf cell, user, data)
  let fits (m : Merge) : Bool :=
    decide (m.half = h) && decide (m.line = line) && m.write == write && !m.who.any (fun w => w.2.1 == s.posOf cell)
  match s.merges.findIdx? fits with
  | some i => { s with merges := s.merges.modify i fun m => { m with who := m.who ++ [me] } }
  | none => { s with merges := s.merges ++ [⟨h, line, write, s.strip, [me]⟩] }

/-- The line-cache requests of the cycle before reach the port (R407). -/
def askPort (s : State) (n : Nat) : State :=
  let c := s.cell n
  let fills := (c.fills.filter fun f => !f.asked).map (·.line)
  let wbs := c.wbs.filter fun w => !w.asked
  let s := s.setCell n { c with
    fills := c.fills.map fun (f : Fill) => { f with asked := true }, wbs := c.wbs.map fun (w : WriteBack) => { w with asked := true } }
  let s := fills.foldl (fun s l => s.join n l false .cache 0) s
  wbs.foldl (fun s w => s.join n w.line true .cache w.data) s

/-- Take the first write-back of a line with given data out of the list. -/
def dropWb (l : List WriteBack) (line : Nat) (d : BitVec 256) : List WriteBack := l.eraseP fun w => decide (w.line = line ∧ w.data = d)

/-- What the closing of a window does for one of its requests: a write-back is applied, a fill's burst is issued and
arrives 20 strip cycles later (R407), an engine's access is served. -/
def closeOne (line : Nat) (write : Bool) (s : State) (w : Nat × Nat × PortUser × BitVec 256) : State :=
  let c := s.cell w.1
  match w.2.2.1 with
  | .cache =>
    if write then
      (s.setCell w.1 { c with
        wbs := dropWb c.wbs line w.2.2.2, badLines := c.badLines.filter (fun l => decide (l ≠ line)) }).sliceWrite
        w.1 (line * 32) 32 w.2.2.2.toNat
    else
      s.setCell w.1 { c with
        fills := c.fills.map fun f => if f.line = line ∧ f.asked = true ∧ f.arrive = none then { f with arrive := some (s.strip + 20) } else f }
  | u => s.setCell w.1 { c with
      port := c.port.map fun (r : PortReq) => if r.user = u ∧ r.line = line ∧ r.write = write then { r with served := true } else r }

/-- Whether the port has served an engine's access to lines. -/
def CellState.portServed (c : CellState) (u : PortUser) (ls : List Nat) (write : Bool) : Bool :=
  ls.all fun l => c.port.any fun r => decide (r.user = u ∧ r.line = l) && r.write == write && r.served

/-- Whether an engine has asked the port for lines. -/
def CellState.portAsked (c : CellState) (u : PortUser) : Bool := c.port.any fun r => decide (r.user = u)

/-- An engine asks the port for lines (R14). -/
def State.portAsk (s : State) (n : Nat) (u : PortUser) (ls : List Nat) (write : Bool) : State :=
  let c := s.cell n
  ls.foldl (fun s l => s.join n l write u 0) (s.setCell n { c with port := c.port ++ ls.map fun l => ⟨u, l, write, false⟩ })

/-- Requests of an engine leave the port, and the open windows too: it is done with them, or gives them up. -/
def State.portDrop (s : State) (n : Nat) (p : PortUser → Nat → Bool) : State :=
  let c := s.cell n
  { (s.setCell n { c with port := c.port.filter fun r => !p r.user r.line }) with
    merges := (s.merges.map fun (m : Merge) => { m with who := m.who.filter fun w => !(decide (w.1 = n) && p w.2.2.1 m.line) }).filter
      fun m => !m.who.isEmpty }
def State.portDone (s : State) (n : Nat) (u : PortUser) : State := s.portDrop n fun v _ => decide (v = u)
def State.lineDone (s : State) (n : Nat) (u : PortUser) (l : Nat) : State := s.portDrop n fun v k => decide (v = u ∧ k = l)

/-- A merge window closes when all eight positions are present or 64 strip cycles after it opened. -/
def execMergeWindowClose (i : Nat) (s : State) : Host.Outcome State Fault Refusal :=
  match s.merges[i]? with
  | none => .next s
  | some m =>
    if m.who.length = 8 ∨ m.opened + 64 ≤ s.strip then
      .next (m.who.foldl (closeOne m.line m.write) { s with merges := s.merges.eraseIdx i })
    else .next s

/-! ## The line cache (R65) -/

def CellState.findLine (c : CellState) (l : Nat) : Option Line := c.cache.find? (fun e => decide (e.line = l))
def CellState.filling (c : CellState) (l : Nat) : Bool := c.fills.any (fun f => decide (f.line = l))

/-- Use a line: it becomes the most recent of its set. -/
def CellState.touch (c : CellState) (e : Line) : CellState :=
  { c with cache := e :: c.cache.filter (fun x => decide (x.line ≠ e.line)) }

/-- A write-back starts on its way to the strip port. -/
def State.writeBack (s : State) (n : Nat) (e : Line) : State :=
  let c := s.cell n
  s.setCell n { c with wbs := c.wbs ++ [⟨e.line, e.data, false⟩] }

/-- Put a filled line into the cache; the least recently used line of a full set leaves, written back if dirty. -/
def State.install (s : State) (n : Nat) (e : Line) : State :=
  let c := s.cell n
  let set := c.cache.filter (fun x => decide (x.line % 128 = e.line % 128))
  if set.length < 4 then s.setCell n (c.touch e)
  else
    match set.getLast? with
    | none => s.setCell n (c.touch e)
    | some v =>
      let s := s.setCell n (({ c with cache := c.cache.filter (fun x => decide (x.line ≠ v.line)) } : CellState).touch e)
      if v.dirty then s.writeBack n v else s

/-- Start the fills of lines: their miss entries are taken, and their requests reach the port in the cell's next cycle
(R407). -/
def State.startFills (s : State) (n : Nat) (l : List (Nat × FillUse)) : State :=
  let c := s.cell n
  s.setCell n { c with fills := c.fills ++ l.map fun q => ⟨q.1, q.2, false, none⟩ }

/-- Bytes of a line from offset `o`, and a line with bytes replaced. -/
def lineRead (d : BitVec 256) (o n : Nat) : Nat := d.toNat / 2 ^ (8 * o) % 2 ^ (8 * n)
def lineWrite (d : BitVec 256) (o n v : Nat) : BitVec 256 :=
  let m := BitVec.ofNat 256 ((2 ^ (8 * n) - 1) * 2 ^ (8 * o))
  (d &&& ~~~m) ||| (BitVec.ofNat 256 (v * 2 ^ (8 * o)) &&& m)

/-! ## Scalar loads and stores (R247 to R249) -/

/-- The word that a load writes. -/
def loadValue (a : Access) (v : Nat) : Word :=
  if a.signed && decide (2 ^ (8 * a.size - 1) ≤ v) then BitVec.ofInt 32 ((v : Int) - 2 ^ (8 * a.size)) else word v

/-- A loaded value reaches its destination and predicate (R73). -/
def loadDone (c : CellState) (a : Access) (v : Nat) : CellState :=
  settle c a.ctx a.dst a.p (loadValue a v) a.x 0

/-- A scalar slice access whose line is in the cache. -/
def sliceHit (c : CellState) (a : Access) (e : Line) : CellState :=
  let o := (a.addr - sliceBase) % 32
  if a.store then c.touch { e with data := lineWrite e.data o a.size a.data.toNat, dirty := true }
  else loadDone (c.touch e) a (lineRead e.data o a.size)

/-- A scalar slice access: a hit, a miss that takes an entry, or none where it must hold the arbiter (R43, R248).
`held` tells that a destination queue's entry is reserved already. -/
def sliceAccess (s : State) (n : Nat) (a : Access) (held : Bool) : Option State :=
  let c := s.cell n
  let l := lineOf a.addr
  if c.filling l then none
  else
    match c.findLine l with
    | some e => some (s.setCell n (sliceHit (if held then c.unreserve a.dst else c) a e))
    | none =>
      if 4 ≤ c.fills.length then none
      else if a.store then some (s.startFills n [(l, .store a)])
      else
        let c := if held then c else c.reserve a.dst
        let t := c.ctx a.ctx
        let c := if t.status = .running then c.setCtx a.ctx { t with status := .parkMiss } else c
        some ((s.setCell n c).startFills n [(l, .load a)])

/-- The effect of a scalar load or store in its firing cycle. -/
def accessEff (a : Access) (s : State) : Effect :=
  let c := s.cur
  let n := s.focus.cell
  if a.addr % a.size ≠ 0 then .fault (alignFault a.addr)
  else if !c.inPrivate a.addr a.size then .fault (boundsFault a.addr)
  else if inSram a.addr a.size then
    (if a.store then .done (s.setCur { c with sram := c.sram.writeN a.addr a.size a.data.toNat })
     else
       match c.badWord a.addr a.size with
       | some _ => .fault { cls := 11, code := 1, opnd := word a.addr }
       | none => .done (s.setCur (loadDone (c.mend a.addr a.size) a (c.sram.readN a.addr a.size))))
  else
    match sliceAccess s n a false with
    | some s' => .done s'
    | none => .done (s.setCell n { (if a.store then c else c.reserve a.dst) with hold := .slice a })

/-- The address of an access (R247, R250). -/
def effAddr (base : Word) (off : Int) : Nat := (BitVec.ofInt 32 (base.toInt + off)).toNat

/-- A load of `size` bytes. -/
def loadOp (size : Nat) (signed : Bool) (c : Cue) (d : Dst) (a : Src) (off : Int) (p : PAct) (s : State) :
    Host.Outcome State Fault Refusal :=
  fire s c (needs1 d a) (fun s => accessEff
    { store := false, size := size, signed := signed, addr := effAddr (s.src a) off, data := 0, dst := d, p := p
      x := srcX s.cur a, ctx := s.focus.ctx, slot := s.focus.slot } s)

/-- A store of `size` bytes; the mark of its data is dropped (R248). -/
def storeOp (size : Nat) (c : Cue) (d a : Src) (off : Int) (s : State) : Host.Outcome State Fault Refusal :=
  fire s c (needsR [d, a]) (fun s => accessEff
    { store := true, size := size, signed := false, addr := effAddr (s.src a) off, data := s.src d, dst := .reg 0
      p := noAct, x := false, ctx := s.focus.ctx, slot := s.focus.slot } s)

def execLdw (c : Cue) (d : Dst) (a : Src) (i : BitVec 10) (s : State) := loadOp 4 false c d a (i.toInt * 4) noAct s
def execLdh (c : Cue) (d : Dst) (a : Src) (i : BitVec 10) (s : State) := loadOp 2 true c d a (i.toInt * 2) noAct s
def execLdhu (c : Cue) (d : Dst) (a : Src) (i : BitVec 10) (s : State) := loadOp 2 false c d a (i.toInt * 2) noAct s
def execLdb (c : Cue) (d : Dst) (a : Src) (i : BitVec 10) (s : State) := loadOp 1 true c d a i.toInt noAct s
def execLdbu (c : Cue) (d : Dst) (a : Src) (i : BitVec 10) (s : State) := loadOp 1 false c d a i.toInt noAct s
def execStw (c : Cue) (d a : Src) (i : BitVec 10) (s : State) := storeOp 4 c d a (i.toInt * 4) s
def execSth (c : Cue) (d a : Src) (i : BitVec 10) (s : State) := storeOp 2 c d a (i.toInt * 2) s
def execStb (c : Cue) (d a : Src) (i : BitVec 10) (s : State) := storeOp 1 c d a i.toInt s
def execLdwp (c : Cue) (d : Dst) (a : Src) (i : BitVec 16) (p : PAct) (s : State) := loadOp 4 false c d a i.toInt p s
def execLdhp (c : Cue) (d : Dst) (a : Src) (i : BitVec 16) (p : PAct) (s : State) := loadOp 2 true c d a i.toInt p s
def execLdhup (c : Cue) (d : Dst) (a : Src) (i : BitVec 16) (p : PAct) (s : State) := loadOp 2 false c d a i.toInt p s
def execLdbp (c : Cue) (d : Dst) (a : Src) (i : BitVec 16) (p : PAct) (s : State) := loadOp 1 true c d a i.toInt p s
def execLdbup (c : Cue) (d : Dst) (a : Src) (i : BitVec 16) (p : PAct) (s : State) := loadOp 1 false c d a i.toInt p s

/-- A held slice access is performed when its line allows it (R43), and the arbiter is released. -/
def execSliceAccessResume (n : Nat) (s : State) : Host.Outcome State Fault Refusal :=
  let c := s.cell n
  match c.hold with
  | .slice a =>
    match sliceAccess s n a true with
    | some s' => .next (s'.setCell n { (s'.cell n) with hold := .none })
    | none => .next s
  | _ => .next s

/-! ## Fills (R248, R249, R407) -/

/-- The 32 bytes of a slice line, with the cell's own write-backs of it that are not applied yet. -/
def fillData (s : State) (n line : Nat) : BitVec 256 :=
  match ((s.cell n).wbs.filter (fun w => decide (w.line = line))).getLast? with
  | some w => w.data
  | none => BitVec.ofNat 256 (s.sliceRead n (line * 32) 32)

/-- A record of a slice line whose check failed, against the context of an access (R249): a parked load becomes parked
for its fault; a store or a context that has halted reports apart (R350, R353). -/
def fillFault (s : State) (n : Nat) (a : Access) : State :=
  let c := s.cell n
  let f : FaultInfo := { cls := 10, code := 2, opnd := word a.addr }
  if a.store then s.asyncRecord n a.ctx a.slot f
  else
    let c := c.unreserve a.dst
    let t := c.ctx a.ctx
    if t.status = .parkMiss then
      s.setCell n (c.setCtx a.ctx
        { ((t.addRecord (mkRecord s c a.ctx a.slot false f .trap) s.tick).park .parkFault) with
          parkDeq := [], parkCue := none })
    else (s.setCell n c).logFault c.stage (mkRecord s c a.ctx a.slot false f .trap) 1 true

/-- The line of a fill has arrived: the load's value, the store's bytes, or the line alone. -/
def fillDone (s : State) (n : Nat) (f : Fill) : State :=
  let c := s.cell n
  let d := fillData s n f.line
  let bad := c.badLines.contains f.line
  let c := { c with fills := c.fills.filter (fun g => decide (g.line ≠ f.line)) }
  let s := s.setCell n c
  match f.uses with
  | .beat => s.install n ⟨f.line, d, false, bad⟩
  | .load a =>
    if bad then fillFault s n a
    else
      let s := s.install n ⟨f.line, d, false, false⟩
      let c := loadDone ((s.cell n).unreserve a.dst) a (lineRead d ((a.addr - sliceBase) % 32) a.size)
      s.setCell n (c.setCtx a.ctx ((c.ctx a.ctx).unpark .parkMiss))
  | .store a =>
    if bad then fillFault s n a
    else s.install n ⟨f.line, lineWrite d ((a.addr - sliceBase) % 32) a.size a.data.toNat, true, false⟩

/-- A line fill completes in the first cycle of the cell that begins at or after the line's arrival; later cycles see it
(R407). -/
def execLineFillComplete (n line : Nat) (s : State) : Host.Outcome State Fault Refusal :=
  match (s.cell n).fills.find? (fun f => decide (f.line = line)) with
  | some f =>
    match f.arrive with
    | some a => if a ≤ s.strip then .next (fillDone s n f) else .next s
    | none => .next s
  | none => .next s

/-! ## FENCE.L (R251) -/

/-- Whether nothing is left for FENCE.L to wait for. -/
def fenceClear (c : CellState) : Bool := c.fills.isEmpty && c.wbs.isEmpty && !c.cache.any (·.dirty)

/-- FENCE.L takes one cycle on a clean cache, else it holds the arbiter. -/
def execFenceL (c : Cue) (s : State) : Host.Outcome State Fault Refusal :=
  fire s c (needsR []) (fun s =>
    if fenceClear s.cur then .done (s.setCur { s.cur with cache := [] })
    else .done (s.setCur { s.cur with hold := .fenceL }))

/-- One cycle of a FENCE.L that holds the arbiter: once no fill is in progress, one dirty line is written back. -/
def fenceIssue (s : State) (n : Nat) : State :=
  let c := s.cell n
  if !c.fills.isEmpty then s
  else
    match c.cache.find? (·.dirty) with
    | none => s
    | some e =>
      (s.setCell n { c with cache := c.cache.map fun x => if x.line = e.line then { x with dirty := false } else x }).writeBack
        n e

/-- The last write-back is applied: every line is invalidated and the arbiter released. -/
def execFenceLComplete (n : Nat) (s : State) : Host.Outcome State Fault Refusal :=
  let c := s.cell n
  if c.hold = .fenceL ∧ fenceClear c = true then .next (s.setCell n { c with cache := [], hold := .none }) else .next s

/-! ## VLD and VST (R167, R177, R178) -/

/-- The address of a beat. -/
def beatAddr (xs : Word) (k : Nat) : Nat := (xs + word (64 * k)).toNat

/-- The fault of a VLD or VST of `total` beats, checked in its firing cycle. -/
def vmemCheck (c : CellState) (xs : Word) (total : Nat) : Option FaultInfo :=
  if xs.toNat % 4 ≠ 0 then some (alignFault xs.toNat)
  else ((List.range total).find? (fun k => !c.inPrivate (beatAddr xs k) 64)).map fun k => boundsFault (beatAddr xs k)

/-- The slice lines of a 64-byte beat. -/
def beatLines (t : Nat) : List Nat := List.range' (lineOf t) (lineOf (t + 63) + 1 - lineOf t)

/-- Make the lines of a beat present: true where they are, else the state in which its missing lines are being filled
or wait for free entries (R43, R177). -/
def beatFill (s : State) (n t : Nat) : Bool × State :=
  let c := s.cell n
  let ls := beatLines t
  if ls.all (fun l => (c.findLine l).isSome) then (true, s)
  else
    let miss := ls.filter (fun l => (c.findLine l).isNone && !c.filling l)
    if miss.length + c.fills.length ≤ 4 then (false, s.startFills n (miss.map fun l => (l, .beat))) else (false, s)

/-- A line of the cache as it is read; readiness guarantees it. -/
def CellState.lineData (c : CellState) (l : Nat) : Line := (c.findLine l).getD ⟨l, 0, false, false⟩

/-- The lines of a beat as one number, the lowest address least significant. -/
def linesNat (c : CellState) (l : List Nat) : Nat :=
  match l with
  | [] => 0
  | a :: r => (c.lineData a).data.toNat + 2 ^ 256 * linesNat c r

/-- Drop lines whose check failed, after the beat that waited for them. -/
def CellState.dropBad (c : CellState) : CellState := { c with cache := c.cache.filter (fun e => !e.bad) }

/-- A VLD beat: its 64 bytes and whether they are marked, none where it waits. A span over two 64-byte blocks of SRAM
takes one more cycle, which the last component counts. Where several words or lines of a beat are bad, one record names
the first found (log 64). -/
def vldBeat (s : State) (n : Nat) (ctx : Fin 4) (slot t : Nat) : Option ((VWord × Bool) × State) × State × Nat :=
  let c := s.cell n
  if inSram t 64 then
    let v : VWord := BitVec.ofNat 512 (c.sram.readN t 64)
    let s := s.setCell n (c.mend t 64)
    match c.badWord t 64 with
    | some w => (some ((v, true), s.asyncRecord n ctx slot { cls := 11, code := 1, opnd := word (w * 8) }), s,
        if t % 64 = 0 then 0 else 1)
    | none => (some ((v, false), s), s, if t % 64 = 0 then 0 else 1)
  else
    match beatFill s n t with
    | (false, s') => (none, s', 0)
    | (true, _) =>
      let ls := beatLines t
      let v : VWord := BitVec.ofNat 512 (linesNat c ls / 2 ^ (8 * ((t - sliceBase) % 32)))
      let bad := ls.find? (fun l => (c.lineData l).bad)
      let c := (ls.foldl (fun (c : CellState) l => c.touch (c.lineData l)) c).dropBad
      let s := s.setCell n c
      match bad with
      | some l => (some ((v, true), s.asyncRecord n ctx slot { cls := 10, code := 2, opnd := word (sliceBase + l * 32) }),
          s, 0)
      | none => (some ((v, false), s), s, 0)

/-- Store 64 bytes into the lines of a beat. -/
def storeLines (c : CellState) (t : Nat) (v : VWord) : CellState :=
  let o := (t - sliceBase) % 32
  let ls := beatLines t
  let all := linesNat c ls
  let m := (2 ^ 512 - 1) * 2 ^ (8 * o)
  let new := all - (all &&& m) + v.toNat * 2 ^ (8 * o)
  (ls.zipIdx).foldl (fun (c : CellState) q =>
    c.touch { (c.lineData q.1) with data := BitVec.ofNat 256 (new / 2 ^ (256 * q.2)), dirty := true }) c

/-- A VST beat; one that waited for a line whose check failed writes nothing. A beat over an SRAM word that SECDED finds
uncorrectable leaves it so (log 65). -/
def vstBeat (s : State) (n : Nat) (ctx : Fin 4) (slot t : Nat) (v : VWord) : Option State × State × Nat :=
  let c := s.cell n
  if inSram t 64 then
    (some (s.setCell n { c with sram := c.sram.writeN t 64 v.toNat }), s, if t % 64 = 0 then 0 else 1)
  else
    match beatFill s n t with
    | (false, s') => (none, s', 0)
    | (true, _) =>
      match (beatLines t).find? (fun l => (c.lineData l).bad) with
      | some l => (some ((s.setCell n c.dropBad).asyncRecord n ctx slot
          { cls := 10, code := 2, opnd := word (sliceBase + l * 32) }), s, 0)
      | none => (some (s.setCell n (storeLines c t v)), s, 0)

end Sys2Proof.Machine
end

