-- ==== Sys2Proof/Machine/Sf.lean ====
section
/-! DEFINITION. Sf.lean: the special functions of R122 and R179 lane by lane. The exact result is formed in 400-bit fixed
point; the values within the bound are its candidates, and Config.sfChoice picks one of them (R123, log 8). -/

namespace Sys2Proof.Machine

/-- Fraction bits of the fixed point of this file. -/
def fxP : Nat := 400
/-- ln 2 and pi / 2 in that fixed point. -/
def fxLn2 : Nat := 0xb17217f7d1cf79abc9e3b39803f2f6af40f343267298b62d8a0d175b8baafa2be7b876206debac98559552fb4afa1b10ed2e
def fxHalfPi : Nat := 0x1921fb54442d18469898cc51701b839a252049c1114cf98e804177d4c76273644a29410f31c6809bbdf2a33679a7486366056

/-- An approximate positive value `m * 2 ^ e`. -/
structure Pos where
  m : Nat
  e : Int
  deriving DecidableEq, Repr

/-- The magnitude's value as an f32 code over a power of two. -/
def f32Val (code : Nat) : Pos :=
  let e : Nat := code / 2 ^ 23
  if e = 0 then ⟨code % 2 ^ 23, -149⟩ else ⟨2 ^ 23 + code % 2 ^ 23, (e : Int) - 150⟩

/-- Whether `|a - r|` is at most `b` units of `2 ^ u`. -/
def nearPos (a r : Pos) (b : Nat) (u : Int) : Bool :=
  let lo := min (min a.e r.e) u
  let x : Int := a.m * 2 ^ (a.e - lo).toNat
  let y : Int := r.m * 2 ^ (r.e - lo).toNat
  decide ((x - y).natAbs ≤ b * 2 ^ (u - lo).toNat)

/-- The f32 magnitudes within `b` units in the last place of `r` (R122). -/
def candidates (r : Pos) (b : Nat) : List Nat :=
  let lg : Int := Nat.log2 r.m + r.e
  let u : Int := max lg (-126) - 23
  let k := (roundMag .f32 ⟨1, false, false, false⟩ false r.m r.e false).1
  ((List.range 10).map fun i => k + i - 5).filter (fun c => decide (c ≤ Fmt.maxMag .f32) && nearPos (f32Val c) r b u)
    |>.dedup

/-- What a function gives: one exact encoding with its flags, or a value to be approximated within a bound. -/
inductive SfRes where
  | exact (code : Nat) (f : Flags)
  | near (neg : Bool) (r : Pos) (bound : Nat)
  deriving DecidableEq, Repr

/-! ## Fixed-point series -/

/-- The exponential series of `z / 2 ^ fxP`, one term a step. -/
def expLoop (z term acc i : Nat) (fuel : Nat) : Nat :=
  match fuel with
  | 0 => acc
  | k + 1 =>
    let t := term * z / 2 ^ fxP / i
    expLoop z t (acc + t) (i + 1) k

/-- `2 ^ (f / 2 ^ fxP)` for a fraction `f`. -/
def fxPow2 (f : Nat) : Nat := expLoop (f * fxLn2 / 2 ^ fxP) (2 ^ fxP) (2 ^ fxP) 1 110

/-- The alternating series of sine or cosine from its first term. -/
def trigLoop (z2 : Nat) (term : Nat) (acc : Int) (i : Nat) (plus : Bool) (fuel : Nat) : Int :=
  match fuel with
  | 0 => acc
  | k + 1 =>
    let t := term * z2 / 2 ^ fxP / (i * (i + 1))
    trigLoop z2 t (if plus then acc + t else acc - t) (i + 2) (!plus) k

def fxSin (z : Nat) : Nat := (trigLoop (z * z / 2 ^ fxP) z z 2 false 60).toNat
def fxCos (z : Nat) : Nat := (trigLoop (z * z / 2 ^ fxP) (2 ^ fxP) (2 ^ fxP) 1 false 60).toNat

/-- The series of the inverse hyperbolic tangent. -/
def atanhLoop (z2 term acc i : Nat) (fuel : Nat) : Nat :=
  match fuel with
  | 0 => acc
  | k + 1 => atanhLoop z2 (term * z2 / 2 ^ fxP) (acc + term / i) (i + 2) k

/-- log2 of `m / 2 ^ n` in `[1, 2)`. -/
def fxLog2 (m n : Nat) : Nat :=
  let z := (m - 2 ^ n) * 2 ^ fxP / (m + 2 ^ n)
  2 * atanhLoop (z * z / 2 ^ fxP) z 0 1 140 * 2 ^ fxP / fxLn2

/-- `m * 2 ^ e` in the fixed point. -/
def toFx (m : Nat) (e : Int) : Nat := (halves m e (1 - fxP)).1

/-- The integer square root by bits from `b` down. -/
def isqrtLoop (n r : Nat) (b : Nat) : Nat :=
  match b with
  | 0 => r
  | k + 1 => isqrtLoop n (if (r + 2 ^ k) * (r + 2 ^ k) ≤ n then r + 2 ^ k else r) k

def isqrt (n : Nat) : Nat := isqrtLoop n 0 (Nat.log2 n / 2 + 1)

/-- `e ^ x` for `x = m * 2 ^ e` of either sign and magnitude at most 1000, as a power of two times a value in
`[1, 2)`. -/
def fxExp (neg : Bool) (m : Nat) (e : Int) : Pos :=
  let t : Int := toFx m e * 2 ^ fxP / fxLn2
  let t : Int := if neg then -t else t
  ⟨fxPow2 (t % 2 ^ fxP).toNat, t / 2 ^ fxP - fxP⟩

/-- Whether `m * 2 ^ e` is below `2 ^ k`. -/
def belowPow (m : Nat) (e : Int) (k : Int) : Bool := decide (Nat.log2 m + e < k)

/-- A value just below `m * 2 ^ e`. -/
def justBelow (m : Nat) (e : Int) : Pos := ⟨m * 2 ^ 200 - 1, e - 200⟩

def f32Nan : Nat := Fmt.nan .f32
def f32Inf : Nat := Fmt.infMag .f32
def f32One : Nat := 0x3F800000

/-- The code of a power of two. -/
def f32Pow (k : Int) : Nat := (roundMag .f32 Mode.rne false 1 k false).1

/-- The code of an integer. -/
def f32Int (i : Int) : Nat := (fOfInt .f32 Mode.rne i).1

/-- Whether a natural number is a power of two. -/
def isPow2 (m : Nat) : Bool := decide (m = 2 ^ Nat.log2 m)

/-- `m * 2 ^ e` if it is an integer. -/
def asInt (m : Nat) (e : Int) : Option Nat :=
  if 0 ≤ e then some (m * 2 ^ e.toNat) else if m % 2 ^ (-e).toNat = 0 then some (m / 2 ^ (-e).toNat) else none

/-! ## The functions of R122, for finite non-zero inputs -/

def sfExp2Fin (neg : Bool) (m : Nat) (e : Int) : SfRes :=
  if belowPow m e 8 then
    match asInt m e with
    | some n =>
      let k : Int := if neg then -(n : Int) else n
      if 128 ≤ k then .exact f32Inf (flOF ||| flNX)
      else if k < -149 then .exact 0 (flUF ||| flNX)
      else .exact (f32Pow k) 0
    | none =>
      let t : Int := toFx m e
      let t : Int := if neg then -t else t
      if 128 * 2 ^ fxP ≤ t then .exact f32Inf (flOF ||| flNX)
      else if t < -149 * 2 ^ fxP then .exact 0 (flUF ||| flNX)
      else .near false ⟨max 1 (fxPow2 (t % 2 ^ fxP).toNat), t / 2 ^ fxP - fxP⟩ 1
  else if neg then .exact 0 (flUF ||| flNX) else .exact f32Inf (flOF ||| flNX)

def sfLog2Fin (neg : Bool) (m : Nat) (e : Int) : SfRes :=
  if neg then .exact f32Nan flNV
  else
    let k : Int := Nat.log2 m + e
    if isPow2 m then .exact (f32Int k) 0
    else
      let v : Int := k * 2 ^ fxP + fxLog2 m (Nat.log2 m)
      .near (decide (v < 0)) ⟨v.natAbs, -fxP⟩ 1

def sfRcpFin (neg : Bool) (m : Nat) (e : Int) : SfRes :=
  let k : Int := -(Nat.log2 m + e)
  if isPow2 m && decide (-126 ≤ k) && decide (k ≤ 127) then .exact (withSign .f32 neg (f32Pow k)) 0
  else if Nat.log2 m + e < -128 || isPow2 m && decide (k = 128) then
    .exact (withSign .f32 neg f32Inf) (flOF ||| flNX)
  else .near neg ⟨2 ^ fxP / m, -e - fxP⟩ 1

def sfRsqFin (neg : Bool) (m : Nat) (e : Int) : SfRes :=
  if neg then .exact f32Nan flNV
  else
    let k : Int := Nat.log2 m + e
    if isPow2 m && decide (k % 2 = 0) then .exact (f32Pow (-(k / 2))) 0
    else
      let odd := (e % 2).toNat
      -- x = (m * 2 ^ odd) * 2 ^ (e - odd) with an even exponent
      .near false ⟨isqrt (2 ^ (2 * fxP) / (m * 2 ^ odd)), -((e - odd) / 2) - fxP⟩ 1

/-- Square root with one rounding (R122). -/
def sfSqrtFin (rm : Nat) (neg : Bool) (m : Nat) (e : Int) : SfRes :=
  if neg then .exact f32Nan flNV
  else
    let n := m * 2 ^ ((e % 2).toNat + 100)
    let r := isqrt n
    let q := roundMag .f32 ⟨rm, false, false, false⟩ false r ((e - e % 2 - 100) / 2) (decide (r * r ≠ n))
    .exact q.1 q.2

def sfTanhFin (neg : Bool) (m : Nat) (e : Int) : SfRes :=
  if belowPow m e (-60) then .near neg (justBelow m e) 2
  else if !belowPow m e 9 then .near neg (justBelow 1 0) 2
  else
    let y := fxExp true m (e + 1)
    let yf := max 1 (toFx y.m y.e)
    .near neg ⟨(2 ^ fxP - yf) * 2 ^ fxP / (2 ^ fxP + yf), -fxP⟩ 2

def sfSigmFin (neg : Bool) (m : Nat) (e : Int) : SfRes :=
  let (m, e) := if belowPow m e 10 then (m, e) else (1023, (0 : Int))
  let y := fxExp true m e
  let d := 2 ^ fxP + max 1 (toFx y.m y.e)
  -- 1 / (1 + y) or y / (1 + y) for y = e ^ -|x|
  if neg then .near false ⟨y.m * 2 ^ fxP / d, y.e⟩ 2
  else .near false ⟨2 ^ (2 * fxP) / d, -fxP⟩ 2

/-- Sine or cosine in radians by quadrant. -/
def sfTrigFin (cos neg : Bool) (m : Nat) (e : Int) : SfRes :=
  if !belowPow m e 20 then .exact f32Nan flNV
  else if belowPow m e (-60) then
    (if cos then .near false (justBelow 1 0) 2 else .near neg (justBelow m e) 2)
  else
    let x := toFx m e
    let q := x / fxHalfPi + (if cos then 1 else 0)
    let z := x % fxHalfPi
    let v := if q % 2 = 0 then fxSin z else fxCos z
    .near ((decide (q % 4 = 2) || decide (q % 4 = 3)) != (!cos && neg)) ⟨max 1 v, -fxP⟩ 2

/-- A function of a finite non-zero f32 value. -/
def sfFin (fn : SfFn) (rm : Nat) (neg : Bool) (m : Nat) (e : Int) : SfRes :=
  match fn with
  | .exp2 => sfExp2Fin neg m e
  | .log2 => sfLog2Fin neg m e
  | .rcp => sfRcpFin neg m e
  | .rsq => sfRsqFin neg m e
  | .sqrt => sfSqrtFin rm neg m e
  | .tanh => sfTanhFin neg m e
  | .sigm => sfSigmFin neg m e
  | .sin => sfTrigFin false neg m e
  | .cos => sfTrigFin true neg m e

/-- A function of a zero (R122). -/
def sfZero (fn : SfFn) (neg : Bool) : SfRes :=
  match fn with
  | .exp2 => .exact f32One 0
  | .log2 => .exact (withSign .f32 true f32Inf) flDZ
  | .rcp => .exact (withSign .f32 neg f32Inf) flDZ
  | .rsq => .exact (withSign .f32 neg f32Inf) flDZ
  | .sqrt => .exact (withSign .f32 neg 0) 0
  | .tanh => .exact (withSign .f32 neg 0) 0
  | .sigm => .exact 0x3F000000 0
  | .sin => .exact (withSign .f32 neg 0) 0
  | .cos => .exact f32One 0

/-- A function of an infinity (R122). -/
def sfInf (fn : SfFn) (neg : Bool) : SfRes :=
  match fn with
  | .exp2 => .exact (if neg then 0 else f32Inf) 0
  | .log2 => if neg then .exact f32Nan flNV else .exact f32Inf 0
  | .rcp => .exact (withSign .f32 neg 0) 0
  | .rsq => if neg then .exact f32Nan flNV else .exact 0 0
  | .sqrt => if neg then .exact f32Nan flNV else .exact f32Inf 0
  | .tanh => .exact (withSign .f32 neg f32One) 0
  | .sigm => .exact (if neg then 0 else f32One) 0
  | .sin => .exact f32Nan flNV
  | .cos => .exact f32Nan flNV

def sfRes (fn : SfFn) (rm : Nat) (code : Nat) : SfRes :=
  match Fval.of .f32 code with
  | .nan s => .exact f32Nan (flIf s flNV)
  | .inf s => sfInf fn s
  | .fin s m e => if m = 0 then sfZero fn s else sfFin fn rm s m e

/-- The function code of R179. -/
def SfFn.code (fn : SfFn) : Nat :=
  match fn with
  | .exp2 => 0 | .log2 => 1 | .rcp => 2 | .rsq => 3 | .sqrt => 4 | .tanh => 5 | .sigm => 6 | .sin => 7 | .cos => 8

/-- The f32 result of a lane: `sel` chooses among the candidates (R122, R123). -/
def sfPick (sel : Nat) (r : SfRes) : Nat × Flags :=
  match r with
  | .exact c f => (c, f)
  | .near neg p b =>
    let l := candidates p b
    let c := (l[sel % l.length]?).getD 0
    let exact := nearPos (f32Val c) p 0 p.e
    let tiny := decide (Nat.log2 p.m + p.e < -126)
    (withSign .f32 neg c, if exact then 0 else flIf tiny flUF ||| flNX)

/-- The captured FCR bits of an SF request: RM, FTZF, DAZF, SATF8. -/
def sfBits (fcr : Word) : Word := fcr &&& 0x4C3

/-- One lane in type `t` under the captured FCR (R122, R179). -/
def sfLane (fn : SfFn) (t : Ty) (fcr : Word) (a : Nat) : Nat × Flags :=
  let md := sfMode fcr
  let f := (tyFmt t).getD .f32
  let a := dazIn f md.daz a
  let snan := flIf (isSNan f a) flNV
  let x := (fCvt f .f32 Mode.rne a).1
  let x := if f = .f32 then a else x
  let sel := Config.sfChoice (fn.code + 16 * f.frac) (word x) (sfBits fcr)
  let r := sfPick sel (sfRes fn md.rm x)
  if f = .f32 then
    (if md.ftz && decide (magBits .f32 r.1 < 2 ^ 23) && decide (magBits .f32 r.1 ≠ 0) then
      (withSign .f32 (signBit .f32 r.1) 0, r.2 ||| flUF ||| flNX) else r)
  else
    let q := fCvt .f32 f md' r.1
    (q.1, snan ||| r.2 ||| q.2)
where
  md' : Mode := { sfMode fcr with daz := false }

/-- One beat of an SF instruction. -/
def sfBeat (fn : SfFn) (t : Ty) (fcr : Word) (a : VWord) : VWord × Flags :=
  packF (tyWidth t) ((lanes (tyWidth t) a).map (sfLane fn t fcr))

end Sys2Proof.Machine
end

