-- ==== Sys2Proof/Machine/Beats.lean ====
section
/-! DEFINITION. Beats.lean: N-beat instructions: firing, one beat a cycle, the special-function request (spec 06 R164 to
R167, R177 to R182, 07 R210, R213). -/

namespace Sys2Proof.Machine

/-! ## Sources and destinations of a beat (R165) -/

/-- A vector source as captured at firing. -/
def captureV (t : Context) (a : VSrc) : BSrc :=
  match a with
  | .v r => .const t.v[r]
  | .sq q => .sq q

def beatSrc (c : CellState) (a : BSrc) : Option SEnt :=
  match a with
  | .const v => some ⟨v, false⟩
  | .sq q => (c.sq[q]).head?

/-- Take one entry from every stream queue among the sources, once each. -/
def takeSqs (c : CellState) (l : List BSrc) : CellState :=
  { c with sq := Vector.ofFn fun q => if l.contains (.sq q) then (c.sq[q]).tail else c.sq[q] }

def soRoom (c : CellState) (d : VDst) : Bool :=
  match d with
  | .v _ => true
  | .so q => decide ((c.so[q]).length < 8)

/-- Write a beat's result: a `v` register, or one entry with its mark. -/
def writeV (c : CellState) (k : Fin 4) (d : VDst) (v : VWord) (x : Bool) : CellState :=
  match d with
  | .v r => let t := c.ctx k; c.setCtx k { t with v := vset t.v r v }
  | .so q => { c with so := vset c.so q (c.so[q] ++ [⟨v, x⟩]) }

/-- What a beat gives: the state with its memory effects, the value to write, its mark and flags, the running value,
and extra cycles. None: the beat waits, in the state given beside. -/
structure BeatDone where
  s : State
  out : VWord
  x : Bool
  flags : Flags
  run : Option VWord
  extra : Nat

/-- One beat on its sources. -/
def beatWork (s : State) (n : Nat) (r : BeatRun) (a b e : SEnt) : Option BeatDone × State :=
  let x := a.x || b.x || e.x
  match r.op with
  | .vec op ty =>
    let md := vectorMode r.fcr
    let q := vecBeat op ty md r.xs r.base (r.run.getD 0) a.data b.data e.data
    (some ⟨s, q.1, x || q.2.marks, q.2, if op.accumulates then some q.1 else r.run, 0⟩, s)
  | .sf _ _ =>
    let c := s.cell n
    (some ⟨s.setCell n { c with sf := c.sf.map fun j => { j with buf := j.buf ++ [⟨a.data, x⟩] } }, a.data, x, 0, none, 0⟩, s)
  | .scanLocal op =>
    let q := scanLocalBeat op (scanMode r.fcr) r.run a.data
    (some ⟨s, q.1, x || q.2.marks, q.2, some q.1, 0⟩, s)
  | .scanApply op rescan _ =>
    let md := scanMode r.fcr
    let p := r.run.getD 0
    let q := scanApplyBeat op md p a.data
    (some ⟨s, q.1, x || q.2.marks, q.2, if rescan then some q.1 else some p, 0⟩, s)
  | .vld =>
    match vldBeat s n r.ctx r.slot (beatAddr r.xs r.done) with
    | (some ((v, bad), s'), _, ex) => (some ⟨s', v, bad, 0, none, ex⟩, s)
    | (none, s', _) => (none, s')
  | .vst =>
    match vstBeat s n r.ctx r.slot (beatAddr r.xs r.done) a.data with
    | (some s', _, ex) => (some ⟨s', 0, false, 0, none, ex⟩, s)
    | (none, s', _) => (none, s')

/-- Whether a beat operation writes its destination beat by beat. -/
def BeatOp.writes (o : BeatOp) : Bool :=
  match o with
  | .sf _ _ => false
  | .vst => false
  | _ => true

/-- The end of an instruction's last beat: flags, predicate action (R164, R166), the prefix register of a rescan
(R213), and the request to the quad (R180). -/
def beatsEnd (s : State) (n : Nat) (r : BeatRun) (o : BeatDone) : State :=
  let c := s.cell n
  let t := c.ctx r.ctx
  match r.op with
  | .sf _ _ => s.setCell n { c with sf := c.sf.map fun j => { j with joined := some (s.strip + 2) } }
  | .scanApply _ true va =>
    s.setCell n (c.setCtx r.ctx ((({ t with v := vset t.v va o.out } : Context).actV r.p o.out).raise r.flags))
  | .vst => s.setCell n (c.setCtx r.ctx (t.actV r.p 0))
  | _ => s.setCell n (c.setCtx r.ctx ((t.actV r.p o.out).raise r.flags))

/-- One cycle of the N-beat instruction that holds the arbiter: a beat, or a wait (R43, R164). -/
def beatCycle (s : State) (n : Nat) (r : BeatRun) : State :=
  let hold (s : State) (h : Hold) : State := s.setCell n { (s.cell n) with hold := h }
  if 0 < r.wait then hold s (.beats { r with wait := r.wait - 1 })
  else
    let c := s.cell n
    match beatSrc c r.a, beatSrc c r.b, beatSrc c r.e with
    | some a, some b, some e =>
      if r.op.writes && !soRoom c r.dst then hold s (.beats r)
      else
        match beatWork s n r a b e with
        | (none, s') => hold s' (.beats r)
        | (some o, _) =>
          let c := takeSqs (o.s.cell n) [r.a, r.b, r.e]
          let c := if r.op.writes then writeV c r.ctx r.dst o.out o.x else c
          let r := { r with done := r.done + 1, run := o.run, flags := r.flags ||| o.flags, wait := o.extra }
          let s := o.s.setCell n c
          if r.done < r.total then hold s (.beats r)
          else hold (beatsEnd s n r o) (if o.extra = 0 then .none else .stall o.extra)
    | _, _, _ => hold s (.beats r)

/-- A beat of the instruction that holds the arbiter. -/
def execVectorBeat (n : Nat) (s : State) : Host.Outcome State Fault Refusal :=
  match (s.cell n).hold with
  | .beats r => .next (beatCycle s n r)
  | _ => .next s

/-! ## Firing -/

/-- The needs of an N-beat instruction: its first entries and a free destination entry (R41, R43). -/
def vNeeds (s : State) (l : List VSrc) (d : Option VDst) : Needs :=
  ⟨[], none, l.all (vsrcReady s.cur) && d.all (soRoom s.cur), []⟩

def noSrc : BSrc := .const 0

/-- A run at its start. -/
def beatRun (s : State) (op : BeatOp) (nb : Fin 64) (dst : VDst) (p : PAct) : BeatRun :=
  let base : VWord := match dst with
    | .v r => s.here.v[r]
    | .so _ => 0
  { op := op, slot := s.focus.slot, ctx := s.focus.ctx, total := nb.val + 1, done := 0, a := noSrc, b := noSrc, e := noSrc
    dst := dst, run := none, base := base, xs := 0, p := p, fcr := s.here.fcr, flags := 0, wait := 0 }

/-- An element-wise, moving or reducing vector instruction. -/
def vecFire (op : VOp) (h : VHead) (d : VDst) (a : Option VSrc) (b : Option VSrc) (e : Option VSrc) (xs : Fin 16)
    (s : State) : Host.Outcome State Fault Refusal :=
  let l := a.toList ++ b.toList ++ e.toList
  fire s h.cue (vNeeds s l (some d)) (fun s =>
    let cap (v : Option VSrc) : BSrc := (v.map (captureV s.here)).getD noSrc
    let r := beatRun s (.vec op h.ty) h.nb d h.p
    let start := if op.accumulates then some (op.start h.ty (vectorMode s.here.fcr) r.base) else none
    .done (beatCycle s s.focus.cell
      { r with a := cap a, b := cap b, e := cap e, run := start, xs := s.here.getX xs }))

def execVadd (h : VHead) (d : VDst) (a b : VSrc) (s : State) := vecFire .add h d (some a) (some b) none 0 s
def execVsub (h : VHead) (d : VDst) (a b : VSrc) (s : State) := vecFire .sub h d (some a) (some b) none 0 s
def execVmul (h : VHead) (d : VDst) (a b : VSrc) (s : State) := vecFire .mul h d (some a) (some b) none 0 s
def execVfma (h : VHead) (d : Fin 8) (a b : VSrc) (s : State) := vecFire .fma h (.v d) (some a) (some b) none 0 s
def execVmin (h : VHead) (d : VDst) (a b : VSrc) (s : State) := vecFire .min h d (some a) (some b) none 0 s
def execVmax (h : VHead) (d : VDst) (a b : VSrc) (s : State) := vecFire .max h d (some a) (some b) none 0 s
def execVand (h : VHead) (d : VDst) (a b : VSrc) (s : State) := vecFire .and h d (some a) (some b) none 0 s
def execVor (h : VHead) (d : VDst) (a b : VSrc) (s : State) := vecFire .or h d (some a) (some b) none 0 s
def execVxor (h : VHead) (d : VDst) (a b : VSrc) (s : State) := vecFire .xor h d (some a) (some b) none 0 s
def execVshl (h : VHead) (d : VDst) (a b : VSrc) (s : State) := vecFire .shl h d (some a) (some b) none 0 s
def execVshr (h : VHead) (d : VDst) (a b : VSrc) (s : State) := vecFire .shr h d (some a) (some b) none 0 s
def execVsra (h : VHead) (d : VDst) (a b : VSrc) (s : State) := vecFire .sra h d (some a) (some b) none 0 s
def execVceq (h : VHead) (d : VDst) (a b : VSrc) (s : State) := vecFire .ceq h d (some a) (some b) none 0 s
def execVclt (h : VHead) (d : VDst) (a b : VSrc) (s : State) := vecFire .clt h d (some a) (some b) none 0 s
def execVcle (h : VHead) (d : VDst) (a b : VSrc) (s : State) := vecFire .cle h d (some a) (some b) none 0 s
def execVsel (h : VHead) (d : VDst) (a b e : VSrc) (s : State) := vecFire .sel h d (some a) (some b) (some e) 0 s
def execVcvt (h : VHead) (d : VDst) (a : VSrc) (k : VConv) (xs : Fin 16) (s : State) :=
  vecFire (.cvt k) h d (some a) none none xs s
def execVbcast (h : VHead) (d : VDst) (xs : Fin 16) (s : State) := vecFire .bcast h d none none none xs s
def execVext (h : VHead) (d : VDst) (a b : VSrc) (xs : Fin 16) (s : State) :=
  vecFire .ext h d (some a) (some b) none xs s
def execVins (h : VHead) (d : VDst) (a : VSrc) (xs : Fin 16) (s : State) := vecFire .ins h d (some a) none none xs s
def execVperm (h : VHead) (d : VDst) (a b : VSrc) (s : State) := vecFire .perm h d (some a) (some b) none 0 s
def execVrsum (h : VHead) (d : Fin 8) (a : VSrc) (s : State) := vecFire .rsum h (.v d) (some a) none none 0 s
def execVrmax (h : VHead) (d : Fin 8) (a : VSrc) (s : State) := vecFire .rmax h (.v d) (some a) none none 0 s
def execVrmin (h : VHead) (d : Fin 8) (a : VSrc) (s : State) := vecFire .rmin h (.v d) (some a) none none 0 s
def execVabs (h : VHead) (d : VDst) (a : VSrc) (s : State) := vecFire .abs h d (some a) none none 0 s
def execVneg (h : VHead) (d : VDst) (a : VSrc) (s : State) := vecFire .neg h d (some a) none none 0 s
def execVmov (h : VHead) (d : VDst) (a : VSrc) (s : State) := vecFire .mov h d (some a) none none 0 s
def execVldexp (h : VHead) (d : VDst) (a b : VSrc) (s : State) := vecFire .ldexp h d (some a) (some b) none 0 s
def execVdot2 (h : VHead) (d : Fin 8) (a b : VSrc) (s : State) := vecFire .dot2 h (.v d) (some a) (some b) none 0 s
def execVclamp (h : VHead) (d : VDst) (a b e : VSrc) (s : State) :=
  vecFire .clamp h d (some a) (some b) (some e) 0 s

/-- VLD (R177, R178). -/
def execVld (h : VHead) (d : VDst) (xs : Fin 16) (s : State) : Host.Outcome State Fault Refusal :=
  fire s h.cue (vNeeds s [] (some d)) (fun s =>
    let r := beatRun s .vld h.nb d h.p
    match vmemCheck s.cur (s.here.getX xs) r.total with
    | some f => .fault f
    | none => .done (beatCycle s s.focus.cell { r with xs := s.here.getX xs }))

/-- VST (R177, R178). -/
def execVst (h : VHead) (a : VSrc) (xs : Fin 16) (s : State) : Host.Outcome State Fault Refusal :=
  fire s h.cue (vNeeds s [a] none) (fun s =>
    let r := beatRun s .vst h.nb (.v 0) h.p
    match vmemCheck s.cur (s.here.getX xs) r.total with
    | some f => .fault f
    | none => .done (beatCycle s s.focus.cell { r with a := captureV s.here a, xs := s.here.getX xs }))

/-! ## Local scans (R210, R213) -/

def execScLocal (c : Cue) (op : ScanOp) (cont : Bool) (a : VSrc) (d : VDst) (nb : Fin 64) (p : PAct) (s : State) :
    Host.Outcome State Fault Refusal :=
  fire s c (vNeeds s [a] (some d)) (fun s =>
    let r := beatRun s (.scanLocal op) nb d p
    let start := if cont then some (scanFlush op (scanMode s.here.fcr) r.base) else none
    .done (beatCycle s s.focus.cell { r with a := captureV s.here a, run := start }))

/-- The elements of SC.APPLY: the stream queue paired with its destination, or the destination itself. -/
def applySrc (_s : State) (d : VDst) : VSrc :=
  match d with
  | .v r => .v r
  | .so q => .sq q

def execScApply (c : Cue) (op : ScanOp) (scan : Bool) (a : Fin 8) (d : VDst) (nb : Fin 64) (p : PAct) (s : State) :
    Host.Outcome State Fault Refusal :=
  fire s c (vNeeds s [applySrc s d] (some d)) (fun s =>
    let r := beatRun s (.scanApply op scan a) nb d p
    .done (beatCycle s s.focus.cell
      { r with a := captureV s.here (applySrc s d), run := some (scanFlush op (scanMode s.here.fcr) s.here.v[a]) }))

/-! ## Special functions (R179 to R182) -/

/-- An SF request: the context parks, the operand beats copy the source into the buffer. -/
def sfFire (fn : SfFn) (h : VHead) (d : VDst) (a : VSrc) (s : State) : Host.Outcome State Fault Refusal :=
  fire s h.cue ⟨[], none, vsrcReady s.cur a && soRoom s.cur d && s.cur.sf.isNone, []⟩ (fun s =>
    let r := beatRun s (.sf fn h.ty) h.nb d h.p
    let job : SfJob :=
      { fn := fn, ty := h.ty, ctx := s.focus.ctx, slot := s.focus.slot, buf := [], dst := d, p := h.p, fcr := s.here.fcr
        joined := none, stop := none, written := 0, due := 0, flags := 0 }
    let c := s.cur.setCtx s.focus.ctx { s.here with status := .parkSf }
    .done (beatCycle (s.setCur { c with sf := some job }) s.focus.cell { r with a := captureV s.here a }))

def execSfExp2 (h : VHead) (d : VDst) (a : VSrc) (s : State) := sfFire .exp2 h d a s
def execSfLog2 (h : VHead) (d : VDst) (a : VSrc) (s : State) := sfFire .log2 h d a s
def execSfRcp (h : VHead) (d : VDst) (a : VSrc) (s : State) := sfFire .rcp h d a s
def execSfRsq (h : VHead) (d : VDst) (a : VSrc) (s : State) := sfFire .rsq h d a s
def execSfSqrt (h : VHead) (d : VDst) (a : VSrc) (s : State) := sfFire .sqrt h d a s
def execSfTanh (h : VHead) (d : VDst) (a : VSrc) (s : State) := sfFire .tanh h d a s
def execSfSigm (h : VHead) (d : VDst) (a : VSrc) (s : State) := sfFire .sigm h d a s
def execSfSin (h : VHead) (d : VDst) (a : VSrc) (s : State) := sfFire .sin h d a s
def execSfCos (h : VHead) (d : VDst) (a : VSrc) (s : State) := sfFire .cos h d a s

/-- The quad of a cell: its row and four physical columns (R59). -/
def quadOf (s : State) (n : Nat) : Nat × Nat := (n / 320, s.physCol n / 4)

/-- Whether another request of the quad is being served, or joined earlier, or in the same cycle at a lower column
(R181). -/
def quadBefore (s : State) (n : Nat) (joined : Nat) (o : Nat × CellState) : Bool :=
  if o.1 ≠ n ∧ o.1 / 320 = n / 320 ∧ quadOf s o.1 = quadOf s n then
    match o.2.sf with
    | some j =>
      match j.stop, j.joined with
      | some e, _ => decide (s.strip ≤ e)
      | none, some q => decide (q < joined) || decide (q = joined) && decide (o.1 < n)
      | none, none => false
    | none => false
  else false

/-- The unit starts to serve a request: 16 or 32 lanes a beat at 4 a cycle. -/
def execSfServiceStart (n : Nat) (s : State) : Host.Outcome State Fault Refusal :=
  let c := s.cell n
  match c.sf with
  | none => .next s
  | some j =>
    match j.joined, j.stop with
    | some q, none =>
      if q ≤ s.strip ∧ s.cells.any (quadBefore s n q) = false then
        let e := s.strip + (if tyWidth j.ty = 32 then 16 else 32) * j.buf.length / 4 - 1
        .next (s.setCell n { c with sf := some { j with stop := some e, due := e + 7 } })
      else .next s
    | _, _ => .next s

/-- The results of a job's beats. -/
def sfOut (j : SfJob) (k : Nat) : (VWord × Flags) × Bool :=
  let e := (j.buf[k]?).getD ⟨0, false⟩
  let r := sfBeat j.fn j.ty j.fcr e.data
  (r, e.x || r.2.marks)

/-- The last write of a request: predicate, flags, the context runs, the request ends. -/
def sfEnd (c : CellState) (j : SfJob) (v : VWord) (f : Flags) : CellState :=
  { (c.setCtx j.ctx ((((c.ctx j.ctx).actV j.p v).raise f).unpark .parkSf)) with sf := none }

/-- A result is written, in the first cycle of the cell that begins at or after strip cycle E + 7: a `v` register takes the
last beat's, a stream queue one beat a cycle (R180). -/
def execSfResultWrite (n : Nat) (s : State) : Host.Outcome State Fault Refusal :=
  let c := s.cell n
  match c.sf with
  | none => .next s
  | some j =>
    if j.stop.isNone ∨ s.strip < j.due then .next s
    else
      match j.dst with
      | .v _ =>
        let l := (List.range j.buf.length).map (sfOut j)
        let f := l.foldl (fun f r => f ||| r.1.2) (0 : Flags)
        let v := ((l.getLast?).map (·.1.1)).getD 0
        .next (s.setCell n (sfEnd (writeV c j.ctx j.dst v false) j v f))
      | .so _ =>
        if !soRoom c j.dst then .next s
        else
          let r := sfOut j j.written
          let c := writeV c j.ctx j.dst r.1.1 r.2
          let f := j.flags ||| r.1.2
          if j.written + 1 < j.buf.length then
            .next (s.setCell n { c with sf := some { j with written := j.written + 1, due := s.strip + 1, flags := f } })
          else .next (s.setCell n (sfEnd c j r.1.1 f))

end Sys2Proof.Machine
end

