-- ==== Sys2Proof/Machine/Stream.lean ====
section
/-! DEFINITION. Stream.lean: stream generators, rings and the tile sender as instructions and engines act on them (spec 02
R51 to R56, 09 R257 to R264). -/

namespace Sys2Proof.Machine

/-! ## Generator registers (R54) -/

def Gen.ctl (g : Gen) : Word :=
  word (g.dir.toNat + g.active.toNat * 2 + g.done.toNat * 4 + g.fault.toNat * 8 + g.rgen.toNat * 64 + g.rg.val * 128)

/-- The low and high words of a level. -/
def SgLevel.lo (l : SgLevel) : Word := word (l.stride.toNat + l.cntm1.toNat % 2 ^ 8 * 2 ^ 24)
def SgLevel.hi (l : SgLevel) : Word := word (l.cntm1.toNat / 2 ^ 8 + l.idx.toNat * 2 ^ 8)

def CellState.setGen (c : CellState) (g : Fin 4) (v : Gen) : CellState := { c with gens := vset c.gens g v }

/-- A change of a generator's registers, refused while it is active (R258). -/
def sgSet (c : Cue) (g : Fin 4) (srcs : List Src) (p : PAct) (opnd : State → Word) (f : State → Gen → Gen) (s : State) :
    Host.Outcome State Fault Refusal :=
  fire s c (needsR srcs) (fun s =>
    let v := s.cur.gens[g]
    if v.active then .fault (operandFault 3 (opnd s)) else onCell p (fun c => c.setGen g (f s v)) s)

def execSgSetBase (c : Cue) (g : Fin 4) (a : Src) (p : PAct) (s : State) :=
  sgSet c g [a] p (fun s => s.src a) (fun s v => { v with base := s.src a }) s

def execSgSetCtl (c : Cue) (g : Fin 4) (a : Src) (p : PAct) (s : State) :=
  sgSet c g [a] p (fun s => s.src a) (fun s v =>
    let n := (s.src a).toNat
    { v with dir := n.testBit 0, rgen := n.testBit 6, rg := Fin.ofNat 8 (bits n 7 3), done := v.done && !n.testBit 2 }) s

def execSgSetLv (c : Cue) (g : Fin 4) (a b : Src) (lv : Fin 4) (p : PAct) (s : State) :=
  sgSet c g [a, b] p (fun s => s.src a) (fun s v =>
    { v with lv := vset v.lv lv { v.lv[lv] with stride := (s.src a).setWidth 24, cntm1 := (s.src b).setWidth 16 } }) s

/-- SG.GO (R259). -/
def execSgGo (c : Cue) (g : Fin 4) (p : PAct) (s : State) : Host.Outcome State Fault Refusal :=
  fire s c (needsR []) (fun s =>
    let v := s.cur.gens[g]
    let r := s.cur.rings[v.rg]
    if v.active then .fault (operandFault 3 0)
    else if v.rgen ∧ v.dir = false ∧ (r.prod ≠ 2 ∨ r.pidx ≠ g.val) then .fault (operandFault 4 0)
    else
      onCell p (fun c => c.setGen g { v with
        lv := v.lv.map (fun l => { l with idx := 0 }), done := false, fault := false, active := true
        ctx := s.focus.ctx, slot := s.focus.slot, start := s.cur.cyc + 2 }) s)

/-- A status value into a destination. -/
def stat0 (c : Cue) (d : Dst) (p : PAct) (f : State → Word) (s : State) : Host.Outcome State Fault Refusal :=
  fire s c (needs0 d) (fun s => result d p (f s) false 0 s)

def execSgStatCtl (c : Cue) (g : Fin 4) (d : Dst) (p : PAct) (s : State) := stat0 c d p (fun s => (s.cur.gens[g]).ctl) s
def execSgStatIdx (c : Cue) (g : Fin 4) (d : Dst) (lv : Fin 4) (p : PAct) (s : State) :=
  stat0 c d p (fun s => ((s.cur.gens[g]).lv[lv]).idx.setWidth 32) s
def execSgStatOcc (c : Cue) (g : Fin 4) (d : Dst) (p : PAct) (s : State) :=
  stat0 c d p (fun s => word ((s.cur.sq[g]).length + (s.cur.so[g]).length * 16)) s

/-! ## Ring descriptors (R51, R52, R261 to R263) -/

def Ring.w0 (r : Ring) : Word := word r.base
def Ring.w1 (r : Ring) : Word := word (r.tsz + r.depth * 2 ^ 12 + r.prod * 2 ^ 20 + r.pidx * 2 ^ 23)
def Ring.w2 (r : Ring) : Word := word (r.head + r.tail * 2 ^ 8 + r.count * 2 ^ 16)

/-- Whether a descriptor is admitted (R51, R52). -/
def Ring.legal (r : Ring) : Bool :=
  decide (r.base + (r.depth + 1) * r.size ≤ 0x40000) && decide (r.base % 64 = 0) && decide (r.prod < 4)
    && (decide (r.pidx = 0) || decide (2 ≤ r.prod))

/-- A descriptor with a word replaced, empty. -/
def Ring.withW0 (r : Ring) (a : Word) : Ring :=
  { Ring.blank with base := bits a.toNat 0 18, tsz := r.tsz, depth := r.depth, prod := r.prod, pidx := r.pidx }
def Ring.withW1 (r : Ring) (a : Word) : Ring :=
  { Ring.blank with
    base := r.base, tsz := bits a.toNat 0 12, depth := bits a.toNat 12 8, prod := bits a.toNat 20 3
    pidx := bits a.toNat 23 2 }

/-- Whether an accepted matrix command names a ring (R187), and whether one reads it as an operand (R262). -/
def mxNames (m : MxCmd) (g : Fin 8) : Bool :=
  match m.kind with
  | .mma | .gmma => decide (m.ga = g) || decide (m.gb = g)
  | .lda | .rda => decide (m.ga = g)
  | .zero | .scale => false

def mxReadsRing (m : MxCmd) (g : Fin 8) : Bool :=
  match m.kind with
  | .rda => false
  | _ => mxNames m g

/-- The commands that are accepted and not completed. -/
def CellState.mxAll (c : CellState) : List MxCmd := (c.mxRun.map (·.cmd)).toList ++ c.mxq

def CellState.streaming (c : CellState) (g : Fin 8) : Bool :=
  match c.tsend with
  | some t => decide (t.g = g)
  | none => false

/-- A change of a ring descriptor (R261). -/
def gSet (c : Cue) (g : Fin 8) (a : Src) (mesh : Word → Bool) (f : Ring → Word → Ring) (p : PAct) (s : State) :
    Host.Outcome State Fault Refusal :=
  fire s c ⟨[a], none, !(s.cur.mxAll.any (mxNames · g)) && !s.cur.streaming g, []⟩ (fun s =>
    let v := s.src a
    let r := s.cur.rings[g]
    if r.prod = 1 || mesh v then .fault (operandFault 5 v)
    else if s.cur.gens.any (fun e => e.active && e.rgen && decide (e.rg = g)) then .fault (operandFault 5 v)
    else
      let new := f r v
      if new.legal then
        onCell p (fun c =>
          let c := c.setRing g new
          if r.prod = 3 then { c with readCnt := vset c.readCnt (Fin.ofNat 4 r.pidx) 0 } else c) s
      else .fault (operandFault 6 v))

def execGSetW0 (c : Cue) (g : Fin 8) (a : Src) (p : PAct) (s : State) := gSet c g a (fun _ => false) Ring.withW0 p s
def execGSetW1 (c : Cue) (g : Fin 8) (a : Src) (p : PAct) (s : State) :=
  gSet c g a (fun v => bits v.toNat 20 3 == 1) Ring.withW1 p s

/-- G.ADV push (R262): it waits for a free tile; a ring of another producer then faults. -/
def execGAdvPush (c : Cue) (g : Fin 8) (p : PAct) (s : State) : Host.Outcome State Fault Refusal :=
  fire s c ⟨[], none, (s.cur.rings[g]).room, []⟩ (fun s =>
    let r := s.cur.rings[g]
    if r.prod = 0 then onCell p (fun c => c.setRing g (r.push false)) s else .fault (operandFault 7 0))

/-- Whether a tile of a ring may leave it by software or the tile sender (R262, R264). -/
def popReady (c : CellState) (g : Fin 8) : Bool :=
  decide (1 ≤ (c.rings[g]).count) && !(c.mxAll.any (mxReadsRing · g)) && !c.streaming g

def execGAdvPop (c : Cue) (g : Fin 8) (p : PAct) (s : State) : Host.Outcome State Fault Refusal :=
  fire s c ⟨[], none, popReady s.cur g, []⟩ (onCell p (fun c => c.popRing g))

def execGStatCnt (c : Cue) (g : Fin 8) (d : Dst) (p : PAct) (s : State) := stat0 c d p (fun s => (s.cur.rings[g]).w2) s
def execGStatHead (c : Cue) (g : Fin 8) (d : Dst) (p : PAct) (s : State) :=
  stat0 c d p (fun s => let r := s.cur.rings[g]; word (r.tile r.head)) s
def execGStatTail (c : Cue) (g : Fin 8) (d : Dst) (p : PAct) (s : State) :=
  stat0 c d p (fun s => let r := s.cur.rings[g]; word (r.tile r.tail)) s

def tsendNeeds (g o : Fin 8) (s : State) : Needs :=
  ⟨[], some (.oq o), popReady s.cur g && (s.cur.oq[o]).isEmpty && s.cur.tsend.isNone, []⟩

/-- TSEND: the tile sender takes the head tile (R264). -/
def execTsend (c : Cue) (g o : Fin 8) (p : PAct) (s : State) : Host.Outcome State Fault Refusal :=
  fire s c (tsendNeeds g o s) (onCell p (fun c => { c with
    tsend := some ⟨g, o, 0, (c.rings[g]).tsz + 1, s.focus.ctx, s.focus.slot⟩ }))

/-! ## Generator transfers (R55, R259) -/

/-- The address of the next transfer. -/
def Gen.addr (g : Gen) : Nat :=
  (BitVec.ofInt 32 (g.base.toNat + g.lv[0].idx.toNat * g.lv[0].stride.toInt + g.lv[1].idx.toNat * g.lv[1].stride.toInt
    + g.lv[2].idx.toNat * g.lv[2].stride.toInt + g.lv[3].idx.toNat * g.lv[3].stride.toInt)).toNat

/-- Whether BASE and every stride is a multiple of 64. -/
def Gen.aligned (g : Gen) : Bool := decide (g.base.toNat % 64 = 0) && g.lv.all (fun l => decide (l.stride.toNat % 64 = 0))

/-- The indices after a transfer, none after the last. -/
def stepIdx (l : List SgLevel) : Option (List SgLevel) :=
  match l with
  | [] => none
  | a :: r =>
    if a.idx = a.cntm1 then (stepIdx r).map fun q => { a with idx := 0 } :: q
    else some ({ a with idx := a.idx + 1 } :: r)

def Gen.next (g : Gen) : Gen :=
  match stepIdx g.lv.toList with
  | some q => { g with lv := Vector.ofFn fun i => (q[i.val]?).getD SgLevel.blank }
  | none => { g with active := false, done := true }

/-- A fault stops a generator with its indices frozen and makes its record (R55, R350). -/
def sgFault (s : State) (n : Nat) (g : Fin 4) (cls code : Nat) : State :=
  let c := s.cell n
  let v := c.gens[g]
  (s.setCell n (c.setGen g { v with active := false, fault := true })).asyncRecord n v.ctx v.slot
    { cls := cls, code := code, opnd := word (v.lv[1].idx.toNat * 2 ^ 16 + v.lv[0].idx.toNat), unit := g.val }

/-- A record of an engine that read an uncorrectable SRAM word (R350). -/
def engineEcc (s : State) (n : Nat) (ctx : Fin 4) (slot unit : Nat) (w : Option Nat) : State :=
  match w with
  | some w => s.asyncRecord n ctx slot { cls := 11, code := 2, opnd := word (w * 8), unit := unit }
  | none => s

/-- 64 bytes of private space as an engine reads them (R217). -/
def engineRead (s : State) (n a : Nat) : Nat :=
  if inSram a 64 then (s.cell n).sram.readN a 64 else s.sliceRead n (a - sliceBase) 64

/-- 64 bytes of private space as an engine writes them; slice lines are whole, so their checks hold again. -/
def engineWrite (s : State) (n a v : Nat) : State :=
  let c := s.cell n
  if inSram a 64 then s.setCell n { c with sram := c.sram.writeN a 64 v }
  else
    let l := lineOf a
    (s.setCell n { c with badLines := c.badLines.filter (fun b => decide (b ≠ l ∧ b ≠ l + 1)) }).sliceWrite n
      (a - sliceBase) 64 v

/-- Whether a slice block holds a line whose check fails. -/
def badBlock (c : CellState) (a : Nat) : Bool :=
  !inSram a 64 && (c.badLines.contains (lineOf a) || c.badLines.contains (lineOf a + 1))

/-- Whether a generator's queue or ring allows its transfer: a pop takes only what stood there at the start of the cycle
(R45). -/
def sgCan (c : CellState) (g : Fin 4) : Bool :=
  let v := c.gens[g]
  let r := c.rings[v.rg]
  if v.rgen then (if v.dir then decide (1 ≤ r.count) && decide (1 ≤ c.ringAt[v.rg]) else r.room)
  else if v.dir then !(c.so[g]).isEmpty && decide (1 ≤ c.soAt[g])
  else decide ((c.sq[g]).length < 8)

/-- The slice lines of a transfer, none in SRAM. -/
def sgLines (a : Nat) : List Nat := if inSram a 64 then [] else [lineOf a, lineOf a + 1]

/-- A transfer of a generator: an entry of its stream queue, or of its ring's tail or head tile, in or out of private
space. With DIR = 1 the generator always writes memory, which holds no mark: R124 names a drain of a write generator into a
ring that R54 and R55 give no transfer (log 66). -/
def sgMove (s : State) (n : Nat) (g : Fin 4) : State :=
  let c := s.cell n
  let v := c.gens[g]
  let a := v.addr
  let r := c.rings[v.rg]
  if !v.dir then
    if badBlock c a then sgFault s n g 10 3
    else
      let w := if inSram a 64 then c.badWord a 64 else none
      let d := engineRead s n a
      let c := (if inSram a 64 then c.mend a 64 else c).setGen g v.next
      let c :=
        if v.rgen then
          let x := r.acc || w.isSome
          let c := { c with sram := c.sram.writeN (r.tile r.tail + r.part * 64) 64 d }
          c.setRing v.rg (if r.part = r.tsz then r.push x else { r with part := r.part + 1, acc := x })
        else { c with sq := vset c.sq g (c.sq[g] ++ [⟨BitVec.ofNat 512 d, w.isSome⟩]) }
      (engineEcc (s.setCell n c) n v.ctx v.slot g.val w).active n
  else if v.rgen then
    let e := r.tile r.head + r.drain * 64
    let s1 := engineWrite s n a (c.sram.readN e 64)
    let c1 := ((s1.cell n).mend e 64).setGen g v.next
    let c1 := if r.drain = r.tsz then c1.popRing v.rg else c1.setRing v.rg { r with drain := r.drain + 1 }
    (engineEcc (s1.setCell n c1) n v.ctx v.slot g.val (c.badWord e 64)).active n
  else
    let d := (((c.so[g]).head?).map (·.data)).getD 0
    let s1 := engineWrite s n a d.toNat
    let c1 := s1.cell n
    (s1.setCell n ({ c1 with
      so := vset c1.so g (c1.so[g]).tail, soAt := vset c1.soAt g (c1.soAt[g] - 1) }.setGen g v.next)).active n

/-- Whether a stop order holds a cell's generators: they go on only for the N-beat instruction that still runs and for the special
function that is outstanding, whose results must come to their place first (R182, R354). -/
def genPaused (s : State) (n : Nat) : Bool :=
  (s.stage (s.cell n).stage).stopping && (s.cell n).sf.isNone &&
    (match (s.cell n).hold with
     | .beats _ => false
     | _ => true)

/-- One transfer of an active generator. A slice transfer first asks the strip port, and takes place once its merge window
has closed (R14). -/
def execSgTransfer (n : Nat) (g : Fin 4) (s : State) : Host.Outcome State Fault Refusal :=
  let c := s.cell n
  let v := c.gens[g]
  let ls := sgLines v.addr
  let asked := c.portAsked (.gen g)
  if !v.active || decide (c.cyc < v.start) || genPaused s n && !asked then .next s
  else if !v.aligned then .next (sgFault s n g 4 0)
  else if !c.inPrivate v.addr 64 then .next (sgFault s n g 3 0)
  else if !sgCan c g then .next s
  else if ls.isEmpty then .next (sgMove s n g)
  else if !asked then .next (s.portAsk n (.gen g) ls v.dir)
  else if c.portServed (.gen g) ls v.dir then .next (sgMove (s.portDone n (.gen g)) n g)
  else .next s

/-- What a halt does first: a slice transfer under way completes (log 67). -/
def sgSettle (s : State) (n : Nat) (g : Fin 4) : State :=
  let c := s.cell n
  if c.portAsked (.gen g) then
    let s := s.portDone n (.gen g)
    if c.gens[g].active && sgCan c g then sgMove s n g else s
  else s

/-- SG.HALT (R259). -/
def execSgHalt (c : Cue) (g : Fin 4) (p : PAct) (s : State) : Host.Outcome State Fault Refusal :=
  fire s c (needsR []) (fun s =>
    onCell p (fun c => c.setGen g { c.gens[g] with active := false }) (sgSettle s s.focus.cell g))

end Sys2Proof.Machine
end

