-- ==== Sys2Proof/Machine/Mesh.lean ====
section
/-! DEFINITION. Mesh.lean: the flits of the mesh, the routers that forward them, and the CTRL tables (spec 01 R20 to R23, 10 R296, 11
R316; log 26, 72). -/

namespace Sys2Proof.Machine

/-- The module number of a wafer-space address. -/
def modOf (a : DWord) : Nat := bits a.toNat 48 8

/-- The logical position whose router serves a strip: the first of its row that lies over the strip or beyond (R12, R17). -/
def State.overStrip (s : State) (st : Nat) : Nat :=
  st / 24 * 320 + min 319 ((s.casting.cols (st / 24)).filter (fun c => decide (c / 16 < st % 24))).length

/-- The positions at which traffic of a peer module, and that of a host port, enters and leaves the mesh. -/
def edgeRouter (m : Nat) : Nat := Config.edgeAt m % 163840
def portRouter (p : Nat) : Nat := Config.portAt p % 163840

/-! ## Physical positions (R10, R25, R304) -/

/-- The number of a physical position. -/
def pollKey (row col : Nat) : Nat := row * 384 + col

def State.posKey (s : State) (n : Nat) : Nat := pollKey (n / 320) (s.physCol n)

/-- The neighbour of a position in a direction. -/
def besideOf (row col : Nat) (d : Dir) : Option (Nat × Nat) :=
  match d with
  | .north => if 0 < row then some (row - 1, col) else none
  | .south => if row + 1 < 512 then some (row + 1, col) else none
  | .west => if 0 < col then some (row, col - 1) else none
  | .east => if col + 1 < 384 then some (row, col + 1) else none

/-- The position whose oscillator a position runs from: its own, or the neighbour's that it chose at boot (R25). -/
def State.clockKey (s : State) (key : Nat) : Nat :=
  match (AMap.get? s.clocks key).bind fun d => besideOf (key / 384) (key % 384) d with
  | some p => pollKey p.1 p.2
  | none => key

/-- Whether the poll of a position is a clear one, which lifts its mask and its stretch (R304). -/
def State.clearKey (s : State) (key : Nat) : Bool := (s.silent.getD key (0, false)).2
def State.clearAt (s : State) (n : Nat) : Bool := s.clearKey (s.posKey n)

/-- Whether the oscillator of a position is stretched, and whether a throttle record of the position stands. -/
def State.slowAt (s : State) (key : Nat) : Bool × Bool := s.slow.getD key (false, false)

/-- Whether the clock that a position runs from is stretched (log 55, 76). -/
def State.stretchedAt (s : State) (key : Nat) : Bool := (s.slowAt (s.clockKey key)).1

/-- Whether the clock of a position was slowed since its last answer to a poll, and the throttle flag of that answer. -/
def State.flagAt (s : State) (key : Nat) : Bool × Bool := s.flags.getD key (false, false)

/-- A position's clock is stretched or masked: a throttle record, and the flag for its next answer, but in the interval of a clear poll
(R304). -/
def State.throttle (s : State) (key : Nat) : State :=
  if s.clearKey key then s
  else { s with slow := s.slow.put key ((s.slowAt key).1, true), flags := s.flags.put key (true, (s.flagAt key).2) }

/-! ## Places on the mesh -/

/-- A flit that enters the mesh at a router. -/
def Hop.at (n strip : Nat) : Hop := ⟨n % 320, n % 320, n / 320, [], strip⟩

def Hop.router (h : Hop) : Nat := h.y * 320 + h.x

def dirMove (d : Dir) (x y : Nat) : Nat × Nat :=
  match d with
  | .north => (x, y - 1)
  | .east => (x + 1, y)
  | .south => (x, y + 1)
  | .west => (x - 1, y)

/-- The port by which a flit that moved in a direction enters, as R344 numbers ports. -/
def dirEntry (d : Dir) : Nat :=
  match d with
  | .north => 2
  | .east => 3
  | .south => 0
  | .west => 1

def Hop.go (h : Hop) (d : Dir) (strip : Nat) : Hop :=
  let m := dirMove d h.x h.y
  { h with x := m.1, y := m.2, trail := d :: h.trail, came := strip }

/-- Whether the odd-even turn model lets a flit from column `sx` leave (x, y) in a direction on a minimal way to
(tx, ty) (log 26). -/
def oddEven (sx x y tx ty : Nat) (d : Dir) : Bool :=
  match d with
  | .east => decide (x < tx) && (decide (y = ty) || decide (tx % 2 = 1) || decide (tx ≠ x + 1))
  | .west => decide (tx < x)
  | .north => decide (ty < y) && (decide (x = tx) || (if x < tx then decide (x % 2 = 1) || decide (x = sx) else decide (x % 2 = 0)))
  | .south => decide (y < ty) && (decide (x = tx) || (if x < tx then decide (x % 2 = 1) || decide (x = sx) else decide (x % 2 = 0)))

def Hop.ways (h : Hop) (goal : Nat) : List Dir :=
  [Dir.north, .east, .south, .west].filter (oddEven h.sx h.x h.y (goal % 320) (goal / 320))

/-- The ways of a flit behind another one of its route: the way that the one before took from here, none until it has left
(R21; log 26). -/
def Hop.follow (h : Hop) (before : Option Hop) (goal : Nat) : List Dir :=
  match before with
  | none => h.ways goal
  | some b => (b.trail.reverse[h.trail.length]?).toList

/-! ## CTRL tables (R21, R23, R316) -/

/-- The director, and the stage managers that act for it, as an endpoint of CTRL: beside the logical numbers. -/
def directorAt : Nat := 163840

/-- The router of an endpoint: a cell's own, the first one for the director (log 72). -/
def endRouter (d : Nat) : Nat := if d = directorAt then 0 else d

/-- The direction of the straight route: along the row, then along the column (log 72). -/
def straight (r d : Nat) : Dir :=
  if r % 320 < d % 320 then .east else if d % 320 < r % 320 then .west else if r / 320 < d / 320 then .south else .north

/-- Whether a bank is written for a destination. -/
def CtrlBank.serves (b : CtrlBank) (d : Nat) : Bool :=
  decide (0 < b.w * b.h) && (decide (d = directorAt)
    || decide (b.x0 ≤ d % 320 ∧ d % 320 < b.x0 + b.w ∧ b.y0 ≤ d / 320 ∧ d / 320 < b.y0 + b.h))

/-- The entry of a router for a destination. -/
def CtrlBank.next (b : CtrlBank) (r d : Nat) : Option Dir :=
  match b.other.find? fun e => decide (e.router = r ∧ e.dest = d) with
  | some e => e.next
  | none => if b.serves d then some (straight r (endRouter d)) else none

/-- The set of destinations that a row is: what the director's own polls, installs and curtains go to (R357). -/
def rowSet (d : Nat) : Option Nat := if d = directorAt then none else some (4096 + d / 320)

/-- The tables of a set: a row has its own from boot on, a stage from its placement. -/
def State.ctrlOf (s : State) (st : Nat) : CtrlTables :=
  AMap.getD s.ctrl st (if st < 4096 then CtrlTables.blank
    else { CtrlTables.blank with banks := Vector.replicate 2 ⟨0, st - 4096, 320, 1, []⟩ })

/-- The entry of the table in use of a router for a destination of a stage. -/
def State.ctrlNext (s : State) (st r d : Nat) : Option Dir :=
  let k := s.ctrlOf st
  (k.banks[k.use]).next r d

/-- Whether a drain-and-swap of a stage's CTRL tables holds new items (R23). -/
def State.ctrlHeld (s : State) (st : Nat) : Bool := (s.ctrlOf st).pending

/-- The first router on an item's way that has no entry for its destination, if there is one, with the port by which the item came
to it: `port` at router `r`. -/
def State.ctrlGap (s : State) (st r port d fuel : Nat) : Option (Nat × Nat) :=
  match fuel with
  | 0 => none
  | k + 1 =>
    if r = endRouter d then none
    else
      match s.ctrlNext st r d with
      | none => some (r, port)
      | some dir => let m := dirMove dir (r % 320) (r / 320); s.ctrlGap st (m.2 * 320 + m.1) (dirEntry dir) d k

/-- The gap on the way of what the director does to a destination of a set in one event: a poll, an install, a curtain, a stop.
The way is at most 830 hops. -/
def State.gapTo (s : State) (st d : Nat) : Option (Nat × Nat) := s.ctrlGap st 0 4 d 831

/-- Whether the row of a destination is being swapped. -/
def State.rowHeld (s : State) (d : Nat) : Bool := (rowSet d).any s.ctrlHeld

/-- An endpoint of a stage has sent to another one. -/
def State.noteSent (s : State) (st : Nat) (p : Nat × Nat) : State :=
  let k := s.ctrlOf st
  { s with ctrl := s.ctrl.put st { k with sent := if k.sent.contains p then k.sent else k.sent ++ [p] } }

/-- An item goes on CTRL between two endpoints of a stage; while a drain-and-swap holds its destination it stays at its
source. -/
def State.putItem (s : State) (st src dest : Nat) (w : CtrlWhat) : State :=
  let hold := s.ctrlHeld st || s.rowHeld dest
  let s1 := if hold then s else s.noteSent st (src, dest)
  { s1 with items := s1.items ++ [⟨st, src, dest, w, hold, Hop.at (endRouter src) s.strip⟩] }

/-- Whether a stage has anything on CTRL between its cells and the director but drain tokens. What the director does to the cells in
one event is behind what went before it between the same endpoints (R21). -/
def State.onWay (s : State) (st : Nat) : Bool := s.items.any fun i => decide (i.stage = st ∧ i.what ≠ .token)

/-! ## Flits -/

/-- What a flit carries: a packet, a request, an answer, a remote write of a cell by its place, a block of an active copy, an item
of CTRL. -/
inductive FlitRef where
  | packet (i : Nat)
  | req (i : Nat)
  | ack (i : Nat)
  | put (n i : Nat)
  | block (n : Nat) (k : Fin 2) (i : Nat)
  | item (i : Nat)
  deriving DecidableEq, Repr

/-- What a router sees of a flit: its class (0 DATA, 1 REQ, 2 RSP, 3 CTRL), its place, the router at which it leaves the mesh, how
many 32-byte flits it is, the ways that it may go. -/
structure Flit where
  cls : Nat
  hop : Hop
  goal : Nat
  size : Nat
  ways : List Dir
  deriving DecidableEq, Repr

/-- The entries of a list with their indices. -/
def indexed {α : Type} (l : List α) : List (Nat × α) := (List.range l.length).zip l

/-- The last of a list that meets a test. -/
def lastOf {α : Type} (p : α → Bool) (l : List α) : Option α := l.reverse.find? p

def PktData.size (d : PktData) : Nat :=
  match d with
  | .word _ => 1
  | .unit _ _ => 2

/-- A packet follows the one before it on its route. -/
def packetFlit (s : State) (i : Nat) (p : Packet) : Flit :=
  let before := lastOf (fun o => decide (o.src = p.src ∧ o.oq = p.oq)) (s.packets.take i)
  ⟨0, p.hop, p.goal, p.data.size, p.hop.follow (before.map (·.hop)) p.goal⟩

def ReqKind.flits (k : ReqKind) : Nat :=
  match k with
  | .store64 _ => 2
  | _ => 1

/-- A request on its way to its strip, or to the edge for another module (R28). -/
def reqFlit (s : State) (r : Req) : Option Flit :=
  let bound (goal : Nat) : Option Flit := some ⟨1, r.hop, goal, r.kind.flits, r.hop.ways goal⟩
  match r.loc with
  | .homed st _ => bound (s.overStrip st)
  | .away => bound (edgeRouter (modOf r.addr))
  | _ => none

/-- Where an answer leaves the mesh: at its cell, or where its peer module's traffic leaves. -/
def Ack.goal (a : Ack) : Nat := a.req.origin.elim a.req.cell fun o => edgeRouter o.1

def ackFlit (a : Ack) : Flit := ⟨2, a.hop, a.goal, 1, a.hop.ways a.goal⟩

/-- The PUTRs in send places, cell by cell in firing order. -/
def State.puts (s : State) : List (Nat × Put) := s.cells.flatMap fun e => e.2.putSend.map fun w => (e.1, w)

/-- Two writes to one register of one context of one cell. -/
def Put.same (a b : Put) : Bool := decide (a.num = b.num) && decide (a.ctx = b.ctx) && decide (a.r = b.r)

/-- The cell that a remote write of a cell is for. -/
def State.putCell (s : State) (n : Nat) (w : Put) : Nat := (s.stage (s.cell n).stage).cellNum w.num

/-- Whether write `j` of a cell's send places may leave for the mesh: it is old enough; its target has credit for its register,
none being held there or on its way; no earlier write of its cell to that register is left; and, while the target holds none of
its cell's, no earlier write of its cell to the target is left that the target does not hold back (R232, R255). -/
def putOpen (s : State) (n j : Nat) (w : Put) : Bool :=
  let c := s.cell n
  let d := s.cell (s.putCell n w)
  let held (ctx : Fin 4) (r : Fin 8) : Bool := d.putHeld.any fun h => decide (h.ctx = ctx) && decide (h.r = r)
  decide (w.early ≤ c.cyc) && !(s.stage c.stage).stopping && !held w.ctx w.r
    && !s.puts.any (fun e => e.2.hop.isSome && decide ((s.cell e.1).stage = c.stage) && e.2.same w)
    && !(c.putSend.take j).any (fun e => e.hop.isNone && (e.same w
      || (decide (e.num = w.num) && !d.putHeld.any (fun h => decide (h.src = n)) && !held e.ctx e.r)))

/-- A remote write travels as DATA (log 26), behind the one before it of its cell to its target. -/
def putFlit (s : State) (n j : Nat) (w : Put) : Option Flit :=
  let c := s.cell n
  let goal := s.putCell n w
  match w.hop with
  | some h =>
    let before := (lastOf (fun (e : Put) => e.hop.isSome && decide (e.num = w.num)) (c.putSend.take j)).bind (·.hop)
    some ⟨0, h, goal, 1, h.follow before goal⟩
  | none =>
    let h := Hop.at n 0
    let before := (lastOf (fun (e : Put) => e.hop.isSome && decide (e.num = w.num)) c.putSend).bind (·.hop)
    if putOpen s n j w then some ⟨0, h, goal, 1, h.follow before goal⟩ else none

/-- Where the wafer side of a block is reached: at its strip, at the port of its host window, at the edge. -/
def blockGoal (s : State) (x : Copy) (y : Block) : Nat :=
  match y.loc with
  | .home key => s.overStrip (key / 2 ^ 27)
  | .window w _ => portRouter (AMap.getD s.host.winPort w 0)
  | .away => edgeRouter (modOf x.wa)

/-- A block on its way out, with its data where it is a PUT, or its answer on the way back. -/
def blockFlit (s : State) (n : Nat) (x : Copy) (y : Block) : Option Flit :=
  let bound (cls goal : Nat) : Option Flit := some ⟨cls, y.hop, goal, 1, y.hop.ways goal⟩
  match y.phase with
  | .out => bound 1 (blockGoal s x y)
  | .back => bound 2 n
  | _ => none

/-- An item of CTRL goes as the tables have it. -/
def itemFlit (s : State) (i : CtrlItem) : Option Flit :=
  if i.held then none
  else
    let goal := endRouter i.dest
    some ⟨3, i.hop, goal, 1, if i.hop.router = goal then [] else (s.ctrlNext i.stage i.hop.router i.dest).toList⟩

/-- The flits on the mesh. -/
def State.flits (s : State) : List (FlitRef × Flit) :=
  ((indexed s.packets).map fun e => (.packet e.1, packetFlit s e.1 e.2))
    ++ ((indexed s.reqs).filterMap fun e => (reqFlit s e.2).map fun f => (.req e.1, f))
    ++ ((indexed s.acks).map fun e => (.ack e.1, ackFlit e.2))
    ++ (s.cells.flatMap fun c => (indexed c.2.putSend).filterMap fun e => (putFlit s c.1 e.1 e.2).map fun f => (.put c.1 e.1, f))
    ++ (s.cells.flatMap fun c => (List.finRange 2).flatMap fun k => (c.2.copyAct[k]).toList.flatMap fun x =>
        (indexed x.work).filterMap fun e => (blockFlit s c.1 x e.2).map fun f => (.block c.1 k e.1, f))
    ++ ((indexed s.items).filterMap fun e => (itemFlit s e.2).map fun f => (.item e.1, f))

/-! ## Routers (R20 to R22, R296) -/

/-- The input port at which a flit waits: a link's, or the local one. -/
def Flit.port (f : Flit) : Nat := (f.hop.trail.head?).elim 4 dirEntry

/-- Whether a flit has come to where it leaves the mesh. -/
def Flit.there (f : Flit) : Bool := decide (f.hop.router = f.goal)

/-- Whether two flits stand in one buffer: that of a class at a port. -/
def Flit.beside (f g : Flit) : Bool := decide (f.cls = g.cls ∧ f.hop.router = g.hop.router ∧ f.port = g.port)

/-- Whether flit `i` is at the head of its buffer. -/
def isHead (l : List (FlitRef × Flit)) (i : Nat) (f : Flit) : Bool :=
  !(l.take i).any (fun g => g.2.beside f && decide (g.2.hop.came ≤ f.hop.came))
    && !(l.drop (i + 1)).any fun g => g.2.beside f && decide (g.2.hop.came < f.hop.came)

/-- The flits at the heads of their buffers. -/
def State.heads (s : State) : List (FlitRef × Flit) :=
  let l := s.flits
  ((indexed l).filter fun e => isHead l e.1 e.2.2).map (·.2)

/-- Whether the buffer of a class at the next router's port has a slot. -/
def portRoom (s : State) (cls router : Nat) (d : Dir) : Bool :=
  decide ((s.flits.filter fun f =>
    decide (f.2.cls = cls ∧ f.2.hop.router = router ∧ f.2.hop.trail.head? = some d)).length < Config.portSlots + 1)

/-- The flits of a router that want an output: a link, or the local port. `takes` is whether what stands behind the local port
would take a flit now. -/
def wants (takes : FlitRef → Bool) (out : Option Dir) (e : FlitRef × Flit) : Bool :=
  match out with
  | some d => e.2.ways.contains d
  | none => e.2.there && takes e.1

/-- An output port of a router, by class. -/
def arbKey (cls router : Nat) (out : Option Dir) : Nat := (cls * 163840 + router) * 5 + out.elim 4 dirEntry

/-- Whether a flit at the head of its buffer has its turn at an output: within its class the inputs are granted round-robin (R22,
R296). Their cyclic order is that of R344's numbers, the first turn after reset is input 0's (log 26). -/
def hasTurn (s : State) (takes : FlitRef → Bool) (ref : FlitRef) (f : Flit) (out : Option Dir) : Bool :=
  let last := AMap.getD s.rr (arbKey f.cls f.hop.router out) 4
  let rank (g : Flit) : Nat := (g.port + 4 - last) % 5
  let l := s.heads
  l.contains (ref, f) && wants takes out (ref, f)
    && !l.any fun g => decide (g.2.cls = f.cls ∧ g.2.hop.router = f.hop.router) && wants takes out g && decide (rank g.2 < rank f)

/-- A turn is taken. -/
def State.turned (s : State) (f : Flit) (out : Option Dir) : State :=
  { s with rr := s.rr.put (arbKey f.cls f.hop.router out) f.port }

/-- A link of a router. -/
def linkKey (router : Nat) (d : Dir) : Nat := router * 4 + dirEntry d

/-- Whether a link has slots left in this strip cycle: two 32-byte flits (R20), of which one in every eighth cycle, so one of 16, is
for CTRL alone (R296; log 72). -/
def linkFree (s : State) (f : Flit) (d : Dir) : Bool :=
  decide (AMap.getD s.links (linkKey f.hop.router d) 0 + f.size ≤ if f.cls ≠ 3 ∧ s.strip % 8 = 7 then 1 else 2)

/-- A flit stands at the next router. -/
def State.moveFlit (s : State) (ref : FlitRef) (d : Dir) : State :=
  let go (h : Hop) : Hop := h.go d s.strip
  match ref with
  | .packet i => { s with packets := s.packets.modify i fun p => { p with hop := go p.hop } }
  | .req i => { s with reqs := s.reqs.modify i fun r => { r with hop := go r.hop } }
  | .ack i => { s with acks := s.acks.modify i fun a => { a with hop := go a.hop } }
  | .item i => { s with items := s.items.modify i fun t => { t with hop := go t.hop } }
  | .put n i =>
    let c := s.cell n
    s.setCell n { c with putSend := c.putSend.modify i fun w => { w with hop := some (go (w.hop.getD (Hop.at n 0))) } }
  | .block n k i =>
    let c := s.cell n
    s.setCell n { c with copyAct := vset c.copyAct k ((c.copyAct[k]).map fun x =>
      { x with work := x.work.modify i fun y => { y with hop := go y.hop } }) }

/-- A router throws a flit away. -/
def State.dropFlit (s : State) (ref : FlitRef) : State :=
  match ref with
  | .packet i => { s with packets := s.packets.eraseIdx i }
  | .item i => { s with items := s.items.eraseIdx i }
  | .put n i => let c := s.cell n; s.setCell n { c with putSend := c.putSend.eraseIdx i }
  | _ => s

/-- The stage whose DATA a flit is, with where it goes: the check of a link port into an owned router (R316). -/
def flitStage (s : State) (ref : FlitRef) : Option Nat :=
  match ref with
  | .packet i => (s.packets[i]?).bind fun p => match p.target with
    | .egress _ => none
    | _ => some p.stage
  | .put n _ => some (s.cell n).stage
  | _ => none

/-- The check of DATA at a link port into an owned router (R316). A word for a host queue goes to no position of a stage. -/
def linkOk (s : State) (ref : FlitRef) (goal at' : Nat) : Bool :=
  match flitStage s ref with
  | none => true
  | some st => s.stages.all fun e => !e.2.owns at' || decide (e.1 = st) || !e.2.owns goal

end Sys2Proof.Machine
end

