-- ==== Sys2Proof/Machine/Scalar.lean ====
section
/-! DEFINITION. Scalar.lean: integer, immediate, single-operand, predicate and long scalar instructions (spec 05 R127 to
R160). -/

namespace Sys2Proof.Machine

/-- Two sources to one result with no flag (R133). -/
def int2 (c : Cue) (d : Dst) (a b : Src) (p : PAct) (f : Word → Word → Word) (s : State) :
    Host.Outcome State Fault Refusal :=
  fire s c (needs2 d a b) (fun s => result d p (f (s.src a) (s.src b)) (srcsX s.cur [a, b]) 0 s)

/-- One source and an immediate (R138), no predicate action. -/
def int1 (c : Cue) (d : Dst) (a : Src) (p : PAct) (f : Word → Word) (s : State) : Host.Outcome State Fault Refusal :=
  fire s c (needs1 d a) (fun s => result d p (f (s.src a)) (srcX s.cur a) 0 s)

/-- A truth value as 1 or 0. -/
def flag (b : Bool) : Word := if b then 1 else 0

/-- The shift amount B[4:0] (R133). -/
def shamt (b : Word) : Nat := b.toNat % 32

def addW (a b : Word) : Word := a + b
def subW (a b : Word) : Word := a - b
def sllW (a b : Word) : Word := a <<< shamt b
def srlW (a b : Word) : Word := a >>> shamt b
def sraW (a b : Word) : Word := a.sshiftRight (shamt b)
def mulW (a b : Word) : Word := a * b
/-- Bits 63 to 32 of the signed product. -/
def mulhW (a b : Word) : Word := BitVec.ofInt 32 (a.toInt * b.toInt / 2 ^ 32)
def mulhuW (a b : Word) : Word := word (a.toNat * b.toNat / 2 ^ 32)
def minW (a b : Word) : Word := if a.toInt < b.toInt then a else b
def maxW (a b : Word) : Word := if b.toInt < a.toInt then a else b
def minuW (a b : Word) : Word := if a.toNat < b.toNat then a else b
def maxuW (a b : Word) : Word := if b.toNat < a.toNat then a else b
def seqW (a b : Word) : Word := flag (decide (a = b))
def sneW (a b : Word) : Word := flag (decide (a ≠ b))
def sltW (a b : Word) : Word := flag (decide (a.toInt < b.toInt))
def sltuW (a b : Word) : Word := flag (decide (a.toNat < b.toNat))

def execAdd (c : Cue) (d : Dst) (a b : Src) (p : PAct) (s : State) := int2 c d a b p addW s
def execSub (c : Cue) (d : Dst) (a b : Src) (p : PAct) (s : State) := int2 c d a b p subW s
def execAnd (c : Cue) (d : Dst) (a b : Src) (p : PAct) (s : State) := int2 c d a b p (· &&& ·) s
def execOr (c : Cue) (d : Dst) (a b : Src) (p : PAct) (s : State) := int2 c d a b p (· ||| ·) s
def execXor (c : Cue) (d : Dst) (a b : Src) (p : PAct) (s : State) := int2 c d a b p (· ^^^ ·) s
def execSll (c : Cue) (d : Dst) (a b : Src) (p : PAct) (s : State) := int2 c d a b p sllW s
def execSrl (c : Cue) (d : Dst) (a b : Src) (p : PAct) (s : State) := int2 c d a b p srlW s
def execSra (c : Cue) (d : Dst) (a b : Src) (p : PAct) (s : State) := int2 c d a b p sraW s
def execMul (c : Cue) (d : Dst) (a b : Src) (p : PAct) (s : State) := int2 c d a b p mulW s
def execMulh (c : Cue) (d : Dst) (a b : Src) (p : PAct) (s : State) := int2 c d a b p mulhW s
def execMulhu (c : Cue) (d : Dst) (a b : Src) (p : PAct) (s : State) := int2 c d a b p mulhuW s
def execMin (c : Cue) (d : Dst) (a b : Src) (p : PAct) (s : State) := int2 c d a b p minW s
def execMax (c : Cue) (d : Dst) (a b : Src) (p : PAct) (s : State) := int2 c d a b p maxW s
def execMinu (c : Cue) (d : Dst) (a b : Src) (p : PAct) (s : State) := int2 c d a b p minuW s
def execMaxu (c : Cue) (d : Dst) (a b : Src) (p : PAct) (s : State) := int2 c d a b p maxuW s
def execSeq (c : Cue) (d : Dst) (a b : Src) (p : PAct) (s : State) := int2 c d a b p seqW s
def execSne (c : Cue) (d : Dst) (a b : Src) (p : PAct) (s : State) := int2 c d a b p sneW s
def execSlt (c : Cue) (d : Dst) (a b : Src) (p : PAct) (s : State) := int2 c d a b p sltW s
def execSltu (c : Cue) (d : Dst) (a b : Src) (p : PAct) (s : State) := int2 c d a b p sltuW s

/-- SEL (R134): both sources count toward readiness and toward the mark. -/
def execSel (c : Cue) (d : Dst) (a b : Src) (ps : Fin 8) (s : State) : Host.Outcome State Fault Refusal :=
  fire s c (needs2 d a b) (fun s =>
    result d noAct (if s.here.pred ps then s.src a else s.src b) (srcsX s.cur [a, b]) 0 s)

/-! ## Division (R135 to R137) -/

/-- The quotient or remainder of R136. -/
def divide (signed remainder : Bool) (a b : Word) : Word :=
  if b = 0 then (if remainder then a else 0xFFFFFFFF)
  else if signed then
    (if a = 0x80000000 ∧ b = 0xFFFFFFFF then (if remainder then 0 else 0x80000000)
     else if remainder then BitVec.ofInt 32 (a.toInt.tmod b.toInt) else BitVec.ofInt 32 (a.toInt.tdiv b.toInt))
  else if remainder then word (a.toNat % b.toNat) else word (a.toNat / b.toNat)

/-- A divide fires: its sources are read, an entry of a destination queue is reserved, the context parks and the
divider is busy to cycle F + 17 (R135, R137). -/
def divStart (signed remainder : Bool) (c : Cue) (d : Dst) (a b : Src) (p : PAct) (s : State) :
    Host.Outcome State Fault Refusal :=
  fire s c ⟨[a, b], some d, s.cur.div.isNone, []⟩ (fun s =>
    let k := s.focus.ctx
    let job : DivJob :=
      { signed := signed, remainder := remainder, a := s.src a, b := s.src b, ctx := k, slot := s.focus.slot, dst := d
        p := p, x := srcsX s.cur [a, b], due := s.cur.cyc + 17 }
    let cell := s.cur.reserve d
    .done (s.setCur { (cell.setCtx k { (cell.ctx k) with status := .parkDiv }) with div := some job }))

/-- The divider writes its result and acts on the predicate; its context runs again (R137). -/
def execDivideResult (n : Nat) (s : State) : Host.Outcome State Fault Refusal :=
  let c := s.cell n
  match c.div with
  | none => .next s
  | some j =>
    if c.cyc < j.due then .next s
    else
      let c1 := settle (c.unreserve j.dst) j.ctx j.dst j.p (divide j.signed j.remainder j.a j.b) j.x 0
      .next (s.setCell n { (c1.setCtx j.ctx ((c1.ctx j.ctx).unpark .parkDiv)) with div := none })

def execDiv (c : Cue) (d : Dst) (a b : Src) (p : PAct) (s : State) := divStart true false c d a b p s
def execDivu (c : Cue) (d : Dst) (a b : Src) (p : PAct) (s : State) := divStart false false c d a b p s
def execRem (c : Cue) (d : Dst) (a b : Src) (p : PAct) (s : State) := divStart true true c d a b p s
def execRemu (c : Cue) (d : Dst) (a b : Src) (p : PAct) (s : State) := divStart false true c d a b p s

/-! ## Immediate forms (R138, R139) -/

def execAddi (c : Cue) (d : Dst) (a : Src) (imm : BitVec 10) (s : State) := int1 c d a noAct (· + sext imm) s
def execAndi (c : Cue) (d : Dst) (a : Src) (imm : BitVec 10) (s : State) := int1 c d a noAct (· &&& sext imm) s
def execOri (c : Cue) (d : Dst) (a : Src) (imm : BitVec 10) (s : State) := int1 c d a noAct (· ||| sext imm) s
def execXori (c : Cue) (d : Dst) (a : Src) (imm : BitVec 10) (s : State) := int1 c d a noAct (· ^^^ sext imm) s
def execSlli (c : Cue) (d : Dst) (a : Src) (k : Fin 32) (s : State) := int1 c d a noAct (fun v => v <<< k.val) s
def execSrli (c : Cue) (d : Dst) (a : Src) (k : Fin 32) (s : State) := int1 c d a noAct (fun v => v >>> k.val) s
def execSrai (c : Cue) (d : Dst) (a : Src) (k : Fin 32) (s : State) := int1 c d a noAct (fun v => v.sshiftRight k.val) s
def execSlti (c : Cue) (d : Dst) (a : Src) (imm : BitVec 10) (s : State) := int1 c d a noAct (sltW · (sext imm)) s
def execSltiu (c : Cue) (d : Dst) (a : Src) (imm : BitVec 10) (s : State) := int1 c d a noAct (sltuW · (sext imm)) s
def execSeqi (c : Cue) (d : Dst) (a : Src) (imm : BitVec 10) (s : State) := int1 c d a noAct (seqW · (sext imm)) s

/-- A value that needs no source. -/
def load0 (c : Cue) (d : Dst) (p : PAct) (f : State → Word) (s : State) : Host.Outcome State Fault Refusal :=
  fire s c (needs0 d) (fun s => result d p (f s) false 0 s)

def execLi (c : Cue) (d : Dst) (imm : BitVec 15) (s : State) := load0 c d noAct (fun _ => sext imm) s
def execLiw (c : Cue) (d : Dst) (imm : Word) (s : State) := load0 c d noAct (fun _ => imm) s

/-! ## Single-operand functions (R142 to R148) -/

/-- The number of leading zero bits below bit `n`. -/
def clzFrom (v : Nat) (n : Nat) : Nat :=
  match n with
  | 0 => 0
  | k + 1 => if v.testBit k then 0 else clzFrom v k + 1

/-- The number of trailing zero bits from bit `i`, at most `n` more. -/
def ctzFrom (v i : Nat) (n : Nat) : Nat :=
  match n with
  | 0 => 0
  | k + 1 => if v.testBit i then 0 else ctzFrom v (i + 1) k + 1

def popcFrom (v : Nat) (n : Nat) : Nat :=
  match n with
  | 0 => 0
  | k + 1 => (v.testBit k).toNat + popcFrom v k

def clzW (a : Word) : Word := word (clzFrom a.toNat 32)
def ctzW (a : Word) : Word := word (ctzFrom a.toNat 0 32)
def popcW (a : Word) : Word := word (popcFrom a.toNat 32)
/-- Bit i is bit 31 − i (R143). -/
def brevW (a : Word) : Word := a.reverse
def absW (a : Word) : Word := if a.toInt < 0 then 0 - a else a
def sextbW (a : Word) : Word := (a.setWidth 8).signExtend 32
def sexthW (a : Word) : Word := (a.setWidth 16).signExtend 32

def execMov (c : Cue) (d : Dst) (a : Src) (p : PAct) (s : State) := int1 c d a p id s
def execNot (c : Cue) (d : Dst) (a : Src) (p : PAct) (s : State) := int1 c d a p (~~~ ·) s
def execNeg (c : Cue) (d : Dst) (a : Src) (p : PAct) (s : State) := int1 c d a p (0 - ·) s
def execAbs (c : Cue) (d : Dst) (a : Src) (p : PAct) (s : State) := int1 c d a p absW s
def execClz (c : Cue) (d : Dst) (a : Src) (p : PAct) (s : State) := int1 c d a p clzW s
def execCtz (c : Cue) (d : Dst) (a : Src) (p : PAct) (s : State) := int1 c d a p ctzW s
def execPopc (c : Cue) (d : Dst) (a : Src) (p : PAct) (s : State) := int1 c d a p popcW s
def execBrev (c : Cue) (d : Dst) (a : Src) (p : PAct) (s : State) := int1 c d a p brevW s
def execSextb (c : Cue) (d : Dst) (a : Src) (p : PAct) (s : State) := int1 c d a p sextbW s
def execSexth (c : Cue) (d : Dst) (a : Src) (p : PAct) (s : State) := int1 c d a p sexthW s
def execZextb (c : Cue) (d : Dst) (a : Src) (p : PAct) (s : State) := int1 c d a p (· &&& 0xFF) s
def execZexth (c : Cue) (d : Dst) (a : Src) (p : PAct) (s : State) := int1 c d a p (· &&& 0xFFFF) s
def execFabs (c : Cue) (d : Dst) (a : Src) (p : PAct) (s : State) := int1 c d a p (· &&& 0x7FFFFFFF) s
def execFneg (c : Cue) (d : Dst) (a : Src) (p : PAct) (s : State) := int1 c d a p (· ^^^ 0x80000000) s
def execFclass (c : Cue) (d : Dst) (a : Src) (p : PAct) (s : State) := int1 c d a p (fun v => word (fClass v.toNat)) s

/-- TAG and XBIT peek their queue: it counts toward readiness and its head's mark enters the word (R148). -/
def inspect (c : Cue) (d : Dst) (q : Fin 8) (p : PAct) (f : QWord → Word) (s : State) :
    Host.Outcome State Fault Refusal :=
  fire s c (needs1 d (.peek q)) (fun s => result d p (f (s.cur.headIq q)) (srcX s.cur (.peek q)) 0 s)

def execTag (c : Cue) (d : Dst) (q : Fin 8) (p : PAct) (s : State) := inspect c d q p (fun w => w.tag.setWidth 32) s
def execXbit (c : Cue) (d : Dst) (q : Fin 8) (p : PAct) (s : State) := inspect c d q p (fun w => flag w.x) s
/-- QCNT: the queue is no source (R148). -/
def execQcnt (c : Cue) (d : Dst) (q : Fin 8) (p : PAct) (s : State) :=
  load0 c d p (fun s => word (s.cur.iq[q]).length) s

/-! ## Predicates, NOP (R149, R150) -/

/-- A predicate instruction: all predicates are read at the start of the cycle. -/
def pred2 (c : Cue) (d : Fin 8) (f : Context → Bool) (s : State) : Host.Outcome State Fault Refusal :=
  fire s c (needsR []) (onCtx noAct (fun t => t.setPred d (f t)))

def execPand (c : Cue) (d a b : Fin 8) (s : State) := pred2 c d (fun t => t.pred a && t.pred b) s
def execPor (c : Cue) (d a b : Fin 8) (s : State) := pred2 c d (fun t => t.pred a || t.pred b) s
def execPxor (c : Cue) (d a b : Fin 8) (s : State) := pred2 c d (fun t => t.pred a != t.pred b) s
def execPnot (c : Cue) (d a : Fin 8) (s : State) := pred2 c d (fun t => !t.pred a) s
def execPmovx (c : Cue) (d : Dst) (s : State) := load0 c d noAct (fun s => s.here.p.setWidth 32) s
def execPsetx (c : Cue) (a : Src) (s : State) : Host.Outcome State Fault Refusal :=
  fire s c (needsR [a]) (fun s => onCtx noAct (fun t => { t with p := (s.src a).setWidth 8 }) s)
def execNop (c : Cue) (s : State) : Host.Outcome State Fault Refusal := fire s c (needsR []) (onCtx noAct id)

/-! ## Long scalar instructions (R151 to R154) -/

def execAddip (c : Cue) (d : Dst) (a : Src) (imm : BitVec 16) (p : PAct) (s : State) := int1 c d a p (· + sext imm) s
def execAddipHi (c : Cue) (d : Dst) (a : Src) (imm : BitVec 16) (p : PAct) (s : State) :=
  int1 c d a p (· + imm.setWidth 32 <<< 16) s
def execLea (c : Cue) (d : Dst) (a b : Src) (k : Fin 4) (imm : BitVec 16) (p : PAct) (s : State) :=
  int2 c d a b p (fun x y => x + y <<< k.val + sext imm) s
def execCmpiEq (c : Cue) (d : Dst) (a : Src) (imm : BitVec 16) (p : PAct) (s : State) := int1 c d a p (seqW · (sext imm)) s
def execCmpiNe (c : Cue) (d : Dst) (a : Src) (imm : BitVec 16) (p : PAct) (s : State) := int1 c d a p (sneW · (sext imm)) s
def execCmpiLt (c : Cue) (d : Dst) (a : Src) (imm : BitVec 16) (p : PAct) (s : State) := int1 c d a p (sltW · (sext imm)) s
def execCmpiLtu (c : Cue) (d : Dst) (a : Src) (imm : BitVec 16) (p : PAct) (s : State) :=
  int1 c d a p (sltuW · (sext imm)) s

/-- The field of `len` bits at `pos` (R153). -/
def extract (a : Word) (pos len : Nat) : Nat := a.toNat / 2 ^ pos % 2 ^ len
def extrW (pos len : Nat) (a : Word) : Word := word (extract a pos len)
def extrSW (pos len : Nat) (a : Word) : Word :=
  let f := extract a pos len
  if 2 ^ (len - 1) ≤ f then BitVec.ofInt 32 ((f : Int) - 2 ^ len) else word f
def insrW (pos len : Nat) (d a : Word) : Word :=
  let m := word ((2 ^ len - 1) * 2 ^ pos)
  (d &&& ~~~m) ||| ((a <<< pos) &&& m)

def execExtr (c : Cue) (d : Dst) (a : Src) (pos len1 : Fin 32) (p : PAct) (s : State) :=
  int1 c d a p (extrW pos (len1.val + 1)) s
def execExtrS (c : Cue) (d : Dst) (a : Src) (pos len1 : Fin 32) (p : PAct) (s : State) :=
  int1 c d a p (extrSW pos (len1.val + 1)) s
/-- INSR reads its destination, INSR and MADD as the sources of their own register (R153, R152). -/
def execInsr (c : Cue) (d : Fin 16) (a : Src) (pos len1 : Fin 32) (p : PAct) (s : State) :
    Host.Outcome State Fault Refusal :=
  fire s c (needs1 (.reg d) a) (fun s =>
    result (.reg d) p (insrW pos (len1.val + 1) (s.here.getX d) (s.src a)) (srcX s.cur a) 0 s)
def execMadd (c : Cue) (d : Fin 16) (a b : Src) (p : PAct) (s : State) : Host.Outcome State Fault Refusal :=
  fire s c (needs2 (.reg d) a b) (fun s =>
    result (.reg d) p (s.here.getX d + s.src a * s.src b) (srcsX s.cur [a, b]) 0 s)
/-- DECP (R154): the predicate records whether the new value is not zero. -/
def execDecp (c : Cue) (d : Fin 16) (px : Fin 8) (s : State) : Host.Outcome State Fault Refusal :=
  fire s c (needs0 (.reg d)) (fun s => result (.reg d) ⟨3, px⟩ (s.here.getX d - 1) false 0 s)

/-! ## Wafer address registers (R155) -/

/-- Replace the 48-bit offset and keep the module number (R28, R155). -/
def setOff (w : DWord) (o : Int) : DWord := w.extractLsb' 48 16 ++ BitVec.ofInt 48 o

/-- The offset of a wafer address. -/
def offOf (w : DWord) : Nat := w.toNat % 2 ^ 48

def Context.setW (t : Context) (i : Fin 4) (v : DWord) : Context := { t with w := vset t.w i (v &&& 0x00FFFFFFFFFFFFFF) }

def execWSet (c : Cue) (w : Fin 4) (a b : Src) (p : PAct) (s : State) : Host.Outcome State Fault Refusal :=
  fire s c (needsR [a, b]) (fun s =>
    onCtx p (fun t => t.setW w ((s.src b).setWidth 64 <<< 32 ||| (s.src a).setWidth 64)) s)
def execWAdd (c : Cue) (w : Fin 4) (a : Src) (k : Fin 32) (p : PAct) (s : State) : Host.Outcome State Fault Refusal :=
  fire s c (needsR [a]) (fun s =>
    onCtx p (fun t => t.setW w (setOff t.w[w] (offOf t.w[w] + (s.src a).toInt * 2 ^ k.val))) s)
def execWAddi (c : Cue) (w : Fin 4) (imm : BitVec 16) (p : PAct) (s : State) : Host.Outcome State Fault Refusal :=
  fire s c (needsR []) (onCtx p (fun t => t.setW w (setOff t.w[w] (offOf t.w[w] + imm.toInt))))
def execWGet (c : Cue) (d : Dst) (w : Fin 4) (half : Bool) (p : PAct) (s : State) :=
  load0 c d p (fun s => if half then s.here.w[w].extractLsb' 32 32 else s.here.w[w].setWidth 32) s

/-! ## FCR and presence (R157 to R160) -/

def execFcrRd (c : Cue) (d : Dst) (p : PAct) (s : State) := load0 c d p (fun s => s.here.fcr) s
/-- FCR.WR: the selected fields take the bits of A, the old value goes to the destination (R159). -/
def execFcrWr (c : Cue) (d : Dst) (a : Src) (mask : BitVec 21) (p : PAct) (s : State) :
    Host.Outcome State Fault Refusal :=
  fire s c (needs1 d a) (fun s =>
    let old := s.here.fcr
    let m : Word := mask.setWidth 32 &&& 0x001F07FF
    let cell := s.cur.setCtx s.focus.ctx { s.here with fcr := old &&& ~~~m ||| (s.src a &&& m) }
    .done (s.setCur (settle cell s.focus.ctx d p old (srcX s.cur a) 0)))
def execPresClr (c : Cue) (mask : BitVec 8) (p : PAct) (s : State) : Host.Outcome State Fault Refusal :=
  fire s c (needsR []) (onCtx p (fun t => { t with pres := t.pres &&& ~~~mask }))

end Sys2Proof.Machine
end

