-- ==== Sys2Proof/Machine/Wafer.lean ====
section
/-! DEFINITION. Wafer.lean: wafer space: its instructions, release stations, translation, the strip's update units and
what comes back (spec 08 R223 to R230, 09 R272 to R282, 10 R297, 11 R320 to R325). -/

namespace Sys2Proof.Machine

/-! ## Addresses and faults (R272, R283, R342) -/

/-- A fault that carries a wafer-space address. -/
def waferFault (cls code : Nat) (a : DWord) : FaultInfo :=
  { cls := cls, code := code, opnd := word (bits a.toNat 2 32), modNum := modOf a, ahi := bits a.toNat 34 14 }

/-- The ALIGN fault of a wafer-space address: its low bits stand in the code. -/
def waferAlign (a : DWord) : FaultInfo := waferFault 4 (16 + a.toNat % 4) a

/-- The address of a wafer-space instruction. -/
def waferAddr (t : Context) (wr : Fin 4) (off : BitVec 12) (scale : Nat) : DWord :=
  setOff t.w[wr] (offOf t.w[wr] + off.toInt * scale)

/-! ## Issue and the release station (R224, R225, R228) -/

/-- Whether a context may fire an instruction that issues a request (R228, R229, R272). -/
def Context.mayIssue (t : Context) : Bool := t.station.isNone && !t.acq && decide (t.uack < 255)

/-- Issue a request: it leaves its cell and is counted. -/
def State.issue (s : State) (r : Req) : State :=
  let c := s.cell r.cell
  let t := c.ctx r.ctx
  { (s.setCell r.cell (c.setCtx r.ctx { t with uack := t.uack + 1 })) with reqs := s.reqs ++ [r] }

/-- A cell's arrival is sent to the barrier logic of its stage (R298, R299). -/
def State.arrive (s : State) (n : Nat) (g : Fin 16) : State :=
  let c := s.cell n
  (s.setCell n { c with bars := vset c.bars g { c.bars[g] with relw := false } }).putItem c.stage n directorAt (.arrive g)

/-- Issue what a release station holds: a request with the cell's mode bit `ordered`, a drain marker, a barrier
arrival (R228, R281, R299, R336). -/
def State.issueStation (s : State) (n : Nat) (k : Fin 4) (i : Station) (ordered : Bool) : State :=
  match i with
  | .req r => s.issue { r with ordered := ordered }
  | .mark num => s.putItem (s.cell n).stage n directorAt (.mark k num)
  | .arrive g => s.arrive n g

/-- Whether a station may issue: the counter is zero (R228). -/
def State.mayRelease (s : State) (n : Nat) (k : Fin 4) : Bool := decide (((s.cell n).ctx k).uack = 0)

/-- An item that a release station takes: it is issued at once in a cycle at whose start the counter is zero. -/
def State.release (s : State) (n : Nat) (k : Fin 4) (i : Station) : State :=
  let c := s.cell n
  let t := c.ctx k
  if s.mayRelease n k then s.issueStation n k i c.suuord else s.setCell n (c.setCtx k { t with station := some i })

/-- A release station issues its item once the counter is zero. -/
def stationIssue (s : State) (n : Nat) (k : Fin 4) (ordered : Bool) : State :=
  let c := s.cell n
  let t := c.ctx k
  match t.station with
  | some i => if s.mayRelease n k then (s.setCell n (c.setCtx k { t with station := none })).issueStation n k i ordered else s
  | none => s

def execReleaseStationIssue (n : Nat) (k : Fin 4) (s : State) : Host.Outcome State Fault Refusal :=
  .next (stationIssue s n k (s.cell n).suuord)

/-- A wafer-space request of the firing context. -/
def State.request (s : State) (kind : ReqKind) (a : DWord) : Req :=
  { kind := kind, addr := a, cell := s.focus.cell, ctx := s.focus.ctx, slot := s.focus.slot, stage := s.cur.stage
    ordered := s.cur.suuord, loc := .issued, lo := false, hi := false, origin := none
    qp := (s.stage s.cur.stage).qp, qs := (s.stage s.cur.stage).qs, wq := (s.stage s.cur.stage).wq, hop := Hop.at s.focus.cell s.strip
    serial := s.here.watchNo }

def reqNeeds (srcs : List Src) (ok : Bool) (s : State) : Needs := ⟨srcs, none, s.here.mayIssue && ok, []⟩

/-- An instruction that issues a request: its alignment, its change of the context, then the issue or the station. -/
def reqFire (c : Cue) (srcs : List Src) (ok : State → Bool) (rel : Bool) (wr : Fin 4) (off : BitVec 12) (scale : Nat)
    (kind : State → ReqKind) (f : State → Context → Context) (p : PAct) (s : State) :
    Host.Outcome State Fault Refusal :=
  fire s c (reqNeeds srcs (ok s) s) (fun s =>
    let a := waferAddr s.here wr off scale
    if a.toNat % scale ≠ 0 then .fault (waferAlign a)
    else
      let r := s.request (kind s) a
      let s1 := s.setCur (s.cur.setCtx s.focus.ctx ((f s s.here).act p false))
      .done (if rel then s1.release s.focus.cell s.focus.ctx (.req r) else s1.issue r))

/-! ## Stores (R274) -/

def always (_ : State) : Bool := true
def same (_ : State) (t : Context) : Context := t

/-- Two words as one of 64 bits. -/
def pairWord (hi lo : Word) : DWord := hi ++ lo

def execWstw (c : Cue) (rel : Bool) (wr : Fin 4) (off : BitVec 12) (d : Src) (p : PAct) (s : State) :=
  reqFire c [d] always rel wr off 4 (fun s => .store4 (s.src d)) same p s
def execWstd (c : Cue) (rel : Bool) (wr : Fin 4) (off : BitVec 12) (lo hi : Src) (p : PAct) (s : State) :=
  reqFire c [lo, hi] always rel wr off 8 (fun s => .store8 (pairWord (s.src hi) (s.src lo))) same p s
def execWstv (c : Cue) (rel : Bool) (wr : Fin 4) (off : BitVec 12) (v : Fin 8) (p : PAct) (s : State) :=
  reqFire c [] always rel wr off 64 (fun s => .store64 (s.here.v[v])) same p s

/-! ## Returning atomics (R275) -/

def acquires (o : Ord) : Bool := decide (o = .acquire) || decide (o = .acqRel)
def releases (o : Ord) : Bool := decide (o = .release) || decide (o = .acqRel)

/-- Whether a destination register waits for nothing: presence clear and no response pending. -/
def Context.freeDst (t : Context) (d : Fin 8) : Bool := !t.pres.getLsbD d && !t.resv.getLsbD d

def Context.reserve (t : Context) (d : Fin 8) (b : Bool) : Context := { t with resv := setBit t.resv d b }

/-- A register pair by its even register over 2, and the first register of a destination pair counted from x8. -/
def Context.getPair (t : Context) (n : Fin 8) : DWord :=
  pairWord (t.getX (Fin.ofNat 16 (2 * n.val + 1))) (t.getX (Fin.ofNat 16 (2 * n.val)))
def pairDst (d : Fin 4) : Fin 8 := Fin.ofNat 8 (2 * d.val)
def pairDst1 (d : Fin 4) : Fin 8 := Fin.ofNat 8 (2 * d.val + 1)

/-- A returning atomic on 4 bytes. -/
def amoFire (fn : AmoFn) (c : Cue) (ord : Ord) (wr : Fin 4) (off : BitVec 12) (d : Fin 8) (a : Option Src) (p : PAct)
    (s : State) : Host.Outcome State Fault Refusal :=
  reqFire c a.toList (fun s => s.here.freeDst d) (releases ord) wr off 4
    (fun s => .amo fn false (acquires ord) ((a.elim 0 s.src).setWidth 64) ((s.here.getX (presReg d)).setWidth 64) d p)
    (fun _ t => { (t.reserve d true) with acq := acquires ord }) noAct s

/-- A returning atomic on 8 bytes. -/
def amodFire (fn : AmoFn) (c : Cue) (ord : Ord) (wr : Fin 4) (off : BitVec 12) (d : Fin 4) (a : Option (Fin 8)) (p : PAct)
    (s : State) : Host.Outcome State Fault Refusal :=
  reqFire c [] (fun s => s.here.freeDst (pairDst d) && s.here.freeDst (pairDst1 d)) (releases ord) wr off 8
    (fun s => .amo fn true (acquires ord) (a.elim 0 s.here.getPair) (s.here.getPair (Fin.ofNat 8 (4 + d.val))) (pairDst d) p)
    (fun _ t => { ((t.reserve (pairDst d) true).reserve (pairDst1 d) true) with acq := acquires ord }) noAct s

def execAmoAdd (c : Cue) (ord : Ord) (wr : Fin 4) (off : BitVec 12) (d : Fin 8) (a : Src) (p : PAct) (s : State) :=
  amoFire .add c ord wr off d (some a) p s
def execAmoAnd (c : Cue) (ord : Ord) (wr : Fin 4) (off : BitVec 12) (d : Fin 8) (a : Src) (p : PAct) (s : State) :=
  amoFire .and c ord wr off d (some a) p s
def execAmoOr (c : Cue) (ord : Ord) (wr : Fin 4) (off : BitVec 12) (d : Fin 8) (a : Src) (p : PAct) (s : State) :=
  amoFire .or c ord wr off d (some a) p s
def execAmoXor (c : Cue) (ord : Ord) (wr : Fin 4) (off : BitVec 12) (d : Fin 8) (a : Src) (p : PAct) (s : State) :=
  amoFire .xor c ord wr off d (some a) p s
def execAmoMin (c : Cue) (ord : Ord) (wr : Fin 4) (off : BitVec 12) (d : Fin 8) (a : Src) (p : PAct) (s : State) :=
  amoFire .min c ord wr off d (some a) p s
def execAmoMax (c : Cue) (ord : Ord) (wr : Fin 4) (off : BitVec 12) (d : Fin 8) (a : Src) (p : PAct) (s : State) :=
  amoFire .max c ord wr off d (some a) p s
def execAmoMinn (c : Cue) (ord : Ord) (wr : Fin 4) (off : BitVec 12) (d : Fin 8) (a : Src) (p : PAct) (s : State) :=
  amoFire .minn c ord wr off d (some a) p s
def execAmoMaxn (c : Cue) (ord : Ord) (wr : Fin 4) (off : BitVec 12) (d : Fin 8) (a : Src) (p : PAct) (s : State) :=
  amoFire .maxn c ord wr off d (some a) p s
def execAmoSwap (c : Cue) (ord : Ord) (wr : Fin 4) (off : BitVec 12) (d : Fin 8) (a : Src) (p : PAct) (s : State) :=
  amoFire .swap c ord wr off d (some a) p s
def execAmoCas (c : Cue) (ord : Ord) (wr : Fin 4) (off : BitVec 12) (d : Fin 8) (a : Src) (p : PAct) (s : State) :=
  amoFire .cas c ord wr off d (some a) p s
def execAmoLd (c : Cue) (ord : Ord) (wr : Fin 4) (off : BitVec 12) (d : Fin 8) (p : PAct) (s : State) :=
  amoFire .ld c ord wr off d none p s

def execAmodAdd (c : Cue) (ord : Ord) (wr : Fin 4) (off : BitVec 12) (d : Fin 4) (a : Fin 8) (p : PAct) (s : State) :=
  amodFire .add c ord wr off d (some a) p s
def execAmodAnd (c : Cue) (ord : Ord) (wr : Fin 4) (off : BitVec 12) (d : Fin 4) (a : Fin 8) (p : PAct) (s : State) :=
  amodFire .and c ord wr off d (some a) p s
def execAmodOr (c : Cue) (ord : Ord) (wr : Fin 4) (off : BitVec 12) (d : Fin 4) (a : Fin 8) (p : PAct) (s : State) :=
  amodFire .or c ord wr off d (some a) p s
def execAmodXor (c : Cue) (ord : Ord) (wr : Fin 4) (off : BitVec 12) (d : Fin 4) (a : Fin 8) (p : PAct) (s : State) :=
  amodFire .xor c ord wr off d (some a) p s
def execAmodMin (c : Cue) (ord : Ord) (wr : Fin 4) (off : BitVec 12) (d : Fin 4) (a : Fin 8) (p : PAct) (s : State) :=
  amodFire .min c ord wr off d (some a) p s
def execAmodMax (c : Cue) (ord : Ord) (wr : Fin 4) (off : BitVec 12) (d : Fin 4) (a : Fin 8) (p : PAct) (s : State) :=
  amodFire .max c ord wr off d (some a) p s
def execAmodMinn (c : Cue) (ord : Ord) (wr : Fin 4) (off : BitVec 12) (d : Fin 4) (a : Fin 8) (p : PAct) (s : State) :=
  amodFire .minn c ord wr off d (some a) p s
def execAmodMaxn (c : Cue) (ord : Ord) (wr : Fin 4) (off : BitVec 12) (d : Fin 4) (a : Fin 8) (p : PAct) (s : State) :=
  amodFire .maxn c ord wr off d (some a) p s
def execAmodSwap (c : Cue) (ord : Ord) (wr : Fin 4) (off : BitVec 12) (d : Fin 4) (a : Fin 8) (p : PAct) (s : State) :=
  amodFire .swap c ord wr off d (some a) p s
def execAmodCas (c : Cue) (ord : Ord) (wr : Fin 4) (off : BitVec 12) (d : Fin 4) (a : Fin 8) (p : PAct) (s : State) :=
  amodFire .cas c ord wr off d (some a) p s
def execAmodLd (c : Cue) (ord : Ord) (wr : Fin 4) (off : BitVec 12) (d : Fin 4) (p : PAct) (s : State) :=
  amodFire .ld c ord wr off d none p s

/-! ## Reductions (R276) -/

def redFire (fn : RedFn) (c : Cue) (rel : Bool) (wr : Fin 4) (off : BitVec 12) (a : Src) (p : PAct) (s : State) :
    Host.Outcome State Fault Refusal :=
  reqFire c [a] always rel wr off 4 (fun s => .red fn (s.src a)) same p s

def execRedAddI32 (c : Cue) (rel : Bool) (wr : Fin 4) (off : BitVec 12) (a : Src) (p : PAct) (s : State) :=
  redFire .addI32 c rel wr off a p s
def execRedAddF32 (c : Cue) (rel : Bool) (wr : Fin 4) (off : BitVec 12) (a : Src) (p : PAct) (s : State) :=
  redFire .addF32 c rel wr off a p s
def execRedAddBf16x2 (c : Cue) (rel : Bool) (wr : Fin 4) (off : BitVec 12) (a : Src) (p : PAct) (s : State) :=
  redFire .addBf16x2 c rel wr off a p s
def execRedMaxF32 (c : Cue) (rel : Bool) (wr : Fin 4) (off : BitVec 12) (a : Src) (p : PAct) (s : State) :=
  redFire .maxF32 c rel wr off a p s
def execRedMinF32 (c : Cue) (rel : Bool) (wr : Fin 4) (off : BitVec 12) (a : Src) (p : PAct) (s : State) :=
  redFire .minF32 c rel wr off a p s
def execRedAnd (c : Cue) (rel : Bool) (wr : Fin 4) (off : BitVec 12) (a : Src) (p : PAct) (s : State) :=
  redFire .and c rel wr off a p s
def execRedOr (c : Cue) (rel : Bool) (wr : Fin 4) (off : BitVec 12) (a : Src) (p : PAct) (s : State) :=
  redFire .or c rel wr off a p s
def execRedXor (c : Cue) (rel : Bool) (wr : Fin 4) (off : BitVec 12) (a : Src) (p : PAct) (s : State) :=
  redFire .xor c rel wr off a p s

/-! ## WAITA, WPOKE, FENCE and MARK (R277 to R281) -/

/-- The compare operand of WAITA. -/
def cmpVal (s : State) (w : WCmp) : Bool × DWord :=
  match w with
  | .word a => (false, (s.src a).setWidth 64)
  | .pair n => (true, s.here.getPair n)

def cmpSrcs (w : WCmp) : List Src :=
  match w with
  | .word a => [a]
  | .pair _ => []

def waitaSize (w : WCmp) : Nat :=
  match w with
  | .word _ => 4
  | .pair _ => 8

/-- A deadline of 0 ticks is none. -/
def deadline (s : State) (t : Word) : Option Nat := if t = 0 then none else some (s.tick + t.toNat)

def execWaita (c : Cue) (wr : Fin 4) (off : BitVec 12) (t : Src) (cmp : WCmp) (p : PAct) (s : State) :
    Host.Outcome State Fault Refusal :=
  reqFire c (t :: cmpSrcs cmp) (fun s => !s.here.watchOut) false wr off (waitaSize cmp)
    (fun s => .waita (cmpVal s cmp).1 (cmpVal s cmp).2 true)
    (fun s k => { k with watchOut := true, watch := deadline s (s.src t), watchId := none, watchNo := k.watchNo + 1 }) p s

def execWpoke (c : Cue) (dbl : Bool) (wr : Fin 4) (off : BitVec 12) (p : PAct) (s : State) :=
  reqFire c [] always false wr off (if dbl then 8 else 4) (fun _ => .wpoke dbl) same p s

/-- Whether no copy charged to a context is pending or active (R230). -/
def CellState.noCopies (c : CellState) (k : Fin 4) : Bool :=
  !c.copyPend.any (fun x => decide (x.ctx = k)) && c.copyAct.all (fun x => x.all fun y => decide (y.ctx ≠ k))

/-- FENCE waits; like every LW instruction it also waits for an empty station (R230, R280), but not for an acquiring atomic
as such (log 87). -/
def fenceNeeds (w c : Bool) (s : State) : Needs :=
  ⟨[], none, s.here.station.isNone && (!w || decide (s.here.uack = 0)) && (!c || s.cur.noCopies s.focus.ctx), []⟩

def execFenceW (c : Cue) (p : PAct) (s : State) : Host.Outcome State Fault Refusal :=
  fire s c (fenceNeeds true false s) (onCtx p id)
def execFenceC (c : Cue) (p : PAct) (s : State) : Host.Outcome State Fault Refusal :=
  fire s c (fenceNeeds false true s) (onCtx p id)
def execFenceAll (c : Cue) (p : PAct) (s : State) : Host.Outcome State Fault Refusal :=
  fire s c (fenceNeeds true true s) (onCtx p id)

/-- What enters the release station waits for it to be empty, and not for an acquiring atomic (log 87). -/
def stationNeeds (srcs : List Src) (s : State) : Needs := ⟨srcs, none, s.here.station.isNone, []⟩

/-- MARK enters the release station (R281). -/
def execMark (c : Cue) (a : Src) (p : PAct) (s : State) : Host.Outcome State Fault Refusal :=
  fire s c (stationNeeds [a] s) (fun s =>
    let s1 := s.setCur (s.cur.setCtx s.focus.ctx (s.here.act p false))
    .done (s1.release s.focus.cell s.focus.ctx (.mark ((s.src a).toNat % 2 ^ 16))))

/-- The tag of a mailbox word of a context (R49). -/
def boxTag (k : Fin 4) (code : Nat) : Byte := BitVec.ofNat 8 (k.val * 64 + code)

/-! ## Translation (R320 to R324) -/

/-- The DRAM key of byte `o` of a frame (R322). -/
def frameKey (f o : Nat) : Nat :=
  f % 24576 / 2 * 2 ^ 27 + f % 24576 % 2 * 2 ^ 26 + (2 ^ 26 - 2 ^ 21 * (f / 24576 + 1)) + o

def frameOk (f : Nat) : Bool := decide (f < 786432)

/-- What a walk of the two tables gives: a WAFER_XLATE code, a page, or a frame that does not exist. -/
inductive Walk where
  | bad (code : Nat)
  | leaf (e : DWord) (huge : Bool)
  | nowhere
  deriving DecidableEq, Repr

def entryF (e : DWord) (lo n : Nat) : Nat := bits e.toNat lo n

/-- Whether an entry breaks the layout of its level (R321; log 16 for the second level and for the TIX of a first-level page, which is
ignored). -/
def badEntry (e : DWord) (first : Bool) : Bool :=
  decide (entryF e 6 6 ≠ 0) || decide (entryF e 41 23 ≠ 0)
    || (if first then
          (if entryF e 1 1 = 0 then decide (entryF e 2 4 ≠ 0) else decide (entryF e 12 20 % 512 ≠ 0))
        else decide (entryF e 1 1 = 0) || decide (entryF e 32 9 ≠ 0))

/-- Eight bytes of a frame. -/
def State.frameWord (s : State) (f o : Nat) : DWord := BitVec.ofNat 64 (s.firn.readN (frameKey f o) 8)

/-- A walk from a root frame for an offset; a stage without a table has no valid entry. -/
def walk (s : State) (root : Option Nat) (off : Nat) : Walk :=
  match root with
  | none => .bad 1
  | some r =>
    if !frameOk r then .nowhere
    else
      let e := s.frameWord r (bits off 30 18 * 8)
      if entryF e 0 1 = 0 then .bad 1
      else if badEntry e true then .bad 3
      else if entryF e 1 1 = 1 then .leaf e true
      else if !frameOk (entryF e 12 20) then .nowhere
      else
        let e2 := s.frameWord (entryF e 12 20) (entryF e 32 9 * 4096 + bits off 21 9 * 8)
        if entryF e2 0 1 = 0 then .bad 2 else if badEntry e2 false then .bad 3 else .leaf e2 false

/-- The number of the virtual page of an offset at a page size. -/
def pageNo (huge : Bool) (off : Nat) : Nat := if huge then bits off 30 18 else bits off 21 27

/-- The DRAM places of the entries that a walk reads. -/
def walkPath (s : State) (root : Option Nat) (off : Nat) : List Nat :=
  match root with
  | none => []
  | some r =>
    let k := frameKey r (bits off 30 18 * 8)
    let e := s.frameWord r (bits off 30 18 * 8)
    if entryF e 0 1 = 0 ∨ entryF e 1 1 = 1 then [k] else [k, frameKey (entryF e 12 20) (entryF e 32 9 * 4096 + bits off 21 9 * 8)]

/-- A stage, its module's number included, as the counters of service name it (R328). -/
def Req.who (r : Req) : Nat := (r.origin.elim 256 (·.1)) * 4096 + r.stage

/-- The counter of a stage at a unit: class 0 an SUU's applications, 1 the strip port's wafer-space traffic, 2 its
private-slice traffic (R327). -/
def serveKey (strip cls who : Nat) : Nat := (strip * 3 + cls) * 2 ^ 21 + who

def State.servedBy (s : State) (strip cls who : Nat) : Nat := AMap.getD s.served (serveKey strip cls who) 0

/-- One more service in this epoch. -/
def State.serve (s : State) (strip cls who : Nat) : State :=
  { s with served := s.served.put (serveKey strip cls who) (s.servedBy strip cls who + 1) }

/-- The entry of a field's unit for an offset (R324). -/
def State.cached (s : State) (field stage : Nat) (guest : Option Nat) (off : Nat) : Option TlbEntry :=
  s.tlb.find? fun e => decide (e.field = field ∧ e.stage = stage ∧ e.guest = guest ∧ e.page = pageNo e.huge off)

/-- The DRAM places that the walker reads for a translation: none where the unit's cache has it. -/
def walkReads (s : State) (field stage : Nat) (guest root : Option Nat) (off : Nat) : List Nat :=
  if (s.cached field stage guest off).isSome then [] else walkPath s root off

/-- Translate through the cache of a field's unit, which is filled by a walk (R324). The walker's reads are wafer-space traffic of
their strips' ports (R327). Replacement is first in, first out (log 17); a cached entry is always the table's own (R325). -/
def translate (s : State) (field stage : Nat) (guest : Option Nat) (root : Option Nat) (off : Nat) : Walk × State :=
  let mine (huge : Bool) (e : TlbEntry) : Bool := decide (e.field = field) && e.huge == huge
  match s.cached field stage guest off with
  | some e => (.leaf e.entry e.huge, s)
  | none =>
    let s := (walkPath s root off).foldl (fun s k => s.serve (k / 2 ^ 27) 1 (guest.getD 256 * 4096 + stage)) s
    match walk s root off with
    | .leaf e huge =>
      let cap := if huge then 256 else 1024
      let l := if (s.tlb.filter (mine huge)).length < cap then s.tlb else s.tlb.eraseIdx ((s.tlb.findIdx? (mine huge)).getD 0)
      (.leaf e huge, { s with tlb := l ++ [⟨field, stage, guest, huge, pageNo huge off, e, walkPath s root off⟩] })
    | w => (w, s)

/-- The places of the entries under which a page that has just been translated stands in a cache. -/
def State.pathOf (s : State) (field stage : Nat) (guest : Option Nat) (off : Nat) : List Nat :=
  ((s.cached field stage guest off).map (·.path)).getD []

/-- The field of a cell: its field row and column (R10, R12). -/
def State.fieldOf (s : State) (n : Nat) : Nat := n / 320 / 64 * 8 + s.physCol n / 48

/-- The frame and byte of an offset under a page entry. -/
def leafFrame (e : DWord) (huge : Bool) (off : Nat) : Nat := entryF e 12 20 + if huge then bits off 21 9 else 0

/-- What a request needs of its page: RD, WR, AT (R323). -/
def ReqKind.wants (k : ReqKind) : Bool × Bool × Bool :=
  match k with
  | .store4 _ | .store8 _ | .store64 _ => (false, true, false)
  | .amo fn _ _ _ _ _ _ => if fn = .ld then (true, false, false) else (true, true, true)
  | .red _ _ => (false, true, true)
  | .waita _ _ _ | .wpoke _ | .getBlock => (true, false, false)
  | .putBlock _ => (false, true, false)

/-- The WAFER_PROT code that a page gives a request, none where it is allowed; a host window takes copy writes only. -/
def denied (k : ReqKind) (e : DWord) : Option Nat :=
  let w := k.wants
  let lacks := (w.1 && decide (entryF e 3 1 = 0)) || (w.2.1 && decide (entryF e 2 1 = 0)) || (w.2.2 && decide (entryF e 4 1 = 0))
  match k with
  | .putBlock _ => if lacks then some 1 else none
  | _ => if entryF e 5 1 = 1 then some 2 else if lacks then some 1 else none

/-- What the translation of a request or a block gives: a fault, a host window with the byte of its page, or the DRAM
key of its first byte. -/
inductive Page where
  | fault (cls code : Nat)
  | window (w byte : Nat)
  | home (key : Nat)
  | nowhere
  deriving DecidableEq, Repr

def pageOf (s : State) (k : ReqKind) (field stage : Nat) (guest root : Option Nat) (off : Nat) : Page × State :=
  match translate s field stage guest root off with
  | (.bad c, s) => (.fault 6 c, s)
  | (.nowhere, s) => (.nowhere, s)
  | (.leaf e huge, s) =>
    match denied k e with
    | some c => (.fault 7 c, s)
    | none =>
      if entryF e 5 1 = 1 then (.window (entryF e 12 20) (off % (if huge then 2 ^ 30 else 2 ^ 21)), s)
      else
        let f := leafFrame e huge off
        (if frameOk f then .home (frameKey f (off % 2 ^ 21)) else .nowhere, s)

/-! ## Other modules (R28, R243, R362) -/

/-- The used ports of the table in force that lead to a neighbour, and are not down. -/
def State.portsTo (s : State) (n : Nat) : List (Fin 128) :=
  (List.finRange 128).filter fun p =>
    let w := (s.edge.peers[p]).toNat
    let e := s.edge.ports[p]
    !w.testBit 15 && decide (bits w 7 8 = n) && !e.down && (e.trained || e.dark)

/-- The neighbour through which a module is reached: by a reshape order's routes, else itself, else as the director of
the formation found it (log 36). -/
def State.neighbour (s : State) (m : Nat) : Option Nat :=
  match s.edge.next with
  | some l => AMap.get? l m
  | none =>
    if s.edge.peers.any (fun w => !w.getLsbD 15 && decide (bits w.toNat 7 8 = m)) then some m
    else Config.farRoute (s.edge.peers.toList.map BitVec.toNat) m

/-- The edge port that leads toward a module, if one does: one that takes traffic before one that makes it wait. None does where the
neighbour has told that it reaches the module no more (R363; log 37). -/
def State.toward (s : State) (m : Nat) : Option Nat :=
  match s.neighbour m with
  | none => none
  | some n =>
    let l := s.portsTo n
    let shut (p : Fin 128) : Bool := let e := s.edge.ports[p]; e.dark || e.retry.isSome
    if s.edge.cut.contains (n, m) then none
    else
      match l.find? (fun p => !shut p) with
      | some p => some p.val
      | none => l.head?.map Fin.val

/-- The modules that routes lead to from here and that are not reachable. -/
def State.unreached (s : State) : List Nat :=
  (List.range 256).filter fun m => decide (m ≠ s.host.modNum) && (s.neighbour m).isSome && (s.toward m).isNone

/-- Whether a port takes traffic now: not dark, not down, not in retry (R361, R363). -/
def State.portOpen (s : State) (p : Nat) : Bool :=
  let e := s.edge.ports[Fin.ofNat 128 p]
  e.trained && !e.dark && !e.down && e.retry.isNone

/-- The module that a message leaves for. -/
def EdgeMsg.to (m : EdgeMsg) : Nat :=
  match m with
  | .request p _ _ => p
  | .answer p _ _ => p
  | .wake p _ _ => p
  | .cancel p _ => p
  | .member p _ _ => p
  | .contribute p _ _ _ _ _ => p
  | .result p _ _ _ _ _ => p
  | .transit _ d _ _ => d
  | .transitBack p _ _ => p
  | .unreached p _ => p

/-- What goes to every module of the domain is for this number, beside theirs. -/
def allModules : Nat := 256

/-- Whether a port leads toward a module and takes traffic now; for all modules, that no port makes traffic wait. -/
def State.openTo (s : State) (m : Nat) : Bool :=
  if m = allModules then s.edge.ports.all fun e => !e.dark && e.retry.isNone else (s.toward m).any s.portOpen

/-- A message leaves by the edge; while the port toward its module is dark, down or in retry it waits there, and others for that
module behind it (R361, R363). -/
def State.send (s : State) (m : EdgeMsg) : State :=
  if s.openTo m.to && !s.edge.waiting.any (fun w => decide (w.to = m.to)) then
    { s with edge := { s.edge with outbox := s.edge.outbox ++ [m] } }
  else { s with edge := { s.edge with waiting := s.edge.waiting ++ [m] } }

/-- Messages that waited leave, oldest first, once their ports take traffic. -/
def State.sendWaiting (s : State) : State :=
  s.edge.waiting.foldl State.send { s with edge := { s.edge with waiting := [] } }

/-- Send a request to its module, by a port that takes traffic, under a fresh number. -/
def State.sendRequest (s : State) (m port : Nat) (r : Req) : Nat × State :=
  let id := s.edge.ids
  (id, ({ s with edge := { s.edge with ids := id + 1, via := s.edge.via.put id port } } : State).send (.request m id r))

/-- The answer of a request leaves for its cell, or for the edge where a peer module's traffic enters. -/
def State.answerAt (s : State) (n : Nat) (r : Req) (res : AckRes) : State := { s with acks := s.acks ++ [⟨r, res, Hop.at n s.strip, true⟩] }

/-- An answer that the translation unit or the edge gives, where the request stands. -/
def State.answer (s : State) (r : Req) (res : AckRes) : State :=
  match r.origin with
  | some (peer, id) => s.send (.answer peer id res)
  | none => s.answerAt r.cell r res

/-- An answer from an SUU. -/
def State.answerFrom (s : State) (st : Nat) (r : Req) (res : AckRes) : State := s.answerAt (s.overStrip st) r res

/-! ## Host windows (R237, R368) -/

/-- A 4-byte write into a host window: the class of its fault, or the posted write. -/
def windowWrite (s : State) (w byte v : Nat) : Option Nat × State :=
  let e := AMap.getD s.host.wins w 0
  let port : Fin 8 := Fin.ofNat 8 (AMap.getD s.host.winPort w 0)
  if entryF e 0 1 = 0 then (some 6, s)
  else if !s.host.pcieUp[port] then (some 8, s)
  else (none, s.post port ((entryF e 21 43 * 2 ^ 21 + byte) % 2 ^ 64) 4 v)

/-- The code beside the class. -/
def windowCode (cls : Nat) : Nat := if cls = 6 then 5 else 1

/-- A block of a peer module goes to a host window, word after word, and is answered. -/
def guestWindow (s : State) (r : Req) (d : BitVec 256) (w byte : Nat) : State :=
  let p := (List.range 8).foldl (fun (p : Option Nat × State) i =>
    match p.1 with
    | some _ => p
    | none => windowWrite p.2 w (byte + 4 * i) (d.toNat / 2 ^ (32 * i) % 2 ^ 32)) (none, s)
  p.2.answer r (match p.1 with
    | some cls => .fault cls (windowCode cls)
    | none => .done)

/-! ## Service at a strip (R297, R327, R328) -/

/-- Whether a stage has a cycle of its share left in the epoch: `demand` are the stages that contend for the class, with their shares
(R328). -/
def shareLeft (s : State) (strip cls : Nat) (demand : List (Nat × Nat)) (who share : Nat) : Bool :=
  decide (s.servedBy strip cls who * max 64 (demand.dedup.foldl (fun n e => n + e.2) 0) < 256 * share)

/-- Whether a stage may be served: its share is not spent, or none of the others that could use the cycle has any of its own left
(R328). -/
def mayServe (s : State) (strip cls : Nat) (demand users : List (Nat × Nat)) (who share : Nat) : Bool :=
  let left := shareLeft s strip cls demand
  left who share || !users.any fun e => decide (e.1 ≠ who) && left e.1 e.2

/-- Whether a request is also wafer-space traffic of the strip port: a store or a copy block. -/
def ReqKind.onPort (k : ReqKind) : Bool :=
  match k with
  | .store4 _ | .store8 _ | .store64 _ | .getBlock | .putBlock _ => true
  | _ => false

/-- Whether a request stands before its home strip. -/
def Req.before (r : Req) (st : Nat) : Bool :=
  match r.loc with
  | .homed w _ => decide (w = st)
  | _ => false

/-- The requests that have come to a strip and wait at the heads of its router's buffers. -/
def reqsAt (s : State) (st : Nat) : List Req :=
  s.heads.filterMap fun e =>
    match e.1 with
    | .req i => if e.2.there then (s.reqs[i]?).filter (·.before st) else none
    | _ => none

/-- The block that a flit is. -/
def State.blockOf (s : State) (n : Nat) (k : Fin 2) (i : Nat) : Option (Copy × Block) :=
  ((s.cell n).copyAct[k]).bind fun x => (x.work[i]?).map fun y => (x, y)

/-- A stage of this module as the counters of service name it, with its share of a strip port's wafer-space traffic. -/
def portShare (s : State) (st : Nat) : Nat × Nat := (256 * 4096 + st, (s.stage st).qp)

/-- The copy blocks that have come to a strip: their stage and its share. -/
def blockDemand (s : State) (st : Nat) : List (Nat × Nat) :=
  s.heads.filterMap fun e =>
    match e.1 with
    | .block n k i =>
      (match s.blockOf n k i with
       | some (_, ⟨_, .home key, .out, _, _, _, _, _, _, _⟩) =>
         if e.2.there ∧ key / 2 ^ 27 = st then some (portShare s (s.cell n).stage) else none
       | _ => none)
    | _ => none

/-- The DRAM places that the walker must read for a request of this module, and for one of a peer module that came in. -/
def ownReads (s : State) (r : Req) : List Nat :=
  if r.loc = .issued ∧ modOf r.addr = s.host.modNum then
    walkReads s (s.fieldOf r.cell) r.stage none (s.stage r.stage).root (offOf r.addr)
  else []
def guestReads (s : State) (peer : Nat) (r : Req) : List Nat :=
  walkReads s 64 r.stage (some peer) (AMap.get? s.guests (peer * 4096 + r.stage)) (offOf r.addr)

/-- A walk that waits: the places that it is to read, the stage as the counters of service name it, its share. -/
abbrev WalkWait := List Nat × Nat × Nat

/-- The walks that wait, of this module's requests and of its peers'. -/
def walks (s : State) : List WalkWait :=
  s.reqs.map (fun r => (ownReads s r, r.who, r.qp))
    ++ s.edge.inbox.filterMap fun m =>
      match m with
      | .request peer _ r => some (guestReads s peer r, peer * 4096 + r.stage, r.qp)
      | _ => none

/-- Whether a walk reads the DRAM of a strip. -/
def WalkWait.at (w : WalkWait) (st : Nat) : Bool := w.1.any fun k => decide (k / 2 ^ 27 = st)

/-- The walks that a strip's DRAM is to serve. -/
def walkDemand (s : State) (st : Nat) : List (Nat × Nat) := ((walks s).filter (WalkWait.at · st)).map (·.2)

/-- The demand for a strip port's wafer-space traffic: stores, copy blocks and walker reads (R327). -/
def portDemand (s : State) (st : Nat) : List (Nat × Nat) :=
  (((reqsAt s st).filter fun r => r.kind.onPort).map fun r => (r.who, r.qp)) ++ blockDemand s st ++ walkDemand s st

/-- The demand for an SUU's applications. -/
def suuDemand (s : State) (st : Nat) : List (Nat × Nat) := (reqsAt s st).map fun q => (q.who, q.qs)

/-- The requests at a strip that could use a cycle, since their stages have shares left in each class that they take (R328). -/
def suuUsers (s : State) (st : Nat) : List Req :=
  (reqsAt s st).filter fun q => shareLeft s st 0 (suuDemand s st) q.who q.qs
    && (!q.kind.onPort || shareLeft s st 1 (portDemand s st) q.who q.qp)

/-- The walks that could use a cycle of a strip: their stages have shares left at every strip that they read, since a walk reads them
in one step. -/
def walkUsers (s : State) (st : Nat) : List (Nat × Nat) :=
  ((walks s).filter fun w => WalkWait.at w st
    && w.1.all fun k => shareLeft s (k / 2 ^ 27) 1 (portDemand s (k / 2 ^ 27)) w.2.1 w.2.2).map (·.2)

/-- What could use a cycle of a strip port. -/
def portUsers (s : State) (st : Nat) : List (Nat × Nat) :=
  (((suuUsers s st).filter fun r => r.kind.onPort).map fun r => (r.who, r.qp)) ++ blockDemand s st ++ walkUsers s st

/-- Whether a strip port may serve a stage's wafer-space traffic. -/
def portMay (s : State) (st who share : Nat) : Bool := mayServe s st 1 (portDemand s st) (portUsers s st) who share

/-- Whether the budgets let a request in (R297, R327). -/
def budgetsAllow (s : State) (r : Req) (st : Nat) : Bool :=
  mayServe s st 0 (suuDemand s st) ((suuUsers s st).map fun q => (q.who, q.qs)) r.who r.qs && (!r.kind.onPort || portMay s st r.who r.qp)

/-- Whether the budgets let the walker read for a stage. -/
def walkMay (s : State) (reads : List Nat) (who share : Nat) : Bool := reads.all fun k => portMay s (k / 2 ^ 27) who share

def Req.inWindow (r : Req) (st : Nat) : Bool :=
  match r.loc with
  | .window w _ => decide (w = st)
  | _ => false

/-- Whether what stands behind a router's local port takes a flit now: an SUU a request within its window of 64 and the budgets, a
strip port a block within them, the edge what its port lets through, a host queue a word for which it has room or that it
discards (R369); a network interface takes what comes, for a cell's credit is given before. -/
def State.takes (s : State) (ref : FlitRef) : Bool :=
  match ref with
  | .packet i =>
    (match s.packets[i]? with
     | some ⟨_, _, _, .egress q, _, _, _, _, _⟩ =>
       let e := s.egress q
       (s.portUp e.port && e.room 0) || (!s.portUp e.port && !e.cq)
     | _ => true)
  | .req i =>
    (match s.reqs[i]? with
     | some r =>
       (match r.loc with
        | .homed st _ => decide ((s.reqs.filter (·.inWindow st)).length < 64) && budgetsAllow s r st
        | _ => s.openTo (modOf r.addr) || (s.toward (modOf r.addr)).isNone)
     | none => false)
  | .block n k i =>
    (match s.blockOf n k i with
     | some (x, y) =>
       decide (y.phase = .back) ||
         (match y.loc with
          | .home key =>
            let q := portShare s (s.cell n).stage
            portMay s (key / 2 ^ 27) q.1 q.2
          | .window _ _ => true
          | .away => s.openTo (modOf x.wa) || (s.toward (modOf x.wa)).isNone)
     | none => false)
  | _ => true

/-- The flit that leaves the mesh at its router now, if it has its turn at the local port (R22). -/
def State.leaving (s : State) (ref : FlitRef) : Option Flit :=
  (s.flits.find? fun e => decide (e.1 = ref)).bind fun e => if e.2.there && hasTurn s s.takes ref e.2 none then some e.2 else none

/-- A request whose translation has come out, with the places of its entries; it sets out for its home. -/
def settlePage (s : State) (r : Req) (path : List Nat) (p : Page) : Host.Outcome State Fault Refusal :=
  match p with
  | .fault cls code => .next (s.answer r (.fault cls code))
  | .window w byte =>
    (match r.kind with
     | .putBlock d => .next (guestWindow s r d w byte)
     | _ => .next (s.answer r (.fault 7 2)))
  | .home key =>
    .next { s with reqs := s.reqs ++ [{ r with loc := .homed (key / 2 ^ 27) key, path := path, hop := { r.hop with came := s.strip } }] }
  | .nowhere => .fault .noSuchFrame

/-- A registration that leaves through the edge: its context keeps the module and the number. -/
def noteWatch (s : State) (r : Req) (m id : Nat) : State :=
  match r.kind with
  | .waita _ _ true =>
    let c := s.cell r.cell
    s.setCell r.cell (c.setCtx r.ctx { (c.ctx r.ctx) with watchId := some (m, id) })
  | _ => s

/-- A request for another module sets out for the edge, or fails where no way leads there. -/
def setOut (s : State) (i : Nat) (r : Req) : State :=
  if (s.toward (modOf r.addr)).isNone then ({ s with reqs := s.reqs.eraseIdx i } : State).answer r (.fault 8 1)
  else { s with reqs := s.reqs.set i { r with loc := .away, hop := { r.hop with came := s.strip } } }

/-- A request that has come to the edge leaves through it, or fails there. -/
def departs (s : State) (i : Nat) (r : Req) : State :=
  match s.leaving (.req i), s.toward (modOf r.addr) with
  | some f, none => ({ (s.turned f none) with reqs := s.reqs.eraseIdx i } : State).answerAt r.hop.router r (.fault 8 1)
  | some f, some port =>
    let x := (s.turned f none).sendRequest (modOf r.addr) port r
    noteWatch { x.2 with reqs := x.2.reqs.eraseIdx i ++ [{ r with loc := .edge x.1 }] } r (modOf r.addr) x.1
  | none, _ => s

/-- Translation of a request of this module, as the budgets let the walker read; or its way out to another module. -/
def walkOwn (i : Nat) (s : State) : Host.Outcome State Fault Refusal :=
  match s.reqs[i]? with
  | none => .next s
  | some r =>
    if r.loc = .away then .next (departs s i r)
    else if r.loc ≠ .issued then .next s
    else if modOf r.addr ≠ s.host.modNum then .next (setOut s i r)
    else if !walkMay s (ownReads s r) r.who r.qp then .next s
    else
      let p := pageOf { s with reqs := s.reqs.eraseIdx i } r.kind (s.fieldOf r.cell) r.stage none (s.stage r.stage).root (offOf r.addr)
      settlePage p.2 r (p.2.pathOf (s.fieldOf r.cell) r.stage none (offOf r.addr)) p.1

/-- Translation of a request from a peer module by its guest table (R320). -/
def walkGuest (i : Nat) (s : State) : Host.Outcome State Fault Refusal :=
  match s.edge.inbox[i]? with
  | some (.request peer id r) =>
    let s1 := { s with edge := { s.edge with inbox := s.edge.inbox.eraseIdx i } }
    let reads := guestReads s peer r
    let r := { r with
      origin := some (peer, id), loc := .issued, lo := false, hi := false, words := 0, got := 0, hop := Hop.at (edgeRouter peer) s.strip }
    match AMap.get? s.guests (peer * 4096 + r.stage) with
    | none => .next (s1.answer r (.fault 6 4))
    | some root =>
      if !walkMay s reads r.who r.qp then .next s
      else
        let p := pageOf s1 r.kind 64 r.stage (some peer) (some root) (offOf r.addr)
        settlePage p.2 r (p.2.pathOf 64 r.stage (some peer) (offOf r.addr)) p.1
  | _ => .next s

/-- A request that is relayed: it leaves toward its module, waits while the port takes no traffic, or is answered for a module that
is not reachable (R22, R361, R362). -/
def relayOut (i : Nat) (s : State) : Host.Outcome State Fault Refusal :=
  match s.edge.inbox[i]? with
  | some (.transit src dst id r) =>
    let s1 := { s with edge := { s.edge with inbox := s.edge.inbox.eraseIdx i } }
    match s.toward dst with
    | none => .next (s1.send (.transitBack src id (.fault 8 1)))
    | some port =>
      if !s.portOpen port then .next s
      else
        let due := s.strip + Config.allowanceDelay id
        .next ({ s1 with edge := { s1.edge with relays := s1.edge.relays ++ [(src, id, port, due)] } }.send (.transit src dst id r))
  | _ => walkGuest i s

def execTranslationWalk (r : ReqRef) (s : State) : Host.Outcome State Fault Refusal :=
  match r with
  | .own i => walkOwn i s
  | .guest i => relayOut i s

/-! ## The strip's update unit (R223, R227, R297) -/

/-- An SUU takes a request that has come to its strip into its window, in its turn; its place in the list is its place of
arrival. -/
def execSuuAccept (i : Nat) (s : State) : Host.Outcome State Fault Refusal :=
  match s.reqs[i]?, s.leaving (.req i) with
  | some r, some f =>
    (match r.loc with
     | .homed st key =>
       let s := (s.turned f none).serve st 0 r.who
       let s := if r.kind.onPort then s.serve st 1 r.who else s
       .next { s with reqs := s.reqs.eraseIdx i ++ [{ r with loc := .window st key }] }
     | _ => .next s)
  | _, _ => .next s

/-- Whether ordered mode lets a request of the window be applied: no request of its context came before it (R227). -/
def suuFirst (s : State) (i : Nat) (r : Req) (st : Nat) : Bool :=
  !r.ordered || !(s.reqs.take i).any (fun q =>
    decide (q.cell = r.cell) && decide (q.ctx = r.ctx) && decide (q.origin.map (·.1) = r.origin.map (·.1)) && q.inWindow st)

def AmoFn.new (fn : AmoFn) (w : Nat) (old a cnew : BitVec w) : BitVec w :=
  match fn with
  | .add => old + a
  | .and => old &&& a
  | .or => old ||| a
  | .xor => old ^^^ a
  | .min => if a.toInt < old.toInt then a else old
  | .max => if old.toInt < a.toInt then a else old
  | .minn => if a.toNat < old.toNat then a else old
  | .maxn => if old.toNat < a.toNat then a else old
  | .swap => a
  | .cas => if old = a then cnew else old
  | .ld => old

/-- Whether a function is an application that writes the word (R275). -/
def AmoFn.writes (fn : AmoFn) (old a : DWord) : Bool :=
  match fn with
  | .ld => false
  | .cas => decide (old = a)
  | _ => true

/-- The new word of a reduction (R276). -/
def RedFn.new (fn : RedFn) (old a : Word) : Word :=
  match fn with
  | .addI32 => old + a
  | .addF32 => word (fAdd .f32 Mode.rne old.toNat a.toNat).1
  | .addBf16x2 =>
    let lo := (fAdd .bf16 Mode.rne (old.toNat % 2 ^ 16) (a.toNat % 2 ^ 16)).1
    let hi := (fAdd .bf16 Mode.rne (old.toNat / 2 ^ 16) (a.toNat / 2 ^ 16)).1
    word (lo % 2 ^ 16 + hi % 2 ^ 16 * 2 ^ 16)
  | .maxF32 => word (fMax .f32 Mode.rne old.toNat a.toNat).1
  | .minF32 => word (fMin .f32 Mode.rne old.toNat a.toNat).1
  | .and => old &&& a
  | .or => old ||| a
  | .xor => old ^^^ a

/-! ## Wakes (R233, R277, R278) -/

/-- A context's watch ends with a notice: the mailbox word and the wake-pending event (R39, R49). The event and the end of
the watch do not wait for a mailbox that is full (log 74). -/
def CellState.wakeUp (c : CellState) (k : Fin 4) (code : Nat) : CellState :=
  let t := c.ctx k
  (c.setCtx k { t with wake := true, watchOut := false, watch := none, watchId := none }).post6
    ⟨word code, boxTag k 2, false⟩

/-- The watch of a context is over, before its notice is posted (R354). -/
def CellState.endWatch (c : CellState) (k : Fin 4) : CellState :=
  c.setCtx k { (c.ctx k) with watchOut := false, watch := none, watchId := none }

/-- The number of a cell within its stage's rectangle at the stage's origin. -/
def Stage.rel (t : Stage) (n : Nat) : Nat := (n / 320 - t.y0) * t.w + (n % 320 - t.x0)

/-- A wake for a context of a stage; it is held while the stage is pre-empted. -/
def State.wakeCell (s : State) (st n : Nat) (k : Fin 4) (code : Nat) : State :=
  let t := s.stage st
  if t.status = .preempted then
    let r := t.rel n
    let saved := match AMap.get? t.saved r with
      | some (c, m) => t.saved.put r (c.endWatch k, m)
      | none => t.saved
    s.setStage st { t with saved := saved, heldWakes := t.heldWakes ++ [(r, k, code)] }
  else s.setCell n ((s.cell n).wakeUp k code)

def State.wakeWatch (s : State) (w : Watch) (code : Nat) : State :=
  match w.origin with
  | some (peer, id) => s.send (.wake peer id code)
  | none => s.wakeCell w.stage w.cell w.ctx code

/-- Wake, in registration order, every watch that overlaps `n` bytes at a key: those of this module's cells have their notices in
this step (log 90). -/
def State.wakes (s : State) (a n code : Nat) : State :=
  let hit (w : Watch) : Bool := decide (w.addr < a + n) && decide (a < w.addr + w.size)
  (s.watches.filter hit).foldl (fun s w => s.wakeWatch w code) { s with watches := s.watches.filter (fun w => !hit w) }

/-- Write `n` bytes at their home and wake their watchers. -/
def State.homeWrite (s : State) (a n v : Nat) : State :=
  ({ s with firn := s.firn.writeN a n v } : State).wakes a n 0

/-- Evict a stage's oldest watch at a strip while it holds its quota, then the oldest of all while the list of 128 is
full (R278). A stage of another module has the quota that its requests carry (log 18). -/
def evict (s : State) (r : Req) (st : Nat) : State :=
  let here (w : Watch) : Bool := decide (w.strip = st)
  let mine (w : Watch) : Bool := here w && decide (w.stage = r.stage) && decide (w.origin.map (·.1) = r.origin.map (·.1))
  let out (s : State) (p : Watch → Bool) : State :=
    match s.watches.findIdx? p with
    | some i =>
      match s.watches[i]? with
      | some w => ({ s with watches := s.watches.eraseIdx i } : State).wakeWatch w 1
      | none => s
    | none => s
  if r.wq ≤ (s.watches.filter mine).length then out s mine
  else if 128 ≤ (s.watches.filter here).length then out s here
  else s

/-- The bytes that a request touches. -/
def ReqKind.size (k : ReqKind) : Nat :=
  match k with
  | .store4 _ | .red _ _ => 4
  | .store8 _ => 8
  | .store64 _ => 64
  | .amo _ dbl _ _ _ _ _ | .waita dbl _ _ | .wpoke dbl => if dbl then 8 else 4
  | .getBlock | .putBlock _ => 32

/-- Whether a DRAM line that a request reads, or rewrites in part, fails its check (R350); a WPOKE's is checked too (log 54). -/
def badHome (s : State) (k : ReqKind) (key : Nat) : Bool :=
  match k with
  | .store64 _ | .putBlock _ => false
  | _ => s.badFirn.contains (key / 32)

/-- A whole line is stored: its check holds again. -/
def State.mendLine (s : State) (key : Nat) : State := { s with badFirn := s.badFirn.filter (fun l => decide (l ≠ key / 32)) }

/-- The effect of a request at its home and its answer (R274 to R279). A registration that ends at once is none that the list
takes, and evicts nothing (R386; log 9). -/
def applyAt (s : State) (r : Req) (st key : Nat) : State × AckRes :=
  match r.kind with
  | .store4 d => (s.homeWrite key 4 d.toNat, .done)
  | .store8 d => (s.homeWrite key 8 d.toNat, .done)
  | .store64 d => (s.homeWrite key 64 d.toNat, .done)
  | .amo fn dbl _ opnd cnew _ _ =>
    let n := if dbl then 8 else 4
    let old := s.firn.readN key n
    if dbl then
      let o : DWord := BitVec.ofNat 64 old
      (if fn.writes o opnd then s.homeWrite key 8 (fn.new 64 o opnd cnew).toNat else s, .value o)
    else
      let o : Word := BitVec.ofNat 32 old
      (if fn.writes (o.setWidth 64) (opnd.setWidth 32 |>.setWidth 64) then
        s.homeWrite key 4 (fn.new 32 o (opnd.setWidth 32) (cnew.setWidth 32)).toNat else s, .value (o.setWidth 64))
  | .red fn a => (s.homeWrite key 4 (fn.new (word (s.firn.readN key 4)) a).toNat, .done)
  | .waita dbl cmp wanted =>
    if !wanted then (s, .done)
    else
      let w : Watch :=
        { strip := st, addr := key, size := r.kind.size, cell := r.cell, ctx := r.ctx, stage := r.stage, origin := r.origin }
      if s.firn.readN key (if dbl then 8 else 4) = cmp.toNat then
        let s := evict s r st
        ({ s with watches := s.watches ++ [w] }, .done)
      else (s.wakeWatch w 0, .done)
  | .wpoke _ => (s.wakes key r.kind.size 1, .done)
  | .getBlock => (s, .block (BitVec.ofNat 256 (s.firn.readN key 32)))
  | .putBlock d => ((s.mendLine key).homeWrite key 32 d.toNat, .done)

/-- The words of a block that are left, and the one that comes next: any (R239). -/
def nextWord (done : BitVec 8) (n : Nat) : Fin 8 :=
  let l : List (Fin 8) := (List.finRange 8).filter fun w => !done.getLsbD w.val
  (l[n % l.length]?).getD 0

/-- One word of a block of a peer module is applied; with the last one the block is answered (R239, R269). -/
def applyWord (i : Nat) (s : State) (r : Req) (st key : Nat) : State :=
  let w := nextWord r.words (Config.pick s.strip)
  let o := 32 * w.val
  let words := setBit r.words w true
  match r.kind with
  | .putBlock d =>
    let s1 := s.homeWrite (key + 4 * w.val) 4 (d.extractLsb' o 32).toNat
    if words = 255 then ((({ s1 with reqs := s1.reqs.eraseIdx i } : State).mendLine key).answerFrom st r .done)
    else { s1 with reqs := s1.reqs.set i { r with words := words } }
  | _ =>
    let got := r.got ||| (BitVec.ofNat 256 (s.firn.readN (key + 4 * w.val) 4) <<< o)
    if words = 255 then ({ s with reqs := s.reqs.eraseIdx i } : State).answerFrom st r (.block got)
    else { s with reqs := s.reqs.set i { r with words := words, got := got } }

/-- The halves of a 64-byte store are applied one by one, in either order (R239). -/
def applyHalf (i : Nat) (half : Bool) (s : State) (r : Req) (d : VWord) (st key : Nat) : State :=
  if (if half then r.hi else r.lo) then s
  else
    let k := if half then key + 32 else key
    let v := if half then d.toNat / 2 ^ 256 else d.toNat % 2 ^ 256
    let s1 := (s.mendLine k).homeWrite k 32 v
    let r := if half then { r with hi := true } else { r with lo := true }
    if r.lo && r.hi then ({ s1 with reqs := s1.reqs.eraseIdx i } : State).answerFrom st r .done
    else { s1 with reqs := s1.reqs.set i r }

/-- An SUU applies a request of its window, or one half of a 64-byte store or one word of a block, and answers it; one whose
check fails is not applied (R351). -/
def execSuuApply (i : Nat) (half : Bool) (s : State) : Host.Outcome State Fault Refusal :=
  match s.reqs[i]? with
  | none => .next s
  | some r =>
    match r.loc with
    | .window st key =>
      if !suuFirst s i r st then .next s
      else
        let s1 := { s with reqs := s.reqs.eraseIdx i }
        if !r.good || badHome s r.kind key then .next (s1.answerFrom st r (.fault 10 3))
        else
          let here (s : State) : State := if r.origin.isNone then s.active r.cell else s
          match r.kind with
          | .store64 d => .next (applyHalf i half (here s) r d st key)
          | .getBlock | .putBlock _ => .next (applyWord i s r st key)
          | _ =>
            let p := applyAt (here s1) r st key
            .next (p.1.answerFrom st r p.2)
    | _ => .next s

/-! ## Answers (R225, R275, R282) -/

/-- The failed response of a returning atomic: it parks its context, at once or after another park (R282). -/
def failAmo (s : State) (r : Req) (t : Context) (f : FaultInfo) : State :=
  let c := s.cell r.cell
  let rec' := mkRecord s c r.ctx r.slot false f .trap
  if t.status = .halted then (s.setCell r.cell (c.setCtx r.ctx t)).logFault c.stage rec' 1 true
  else
    let t := t.addRecord rec' s.tick
    let t := if t.status = .running then { (t.park .parkFault) with parkDeq := [], parkCue := none }
      else { t with respFaults := t.respFaults + 1 }
    s.setCell r.cell (c.setCtx r.ctx t)

/-- The response of a returning atomic reaches its context: reservation, values, presence bits and predicate. -/
def amoDone (s : State) (r : Req) (dbl acq : Bool) (d : Fin 8) (p : PAct) (res : AckRes) : State :=
  let c := s.cell r.cell
  let t := c.ctx r.ctx
  let d1 : Fin 8 := Fin.ofNat 8 (d.val + 1)
  let t := t.reserve d false
  let t := if dbl then t.reserve d1 false else t
  let t := { t with uack := t.uack - 1, acq := t.acq && !acq }
  match res with
  | .fault cls code => failAmo s r t (waferFault cls code r.addr)
  | .value old =>
    let t := (t.setX (presReg d) (old.setWidth 32)).setPres d true
    let t := if dbl then (t.setX (presReg d1) (old.extractLsb' 32 32)).setPres d1 true else t
    s.setCell r.cell (c.setCtx r.ctx (t.act p (decide (old ≠ 0))))
  | _ => s.setCell r.cell (c.setCtx r.ctx t)

/-- Cancel the watch of a context at its home, wherever its registration stands. -/
def cancelWatch (s : State) (st n : Nat) (k : Fin 4) (id : Option (Nat × Nat)) : State :=
  let off (r : Req) : Req :=
    match r.kind with
    | .waita dbl cmp _ =>
      if r.stage = st ∧ r.cell = n ∧ r.ctx = k ∧ r.origin = none then { r with kind := .waita dbl cmp false } else r
    | _ => r
  let s := { s with
    reqs := s.reqs.map off
    acks := s.acks.map (fun a => { a with req := off a.req })
    watches := s.watches.filter (fun w => !(decide (w.stage = st) && decide (w.cell = n) && decide (w.ctx = k) && w.origin.isNone)) }
  match id with
  | some (m, i) => s.send (.cancel m i)
  | none => s

/-- The acknowledgement of any other request. A registration that failed, or whose answer does, ends the context's watch if that is
still the one outstanding; it may stand in the list, and goes (R277). -/
def ackDone (s : State) (r : Req) (res : AckRes) : State :=
  let c := s.cell r.cell
  let t := c.ctx r.ctx
  let s := s.setCell r.cell (c.setCtx r.ctx { t with uack := t.uack - 1 })
  match res with
  | .fault cls code =>
    let s := s.asyncRecord r.cell r.ctx r.slot (waferFault cls code r.addr)
    (match r.kind with
     | .waita _ _ true =>
       if t.watchOut && decide (r.serial + 1 = t.watchNo) then
         (cancelWatch s r.stage r.cell r.ctx t.watchId).wakeCell r.stage r.cell r.ctx 3
       else s
     | _ => s)
  | _ => s

/-- An answer that came from another module, with the request it is for. -/
def remoteAnswer (s : State) (i : Nat) : Option (Nat × Req × AckRes) :=
  match s.edge.inbox[i]? with
  | some (.answer _ id res) =>
    match s.reqs.findIdx? (fun r => decide (r.loc = .edge id)) with
    | some j => (s.reqs[j]?).map fun r => (j, r, res)
    | none => none
  | _ => none

def ReqKind.isAmo (k : ReqKind) : Bool :=
  match k with
  | .amo .. => true
  | _ => false

/-- A message is taken from the edge's inbox; an answer ends the flight of its request. -/
def State.dropInbox (s : State) (i : Nat) : State :=
  let via := match s.edge.inbox[i]? with
    | some (.answer _ id _) => s.edge.via.del id
    | _ => s.edge.via
  { s with edge := { s.edge with inbox := s.edge.inbox.eraseIdx i, via := via } }

/-- Whether a number belongs to a copy block in flight. -/
def State.copyFlight (s : State) (id : Nat) : Bool :=
  s.cells.any fun e => e.2.copyAct.any fun x => x.any fun y => y.flight.any fun f => decide (f.2 = id)

/-- Whether a number belongs to a request of a collective. -/
def State.collFlight (s : State) (id : Nat) : Bool := s.edge.colls.any fun c => c.out.any fun o => decide (o.1 = id)

/-- An answer to a request whose stage has ended goes nowhere. -/
def lostAnswer (s : State) (i : Nat) : State :=
  match s.edge.inbox[i]? with
  | some (.answer _ id _) => if s.copyFlight id || s.collFlight id then s else s.dropInbox i
  | _ => s

/-- A wake from another module finds the watch it is for, or is discarded (R277). -/
def remoteWake (s : State) (peer id code : Nat) : State :=
  let k (c : CellState) := (List.finRange 4).find? fun k => (c.ctx k).watchOut && decide ((c.ctx k).watchId = some (peer, id))
  match s.cells.find? (fun e => (k e.2).isSome) with
  | some (n, c) =>
    match k c with
    | some x => s.wakeCell c.stage n x code
    | none => s
  | none =>
    match s.stages.find? (fun e => e.2.saved.any fun q => (k q.2.1).isSome) with
    | some (st, t) =>
      match t.saved.find? (fun q => (k q.2.1).isSome) with
      | some (r, c, _) =>
        match k c with
        | some x => s.wakeCell st (t.cellNum r) x code
        | none => s
      | none => s
    | none => s

/-- A peer's watch is over: it leaves the list, or is not entered. -/
def remoteCancel (s : State) (peer id : Nat) : State :=
  { s with
    watches := s.watches.filter (fun w => decide (w.origin ≠ some (peer, id)))
    reqs := s.reqs.map fun r =>
      match r.kind with
      | .waita dbl cmp _ => if r.origin = some (peer, id) then { r with kind := .waita dbl cmp false } else r
      | _ => r }

/-- An answer from another module comes onto the mesh where that module's traffic enters. It is all that tells this module that the
request was applied (R301; log 39). -/
def answerIn (s : State) (i j : Nat) (r : Req) (res : AckRes) : State :=
  let from' : Nat := match s.edge.inbox[i]? with
    | some (.answer peer _ _) => peer
    | _ => 0
  ({ (s.dropInbox i) with reqs := s.reqs.eraseIdx j } : State).active r.cell |>.answerAt (edgeRouter from') r res

/-- Wake every watch of this module's cells at a module that cannot be reached (R362). -/
def wakeCutOff (s : State) : State :=
  let cut (c : CellState) : List (Fin 4) := (List.finRange 4).filter fun k =>
    (c.ctx k).watchOut && (c.ctx k).watchId.any fun w => (s.toward w.1).isNone
  let placed := s.cells.flatMap fun e => (cut e.2).map fun k => (e.2.stage, e.1, k)
  let saved := s.stages.flatMap fun e => e.2.saved.flatMap fun q => (cut q.2.1).map fun k => (e.1, e.2.cellNum q.1, k)
  (placed ++ saved).foldl (fun s w => s.wakeCell w.1 w.2.1 w.2.2 3) s

/-- Every other module hears which modules are not reachable from here, so that what goes there through this module ends (log 37). -/
def tellUnreached (s : State) : State := s.send (.unreached allModules s.unreached)

/-- A neighbour tells which modules it does not reach; what that changes here is told on. -/
def peerUnreached (s : State) (peer : Nat) (l : List Nat) : State :=
  let t := { s with edge := { s.edge with cut := s.edge.cut.filter (fun e => decide (e.1 ≠ peer)) ++ l.map fun m => (peer, m) } }
  if t.unreached = s.unreached then t else wakeCutOff (tellUnreached t)

/-- What comes in through the edge besides requests, responses and copy blocks. -/
def ackGuest (i : Nat) (s : State) : State :=
  match s.edge.inbox[i]? with
  | some (.wake peer id code) => remoteWake (s.dropInbox i) peer id code
  | some (.cancel peer id) => remoteCancel (s.dropInbox i) peer id
  | some (.unreached peer l) => peerUnreached (s.dropInbox i) peer l
  | some (.transitBack src id res) =>
    let s1 := s.dropInbox i
    { s1 with edge := { s1.edge with relays := s1.edge.relays.filter fun e => decide (¬(e.1 = src ∧ e.2.1 = id)) } }.send
      (.transitBack src id res)
  | _ =>
    match remoteAnswer s i with
    | some (j, r, res) =>
      if r.kind.isAmo then s else answerIn s i j r res
    | none => lostAnswer s i

/-- What a network interface makes of an answer: one whose check fails counts as a fault (R351). -/
def Ack.result (a : Ack) : AckRes := if a.good then a.res else .fault 10 1

/-- Whether an answer matches a request that its cell has outstanding (R316). -/
def ackMatches (s : State) (r : Req) : Bool :=
  match AMap.get? s.cells r.cell with
  | some c => decide (c.stage = r.stage) && decide (0 < (c.ctx r.ctx).uack)
  | none => false

/-- An answer leaves the mesh in its turn: to its peer module, or into its network interface as `f` has it; one that matches no
request is discarded and reported (R316). -/
def takeAck (i : Nat) (s : State) (amo : Bool) (f : State → Req → AckRes → State) : State :=
  match s.acks[i]?, s.leaving (.ack i) with
  | some a, some flit =>
    let s1 := { (s.turned flit none) with acks := s.acks.eraseIdx i }
    (match a.req.origin with
     | some (peer, id) => if amo then s else s1.send (.answer peer id a.result)
     | none =>
       if a.req.kind.isAmo ≠ amo then s
       else if ackMatches s a.req then f s1 a.req a.result
       else s1.routerRecord a.req.cell 4)
  | _, _ => s

def execAckReceive (r : ReqRef) (s : State) : Host.Outcome State Fault Refusal :=
  match r with
  | .guest i => .next (ackGuest i s)
  | .own i => .next (takeAck i s false ackDone)

/-- A response for a returning atomic; any other answer is no response. -/
def respond (s : State) (r : Req) (res : AckRes) : State :=
  match r.kind with
  | .amo _ dbl acq _ _ d p => amoDone s r dbl acq d p res
  | _ => s

def execResponseReceive (r : ReqRef) (s : State) : Host.Outcome State Fault Refusal :=
  match r with
  | .guest i =>
    match remoteAnswer s i with
    | some (j, q, res) =>
      if q.kind.isAmo then .next (answerIn s i j q res) else .next s
    | none => .next s
  | .own i => .next (takeAck i s true respond)

/-! ## The timeout of a watch (R277) -/

/-- Whether the watch of a context is due, with its number in another module. -/
def watchDue (s : State) (t : Context) : Option (Option (Nat × Nat)) :=
  match t.watch with
  | some d => if t.watchOut ∧ d ≤ s.tick then some t.watchId else none
  | none => none

/-- A watch of a cell that its pre-empted stage has saved: its notice is held (R354). -/
def savedTimeout (n : Nat) (k : Fin 4) (s : State) (e : Nat × Stage) : State :=
  let t := e.2
  if t.status = .preempted ∧ t.y0 ≤ n / 320 ∧ n / 320 < t.y0 + t.h ∧ t.x0 ≤ n % 320 ∧ n % 320 < t.x0 + t.w then
    match AMap.get? t.saved (t.rel n) with
    | some (c, _) =>
      match watchDue s (c.ctx k) with
      | some id => (cancelWatch s e.1 n k id).wakeCell e.1 n k 2
      | none => s
    | none => s
  else s

/-- At the first tick at or after its deadline a watch ends with code 2; a saved cell is named by its number at the
stage's last origin. -/
def execWaitaTimeout (n : Nat) (k : Fin 4) (s : State) : Host.Outcome State Fault Refusal :=
  let s1 := s.stages.foldl (savedTimeout n k) s
  match AMap.get? s1.cells n with
  | some c =>
    match watchDue s1 (c.ctx k) with
    | some id => .next ((cancelWatch s1 c.stage n k id).wakeCell c.stage n k 2)
    | none => .next s1
  | none => .next s1

end Sys2Proof.Machine
end

