-- ==== Sys2Proof/Machine/Copy.lean ====
section
/-! DEFINITION. Copy.lean: copy templates, direct copies and the copy engine (spec 02 R61, R62, 09 R265 to R271, 13
R368). -/

namespace Sys2Proof.Machine

/-! ## Templates (R61) -/

def CellState.setTemplate (c : CellState) (i : Fin 16) (t : Template) : CellState := { c with cts := vset c.cts i t }

def Template.dep (t : Template) : Word :=
  word (t.pinit + t.s0.isSome.toNat * 2 ^ 5 + ((t.s0.getD t.s0f).val) * 2 ^ 6 + t.s1.isSome.toNat * 2 ^ 10
    + ((t.s1.getD t.s1f).val) * 2 ^ 11 + t.count * 2 ^ 15 + t.armed.toNat * 2 ^ 20 + t.pending.toNat * 2 ^ 21)

def Template.ctl (t : Template) : Word :=
  word (t.len + t.put.toNat * 2 ^ 24 + t.ctx.val * 2 ^ 25 + t.notify.toNat * 2 ^ 27)

/-- Whether a template is armed, pending or active (R266). -/
def Template.busy (t : Template) : Bool := t.armed || t.pending || t.active

/-- The copy of a template (R62). -/
def Template.copy (t : Template) (i : Fin 16) : Copy :=
  { tmpl := some i, put := t.put, pa := t.pa.toNat, wa := t.wa, len := t.len, ctx := t.ctx, slot := 0
    notify := t.notify, left := List.range (t.len / 32), work := [], flight := [], cancelled := false, failed := none }

/-- A template's copy among the copies that joined in this cycle: before the first of a higher template number. -/
def insertCopy (x : Copy) (i : Fin 16) (l : List Copy) : List Copy :=
  match l with
  | [] => [x]
  | y :: r => if y.tmpl.any (fun j => decide (i < j)) then x :: y :: r else y :: insertCopy x i r

/-- Join the pending list; templates that fire in one cycle stand in ascending number (R62). -/
def CellState.joinPend (c : CellState) (x : Copy) : CellState :=
  let k := c.copyPend.length - c.newPend
  let tail := match x.tmpl with
    | some i => insertCopy x i (c.copyPend.drop k)
    | none => c.copyPend.drop k ++ [x]
  { c with copyPend := c.copyPend.take k ++ tail, newPend := c.newPend + 1 }

/-- An armed template with count 0 fires: it joins the pending list (R62). -/
def CellState.tryFire (c : CellState) (i : Fin 16) : CellState :=
  let t := c.cts[i]
  if t.armed && decide (t.count = 0) then
    (c.setTemplate i { t with armed := false, pending := true }).joinPend (t.copy i)
  else c

/-- A predecessor of a template is done: its count falls, saturating at 0 (R62). -/
def CellState.predDone (c : CellState) (i : Fin 16) : CellState :=
  let t := c.cts[i]
  c.setTemplate i { t with count := t.count - 1 }

/-! ## Instructions -/

/-- Whether the station and acquiring atomics let a context start a copy (R228, R229). -/
def Context.mayCopy (t : Context) : Bool := t.station.isNone && !t.acq

/-- WA(w, B) (R265). -/
def copyAddr (w : DWord) (b : Word) : DWord := setOff w (offOf w + b.toInt)

/-- CP.ARM waits while its template is pending or active, and for the station where it would fire (R266). -/
def armNeeds (ct : Fin 16) (srcs : List Src) (s : State) : Needs :=
  let t := s.cur.cts[ct]
  ⟨srcs, none, !t.pending && !t.active && (decide (t.pinit ≠ 0) || s.here.mayCopy), []⟩

/-- Check a template and arm it; the arming fires it where it has no predecessor. -/
def armEff (ct : Fin 16) (t : Template) (opnd : Word) (p : PAct) (s : State) : Effect :=
  if t.len % 32 ≠ 0 ∨ t.len < 32 ∨ t.pa.toNat % 32 ≠ 0 ∨ t.wa.toNat % 32 ≠ 0 then .fault (operandFault 8 opnd)
  else if !s.cur.inPrivate t.pa.toNat t.len then .fault (boundsFault t.pa.toNat)
  else onCell p (fun c => (c.setTemplate ct { t with armed := true, count := t.pinit }).tryFire ct) s

def execCpArm (c : Cue) (ct : Fin 16) (p : PAct) (s : State) : Host.Outcome State Fault Refusal :=
  fire s c (armNeeds ct [] s) (fun s => armEff ct (s.cur.cts[ct]) 0 p s)

def execCpArmSet (c : Cue) (ct : Fin 16) (a b : Src) (wr : Fin 4) (p : PAct) (s : State) :
    Host.Outcome State Fault Refusal :=
  fire s c (armNeeds ct [a, b] s) (fun s =>
    armEff ct { s.cur.cts[ct] with pa := s.src a, wa := copyAddr s.here.w[wr] (s.src b) } (s.src a) p s)

def cpFireNeeds (s : State) : Needs := ⟨[], none, s.here.mayCopy, []⟩

/-- CP.FIRE on an armed template (R267). -/
def cpFire (c : Cue) (ct : Fin 16) (count : Nat → Nat) (p : PAct) (s : State) : Host.Outcome State Fault Refusal :=
  fire s c (cpFireNeeds s) (fun s =>
    let t := s.cur.cts[ct]
    if !t.armed then .fault (operandFault 9 0)
    else onCell p (fun c => (c.setTemplate ct { t with count := count t.count }).tryFire ct) s)

def execCpFire (c : Cue) (ct : Fin 16) (p : PAct) (s : State) := cpFire c ct (fun n => n - 1) p s
def execCpFireNow (c : Cue) (ct : Fin 16) (p : PAct) (s : State) := cpFire c ct (fun _ => 0) p s

def CellState.allCopies (c : CellState) : List Copy := c.copyPend ++ (c.copyAct.toList.filterMap id)
def CellState.directs (c : CellState) : Nat := (c.allCopies.filter (fun x => x.tmpl.isNone)).length

/-- A direct copy waits while four of the cell are under way (R268). -/
def directNeeds (a b : Src) (s : State) : Needs := ⟨[a, b], none, decide (s.cur.directs < 4) && s.here.mayCopy, []⟩

def direct (put : Bool) (c : Cue) (a b : Src) (wr : Fin 4) (len : BitVec 14) (notify : Bool) (p : PAct) (s : State) :
    Host.Outcome State Fault Refusal :=
  fire s c (directNeeds a b s) (fun s =>
    let pa := (s.src a).toNat
    let wa := copyAddr s.here.w[wr] (s.src b)
    let n := (len.toNat + 1) * 32
    if pa % 32 ≠ 0 then .fault (alignFault pa)
    else if wa.toNat % 32 ≠ 0 then .fault (waferAlign wa)
    else if !s.cur.inPrivate pa n then .fault (boundsFault pa)
    else
      onCell p (fun c => c.joinPend
        { tmpl := none, put := put, pa := pa, wa := wa, len := n, ctx := s.focus.ctx, slot := s.focus.slot
          notify := notify, left := List.range (n / 32), work := [], flight := [], cancelled := false, failed := none }) s)

def execCpGet (c : Cue) (a b : Src) (wr : Fin 4) (len : BitVec 14) (notify : Bool) (p : PAct) (s : State) :=
  direct false c a b wr len notify p s
def execCpPut (c : Cue) (a b : Src) (wr : Fin 4) (len : BitVec 14) (notify : Bool) (p : PAct) (s : State) :=
  direct true c a b wr len notify p s

/-- The completion word of a copy, posted where NOTIFY is set (R49, R269). -/
def CellState.notifyCopy (c : CellState) (x : Copy) (status : Nat) : CellState :=
  if x.notify then
    c.post6 ⟨word ((x.tmpl.elim 16 Fin.val) + status * 2 ^ 5), boxTag x.ctx 1, false⟩
  else c

/-- CP.CANCEL on each state of its template (R270). -/
def cancelTemplate (ct : Fin 16) (c : CellState) : CellState :=
  let t := c.cts[ct]
  if t.armed then c.setTemplate ct { t with armed := false, count := 0 }
  else if t.pending then
    let c1 := c.setTemplate ct { t with pending := false }
    match c.copyPend.find? (fun x => decide (x.tmpl = some ct)) with
    | some x => { c1 with copyPend := c.copyPend.filter (fun y => decide (y.tmpl ≠ some ct)) }.notifyCopy x 2
    | none => c1
  else
    { c with copyAct := c.copyAct.map fun x => x.map fun y => if y.tmpl = some ct then { y with cancelled := true } else y }

def execCpCancel (c : Cue) (ct : Fin 16) (p : PAct) (s : State) : Host.Outcome State Fault Refusal :=
  fire s c (needsR []) (onCell p (cancelTemplate ct))

def execCpStatDep (c : Cue) (ct : Fin 16) (d : Dst) (p : PAct) (s : State) := stat0 c d p (fun s => (s.cur.cts[ct]).dep) s

def engineStat (s : State) : Word :=
  let c := s.cur
  word ((c.allCopies.filter (fun x => decide (x.ctx = s.focus.ctx))).length + c.directs * 2 ^ 5
    + (c.copyAct.toList.filterMap id).length * 2 ^ 8)

def execCpStatEng (c : Cue) (d : Dst) (p : PAct) (s : State) := stat0 c d p engineStat s

/-! ## The engine (R62, R269) -/

def CellState.setCopy (c : CellState) (k : Fin 2) (x : Option Copy) : CellState := { c with copyAct := vset c.copyAct k x }

/-- The oldest pending copy starts in a free engine. -/
def execCopyStart (n : Nat) (s : State) : Host.Outcome State Fault Refusal :=
  let c := s.cell n
  match c.copyPend, (List.finRange 2).find? (fun k => (c.copyAct[k]).isNone) with
  | x :: r, some k =>
    let c := { c with copyPend := r }.setCopy k (some x)
    let c := match x.tmpl with
      | some i => c.setTemplate i { c.cts[i] with pending := false, active := true }
      | none => c
    .next (s.setCell n c)
  | _, _ => .next s

/-- The private and the wafer address of a block. -/
def Copy.privAt (x : Copy) (b : Nat) : Nat := x.pa + 32 * b
def Copy.waferAt (x : Copy) (b : Nat) : DWord := setOff x.wa (offOf x.wa + 32 * b)

/-- The frontier: every block below it is done (R354). -/
def Copy.frontier (x : Copy) : Nat :=
  (x.left ++ x.work.map (·.blk) ++ x.flight.map (·.1)).foldl min (x.len / 32)

/-- Put back an active copy. -/
def State.setCopy (s : State) (n : Nat) (k : Fin 2) (x : Copy) : State := s.setCell n ((s.cell n).setCopy k (some x))

/-- A block that failed: the first one is kept for the copy's one record (R269). -/
def Copy.fail (x : Copy) (b : Nat) (f : FaultInfo) : Copy :=
  { x with work := x.work.filter (fun y => decide (y.blk ≠ b)), failed := x.failed.or (some f) }

def Copy.setBlock (x : Copy) (y : Block) : Copy := { x with work := x.work.map fun z => if z.blk = y.blk then y else z }

def allWords : BitVec 8 := 255

/-- Word `w` of a block's data. -/
def Block.word (y : Block) (w : Fin 8) : Nat := (y.data.extractLsb' (32 * w.val) 32).toNat

/-- A word of the block has been read; `apply` tells that it has been written. -/
def Block.take (y : Block) (w : Fin 8) (v : Nat) : Block :=
  { y with data := y.data &&& ~~~(0xFFFFFFFF#256 <<< (32 * w.val)) ||| (BitVec.ofNat 256 (v % 2 ^ 32) <<< (32 * w.val)), got := setBit y.got w true }
def Block.apply (y : Block) (w : Fin 8) : Block := { y with done := setBit y.done w true }

/-- Whether the private side of a block may be touched: at once in SRAM, in the slice once its line's merge window has closed
(R14). -/
def privOpen (c : CellState) (k : Fin 2) (a : Nat) (write : Bool) : Bool := inSram a 32 || c.portServed (.copy k) [lineOf a] write

/-- Ask the strip port for the line of a block, once. -/
def privAsk (s : State) (n : Nat) (k : Fin 2) (a : Nat) (write : Bool) : State :=
  if (s.cell n).port.any fun r => decide (r.user = .copy k ∧ r.line = lineOf a) then s else s.portAsk n (.copy k) [lineOf a] write

/-- A block of private space as the engine reads it, at once (R217), or the fault of its check (R350). -/
def privRead (s : State) (n a : Nat) : Nat × Option FaultInfo :=
  let c := s.cell n
  if inSram a 32 then (c.sram.readN a 32, (c.badWord a 32).map fun _ => { cls := 11, code := 2, opnd := word a })
  else (s.sliceRead n (a - sliceBase) 32, if c.badLines.contains (lineOf a) then some { cls := 10, code := 3, opnd := word a } else none)

/-- A block of private space as the engine writes it, at once (R217). -/
def privWrite (s : State) (n a v : Nat) : State :=
  let c := s.cell n
  if inSram a 32 then s.setCell n { c with sram := c.sram.writeN a 32 v } else s.sliceWrite n (a - sliceBase) 32 v

/-- A block is through its private side: the line of a slice is whole, and the port is free. -/
def privDone (s : State) (n : Nat) (k : Fin 2) (a : Nat) (write : Bool) : State :=
  if inSram a 32 then s
  else
    let s := s.lineDone n (.copy k) (lineOf a)
    let c := s.cell n
    if write then s.setCell n { c with badLines := c.badLines.filter (fun l => decide (l ≠ lineOf a)) } else s

/-- The fault of a host-window block (R368). -/
def windowFault (cls : Nat) (a : DWord) : FaultInfo := waferFault cls (windowCode cls) a

/-- A block is issued: it is translated here, as the budgets let the walker read, or is for another module. A PUT then reads its
private side, a GET sets out. -/
def blockOpen (s : State) (n : Nat) (k : Fin 2) (x : Copy) (b : Nat) : Host.Outcome State Fault Refusal :=
  let a := x.waferAt b
  let c := s.cell n
  let root := (s.stage c.stage).root
  let x := { x with left := x.left.erase b }
  let at' (l : BlockAt) (path : List Nat) : Copy :=
    { x with work := x.work ++ [⟨b, l, if x.put then .read else .out, path, 0, 0, 0, Hop.at n s.strip, none, true⟩] }
  if modOf x.wa ≠ s.host.modNum then .next (s.setCopy n k (at' .away []))
  else if !walkMay s (walkReads s (s.fieldOf n) c.stage none root (offOf a)) (portShare s c.stage).1 (portShare s c.stage).2 then .next s
  else
    let pg := pageOf s (if x.put then .putBlock 0 else .getBlock) (s.fieldOf n) c.stage none root (offOf a)
    let path := pg.2.pathOf (s.fieldOf n) c.stage none (offOf a)
    match pg.1 with
    | .nowhere => .fault .noSuchFrame
    | .fault cls code => .next (pg.2.setCopy n k (x.fail b (waferFault cls code a)))
    | .window w byte => .next (pg.2.setCopy n k (at' (.window w byte) path))
    | .home key => .next (pg.2.setCopy n k (at' (.home key) path))

/-- The private side of a block is read (PUT): it sets out. -/
def putRead (s : State) (n : Nat) (k : Fin 2) (x : Copy) (y : Block) : State :=
  let a := x.privAt y.blk
  if !privOpen (s.cell n) k a false then privAsk s n k a false
  else
    match privRead s n a with
    | (_, some f) => (privDone s n k a false).setCopy n k (x.fail y.blk f)
    | (v, none) =>
      let s1 := privDone s n k a false
      let s1 := if inSram a 32 then s1.setCell n ((s1.cell n).mend a 32) else s1
      s1.setCopy n k (x.setBlock { y with data := BitVec.ofNat 256 v, got := allWords, phase := .out, hop := Hop.at n s.strip })

/-- The answer of a block sets out, with a check of its own, from where its wafer side is. -/
def Block.answer (y : Block) (s : State) (res : Option FaultInfo) : Block :=
  { y with phase := .back, hop := Hop.at y.hop.router s.strip, res := res, good := true }

/-- A word of a block is applied in wafer space (PUT). -/
def putApply (s : State) (n : Nat) (k : Fin 2) (x : Copy) (y : Block) (w : Fin 8) : State :=
  let z := y.apply w
  let last := decide (z.done = allWords)
  let z := if last then z.answer s none else z
  match y.loc with
  | .home key =>
    let s1 := s.homeWrite (key + 4 * w.val) 4 (y.word w)
    (if last then s1.mendLine key else s1).setCopy n k (x.setBlock z)
  | .window v byte =>
    (match windowWrite s v (byte + 4 * w.val) (y.word w) with
     | (some cls, s1) => s1.setCopy n k (x.setBlock (y.answer s (some (windowFault cls (x.waferAt y.blk)))))
     | (none, s1) => s1.setCopy n k (x.setBlock z))
  | .away => s

/-- A word of a block is read in wafer space (GET). -/
def getRead (s : State) (n : Nat) (k : Fin 2) (x : Copy) (y : Block) (w : Fin 8) : State :=
  match y.loc with
  | .home key =>
    if s.badFirn.contains (key / 32) then s.setCopy n k (x.setBlock (y.answer s (some (waferFault 10 3 (x.waferAt y.blk)))))
    else
      let z := y.take w (s.firn.readN (key + 4 * w.val) 4)
      s.setCopy n k (x.setBlock (if z.got = allWords then z.answer s none else z))
  | _ => s

/-- A block of a copy is done. -/
def Copy.dropBlock (x : Copy) (y : Block) : Copy := { x with work := x.work.filter (fun v => decide (v.blk ≠ y.blk)) }

/-- The private side of a block is written (GET). -/
def getApply (s : State) (n : Nat) (k : Fin 2) (x : Copy) (y : Block) : State :=
  let a := x.privAt y.blk
  if !privOpen (s.cell n) k a true then privAsk s n k a true
  else ((privDone (privWrite s n a y.data.toNat) n k a true).setCopy n k (x.dropBlock y)).active n

/-- A block that has come to the edge leaves for its module, or fails there. -/
def blockAway (s : State) (n : Nat) (k : Fin 2) (x : Copy) (y : Block) : State :=
  let a := x.waferAt y.blk
  let t := s.stage (s.cell n).stage
  match s.toward (modOf a) with
  | none => s.setCopy n k (x.setBlock (y.answer s (some (waferFault 8 1 a))))
  | some port =>
    let r : Req :=
      { kind := if x.put then .putBlock y.data else .getBlock, addr := a, cell := n, ctx := x.ctx
        slot := x.slot, stage := (s.cell n).stage, ordered := false, loc := .issued, lo := false, hi := false
        origin := none, qp := t.qp, qs := t.qs, wq := t.wq, good := y.good }
    let m := s.sendRequest (modOf a) port r
    m.2.setCopy n k { x.dropBlock y with flight := x.flight ++ [(y.blk, m.1)] }

/-- A block leaves the mesh, in its turn: where its wafer side is, or, as an answer, at its cell. A request whose check fails is not
applied but answered so, and a response whose check fails counts as a fault (R269, R351). -/
def blockLeaves (s : State) (n : Nat) (k : Fin 2) (x : Copy) (y : Block) : State :=
  match s.leaving (.block n k (x.work.findIdx fun v => decide (v.blk = y.blk))) with
  | none => s
  | some f =>
    let s := s.turned f none
    let a := x.waferAt y.blk
    if y.phase = .back then
      match if y.good then y.res else some (waferFault 10 1 a) with
      | some e => s.setCopy n k (x.fail y.blk e)
      | none => if x.put then (s.setCopy n k (x.dropBlock y)).active n else s.setCopy n k (x.setBlock { y with phase := .write })
    else
      let z := if y.good then { y with phase := .there } else y.answer s (some (waferFault 10 3 a))
      match y.loc with
      | .home key => (s.serve (key / 2 ^ 27) 1 (portShare s (s.cell n).stage).1).setCopy n k (x.setBlock z)
      | .window _ _ => s.setCopy n k (x.setBlock z)
      | .away => blockAway s n k x y

/-- The answer for a block in flight comes onto the mesh where its module's traffic enters. -/
def blockAnswer (s : State) (n : Nat) (k : Fin 2) (x : Copy) (b id : Nat) : State :=
  let isIt (m : EdgeMsg) : Bool :=
    match m with
    | .answer _ i _ => decide (i = id)
    | _ => false
  match s.edge.inbox.findIdx? isIt with
  | none => s
  | some i =>
    let hop := Hop.at (edgeRouter (modOf x.wa)) s.strip
    let put (d : BitVec 256) (res : Option FaultInfo) : State :=
      (s.dropInbox i).setCopy n k { x with
        flight := x.flight.filter (fun f => decide (f.2 ≠ id)), work := x.work ++ [⟨b, .away, .back, [], d, allWords, 0, hop, res, true⟩] }
    match s.edge.inbox[i]? with
    | some (.answer _ _ (.fault cls code)) => put 0 (some (waferFault cls code (x.waferAt b)))
    | some (.answer _ _ (.block d)) => put d none
    | _ => put 0 none

/-- The next step of a block that is under way; `w` is the word that it takes in wafer space. -/
def blockStep (s : State) (n : Nat) (k : Fin 2) (x : Copy) (y : Block) (w : Fin 8) : State :=
  match y.phase with
  | .read => putRead s n k x y
  | .out | .back => blockLeaves s n k x y
  | .there =>
    if x.put then (if y.done.getLsbD w then s else putApply s n k x y w)
    else if y.got.getLsbD w then s
    else getRead s n k x y w
  | .write => getApply s n k x y

/-- One step of a block `b` of an active copy: it is issued, at most 64 beyond the frontier; it goes on; or it is
answered from another module. A copy of a stage that stops issues no block (R269, R354). -/
def copyTurn (n : Nat) (k : Fin 2) (b : Nat) (w : Fin 8) (s : State) : Host.Outcome State Fault Refusal :=
  match (s.cell n).copyAct[k] with
  | none => .next s
  | some x =>
    match x.flight.find? (fun f => decide (f.1 = b)), x.work.find? (fun y => decide (y.blk = b)) with
    | some f, _ => .next (blockAnswer s n k x b f.2)
    | none, some y => .next (blockStep s n k x y w)
    | none, none =>
      if !x.left.contains b || x.cancelled || x.failed.isSome || decide (x.frontier + 64 ≤ b)
          || (s.stage (s.cell n).stage).stopping then .next s
      else blockOpen s n k x b

/-- A step of a copy: block `i / 8`, and in wafer space its word `i % 8`, for there its words go one by one, in any order, while its
private side moves at once (R217, R239; log 41). -/
def execCopyBlock (n : Nat) (k : Fin 2) (i : Nat) (s : State) : Host.Outcome State Fault Refusal := copyTurn n k (i / 8) (Fin.ofNat 8 i) s

/-- Decrement the successors of a completed copy; those that fire join in ascending number (R62). -/
def CellState.successors (c : CellState) (i : Fin 16) : CellState :=
  let l := (c.cts[i]).s0.toList ++ (c.cts[i]).s1.toList
  let c := l.foldl CellState.predDone c
  (List.finRange 16).foldl (fun c j => if l.contains j then c.tryFire j else c) c

/-- A copy completes once no block is left or under way, or once its fault or cancellation has settled (R269, R270).
A fault met before a cancellation stands (log 19). -/
def execCopyComplete (n : Nat) (k : Fin 2) (s : State) : Host.Outcome State Fault Refusal :=
  let c := s.cell n
  match c.copyAct[k] with
  | none => .next s
  | some x =>
    if x.flight ≠ [] ∨ x.work ≠ [] ∨ (x.left ≠ [] ∧ x.cancelled = false ∧ x.failed = none) then .next s
    else
      let c := c.setCopy k none
      let c := match x.tmpl with
        | some i => c.setTemplate i { c.cts[i] with active := false }
        | none => c
      match x.failed with
      | some f =>
        let s := s.setCell n (c.notifyCopy x (if f.cls = 8 then 3 else 1))
        .next (s.asyncRecord n x.ctx x.slot { f with unit := x.tmpl.elim 16 Fin.val })
      | none =>
        if x.cancelled then .next (s.setCell n (c.notifyCopy x 2))
        else
          let c := match x.tmpl with
            | some i => c.successors i
            | none => c
          .next (s.setCell n (c.notifyCopy x 0))

end Sys2Proof.Machine
end

