-- ==== Sys2Proof/Machine/Names.lean ====
section
/-! DEFINITION. Names.lean: what an instruction names of its cell's scene configuration: its output queue (R48), its
barrier group (R293) and its scan group (R209). -/

namespace Sys2Proof

/-- The output queue of a destination. -/
def Dst.oqOf (d : Dst) : Option (Fin 8) :=
  match d with
  | .oq q => some q
  | .reg _ => none

/-- The output queue that an instruction names. -/
def Instr.oqOf (i : Instr) : Option (Fin 8) :=
  match i with
  | .add _ d _ _ _ => d.oqOf
  | .sub _ d _ _ _ => d.oqOf
  | .and _ d _ _ _ => d.oqOf
  | .or _ d _ _ _ => d.oqOf
  | .xor _ d _ _ _ => d.oqOf
  | .sll _ d _ _ _ => d.oqOf
  | .srl _ d _ _ _ => d.oqOf
  | .sra _ d _ _ _ => d.oqOf
  | .mul _ d _ _ _ => d.oqOf
  | .mulh _ d _ _ _ => d.oqOf
  | .mulhu _ d _ _ _ => d.oqOf
  | .min _ d _ _ _ => d.oqOf
  | .max _ d _ _ _ => d.oqOf
  | .minu _ d _ _ _ => d.oqOf
  | .maxu _ d _ _ _ => d.oqOf
  | .seq _ d _ _ _ => d.oqOf
  | .sne _ d _ _ _ => d.oqOf
  | .slt _ d _ _ _ => d.oqOf
  | .sltu _ d _ _ _ => d.oqOf
  | .sel _ d _ _ _ => d.oqOf
  | .div _ d _ _ _ => d.oqOf
  | .divu _ d _ _ _ => d.oqOf
  | .rem _ d _ _ _ => d.oqOf
  | .remu _ d _ _ _ => d.oqOf
  | .addi _ d _ _ => d.oqOf
  | .andi _ d _ _ => d.oqOf
  | .ori _ d _ _ => d.oqOf
  | .xori _ d _ _ => d.oqOf
  | .slli _ d _ _ => d.oqOf
  | .srli _ d _ _ => d.oqOf
  | .srai _ d _ _ => d.oqOf
  | .slti _ d _ _ => d.oqOf
  | .sltiu _ d _ _ => d.oqOf
  | .seqi _ d _ _ => d.oqOf
  | .li _ d _ => d.oqOf
  | .fadd _ d _ _ _ => d.oqOf
  | .fsub _ d _ _ _ => d.oqOf
  | .fmul _ d _ _ _ => d.oqOf
  | .fmin _ d _ _ _ => d.oqOf
  | .fmax _ d _ _ _ => d.oqOf
  | .feq _ d _ _ _ => d.oqOf
  | .flt _ d _ _ _ => d.oqOf
  | .fle _ d _ _ _ => d.oqOf
  | .mov _ d _ _ => d.oqOf
  | .not _ d _ _ => d.oqOf
  | .neg _ d _ _ => d.oqOf
  | .abs _ d _ _ => d.oqOf
  | .clz _ d _ _ => d.oqOf
  | .ctz _ d _ _ => d.oqOf
  | .popc _ d _ _ => d.oqOf
  | .brev _ d _ _ => d.oqOf
  | .sextb _ d _ _ => d.oqOf
  | .sexth _ d _ _ => d.oqOf
  | .zextb _ d _ _ => d.oqOf
  | .zexth _ d _ _ => d.oqOf
  | .fabs _ d _ _ => d.oqOf
  | .fneg _ d _ _ => d.oqOf
  | .fclass _ d _ _ => d.oqOf
  | .cvtFi _ d _ _ => d.oqOf
  | .cvtIf _ d _ _ => d.oqOf
  | .cvtFn _ d _ _ => d.oqOf
  | .cvtNf _ d _ _ => d.oqOf
  | .frnd _ d _ _ => d.oqOf
  | .cvtBf _ d _ _ => d.oqOf
  | .cvtFb _ d _ _ => d.oqOf
  | .cvtHf _ d _ _ => d.oqOf
  | .cvtFh _ d _ _ => d.oqOf
  | .cvtE4f _ d _ _ => d.oqOf
  | .cvtFe4 _ d _ _ => d.oqOf
  | .cvtE5f _ d _ _ => d.oqOf
  | .cvtFe5 _ d _ _ => d.oqOf
  | .tag _ d _ _ => d.oqOf
  | .qcnt _ d _ _ => d.oqOf
  | .xbit _ d _ _ => d.oqOf
  | .send _ o _ _ _ => some o
  | .sendi _ o _ _ => some o
  | .join _ d _ _ _ => d.oqOf
  | .ldw _ d _ _ => d.oqOf
  | .ldh _ d _ _ => d.oqOf
  | .ldhu _ d _ _ => d.oqOf
  | .ldb _ d _ _ => d.oqOf
  | .ldbu _ d _ _ => d.oqOf
  | .pmovx _ d => d.oqOf
  | .sgStatCtl _ _ d _ => d.oqOf
  | .sgStatIdx _ _ d _ _ => d.oqOf
  | .sgStatOcc _ _ d _ => d.oqOf
  | .gStatCnt _ _ d _ => d.oqOf
  | .gStatHead _ _ d _ => d.oqOf
  | .gStatTail _ _ d _ => d.oqOf
  | .tsend _ _ o _ => some o
  | .cpStatDep _ _ d _ => d.oqOf
  | .cpStatEng _ d _ => d.oqOf
  | .barStat _ _ d _ => d.oqOf
  | .pwrRd _ d _ _ => d.oqOf
  | .cfgRd _ d _ _ _ => d.oqOf
  | .fcrRd _ d _ => d.oqOf
  | .fcrWr _ d _ _ _ => d.oqOf
  | .timeRd _ d _ => d.oqOf
  | .timeRdHi _ d _ => d.oqOf
  | .cycRd _ d _ => d.oqOf
  | .cycRdHi _ d _ => d.oqOf
  | .cycRdFired _ d _ => d.oqOf
  | .cycRdIdle _ d _ => d.oqOf
  | .idRd _ d _ _ => d.oqOf
  | .liw _ d _ => d.oqOf
  | .addip _ d _ _ _ => d.oqOf
  | .addipHi _ d _ _ _ => d.oqOf
  | .lea _ d _ _ _ _ _ => d.oqOf
  | .cmpiEq _ d _ _ _ => d.oqOf
  | .cmpiNe _ d _ _ _ => d.oqOf
  | .cmpiLt _ d _ _ _ => d.oqOf
  | .cmpiLtu _ d _ _ _ => d.oqOf
  | .extr _ d _ _ _ _ => d.oqOf
  | .extrS _ d _ _ _ _ => d.oqOf
  | .wGet _ d _ _ _ => d.oqOf
  | .ldwp _ d _ _ _ => d.oqOf
  | .ldhp _ d _ _ _ => d.oqOf
  | .ldhup _ d _ _ _ => d.oqOf
  | .ldbp _ d _ _ _ => d.oqOf
  | .ldbup _ d _ _ _ => d.oqOf
  | _ => none

/-- The barrier group of BAR.ARR and BAR.STAT. -/
def Instr.barOf (i : Instr) : Option (Fin 16) :=
  match i with
  | .barArr _ g _ => some g
  | .barArrRel _ g _ => some g
  | .barStat _ g _ _ => some g
  | _ => none

/-- The scan group that an instruction of the scan engine names (R209). -/
def Instr.scanOf (i : Instr) : Option (Fin 8) :=
  match i with
  | .scCfg _ g _ _ => some g
  | .scAgg _ _ g _ _ => some g
  | .scAggRel _ _ g _ _ => some g
  | .scPfx _ g _ _ => some g
  | .scReset _ g _ => some g
  | _ => none

/-- The output queue of an instruction of layout LX. -/
def Lx.oqOf (x : Lx) : Option (Fin 8) :=
  match x with
  | .addip _ d _ _ _ => d.oqOf
  | .addipHi _ d _ _ _ => d.oqOf
  | .lea _ d _ _ _ _ _ => d.oqOf
  | .cmpiEq _ d _ _ _ => d.oqOf
  | .cmpiNe _ d _ _ _ => d.oqOf
  | .cmpiLt _ d _ _ _ => d.oqOf
  | .cmpiLtu _ d _ _ _ => d.oqOf
  | .extr _ d _ _ _ _ => d.oqOf
  | .extrS _ d _ _ _ _ => d.oqOf
  | .wGet _ d _ _ _ => d.oqOf
  | .ldwp _ d _ _ _ => d.oqOf
  | .ldhp _ d _ _ _ => d.oqOf
  | .ldhup _ d _ _ _ => d.oqOf
  | .ldbp _ d _ _ _ => d.oqOf
  | .ldbup _ d _ _ _ => d.oqOf
  | _ => none

/-- Whether an instruction is a TSEND, whose route must lead to a ring (R264). -/
def Instr.isTsend (i : Instr) : Bool :=
  match i with
  | .tsend _ _ _ _ => true
  | _ => false

/-- The same of what the decoder answers. -/
def Decoded.oqOf (d : Decoded) : Option (Fin 8) :=
  match d with
  | .inl i => i.oqOf
  | .inr x => x.oqOf

def Decoded.barOf (d : Decoded) : Option (Fin 16) :=
  match d with
  | .inl i => i.barOf
  | .inr _ => none

def Decoded.scanOf (d : Decoded) : Option (Fin 8) :=
  match d with
  | .inl i => i.scanOf
  | .inr _ => none

def Decoded.isTsend (d : Decoded) : Bool :=
  match d with
  | .inl i => i.isTsend
  | .inr _ => false

end Sys2Proof
end

