-- ==== Sys2Proof/Machine/Power.lean ====
section
/-! DEFINITION. Power.lean: barriers, HALT, power phases, clock masks and the reading of time (spec 10 R293, R294, R298 to
R300, R305 to R313). -/

namespace Sys2Proof.Machine

/-! ## Barriers (R298 to R300) -/

def CellState.setBar (c : CellState) (g : Fin 16) (b : Bar) : CellState := { c with bars := vset c.bars g b }

/-- BAR.ARR waits while its generation has not completed; with REL also for the station (R299). -/
def barNeeds (g : Fin 16) (rel : Bool) (s : State) : Needs :=
  ⟨[], none, !(s.cur.bars[g]).arr && (!rel || s.here.station.isNone), []⟩

/-- The effect of an arrival: ARR set, DONE cleared, and the arrival sent or put in the release station. -/
def arriveEff (g : Fin 16) (rel : Bool) (p : PAct) (s : State) : Effect :=
  let c := s.cur
  let c := c.setBar g { c.bars[g] with arr := true, done := false, relw := rel }
  let s1 := s.setCur (c.setCtx s.focus.ctx (s.here.act p false))
  .done (if rel then s1.release s.focus.cell s.focus.ctx (.arrive g) else s1.arrive s.focus.cell g)

def execBarArr (c : Cue) (g : Fin 16) (p : PAct) (s : State) : Host.Outcome State Fault Refusal :=
  fire s c (barNeeds g false s) (arriveEff g false p)
def execBarArrRel (c : Cue) (g : Fin 16) (p : PAct) (s : State) : Host.Outcome State Fault Refusal :=
  fire s c (barNeeds g true s) (arriveEff g true p)

def Bar.stat (b : Bar) : Word := word (b.arr.toNat + b.done.toNat * 2 + b.relw.toNat * 4 + b.gen.toNat * 2 ^ 16)

def execBarStat (c : Cue) (g : Fin 16) (d : Dst) (p : PAct) (s : State) := stat0 c d p (fun s => (s.cur.bars[g]).stat) s

/-- The cells of a stage by their module-logical numbers. -/
def State.cellsOf (s : State) (st : Nat) : AMap CellState := s.cells.filter (fun e => decide (e.2.stage = st))

/-- A generation completes once one arrival from each member has been received: its completion goes to every member on CTRL. -/
def execBarrierComplete (st : Nat) (g : Fin 16) (s : State) : Host.Outcome State Fault Refusal :=
  let t := s.stage st
  let mem := (s.cellsOf st).filter (fun e => (e.2.bars[g]).member)
  if t.status = .placed ∧ mem ≠ [] ∧ mem.all (fun e => t.arr.contains (g, e.2.num t)) = true then
    .next (mem.foldl (fun s e => s.putItem st directorAt e.1 (.complete g))
      (s.setStage st { t with arr := t.arr.filter (fun a => decide (a.1 ≠ g)) }))
  else .next s

/-! ## HALT (R294) -/

/-- A halted context; what it waits for still completes. -/
def Context.halt (t : Context) : Context := { t with status := .halted, release := none }

def execHalt (c : Cue) (mask : BitVec 4) (p : PAct) (s : State) : Host.Outcome State Fault Refusal :=
  fire s c (needsR []) (fun s =>
    let named (k : Fin 4) : Bool := if mask = 0 then decide (k = s.focus.ctx) else mask.getLsbD k
    onCell p (fun c => (List.finRange 4).foldl (fun c k => if named k then c.setCtx k (c.ctx k).halt else c) c) s)

/-! ## Power phases (R305 to R309) -/

/-- The stagger of a cell's strip. -/
def State.stagger (s : State) (n : Nat) : Nat := 16 * ((3 * (n / 320 % 64) + s.physCol n % 48 / 16) % 16)

/-- Strip cycles of a window. -/
def windowLen (k : Nat) : Nat := 64 * 2 ^ k

/-- A window as the scheduler counts it: cell, first cycle, the cycle behind its last, intensity. -/
abbrev Window := Nat × Nat × Nat × Nat

/-- The windows, pending or open, of the cells of a field. -/
def State.windows (s : State) (field : Nat) : List Window :=
  (s.cells.filter (fun e => decide (s.fieldOf e.1 = field))).flatMap fun e =>
    e.2.ctxs.toList.filterMap fun t => t.phase.map fun ph => (e.1, ph.grant, ph.stop, ph.int)

/-- The load of a field at a cycle: the sum over its cells of their intensity, at most 15 each (R306). -/
def loadAt (ws : List Window) (t : Nat) : Nat :=
  let isOpen := ws.filter (fun w => decide (w.2.1 ≤ t) && decide (t < w.2.2.1))
  ((isOpen.map (·.1)).dedup.map fun n =>
    min 15 (((isOpen.filter (fun w => decide (w.1 = n))).map fun w => w.2.2.2).sum)).sum

/-- Whether new windows fit the limits of their fields at every cycle; the load rises only where a window begins. -/
def State.fits (s : State) (new : List Window) : Bool :=
  new.all fun w =>
    let f := s.fieldOf w.1
    let ws := s.windows f ++ new.filter (fun v => decide (s.fieldOf v.1 = f))
    let at' := w.2.1 :: (ws.map fun v => v.2.1).filter (fun t => decide (w.2.1 ≤ t) && decide (t < w.2.2.1))
    at'.all fun t => decide (loadAt ws t ≤ s.fl[Fin.ofNat 64 f])

/-- The windows of a declaration at an admission delay. -/
def declared (s : State) (mem : List Nat) (r int k aadm : Nat) : List Window :=
  mem.map fun n => let g := r + s.stagger n + aadm; (n, g, g + windowLen k, int)

/-- The first admission delay at which a declaration fits (R306, R308). -/
def grantAt (s : State) (mem : List Nat) (r int k : Nat) : Option Nat :=
  ((List.range 257).map (· * 256)).find? fun a => s.fits (declared s mem r int k a)

/-- The members of a barrier group in the firing cell's stage. -/
def gangCells (s : State) (g : Fin 16) : List Nat :=
  (((s.cellsOf s.cur.stage).filter (fun e => (e.2.bars[g]).member)).map (·.1)).dedup

/-- Whether a context's declaration is pending or open: its window is not over. -/
def State.declares (s : State) (t : Context) : Bool := t.phase.any fun ph => decide (s.strip < ph.stop)

/-- The reason for which a declaration is refused, or its admission delay (R309; log 24 for the order). -/
def declare (s : State) (gang : Option (Fin 16)) (mem : List Nat) (r int k : Nat) : Except Nat Nat :=
  let x := s.focus.ctx
  if s.declares s.here then .error 1
  else
    let refused : Option Nat :=
      match gang with
      | none => none
      | some g =>
        if !(s.cur.bars[g]).member then some 3
        else if mem.any (fun n => s.declares ((s.cell n).ctx x))
            || (s.cellsOf s.cur.stage).any (fun e => e.2.ctxs.any fun t => s.declares t && t.phase.any fun ph => decide (ph.gang = gang))
        then some 2 else none
    match refused with
    | some e => .error e
    | none =>
      match grantAt s mem r int k with
      | some a => .ok a
      | none => .error 4

/-- The end of a declaration: no window, no granted flag (R307). -/
def Context.endPhase (t : Context) : Context := if t.phase.isSome then { t with phase := none, granted := false } else t

/-- A declaration of windows, or one word that says why it is refused. -/
def phaseEff (gang : Option (Fin 16)) (onset : BitVec 12) (int : Fin 16) (k : Fin 32) (p : PAct) (s : State) : Effect :=
  let mem := match gang with
    | none => [s.focus.cell]
    | some g => gangCells s g
  let r := max (s.strip + 16 * onset.toNat) (s.strip + 256)
  let s1 := s.setCur (s.cur.setCtx s.focus.ctx (s.here.act p false))
  match declare s gang mem r int k with
  | .error e => .done (s1.setCur (s1.cur.post7 [⟨word e, boxTag s.focus.ctx 0x28, false⟩]))
  | .ok a =>
    .done ((declared s mem r int k a).foldl (fun s1 w =>
      let c := s1.cell w.1
      s1.setCell w.1 (c.setCtx s.focus.ctx { (c.ctx s.focus.ctx).endPhase with
        phase := some ⟨w.2.1, w.2.2.1, int.val, k.val, gang, int.val * 4 * 2 ^ k.val, false, decide (w.1 = s.focus.cell)⟩ })) s1)

def execPhase (c : Cue) (onset : BitVec 12) (int : Fin 16) (k : Fin 32) (p : PAct) (s : State) :
    Host.Outcome State Fault Refusal :=
  fire s c (needsR []) (phaseEff none onset int k p)
def execPhaseGang (c : Cue) (a : Src) (onset : BitVec 12) (int : Fin 16) (k : Fin 32) (p : PAct) (s : State) :
    Host.Outcome State Fault Refusal :=
  fire s c (needsR [a]) (fun s => phaseEff (some (Fin.ofNat 16 (s.src a).toNat)) onset int k p s)

def execPhaseEnd (c : Cue) (p : PAct) (s : State) : Host.Outcome State Fault Refusal :=
  fire s c (needsR []) (onCtx p Context.endPhase)

/-- PHASE.END of a gang acts in a member cell: it ends what the gang's declaration still has pending or open at any member, be the
firing cell's own window over or not (R308). -/
def endGang (s : State) (g : Fin 16) : State :=
  let x := s.focus.ctx
  if (s.cur.bars[g]).member then
    (gangCells s g).foldl (fun s n =>
      let c := s.cell n
      if (c.ctx x).phase.any (fun ph => decide (ph.gang = some g)) then s.setCell n (c.setCtx x (c.ctx x).endPhase) else s) s
  else s

def execPhaseEndGang (c : Cue) (a : Src) (p : PAct) (s : State) : Host.Outcome State Fault Refusal :=
  fire s c (needsR [a]) (fun s => onCtx p id (endGang s (Fin.ofNat 16 (s.src a).toNat)))

/-- Cycle G has passed: the window is open and the phase-granted flag set. -/
def execPhaseGrant (n : Nat) (k : Fin 4) (s : State) : Host.Outcome State Fault Refusal :=
  let c := s.cell n
  let t := c.ctx k
  match t.phase with
  | some ph =>
    if ph.grant < s.strip ∧ ph.opened = false then
      .next (s.setCell n (c.setCtx k { t with phase := some { ph with opened := true }, granted := true }))
    else .next s
  | none => .next s

/-- The window is over. -/
def execPhaseWindowEnd (n : Nat) (k : Fin 4) (s : State) : Host.Outcome State Fault Refusal :=
  let c := s.cell n
  let t := c.ctx k
  match t.phase with
  | some ph => if ph.stop ≤ s.strip then .next (s.setCell n (c.setCtx k t.endPhase)) else .next s
  | none => .next s

/-! ## The clock mask (R311) -/

/-- Bit `i` of the mask pattern with `d` one bits. -/
def maskBit (d i : Nat) : Bool := decide ((i % 32 + 1) * d / 32 - i % 32 * d / 32 = 1)

/-- Whether the mask stops the cells of a stage in this strip cycle. -/
def State.masked (s : State) (t : Stage) : Bool :=
  match t.mask with
  | some m => !maskBit s.duty (s.strip - m)
  | none => false

/-- A stage whose undeclared count exceeds its limit gets its mask, to curtain down; its cells' throttle flags are
set (R304). -/
def execClockMaskApply (st : Nat) (s : State) : Host.Outcome State Fault Refusal :=
  let t := s.stage st
  if t.status = .placed ∧ t.upAt.isSome = true ∧ t.ubl ≠ 65535 ∧ t.ubl < t.stat.ubc ∧ t.mask = none then
    let s := s.setStage st { t with mask := some s.strip, stat := { t.stat with masked := true } }
    .next ((s.cellsOf st).foldl (fun s e => s.throttle (s.posKey e.1)) s)
  else .next s

/-! ## PWR.RD, TIME.RD and CYC.RD (R312, R313) -/

/-- Whether a window covers a strip cycle or has covered it: it is no longer pending (R305). -/
def Phase.begun (ph : Phase) (strip : Nat) : Bool := decide (ph.grant ≤ strip)

/-- Item 0 of PWR.RD. -/
def phaseItem (s : State) : Word :=
  match s.here.phase with
  | none => 0
  | some ph =>
    let left := if ph.begun s.strip then ph.stop - s.strip else windowLen ph.k
    word ((if ph.begun s.strip then 2 else 1) + ph.gang.isSome.toNat * 2 ^ 2 + ph.int * 2 ^ 3 + ph.k * 2 ^ 7 + left / 16 * 2 ^ 12)

def pwrItem (item : Fin 8) (s : State) : Word :=
  match item.val with
  | 0 => phaseItem s
  | 1 => s.here.undeclared
  | 2 =>
    let m := (s.stage s.cur.stage).mask.isSome && !s.clearAt s.focus.cell
    word (m.toNat + (if m then s.duty else 0) * 2 + (s.stretchedAt (s.posKey s.focus.cell) && !s.clearAt s.focus.cell).toNat * 2 ^ 6)
  | _ =>
    match s.here.phase with
    | some ph => if ph.begun s.strip then word ph.budget else 0
    | none => 0

def execPwrRd (c : Cue) (d : Dst) (item : Fin 8) (p : PAct) (s : State) := stat0 c d p (pwrItem item) s

/-- A count into a destination with its high half latched. -/
def latchRead (c : Cue) (d : Dst) (p : PAct) (v : State → Nat) (f : Context → Word → Context) (s : State) :
    Host.Outcome State Fault Refusal :=
  fire s c (needs0 d) (fun s =>
    result d p (word (v s)) false 0 (s.setCur (s.cur.setCtx s.focus.ctx (f s.here (word (v s / 2 ^ 32))))))

def execTimeRd (c : Cue) (d : Dst) (p : PAct) (s : State) := latchRead c d p State.tick (fun t h => { t with timeLatch := h }) s
def execTimeRdHi (c : Cue) (d : Dst) (p : PAct) (s : State) := stat0 c d p (fun s => s.here.timeLatch) s
def execCycRd (c : Cue) (d : Dst) (p : PAct) (s : State) := latchRead c d p (fun s => s.cur.cyc) (fun t h => { t with cycLatch := h }) s
def execCycRdHi (c : Cue) (d : Dst) (p : PAct) (s : State) := stat0 c d p (fun s => s.here.cycLatch) s
def execCycRdFired (c : Cue) (d : Dst) (p : PAct) (s : State) := stat0 c d p (fun s => s.here.fired) s
def execCycRdIdle (c : Cue) (d : Dst) (p : PAct) (s : State) := stat0 c d p (fun s => s.cur.idle) s

end Sys2Proof.Machine
end

