-- ==== Sys2Proof/Machine/System.lean ====
section
/-! DEFINITION. System.lean: traps, breakpoints, configuration words, cue writes and identity (spec 02 R40, 11 R333 to
R339, 12 R347 to R349). -/

namespace Sys2Proof.Machine

/-! ## TRAP and BKPT (R347 to R349) -/

/-- A trap waits for its context's record place. -/
def trapNeeds (a : Src) (s : State) : Needs := ⟨[a], none, s.here.record.isNone && s.here.beside.isEmpty, []⟩

/-- A trap's record goes to its place; with `park` the context parks. -/
def trapEff (cls : Nat) (dest : RecDest) (park : Bool) (a : Src) (code : Fin 32) (p : PAct) (s : State) : Effect :=
  let r := mkRecord s s.cur s.focus.ctx s.focus.slot false { cls := cls, code := code.val, opnd := s.src a } dest
  onCtx p (fun t => let t := t.addRecord r s.tick; if park then t.park .parkTrap else t) s

def execTrap (c : Cue) (a : Src) (code : Fin 32) (p : PAct) (s : State) : Host.Outcome State Fault Refusal :=
  fire s c (trapNeeds a s) (trapEff 13 .trap false a code p)
def execTrapPark (c : Cue) (a : Src) (code : Fin 32) (p : PAct) (s : State) : Host.Outcome State Fault Refusal :=
  fire s c (trapNeeds a s) (trapEff 13 .trap true a code p)

/-- Whether the stage of the firing cell was launched with its debug enable. -/
def State.debug (s : State) : Bool := (s.stage s.cur.stage).debug

def bkptNeeds (a : Src) (s : State) : Needs := if s.debug then trapNeeds a s else needsR [a]

/-- BKPT: a parking trap for the host, or, with debug disabled, a NOP (R349). -/
def execBkpt (c : Cue) (a : Src) (code : Fin 32) (p : PAct) (s : State) : Host.Outcome State Fault Refusal :=
  fire s c (bkptNeeds a s) (fun s => if s.debug then trapEff 14 .host true a code p s else onCtx p id s)

/-! ## Configuration words (R334, R336) -/

/-- The number of words of a table from `base` with rows `stride` apart and `width` words, and the row and word of an
address in it. -/
def cfgAt (ca base stride rows width : Nat) : Option (Nat × Nat) :=
  if base ≤ ca ∧ ca < base + stride * rows ∧ (ca - base) % stride < width then
    some ((ca - base) / stride, (ca - base) % stride)
  else none

def uackWord (c : CellState) : Word :=
  word ((c.ctx 0).uack % 256 + (c.ctx 1).uack % 256 * 2 ^ 8 + (c.ctx 2).uack % 256 * 2 ^ 16 + (c.ctx 3).uack % 256 * 2 ^ 24)

def ringWord (r : Ring) (w : Nat) : Word := if w = 0 then r.w0 else if w = 1 then r.w1 else r.w2

def genWord (g : Gen) (k : Nat) : Word :=
  if k = 0 then g.base else if k = 1 then g.ctl
  else
    let l := g.lv[Fin.ofNat 4 ((k - 2) / 2)]
    if k % 2 = 0 then l.lo else l.hi

def templateWord (t : Template) (k : Nat) : Word :=
  if k = 0 then t.pa else if k = 1 then t.wa.setWidth 32 else if k = 2 then t.wa.extractLsb' 32 32
  else if k = 3 then t.ctl else t.dep

def routeWord (r : Option Route) (k : Nat) : Word :=
  match r with
  | some r => if k = 0 then r.w0 else r.w1
  | none => 0

def scanWord (p : ScanPort) : Word :=
  word (p.member.toNat + p.dir.toNat * 2 + p.epoch.toNat * 4 + p.pos * 2 ^ 3 + p.pmark.toNat * 2 ^ 21)

def validBits (c : CellState) (k : Nat) : Word :=
  word (((List.range 32).map fun i => if (c.slots[Fin.ofNat 128 (32 * k + i)]).isSome then 2 ^ i else 0).sum)

def memberBits (c : CellState) : Word :=
  word (((List.finRange 16).map fun g => if (c.bars[g]).member then 2 ^ g.val else 0).sum)

def trapWord (c : CellState) : Word :=
  match c.trap with
  | some (x, y) => word (x % 2 ^ 16 + y % 2 ^ 16 * 2 ^ 16)
  | none => 0xFFFFFFFF

/-- The configuration word at an address, none outside the map. -/
def cfgRead (c : CellState) (ca : Nat) : Option Word :=
  if ca = 0 then some (word c.suuord.toNat)
  else if ca = 1 then some (uackWord c)
  else if let some (g, w) := cfgAt ca 0x010 3 8 3 then some (ringWord c.rings[Fin.ofNat 8 g] w)
  else if let some (n, k) := cfgAt ca 0x040 16 4 10 then some (genWord c.gens[Fin.ofNat 4 n] k)
  else if let some (n, k) := cfgAt ca 0x080 8 16 5 then some (templateWord c.cts[Fin.ofNat 16 n] k)
  else if let some (q, k) := cfgAt ca 0x100 2 8 2 then some (routeWord c.routes[Fin.ofNat 8 q] k)
  else if ca = 0x110 then some (c.feeds.setWidth 32)
  else if ca = 0x111 then some (memberBits c)
  else if let some (g, _) := cfgAt ca 0x112 1 8 1 then some (scanWord c.scan[Fin.ofNat 8 g])
  else if ca = 0x11A then some (word c.sliceMiB)
  else if ca = 0x11B then some (trapWord c)
  else if let some (i, k) := cfgAt ca 0x180 2 63 2 then
    some ((c.cues[Fin.ofNat 63 i]).extractLsb' (32 * k) 32)
  else if let some (n, _) := cfgAt ca 0x200 1 128 1 then some (c.slotWord n)
  else if let some (k, _) := cfgAt ca 0x280 1 4 1 then some (validBits c k)
  else none

/-- The address of CFG.RD and CFG.WR. -/
def cfgAddr (s : State) (a : Src) (ca : BitVec 12) : Nat := ((s.src a).toNat + ca.toNat) % 2 ^ 12

def execCfgRd (c : Cue) (d : Dst) (a : Src) (ca : BitVec 12) (p : PAct) (s : State) : Host.Outcome State Fault Refusal :=
  fire s c (needs1 d a) (fun s =>
    let x := cfgAddr s a ca
    match cfgRead s.cur x with
    | some v => result d p v (srcX s.cur a) 0 s
    | none => .fault (operandFault 10 (word x)))

/-- A template with the RW fields of one of its words replaced (R61). -/
def Template.write (t : Template) (k : Nat) (v : Word) : Template :=
  let n := v.toNat
  match k with
  | 0 => { t with pa := v }
  | 1 => { t with wa := t.wa.extractLsb' 32 32 ++ v }
  | 2 => { t with wa := (v &&& 0xFFFFFF) ++ t.wa.extractLsb' 0 32 }
  | 3 => { t with len := bits n 0 24, put := n.testBit 24, ctx := Fin.ofNat 4 (bits n 25 2), notify := n.testBit 27 }
  | _ =>
    let a : Fin 16 := Fin.ofNat 16 (bits n 6 4)
    let b : Fin 16 := Fin.ofNat 16 (bits n 11 4)
    { t with
      pinit := bits n 0 5, s0 := if n.testBit 5 then some a else none, s1 := if n.testBit 10 then some b else none
      s0f := a, s1f := b }

/-- The cell after a configuration write; words and fields that are read-only stay. -/
def cfgWrite (c : CellState) (ca : Nat) (v : Word) : CellState :=
  if ca = 0 then { c with suuord := v.toNat.testBit 0 }
  else
    match cfgAt ca 0x080 8 16 5 with
    | some (n, k) => c.setTemplate (Fin.ofNat 16 n) ((c.cts[Fin.ofNat 16 n]).write k v)
    | none => c

/-- Whether an address names a register of a template that is armed, pending or active (R266). -/
def cfgBusy (c : CellState) (ca : Nat) : Bool :=
  match cfgAt ca 0x080 8 16 5 with
  | some (n, _) => (c.cts[Fin.ofNat 16 n]).busy
  | none => false

def execCfgWr (c : Cue) (v a : Src) (ca : BitVec 12) (p : PAct) (s : State) : Host.Outcome State Fault Refusal :=
  fire s c (needsR [v, a]) (fun s =>
    let x := cfgAddr s a ca
    if (cfgRead s.cur x).isNone then .fault (operandFault 10 (word x))
    else if cfgBusy s.cur x then .fault (operandFault 8 (word x))
    else onCell p (fun c => cfgWrite c x (s.src v)) s)

/-! ## Cue entries (R40, R337) -/

/-- The largest count that a source of the count test can reach. -/
def cntCap (c : CellState) (sel : Nat) : Nat := if sel < 12 then 8 else (c.rings[Fin.ofNat 8 (sel - 12)]).depth + 1

/-- Whether EVN is in the range of its event. -/
def evnOk (ev evn : Nat) : Bool :=
  match ev with
  | 1 => true
  | 3 => decide (evn < 8)
  | 6 => decide (evn < 4)
  | _ => decide (evn = 0)

/-- Whether R40 rejects an entry; an entry with EN = 0 is never checked. -/
def cueBad (c : CellState) (e : DWord) : Bool :=
  cueEn e &&
    (decide (cueF e 61 3 ≠ 0) || decide (2 ≤ cueF e 32 2) || decide (7 ≤ cueEv e) || !evnOk (cueEv e) (cueEvn e)
      || (decide (cueF e 50 1 = 1) && decide (cueF e 46 4 < 8)) || (decide (cueF e 51 1 = 1) && decide (cueF e 50 1 = 0))
      || decide (cntCap c (cueF e 36 4) < cueF e 40 6))

/-- Write a cue entry after its check; a rejected entry is a precise fault (R337). A written entry is whole again
(R352). -/
def cuePut (idx : Fin 64) (e : DWord) (p : PAct) (s : State) : Effect :=
  if cueBad s.cur e then .fault { cls := 1, code := 7, opnd := word idx.val }
  else
    let i : Fin 63 := Fin.ofNat 63 idx.val
    onCell p (fun c => { c with
      cues := vset c.cues i e, badCues := c.badCues.filter (fun b => decide (b ≠ i.val ∧ b ≠ i.val + 64)) }) s

def execCueWr (c : Cue) (hi lo : Src) (idx : Fin 64) (p : PAct) (s : State) : Host.Outcome State Fault Refusal :=
  fire s c (needsR [hi, lo]) (fun s => cuePut idx (s.src hi ++ s.src lo) p s)

/-- A cue entry with its EN bit replaced. -/
def withEn (e : DWord) (en : Bool) : DWord :=
  if en then e ||| 0x1000000000000000 else e &&& 0xEFFFFFFFFFFFFFFF

/-- CUE.EN leaves an entry that SECDED cannot correct as it is otherwise: only CUE.WR rewrites it (R352). -/
def execCueEn (c : Cue) (idx : Fin 64) (en : Bool) (p : PAct) (s : State) : Host.Outcome State Fault Refusal :=
  fire s c (needsR []) (fun s =>
    let i : Fin 63 := Fin.ofNat 63 idx.val
    let e := withEn s.cur.cues[i] en
    if cueBad s.cur e then .fault { cls := 1, code := 7, opnd := word idx.val }
    else onCell p (fun c => { c with cues := vset c.cues i e }) s)

/-! ## ID.RD (R339) -/

def idItem (item : Fin 8) (s : State) : Word :=
  let c := s.cur
  let t := s.stage c.stage
  match item.val with
  | 0 => word (c.cx % 2 ^ 16 + c.cy % 2 ^ 16 * 2 ^ 16)
  | 1 => word (t.w % 2 ^ 16 + t.h % 2 ^ 16 * 2 ^ 16)
  | 2 => word (c.stage % 2 ^ 12 + t.scene % 2 ^ 16 * 2 ^ 16)
  | 3 => word (s.host.modNum % 2 ^ 8)
  | 4 => word (t.job % 2 ^ 16)
  | 5 => word (c.num t)
  | _ => word s.focus.ctx.val

def execIdRd (c : Cue) (d : Dst) (item : Fin 8) (p : PAct) (s : State) := stat0 c d p (idItem item) s

end Sys2Proof.Machine
end

