-- ==== Sys2Proof/Machine/Scene.lean ====
section
/-! DEFINITION. Scene.lean: script images, the checks of slot words and scenes, the cells that a scene gives, and SLOT.LD
(spec 02 R36, R40, R48 to R52, R66, R67, 03 R88 to R91, R99 to R101, 11 R338). -/

namespace Sys2Proof.Machine

/-! ## Slot checks (R88 to R91) -/

/-- The code for which a decoded instruction does not fit its cell's scene: an output queue without a route, a tile
sender whose route is no ring's, a barrier or scan group without the cell (R90, R209, R293), in that order (log 10). -/
def misfit (c : CellState) (d : Decoded) : Option Nat :=
  let route : Option Nat :=
    match d.oqOf with
    | some q =>
      match c.routes[q] with
      | none => some 8
      | some r =>
        match r.target with
        | .ring _ _ _ => none
        | _ => if d.isTsend then some 8 else none
    | none => none
  let bar : Option Nat :=
    match d.barOf with
    | some g => if (c.bars[g]).member then none else some 4
    | none => none
  let scan : Option Nat :=
    match d.scanOf with
    | some g => if (c.scan[g]).member then none else some 4
    | none => none
  (route.or bar).or scan

/-- A slot by number, empty beyond the last. -/
def CellState.slot (c : CellState) (k : Nat) : Option Word := if h : k < 128 then c.slots[k] else none

/-- The code for which the word of a slot is refused as the slots stand (R88, R89). A long instruction is one: a fault in its second
word is its first slot's (log 83). Of several faults the order is log 10's: 0x06, then what decoding finds, then what does not fit the
scene. -/
def slotBadCode (c : CellState) (k : Nat) : Option Nat :=
  match c.slot k with
  | none => none
  | some w =>
    if isContinuation w.toNat then
      (match c.slot (k - 1) with
       | some v => if k ≠ 0 ∧ isLongFirst v.toNat = true then none else some 6
       | none => some 6)
    else
      match decodeWords w.toNat ((c.slot (k + 1)).map BitVec.toNat) with
      | .error e => some e.code
      | .ok d => misfit c d

/-- The first of `n` slots from `k` whose word is refused, with its code. -/
def firstBadSlot (c : CellState) (k n : Nat) : Option (Nat × Nat) :=
  match n with
  | 0 => none
  | m + 1 =>
    match slotBadCode c k with
    | some e => some (k, e)
    | none => firstBadSlot c (k + 1) m

/-! ## SLOT.LD (R338) -/

/-- Words of the valid mask of an image of `n` slots, and its bytes. -/
def maskWords (n : Nat) : Nat := (n + 31) / 32
def imageBytes (n : Nat) : Nat := (maskWords n + n) * 4

/-- 64-byte blocks that a span touches. -/
def blocksOf (t n : Nat) : Nat := (t + n - 1) / 64 - t / 64 + 1

/-- The slots after loading a block image from SRAM. -/
def loadBlock (c : CellState) (t first n : Nat) : Vector (Option Word) 128 :=
  Vector.ofFn fun i =>
    if first ≤ i.val ∧ i.val < first + n then
      let k := i.val - first
      if (c.sram.readN (t + k / 32 * 4) 4).testBit (k % 32) then some (word (c.sram.readN (t + (maskWords n + k) * 4) 4))
      else none
    else c.slots[i]

/-- The end of a SLOT.LD in the last cycle that it holds the arbiter, in which the image is read whole (log 21): the block is checked, and written or refused. A
word that SECDED cannot correct in the image is a precise ECC fault (log 21). -/
def slotLdDone (s : State) (first n t : Nat) (a : Src) (p : PAct) (cue : Cue) : State :=
  let c := { (s.cur.mend t (imageBytes n)) with hold := .none }
  let s := s.setCur c
  let nd : Needs := needsR [a]
  match c.badWord t (imageBytes n) with
  | some w => takeFault s cue nd { cls := 11, code := 1, opnd := word (w * 8) }
  | none =>
    let new := { c with
      slots := loadBlock c t first n, badSlots := c.badSlots.filter (fun b => !(decide (first ≤ b) && decide (b < first + n))) }
    match firstBadSlot new (first - 1) (n + (if first = 0 then 1 else 2)) with
    | some (k, e) =>
      let f : FaultInfo := { cls := 1, code := e, opnd := (new.slot k).getD 0 }
      takeFault { s with focus := { s.focus with slot := k } } cue nd f
    | none => finish (s.setCur (new.setCtx s.focus.ctx (s.here.act p false))) c.cues[cue] nd

/-- SLOT.LD in its firing cycle: the checks that come first, then the hold (R338). An image of one block is done in
that cycle. -/
def execSlotLd (c : Cue) (a : Src) (first n1 : Fin 128) (p : PAct) (s : State) :
    Host.Outcome State Fault Refusal :=
  let n := n1.val + 1
  let nd : Needs := needsR [a]
  if canFire s c nd then
    let t := (s.src a).toNat
    if slotBad s.cur s.focus.slot then .next (takeFault s c nd { cls := 11, code := 3, opnd := s.cur.slotWord s.focus.slot })
    else if t % 4 ≠ 0 then .next (takeFault s c nd (alignFault t))
    else if !inSram t (imageBytes n) then .next (takeFault s c nd (boundsFault t))
    else
      let h := blocksOf t (imageBytes n)
      if h = 1 then .next (slotLdDone s first.val n t a p c)
      else
        .next (s.setCur { s.cur with hold := .slotLd (h - 1) s.focus.slot s.focus.ctx c a first.val n1.val t p })
  else .next s

/-- One cycle of a SLOT.LD that holds the arbiter. -/
def slotLdCycle (s : State) (n : Nat) : State :=
  let c := s.cell n
  match c.hold with
  | .slotLd left slot ctx cue a first n1 t p =>
    if left ≤ 1 then slotLdDone { s with focus := ⟨n, slot, ctx⟩ } first (n1 + 1) t a p cue
    else s.setCell n { c with hold := .slotLd (left - 1) slot ctx cue a first n1 t p }
  | _ => s

/-! ## Images (R99) -/

/-- Why an image is refused: a code of R90, the cell and the slot it names, and its operand word. -/
structure InstallFail where
  code : Nat
  x : Nat
  y : Nat
  slot : Nat
  opnd : Word
  deriving DecidableEq, Repr

def malformed : InstallFail := ⟨0x10, 0, 0, 0, 0⟩

/-- A word of an image; a missing word reads zero, and no check lets one through. -/
def wordAt (l : List Word) (i : Nat) : Nat := ((l[i]?).getD 0).toNat

/-- The header of a script image: width, height, scenes, relocatable, largest slice. -/
structure ImageHead where
  w : Nat
  h : Nat
  nsc : Nat
  reloc : Bool
  smax : Nat
  deriving DecidableEq, Repr

/-- The header and the directory of an image. SMAX is not held against the slices of the scenes (log 70). -/
def imageHead (l : List Word) : Except InstallFail ImageHead :=
  let w := wordAt l 1 % 2 ^ 16
  let h := wordAt l 1 / 2 ^ 16
  let nsc := wordAt l 2 % 2 ^ 16
  let smax := wordAt l 4
  let dirOk (i : Nat) : Bool := decide (wordAt l (8 + i) % 4 = 0) && decide (wordAt l (8 + i) / 4 < l.length)
  if 8 + nsc ≤ l.length ∧ wordAt l 0 = 0xA64C5201 ∧ 1 ≤ w ∧ w ≤ 320 ∧ 1 ≤ h ∧ h ≤ 512 ∧ 1 ≤ nsc ∧ wordAt l 2 / 2 ^ 16 = 1
      ∧ wordAt l 3 < 2 ∧ 1 ≤ smax ∧ smax ≤ 8 ∧ wordAt l 5 = 0 ∧ wordAt l 6 = 0 ∧ wordAt l 7 = 0
      ∧ (List.range nsc).all dirOk = true then
    .ok ⟨w, h, nsc, wordAt l 3 = 1, smax⟩
  else .error malformed

/-- The words of a scene, from its directory entry on. -/
def sceneWords (l : List Word) (i : Nat) : List Word := l.drop (wordAt l (8 + i) / 4)

/-! ## Records (R100, R101) -/

/-- A scene under construction: its cells by stage-relative number, the items given so far, the current rectangle, the
groups, the trap cell and the SRAM bytes given: cell, first, end. -/
structure Draft where
  w : Nat
  h : Nat
  cells : AMap CellState
  given : List (Nat × Nat)
  rect : Option (Nat × Nat × Nat × Nat)
  groups : Vector (Option ScanGroup) 8
  trap : Option (Nat × Nat)
  data : List (Nat × Nat × Nat)
  deriving DecidableEq, Repr

/-- A failure at a record: its header word and no cell. -/
def recFail (code : Nat) (header : Word) : Except InstallFail Draft := .error ⟨code, 0, 0, 0, header⟩

/-- Whether a record applies to cells (R100). -/
def perCellType (ty : Nat) : Bool := (2 ≤ ty && ty ≤ 10) || ty == 0x0C || ty == 0x0E

/-- A failure of a per-cell record names the first cell of its rectangle (R292); any other names none. -/
def Draft.failAt (d : Draft) (ty code : Nat) (w : Word) : Except InstallFail Draft :=
  match perCellType ty, d.rect with
  | true, some r => .error ⟨code, r.1, r.2.1, 0, w⟩
  | _, _ => .error ⟨code, 0, 0, 0, w⟩

def inRect (r : Nat × Nat × Nat × Nat) (x y : Nat) : Bool :=
  decide (r.1 ≤ x) && decide (x < r.1 + r.2.2.1) && decide (r.2.1 ≤ y) && decide (y < r.2.1 + r.2.2.2)

/-- The cells of the last rectangle. -/
def Draft.hit (d : Draft) : AMap CellState :=
  match d.rect with
  | some r => d.cells.filter (fun e => inRect r e.2.cx e.2.cy)
  | none => []

/-- Change the cells of the last rectangle. -/
def Draft.apply (d : Draft) (f : CellState → CellState) : Draft :=
  match d.rect with
  | some r => { d with cells := d.cells.map fun e => if inRect r e.2.cx e.2.cy then (e.1, f e.2) else e }
  | none => d

/-- Apply a per-cell record; `keys` name its items, each of which a cell may be given once (R90, R96). -/
def Draft.perItem (d : Draft) (header : Word) (keys : List Nat) (f : CellState → CellState) : Except InstallFail Draft :=
  if d.hit.any (fun e => keys.any fun k => d.given.contains (e.1, k)) then recFail 0x13 header
  else .ok { d.apply f with given := d.given ++ d.hit.flatMap fun e => keys.map fun k => (e.1, k) }

/-- The same for a record that is one item; a SLICE record is such a one (log 68). -/
def Draft.perCell (d : Draft) (header : Word) (key : Nat) (f : CellState → CellState) : Except InstallFail Draft := d.perItem header [key] f

/-- The keys of the items of a record that bits name: slots, cues, barrier groups. -/
def bitKeys (base n : Nat) (has : Nat → Bool) : List Nat := ((List.range n).filter has).map fun i => base + i

/-- The same for SRAM bytes `[lo, hi)`, each of which a cell may be given once. -/
def Draft.perByte (d : Draft) (header : Word) (lo hi : Nat) (f : CellState → CellState) : Except InstallFail Draft :=
  if d.hit.any (fun e => d.data.any fun k => decide (k.1 = e.1) && decide (k.2.1 < hi) && decide (lo < k.2.2)) then
    recFail 0x13 header
  else .ok { d.apply f with data := d.data ++ d.hit.map fun e => (e.1, lo, hi) }

/-- A rectangle of two payload words, none where it leaves the stage. -/
def rectOf (w h : Nat) (a b : Nat) : Option (Nat × Nat × Nat × Nat) :=
  let x := a % 2 ^ 16
  let y := a / 2 ^ 16
  let rw := b % 2 ^ 16
  let rh := b / 2 ^ 16
  if 1 ≤ rw ∧ 1 ≤ rh ∧ x + rw ≤ w ∧ y + rh ≤ h then some (x, y, rw, rh) else none

/-- Bit `i` of the mask words of a SLOTS or CUES record. -/
def maskAt (l : List Word) (i : Nat) : Bool := (wordAt l (i / 32)).testBit (i % 32)

/-- The slots of a SLOTS record over those given before: words without a valid bit are passed over (log 84). -/
def slotsOf (l : List Word) (old : Vector (Option Word) 128) : Vector (Option Word) 128 :=
  Vector.ofFn fun i => if maskAt l i.val then l[4 + i.val]? else old[i]

/-- The cue entries of a CUES record over those given before: one without a present bit is passed over, whatever its words (log 84). -/
def cuesOf (l : List Word) (old : Vector DWord 63) : Vector DWord 63 :=
  Vector.ofFn fun i => if maskAt l i.val then BitVec.ofNat 64 (wordAt l (2 + 2 * i.val) + wordAt l (3 + 2 * i.val) * 2 ^ 32) else old[i]

/-- The barrier groups of a MEMBER record beside those given before. -/
def membersOf (a : Nat) (old : Vector Bar 16) : Vector Bar 16 :=
  Vector.ofFn fun g => { old[g] with member := (old[g]).member || a.testBit g.val }

/-- A context as its record gives it (R36). -/
def contextOf (l : List Word) : Context :=
  { Context.blank with
    x := Vector.ofFn fun i => if i.val = 0 then 0 else word (wordAt l i.val)
    p := BitVec.ofNat 8 (wordAt l 16), pres := BitVec.ofNat 8 (wordAt l 16 / 2 ^ 8)
    w := Vector.ofFn fun i => BitVec.ofNat 64 (wordAt l (17 + 2 * i.val) + wordAt l (18 + 2 * i.val) * 2 ^ 32)
    fcr := word (wordAt l 25) }

def ringOf (w0 w1 : Nat) : Ring :=
  { Ring.blank with base := bits w0 0 18, tsz := bits w1 0 12, depth := bits w1 12 8, prod := bits w1 20 3, pidx := bits w1 23 2 }

def genOf (l : List Word) : Gen :=
  let ctl := wordAt l 2
  { Gen.blank with
    base := word (wordAt l 1), dir := ctl.testBit 0, rgen := ctl.testBit 6, rg := Fin.ofNat 8 (bits ctl 7 3)
    lv := Vector.ofFn fun i =>
      let lo := wordAt l (3 + 2 * i.val)
      let hi := wordAt l (4 + 2 * i.val)
      { SgLevel.blank with stride := BitVec.ofNat 24 lo, cntm1 := BitVec.ofNat 16 (lo / 2 ^ 24 + hi % 2 ^ 8 * 2 ^ 8) } }

def templateOf (l : List Word) : Template :=
  ((((Template.blank.write 0 (word (wordAt l 1))).write 1 (word (wordAt l 2))).write 2 (word (wordAt l 3))).write 3
    (word (wordAt l 4))).write 4 (word (wordAt l 5))

def routeOf (a b : Nat) : Route :=
  let k := bits a 4 2
  let q : Fin 8 := Fin.ofNat 8 (bits a 8 3)
  let dx := (BitVec.ofNat 16 b).toInt
  let dy := (BitVec.ofNat 16 (b / 2 ^ 16)).toInt
  { w0 := word a, w1 := word b, items := 0
    target := if k = 0 then .queue q dx dy else if k = 1 then .ring q dx dy else .host b }

/-- Bytes of a DATA record into SRAM. -/
def dataOf (l : List Word) (n : Nat) (m : Mem) (a : Nat) : Mem :=
  match l with
  | [] => m
  | w :: r => dataOf r (n - 4) (m.writeN a (min n 4) w.toNat) (a + 4)

/-- The payload length of a record of fixed length, none for a type that is unknown. -/
def recLen (ty : Nat) (l : List Word) : Option Nat :=
  match ty with
  | 0x01 => some 2
  | 0x02 => some 132
  | 0x03 => some 128
  | 0x04 => some 26
  | 0x05 => some 4
  | 0x06 => some 11
  | 0x07 => some 2
  | 0x08 => some 1
  | 0x09 => some 6
  | 0x0A => some 1
  | 0x0B => some 3
  | 0x0C => some 1
  | 0x0D => some 1
  | 0x0E => some (2 + (wordAt l 1 + 3) / 4)
  | 0xFF => some 0
  | _ => none

/-- The first payload word, from index `i`, that has a bit its mask does not name. -/
def strayAt (l : List Word) (i : Nat) (masks : List Nat) : Option Nat :=
  match masks with
  | [] => none
  | m :: r => if wordAt l i &&& (m ^^^ 0xFFFFFFFF) ≠ 0 then some (wordAt l i) else strayAt l (i + 1) r

def all32 : Nat := 0xFFFFFFFF

/-- The bits that a record's words may have, for the records with reserved bits (R101); of a CONTEXT, bits [63:56] of the W registers and
FCR's reserved bits are none (log 84). -/
def recMasks (ty : Nat) : List Nat :=
  match ty with
  | 0x03 => [all32, 0x7FFFFFFF]
  | 0x04 => List.replicate 16 all32 ++ [0xFFFF] ++ [all32, 0xFFFFFF, all32, 0xFFFFFF, all32, 0xFFFFFF, all32, 0xFFFFFF]
      ++ [0x001F07FF]
  | 0x05 => [all32, 0x3FFFF, 0x1FFFFFF, 0]
  | 0x06 => [all32, all32, 0x3C5, all32, 0xFF, all32, 0xFF, all32, 0xFF, all32, 0xFF]
  | 0x07 => [0x737]
  | 0x08 => [7]
  | 0x09 => [all32, all32, all32, 0xFFFFFF, 0xFFFFFFF, 0x7FFF]
  | 0x0A => [0xFFFF]
  | 0x0C => [15]
  | _ => []

/-- Whether a descriptor breaks R51 or R52; its mesh producer is allowed in a scene. -/
def ringBad (r : Ring) : Bool := !r.legal

/-- One record: its header, its type and its payload (R100). Of two SCANGROUP records of one group, or two TRAP records,
the last holds (log 69). Faults that R90 does not name have the codes of log 84, a
per-cell record before any RECT among them. -/
def applyRecord (d : Draft) (header : Word) (ty : Nat) (l : List Word) : Except InstallFail Draft :=
  let a := wordAt l 0
  let b := wordAt l 1
  let wordFail (code w : Nat) : Except InstallFail Draft := d.failAt ty code (word w)
  if perCellType ty && d.rect.isNone then recFail 0x10 header
  else
    match strayAt l 0 (recMasks ty) with
    | some w => wordFail 5 w
    | none =>
      match ty with
      | 0x01 =>
        match rectOf d.w d.h a b with
        | some r => .ok { d with rect := some r }
        | none => recFail 0x13 header
      | 0x02 => d.perItem header (bitKeys 0x200 128 (maskAt l)) fun c => { c with slots := slotsOf l c.slots }
      | 0x03 => d.perItem header (bitKeys 0x300 63 (maskAt l)) fun c => { c with cues := cuesOf l c.cues }
      | 0x04 => if 4 ≤ a then wordFail 4 a else d.perCell header (0x400 + a) fun c => c.setCtx (Fin.ofNat 4 a) (contextOf l)
      | 0x05 =>
        if 8 ≤ a then wordFail 4 a
        else if ringBad (ringOf b (wordAt l 2)) then d.failAt ty 9 header
        else d.perCell header (0x500 + a) fun c => c.setRing (Fin.ofNat 8 a) (ringOf b (wordAt l 2))
      | 0x06 => if 4 ≤ a then wordFail 4 a else d.perCell header (0x600 + a) fun c => c.setGen (Fin.ofNat 4 a) (genOf l)
      | 0x07 =>
        if bits a 4 2 = 3 then wordFail 4 a
        else if bits a 4 2 = 2 ∧ (bits a 8 3 ≠ 0 ∨ 4096 ≤ b) then wordFail 5 (if bits a 8 3 ≠ 0 then a else b)
        else
          d.perCell header (0x700 + bits a 0 3) fun c =>
            { c with routes := vset c.routes (Fin.ofNat 8 (bits a 0 3)) (some (routeOf a b)) }
      | 0x08 =>
        if 6 ≤ a then wordFail 4 a else d.perCell header (0x800 + a) fun c => { c with feeds := c.feeds ||| (1#6 <<< a) }
      | 0x09 =>
        if 16 ≤ a then wordFail 4 a else d.perCell header (0x900 + a) fun c => c.setTemplate (Fin.ofNat 16 a) (templateOf l)
      | 0x0A => d.perItem header (bitKeys 0xA00 16 a.testBit) fun c => { c with bars := membersOf a c.bars }
      | 0x0B =>
        if 8 ≤ a then wordFail 4 a
        else
          match rectOf d.w d.h b (wordAt l 2) with
          | some r => .ok { d with groups := vset d.groups (Fin.ofNat 8 a) (some ⟨r.1, r.2.1, r.2.2.1, r.2.2.2⟩) }
          | none => recFail 0x13 header
      | 0x0C => if a = 0 ∨ 8 < a then wordFail 4 a else d.perCell header 0xC00 fun c => { c with sliceMiB := a }
      | 0x0D =>
        if d.w ≤ a % 2 ^ 16 ∨ d.h ≤ a / 2 ^ 16 then recFail 0x13 header
        else .ok { d with trap := some (a % 2 ^ 16, a / 2 ^ 16) }
      | _ =>
        if 0x40000 < a + b then recFail 0x13 header
        else if b % 4 ≠ 0 ∧ 2 ^ (8 * (b % 4)) ≤ wordAt l (1 + (b + 3) / 4) then wordFail 5 (wordAt l (1 + (b + 3) / 4))
        else d.perByte header a (a + b) fun c => { c with sram := dataOf (l.drop 2) b c.sram a }

/-- The records of a scene in order, to its END record, without which it is refused (log 84), as is one with a record that runs past the
image's end (log 25); `fuel` bounds their number. -/
def records (d : Draft) (l : List Word) (fuel : Nat) : Except InstallFail Draft :=
  match fuel, l with
  | 0, _ => .error malformed
  | _, [] => .error malformed
  | n + 1, header :: rest =>
    let ty := header.toNat % 2 ^ 8
    let len := header.toNat / 2 ^ 8
    match recLen ty rest with
    | none => recFail 0x11 header
    | some k =>
      if len ≠ k then recFail 0x12 header
      else if rest.length < len then recFail 0x10 header
      else if ty = 0xFF then .ok d
      else
        match applyRecord d header ty (rest.take len) with
        | .ok d => records d (rest.drop len) n
        | .error e => .error e

/-! ## Checks of a whole scene (R88 to R90) -/

/-- The scan ports of a cell follow from the groups (R101, R201). -/
def portsOf (gs : Vector (Option ScanGroup) 8) (x y : Nat) : Vector ScanPort 8 :=
  Vector.ofFn fun i =>
    match gs[i] with
    | some g =>
      if inRect (g.x, g.y, g.w, g.h) x y then { ScanPort.blank with member := true, pos := (y - g.y) * g.w + (x - g.x) }
      else ScanPort.blank
    | none => ScanPort.blank

/-- Whether a route is one that R48 and R50 reject. -/
def routeBad (d : Draft) (c : CellState) (r : Route) : Bool :=
  let cellAt (dx dy : Int) : Option CellState :=
    let x := (c.cx : Int) + dx
    let y := (c.cy : Int) + dy
    if 0 ≤ x ∧ x < d.w ∧ 0 ≤ y ∧ y < d.h then AMap.get? d.cells (y.toNat * d.w + x.toNat) else none
  match r.target with
  | .queue q dx dy => decide (6 ≤ q.val) || (cellAt dx dy).isNone
  | .ring g dx dy =>
    match cellAt dx dy with
    | some t => decide ((t.rings[g]).prod ≠ 1)
    | none => true
  | .host _ => false

/-- The first failing check of one cell, in the order routes, slots, cues, slice; `limit` is its half strip's PL in MiB
(log 25). -/
def cellFail (d : Draft) (limit : Nat) (c : CellState) : Option InstallFail :=
  if c.routes.any (fun r => r.any (routeBad d c)) then some ⟨8, c.cx, c.cy, 0, 0x207⟩
  else
    match firstBadSlot c 0 128 with
    | some (k, e) => some ⟨e, c.cx, c.cy, k, (c.slot k).getD 0⟩
    | none =>
      match (List.finRange 63).find? (fun i => cueBad c c.cues[i]) with
      | some i => some ⟨7, c.cx, c.cy, 0, word i.val⟩
      | none => if limit < c.sliceMiB then some ⟨10, c.cx, c.cy, 0, 0x10C⟩ else none

/-- The first failure among the cells, in row-major order. -/
def cellsFail (d : Draft) (limit : Nat → Nat) (l : AMap CellState) : Option InstallFail :=
  match l with
  | [] => none
  | e :: r =>
    match cellFail d (limit e.1) e.2 with
    | some f => some f
    | none => cellsFail d limit r

/-- A whole scene from its words over the given cells, checked; nothing is changed where a check fails (R101). -/
def sceneOf (w h : Nat) (init : AMap CellState) (limit : Nat → Nat) (l : List Word) : Except InstallFail Draft :=
  match records ⟨w, h, init, [], none, Vector.replicate 8 none, none, []⟩ l (l.length + 1) with
  | .error e => .error e
  | .ok d =>
    let d := { d with
      cells := d.cells.map fun e => (e.1, { e.2 with trap := d.trap, scan := portsOf d.groups e.2.cx e.2.cy }) }
    match cellsFail d limit d.cells with
    | some f => .error f
    | none => .ok d

/-- The blank cells of a stage, by stage-relative number. -/
def blankCells (st w h : Nat) : AMap CellState :=
  (List.range (w * h)).map fun n => (n, CellState.blank st (n % w) (n / w))

/-! ## What an install keeps of a cell (R66, R67) -/

/-- A cell at the install of its next scene: SRAM, marks of failed checks, counts and the name cache stay;
everything else is as at the start of a scene. -/
def CellState.fresh (c : CellState) (tick : Nat) : CellState :=
  { CellState.blank c.stage c.cx c.cy with
    sram := c.sram, names := c.names
    ecc := c.ecc, flipSram := c.flipSram, badSram := c.badSram, badLines := c.badLines, lastAct := tick }

/-- Write back every dirty line of a cell at once (R66, R354). -/
def State.flush (s : State) (n : Nat) : State :=
  let c := s.cell n
  let s := c.wbs.foldl (fun s w => s.sliceWrite n (w.line * 32) 32 w.data.toNat) s
  let s := (c.cache.filter (·.dirty)).foldl (fun s e => s.sliceWrite n (e.line * 32) 32 e.data.toNat) s
  let out (m : Merge) : Merge := if m.write then { m with who := m.who.filter fun w => decide (w.1 ≠ n) } else m
  { (s.setCell n { c with cache := [], wbs := [] }) with merges := (s.merges.map out).filter fun m => !m.who.isEmpty }

/-- Zero slice bytes `[lo, hi)` of a cell. -/
def State.sliceZero (s : State) (n lo hi : Nat) : State :=
  { s with firn := s.firn.filter fun e => !(decide (e.1 / 2 ^ 26 = s.stripOf n * 2 + s.halfOf n)
      && decide (e.1 % 256 / 32 = s.posOf n)
      && decide (lo ≤ e.1 % 2 ^ 26 / 256 * 32 + e.1 % 32) && decide (e.1 % 2 ^ 26 / 256 * 32 + e.1 % 32 < hi)) }

end Sys2Proof.Machine
end

