-- ==== Sys2Proof/Machine/Save.lean ====
section
/-! DEFINITION. Save.lean: the save area at the top of a slice (spec 12 R355). What a block of the table holds is laid out as the
register tables of the spec lay it out; bytes whose place no rule gives are free (log 79). -/

namespace Sys2Proof.Machine

/-- A piece of the area: its offset, its length in bytes, and its bytes as one number. -/
structure Piece where
  off : Nat
  len : Nat
  val : Nat
  deriving DecidableEq, Repr

/-- Numbers of `len` bytes each, one behind the other. -/
def piecesAt (off len : Nat) (l : List Nat) : List Piece := l.mapIdx fun i v => ⟨off + i * len, len, v⟩

/-- Bytes that no rule gives, by the number of the save. -/
def freePieces (no off len : Nat) : List Piece :=
  (List.range len).map fun i => ⟨off + i, 1, (Config.saveByte no (off + i)).toNat⟩

/-- The state code of R302. -/
def statusCode (t : CtxStatus) : Nat :=
  match t with
  | .running => 0
  | .parkSf => 1
  | .parkDiv => 2
  | .parkMiss => 3
  | .parkFault => 4
  | .parkTrap => 5
  | .halted => 6

/-- The N-beat instruction of a context that the arbiter holds: its slot in [6:0], the beats done from [8] on, bit [31] that there is
one; and the result that a context waits for, as the state code of R302 names it. -/
def heldWord (c : CellState) (k : Fin 4) : Nat :=
  match c.hold with
  | .beats r => if r.ctx = k then r.slot % 2 ^ 7 + r.done % 2 ^ 16 * 2 ^ 8 + 2 ^ 31 else 0
  | _ => 0

def pendingKind (t : Context) : Nat := if statusCode t.status ≤ 3 then statusCode t.status else 0

/-- The block of a context at an offset. -/
def contextPieces (no off : Nat) (c : CellState) (k : Fin 4) : List Piece :=
  let t := c.ctx k
  piecesAt off 64 (t.v.toList.map BitVec.toNat) ++ piecesAt (off + 0x200) 4 (t.x.toList.tail.map BitVec.toNat)
    ++ [⟨off + 0x23C, 4, t.p.toNat + t.pres.toNat * 2 ^ 8 + statusCode t.status * 2 ^ 16 + t.wake.toNat * 2 ^ 20
          + t.granted.toNat * 2 ^ 21⟩]
    ++ piecesAt (off + 0x240) 8 (t.w.toList.map BitVec.toNat)
    ++ piecesAt (off + 0x260) 4 [t.fcr.toNat, t.undeclared] ++ piecesAt (off + 0x268) 8 [t.timeLatch.toNat, t.cycLatch.toNat]
    ++ piecesAt (off + 0x278) 4 [heldWord c k, pendingKind t]
    ++ (match t.record with
        | some r => piecesAt (off + 0x280) 4 ([r.1.w1, r.1.w2, r.1.w3, r.1.w4].map BitVec.toNat)
        | none => freePieces no (off + 0x280) 16)
    ++ [⟨off + 0x290, 8, t.watch.getD 0⟩, ⟨off + 0x298, 4, t.withdrawn.toNat⟩] ++ freePieces no (off + 0x29C) 0x164

def QWord.entry (w : QWord) : Nat := w.data.toNat + w.tag.toNat * 2 ^ 32 + w.x.toNat * 2 ^ 40

/-- The entries of queues with `depth` places of `len` bytes each, the oldest entry first. -/
def queuePieces {α : Type} (no off depth len : Nat) (f : α → Nat) (l : List (List α)) : List Piece :=
  (l.mapIdx fun q e =>
    piecesAt (off + q * depth * len) len (e.map f)
      ++ freePieces no (off + (q * depth + e.length) * len) ((depth - e.length) * len)).flatten

/-- The header. -/
def headPieces (t : Stage) (c : CellState) : List Piece :=
  let run := (c.gens.toList.mapIdx fun i (g : Gen) => if g.active then 2 ^ i else 0).sum
  let wait := ((List.range 4).filter fun a => c.mxq.any fun m => decide (m.acc.val = a)).map (2 ^ ·) |>.sum
  piecesAt 0x40000 4 [0xA64C5E01, c.stage % 2 ^ 12, t.scene % 2 ^ 16, c.cyc % 2 ^ 32, c.cyc / 2 ^ 32 % 2 ^ 32, run, wait]

/-- The words of descriptors, rows of `row` bytes: the words that the row's registers have, and the rest. -/
def rowPieces {α : Type} (no off row : Nat) (words : α → List Word) (l : List α) : List Piece :=
  (l.mapIdx fun i a =>
    let w := words a
    piecesAt (off + i * row) 4 (w.map BitVec.toNat) ++ freePieces no (off + i * row + 4 * w.length) (row - 4 * w.length)).flatten

/-- The partial counts of a ring (R55): the entries in the tail tile in [15:0], from a generator or packed by routes, and those taken
out of the head tile in [31:16]. -/
def Ring.partWord (r : Ring) : Word := word (r.part + r.bytes / 64 + r.drain * 2 ^ 16)

/-- Counts of queues in one byte each, then the indices of their heads: the oldest entry stands first. -/
def countPieces (c : CellState) : List Piece :=
  piecesAt 0x41340 1 (c.iq.toList.map List.length ++ c.oq.toList.map List.length) ++ piecesAt 0x41350 1 (List.replicate 16 0)

/-- Counts of stream queues in one byte each, then their marks, one bit an entry. -/
def streamPieces (c : CellState) : List Piece :=
  let l := c.sq.toList ++ c.so.toList
  let bitsOf (e : List SEnt) : Nat := (e.mapIdx fun i (x : SEnt) => x.x.toNat * 2 ^ i).sum
  piecesAt 0x42380 1 (l.map List.length ++ l.map bitsOf)

/-- The blocks done beyond the frontier of an active copy, one bit each (R354). -/
def Copy.doneMask (x : Copy) : Nat :=
  let open' := x.left ++ x.work.map (·.blk) ++ x.flight.map (·.1)
  ((List.range 64).map fun i =>
    let b := x.frontier + i
    if b < x.len / 32 ∧ open'.contains b = false then 2 ^ i else 0).sum

/-- The copy engine: the pending list by template number, 16 for a direct copy; the descriptors of direct copies; frontier and mask
of each active copy. -/
def enginePieces (c : CellState) : List Piece :=
  let name (x : Copy) : Nat := x.tmpl.elim 16 Fin.val
  let direct (x : Copy) : List Nat :=
    [x.pa, x.wa.toNat % 2 ^ 32, x.wa.toNat / 2 ^ 32, x.len, x.put.toNat + x.ctx.val * 2 + x.notify.toNat * 2 ^ 3 + x.slot * 2 ^ 4, 0]
  piecesAt 0x42740 1 (c.copyPend.length :: c.copyPend.map name)
    ++ piecesAt 0x42760 4 ((c.allCopies.filter fun x => x.tmpl.isNone).flatMap direct)
    ++ (c.copyAct.toList.mapIdx fun i x =>
        match x with
        | some x => [⟨0x427C0 + 16 * i, 4, name x + 2 ^ 8⟩, ⟨0x427C4 + 16 * i, 4, x.frontier⟩, ⟨0x427C8 + 16 * i, 8, x.doneMask⟩]
        | none => piecesAt (0x427C0 + 16 * i) 4 [0, 0, 0, 0]).flatten

/-- A matrix command in 32 bytes; what MX.SCALE captured stands behind the commands. -/
def commandWords (m : MxCmd) : List Nat :=
  let kind : Nat := match m.kind with
    | .mma => 1 | .gmma => 2 | .zero => 3 | .lda => 4 | .rda => 5 | .scale => 6
  [kind + m.acc.val * 2 ^ 3 + m.ga.val * 2 ^ 5 + m.gb.val * 2 ^ 8 + m.dt % 2 ^ 4 * 2 ^ 11 + m.accum.toNat * 2 ^ 15 + m.popa.toNat * 2 ^ 16
      + m.popb.toNat * 2 ^ 17 + m.trb.toNat * 2 ^ 18 + m.ctx.val * 2 ^ 19 + m.mark.toNat * 2 ^ 21 + m.early.toNat * 2 ^ 22,
    m.rows, m.cols, m.counts % 2 ^ 32, m.fcr.toNat]

/-- The matrix unit: its commands in order, marks and counts of the accumulators. The 64 bytes that a MX.SCALE captured take two of
the entries behind the last command, as long as there are any: the table gives 9 (log 79). -/
def matrixPieces (no : Nat) (c : CellState) : List Piece :=
  let l := c.mxAll.take 9
  let lanes := (l.filter fun m => decide (m.kind = .scale)).map fun m => m.vec.toNat
  (l.mapIdx fun i m => piecesAt (0x43840 + 32 * i) 4 (commandWords m) ++ freePieces no (0x43854 + 32 * i) 12).flatten
    ++ piecesAt (0x43840 + 32 * l.length) 64 (lanes.take ((9 - l.length) / 2))
    ++ piecesAt 0x43960 1 (c.accMark.toList.map Bool.toNat ++ c.readCnt.toList)

/-- The scan groups: counters, direction, epoch, PMARK, whether the aggregate place is taken and how many prefixes stand in the
buffer, their rounds; their marks in [1:0], the mark, operator and context of the aggregate in [2], [6:3] and [8:7], its mode; the
operators of rounds whose prefix is not taken yet; the aggregate; the prefixes. -/
def scanPieces (t : Stage) (n : Nat) (c : CellState) : List Piece :=
  (c.scan.toList.mapIdx fun g (p : ScanPort) =>
    let off := 0x43980 + 256 * g
    let own := p.agg.bind fun r => t.aggs.find? fun a => decide (a.grp.val = g ∧ a.cell = n ∧ a.round = r)
    piecesAt off 4 ([p.sub.toNat, p.rcv.toNat,
        p.dir.toNat + p.epoch.toNat * 2 + p.pmark.toNat * 4 + p.agg.isSome.toNat * 8 + p.pfx.length * 2 ^ 4, (p.agg.getD 0).toNat]
        ++ p.pfx.map fun e => e.1.toNat)
      ++ piecesAt (off + 0x18) 4 [(p.pfx.mapIdx fun i e => e.2.2.toNat * 2 ^ i).sum
          + own.elim 0 (fun a => a.mark.toNat * 2 ^ 2 + a.op.code * 2 ^ 3 + a.ctx.val * 2 ^ 7), own.elim 0 fun a => a.fcr.toNat]
      ++ piecesAt (off + 0x20) 4 ((p.ops.take 4).flatMap fun e => [e.1.toNat, e.2.code])
      ++ [⟨off + 0x40, 64, (own.map fun a => a.val.toNat).getD 0⟩] ++ piecesAt (off + 0x80) 64 (p.pfx.map fun e => e.2.1.toNat)).flatten

/-- The network interface: NI.CTL, TSEND, the numbers of remote writes and records; the writes in send places; values, mask and
sources of those held, by context and register; the records. -/
def interfacePieces (c : CellState) : List Piece :=
  let sender : Nat := c.tsend.elim 0 fun k => k.g.val + k.q.val * 2 ^ 3 + 2 ^ 6 + k.sent * 2 ^ 8
  let put (w : Put) : List Nat :=
    [w.num % 2 ^ 18 + w.ctx.val * 2 ^ 18 + w.r.val * 2 ^ 20, w.value.toNat, w.early % 2 ^ 32, w.early / 2 ^ 32 % 2 ^ 32]
  let at' (h : Put) : Nat := h.ctx.val * 8 + h.r.val
  piecesAt 0x441C0 4 [c.suuord.toNat, sender, c.putSend.length, c.asyncRecs.length] ++ piecesAt 0x441D0 4 (c.putSend.flatMap put)
    ++ c.putHeld.flatMap (fun h => [⟨0x44210 + 4 * at' h, 4, h.value.toNat⟩, ⟨0x44320 + 4 * at' h, 4, h.src⟩])
    ++ [⟨0x44290, 4, (c.putHeld.map fun h => 2 ^ at' h).sum⟩]
    ++ piecesAt 0x442A0 4 (c.asyncRecs.flatMap fun r => [r.1.w1, r.1.w2, r.1.w3, r.1.w4].map BitVec.toNat)

/-- The pieces of the area of a cell: what lies from 0x4_43C0 on is zero. -/
def areaPieces (no : Nat) (t : Stage) (n : Nat) (c : CellState) : List Piece :=
  freePieces no 0x41340 64 ++ freePieces no 0x42380 64 ++ freePieces no 0x42740 256 ++ freePieces no 0x43840 (0x44180 - 0x43840)
    ++ freePieces no 0x441C0 512 ++ c.sram.map (fun e => ⟨e.1, 1, e.2.toNat⟩) ++ headPieces t c
    ++ (List.finRange 4).flatMap (fun k => contextPieces no (0x40040 + 0x400 * k.val) c k)
    ++ queuePieces no 0x41040 8 8 QWord.entry c.iq.toList ++ queuePieces no 0x41240 4 8 QWord.entry c.oq.toList
    ++ countPieces c
    ++ queuePieces no 0x41380 8 64 (fun e : SEnt => e.data.toNat) (c.sq.toList ++ c.so.toList) ++ streamPieces c
    ++ rowPieces no 0x423C0 16 (fun r => [r.w0, r.w1, r.w2, r.partWord]) c.rings.toList
    ++ rowPieces no 0x42440 64 (fun g => (List.range 10).map (genWord g)) c.gens.toList
    ++ rowPieces no 0x42540 32 (fun x => (List.range 5).map (templateWord x)) c.cts.toList
    ++ enginePieces c
    ++ piecesAt 0x42840 4 (c.accs.toList.flatMap fun a => a.toList.map BitVec.toNat)
    ++ matrixPieces no c ++ scanPieces t n c
    ++ piecesAt 0x44180 4 (c.bars.toList.map fun b => b.stat.toNat)
    ++ interfacePieces c

/-- Lay pieces into a slice at a base. -/
def layPieces (m : Mem) (base : Nat) (l : List Piece) : Mem := l.foldl (fun m p => m.writeN (base + p.off) p.len p.val) m

/-- A saved slice of a cell: what is reachable of it, and its save area (R63, R355). -/
def CellState.withArea (c : CellState) (t : Stage) (no n : Nat) (slice : Mem) : Mem :=
  layPieces (slice.clear c.sliceReach (c.sliceReach + 2 ^ 19)) c.sliceReach (areaPieces no t n c)

end Sys2Proof.Machine
end

