-- ==== Sys2Proof/Machine/Net.lean ====
section
/-! DEFINITION. Net.lean: words, tiles and remote writes on the mesh, and fault records on their way (spec 01 R20 to R22,
02 R50, 08 R232, 09 R255, R264, 11 R316 to R318, 12 R343, R351). -/

namespace Sys2Proof.Machine

/-! ## Room at a target (R50, R264, R367) -/

/-- Bytes of channel data that an item carries: four for a word. -/
def PktData.bytes (d : PktData) : Nat :=
  match d with
  | .word _ => 4
  | .unit _ _ => 64

/-- Bytes on their way to a target. -/
def State.flying (s : State) (pt : PktTo) : Nat := ((s.packets.filter (fun p => decide (p.target = pt))).map (·.data.bytes)).sum

/-- Whether a target grants credit for `n` more bytes (log 26). An egress queue whose port is down takes words to discard
them (R369). -/
def roomAt (s : State) (pt : PktTo) (n : Nat) : Bool :=
  match pt with
  | .queue m q => decide (((s.cell m).iq[q]).length * 4 + s.flying pt + n ≤ 32)
  | .ring m g =>
    let r := (s.cell m).rings[g]
    decide (r.bytes + s.flying pt + n ≤ (r.depth + 1 - r.count) * r.size)
  | .egress q => let e := s.egress q; (!s.portUp e.port && !e.cq) || e.room (s.flying pt / 4)

/-! ## Sending (R50, R126, R264, R317, R318) -/

/-- The cell of a route's target. -/
def routeCell (t : Stage) (c : CellState) (dx dy : Int) : Nat := t.cellAt (c.cx + dx).toNat (c.cy + dy).toNat

def State.chan (s : State) (k : Nat) : Channel := s.host.chans.getD k Channel.blank

/-- Where the next item of a route goes: a target in a stage, nowhere since its portal is closed, or not now. -/
inductive Sending where
  | go (stage : Nat) (t : PktTo)
  | drop
  | wait
  deriving DecidableEq, Repr

/-- Whether a bound queue takes words from ingress now: its stage placed, not stopping, with a scene that feeds the
queue (R318, R319). -/
def State.fed (s : State) (st cell : Nat) (q : Fin 8) : Bool :=
  let t := s.stage st
  decide (t.status = .placed) && !t.stopping && t.installed && (s.cell (t.cellNum cell)).feeds.getLsbD q.val

def sending (s : State) (c : CellState) (r : Route) : Sending :=
  let t := s.stage c.stage
  match r.target with
  | .queue q dx dy => .go c.stage (.queue (routeCell t c dx dy) q)
  | .ring g dx dy => .go c.stage (.ring (routeCell t c dx dy) g)
  | .host h =>
    match t.portals.find? (fun e => decide (e.1 = h)) with
    | none => .go c.stage (.egress h)
    | some e =>
      match (s.chan e.2).bound with
      | none => .drop
      | some (st, cell, q) => if s.fed st cell q then .go st (.queue ((s.stage st).cellNum cell) q) else .wait

/-- Where a packet leaves the mesh: at its cell, or at the port that serves its host queue (R237). -/
def State.exitOf (s : State) (pt : PktTo) : Nat :=
  match pt with
  | .queue n _ | .ring n _ => n
  | .egress q => portRouter (s.egress q).port

/-- A packet that enters the mesh at a cell. -/
def State.packet (s : State) (n : Nat) (q : Fin 8) (st : Nat) (pt : PktTo) (d : PktData) (item : Nat) : Packet :=
  { stage := st, src := n, oq := q, target := pt, data := d, hop := Hop.at n s.strip, goal := s.exitOf pt, item := item
    good := true }

/-- One more item of a route has left. -/
def CellState.countItem (c : CellState) (q : Fin 8) : CellState :=
  { c with routes := vset c.routes q ((c.routes[q]).map fun r => { r with items := r.items + 1 }) }

/-- A word that stood in its output queue at the start of the cycle leaves it (R45), behind a tile that is being sent on the
route (R264); one for a closed portal is discarded and counted. A stage that stops sends no more (R354). -/
def execOqWordSend (n : Nat) (q : Fin 8) (s : State) : Host.Outcome State Fault Refusal :=
  let c := s.cell n
  let t := s.stage c.stage
  match c.oq[q], c.routes[q] with
  | w :: rest, some r =>
    if t.stopping || decide (c.oqAt[q] = 0) || c.tsend.any (fun k => decide (k.q = q)) then .next s
    else
      let c1 := ({ c with oq := vset c.oq q rest, oqAt := vset c.oqAt q (c.oqAt[q] - 1) } : CellState).countItem q
      match sending s c r with
      | .wait => .next s
      | .drop =>
        .next ((s.setCell n c1).setStage c.stage { t with stat := { t.stat with portalLost := t.stat.portalLost + 1 } })
      | .go st pt =>
        if roomAt s pt 4 then
          let s1 := s.setCell n c1
          .next { s1 with packets := s1.packets ++ [s.packet n q st pt (.word w) r.items] }
        else .next s
  | _, _ => .next s

/-- The tile sender sends one unit; with the last one its ring pops (R264). -/
def execTsendUnit (n : Nat) (s : State) : Host.Outcome State Fault Refusal :=
  let c := s.cell n
  match c.tsend with
  | none => .next s
  | some k =>
    let route : Option (RouteTo × Nat) := (c.routes[k.q]).map fun r => (r.target, r.items)
    match route with
    | some (.ring g dx dy, item) =>
      let pt := PktTo.ring (routeCell (s.stage c.stage) c dx dy) g
      if (s.stage c.stage).stopping || !roomAt s pt 64 then .next s
      else
        let r := c.rings[k.g]
        let a := r.tile r.head + k.sent * 64
        let bad := c.badWord a 64
        let d : VWord := BitVec.ofNat 512 (c.sram.readN a 64)
        let p := s.packet n k.q c.stage pt (.unit d (r.mark || bad.isSome)) item
        let c1 :=
          if k.sent + 1 < k.units then { c with tsend := some { k with sent := k.sent + 1 } }
          else ({ (c.popRing k.g) with tsend := none } : CellState).countItem k.q
        let s1 := s.setCell n (c1.mend a 64)
        .next ((engineEcc { s1 with packets := s1.packets ++ [p] } n k.ctx k.slot k.g.val bad).active n)
    | _ => .next s

/-! ## The mesh (R20 to R23, R296, R316) -/

/-- The cell that consumes a packet. -/
def PktTo.cell (t : PktTo) : Option Nat :=
  match t with
  | .queue n _ | .ring n _ => some n
  | .egress _ => none

/-- A marked word that leaves for a portal or a host queue is logged as it crosses the edge of its sender's stage, from router `a` to
router `b`; the packets of a route cross it in their order, each on the way of the one before (R125, R126, R318). -/
def edgeMark (s : State) (ref : FlitRef) (a b : Nat) : State :=
  match ref with
  | .packet i =>
    (match s.packets[i]? with
     | some p =>
       let c := s.cell p.src
       let t := s.stage c.stage
       (match p.data with
        | .word w => if w.x && t.owns a && !t.owns b then s.logMark c.stage c.cx c.cy p.oq p.item else s
        | _ => s)
     | none => s)
  | _ => s

/-- A drain token has arrived. -/
def State.dropToken (s : State) (st : Nat) (p : Nat × Nat) : State :=
  let k := s.ctrlOf st
  if k.tokens.contains p then { s with ctrl := s.ctrl.put st { k with tokens := k.tokens.erase p } } else s

/-- An item of CTRL reaches its endpoint in its turn: an arrival the barrier logic, a completion its cell, a drain token the one it is
for. A drain marker waits for the director to record it. -/
def itemIn (s : State) (i : Nat) (f : Flit) : State :=
  match s.items[i]? with
  | none => s
  | some it =>
    let s1 := { (s.turned f none) with items := s.items.eraseIdx i }
    let t := s.stage it.stage
    let c := s.cell it.dest
    match it.what with
    | .mark _ _ => s
    | .arrive g => s1.setStage it.stage { t with arr := t.arr ++ [(g, t.rel it.src)] }
    | .complete g =>
      let b := c.bars[g]
      s1.setCell it.dest { c with bars := vset c.bars g { b with arr := false, done := true, gen := b.gen + 1 } }
    | .token => ([it.stage] ++ (rowSet it.dest).toList).foldl (fun s n => s.dropToken n (it.src, it.dest)) s1

/-- Whether an item of CTRL stands at a router that has no entry for it (R316). -/
def ctrlLost (ref : FlitRef) (f : Flit) : Bool :=
  match ref with
  | .item _ => !f.there && f.ways.isEmpty
  | _ => false

/-- Flit `i` takes its turn. Where it stands at its goal, an item of CTRL leaves the mesh. Elsewhere a router forwards it into a free
slot of the next router, over a free slot of the link. A CTRL item for which the router has no entry, and DATA that fails the stage
check of the next router, are discarded and reported (R20 to R22, R296, R316). -/
def execMeshFlitForward (i : Nat) (dir : Dir) (s : State) : Host.Outcome State Fault Refusal :=
  match s.flits[i]? with
  | none => .next s
  | some (ref, f) =>
    let m := dirMove dir f.hop.x f.hop.y
    let at' := m.2 * 320 + m.1
    if f.there then
      (match ref with
       | .item k => .next (if (s.leaving ref).isSome then itemIn s k f else s)
       | _ => .next s)
    else if ctrlLost ref f then .next ((s.dropFlit ref).routerRecord f.hop.router f.port)
    else if portRoom s f.cls at' dir && linkFree s f dir && hasTurn s s.takes ref f (some dir) then
      let key := linkKey f.hop.router dir
      let s := { (s.turned f (some dir)) with links := s.links.put key (AMap.getD s.links key 0 + f.size) }
      if linkOk s ref f.goal at' then .next ((edgeMark s ref f.hop.router at').moveFlit ref dir)
      else .next ((s.dropFlit ref).routerRecord at' (dirEntry dir))
    else .next s

/-! ## Drain markers (R281) -/

/-- The director records a marker and its completion reaches the cell's mailbox; markers of one cell keep their order
(R21, R281). -/
def execMarkerRecorded (i : Nat) (s : State) : Host.Outcome State Fault Refusal :=
  match s.items[i]?, s.leaving (.item i) with
  | some ⟨st, n, _, .mark k num, _, _⟩, some f =>
    let t := s.stage st
    let s := { (s.turned f none) with items := s.items.eraseIdx i }
    let s := s.setStage st { t with markers := t.markers ++ [num] }
    .next (s.setCell n ((s.cell n).post6 ⟨word num, boxTag k 3, false⟩))
  | _, _ => .next s

/-! ## Delivery (R50, R232, R264, R351) -/

/-- Words as one number, the first one lowest. -/
def packWords (l : List Word) : Nat := l.foldr (fun w n => w.toNat + 2 ^ 32 * n) 0

/-- Four bytes for the tail tile of a ring, which is pushed when they fill it: the words of a 64-byte block enter the SRAM together,
with the last of them (R50, R217). -/
def CellState.ringWord (c : CellState) (g : Fin 8) (v : Word) (x : Bool) : CellState :=
  let r := c.rings[g]
  let l := r.buf ++ [v]
  let whole := decide (16 ≤ l.length)
  let c := if whole then { c with sram := c.sram.writeN (r.tile r.tail + (r.bytes + 4 - 64)) 64 (packWords l) } else c
  let r := { r with bytes := r.bytes + 4, buf := if whole then [] else l, acc := r.acc || x }
  c.setRing g (if r.bytes = r.size then r.push r.acc else r)

/-- The words of a unit in order. -/
def unitWords (d : VWord) : List Word := (List.range 16).map fun k => word (d.toNat / 2 ^ (32 * k))

/-- The bytes of a unit in order. -/
def CellState.ringUnit (c : CellState) (g : Fin 8) (d : VWord) (x : Bool) : CellState := (unitWords d).foldl (fun c w => c.ringWord g w x) c

/-- The record of a word whose check failed (R351). -/
def badWord (s : State) (p : Packet) (n opnd : Nat) : State :=
  if p.good then s else s.cellRecord n 0 0 { cls := 10, code := 1, opnd := word opnd }

/-- The tile of a route, by its stage-relative sender and output queue. -/
def routeKey (s : State) (p : Packet) : Nat := (s.cell p.src).num (s.stage p.stage) * 8 + p.oq.val

/-- The record of a tile whose check failed, once for all its units (R351). -/
def badTile (s : State) (p : Packet) (n : Nat) (g : Fin 8) : State :=
  let r := (s.cell n).rings[g]
  if p.good || decide (AMap.get? r.told (routeKey s p) = some p.item) then s
  else
    (s.setCell n ((s.cell n).setRing g { r with told := r.told.put (routeKey s p) p.item })).cellRecord n 0 0
      { cls := 10, code := 1, opnd := word (g.val + 8) }

/-- A packet enters its queue or ring; one for another stage's cell is discarded at the network interface (R316). -/
def consume (s : State) (i n : Nat) (p : Packet) : State :=
  let s := { s with packets := s.packets.eraseIdx i }
  match AMap.get? s.cells n with
  | none => s.routerRecord n 4
  | some c =>
    if c.stage ≠ p.stage then s.routerRecord n 4
    else
      match p.target, p.data with
      | .queue _ q, .word w =>
        badWord (s.setCell n { c with iq := vset c.iq q (c.iq[q] ++ [{ w with x := w.x || !p.good }]) }) p n q.val
      | .ring _ g, .word w => badWord (s.setCell n (c.ringWord g w.data (w.x || !p.good))) p n g.val
      | .ring _ g, .unit d x => badTile (s.setCell n (c.ringUnit g d (x || !p.good))) p n g
      | _, _ => s

def PktData.isWord (d : PktData) : Bool :=
  match d with
  | .word _ => true
  | _ => false

/-- An item that stands at its target is delivered in its turn. -/
def deliver (i : Nat) (s : State) (ok : PktData → Bool) : Host.Outcome State Fault Refusal :=
  match s.packets[i]?, s.leaving (.packet i) with
  | some p, some f =>
    (match p.target.cell with
     | some n => if ok p.data then .next (consume (s.turned f none) i n p) else .next s
     | none => .next s)
  | _, _ => .next s

def execWordDeliver (i : Nat) (s : State) : Host.Outcome State Fault Refusal := deliver i s PktData.isWord
def execTileArrive (i : Nat) (s : State) : Host.Outcome State Fault Refusal := deliver i s (fun d => !d.isWord)

/-! ## Remote writes (R32, R33, R255, R256) -/

/-- Whether a register takes a remote write now: presence clear, also at the start of the cycle before, and no response
of a returning atomic pending. -/
def Context.takesPut (t : Context) (r : Fin 8) : Bool :=
  !t.pres.getLsbD r && !t.resv.getLsbD r && !t.was.getLsbD r

/-- A target's network interface accepts a write, which frees its send place: it delivers it, or holds it for the register. One
for a cell of another stage is discarded (R316). -/
def putArrive (s : State) (n j : Nat) (w : Put) : State :=
  let m := s.putCell n w
  let st := (s.cell n).stage
  let s := s.dropFlit (.put n j)
  let d := s.cell m
  if (AMap.get? s.cells m).isNone ∨ d.stage ≠ st then s.routerRecord m 4
  else if (d.ctx w.ctx).takesPut w.r then s.setCell m (d.putWrite w.ctx w.r w.value)
  else s.setCell m { d with putHeld := d.putHeld ++ [{ w with hop := none }] }

/-- The place of remote write `i` of all: its cell, and which of the cell's it is. -/
def State.putAt (s : State) (i : Nat) : Option (Nat × Nat × Put) :=
  (s.cells.flatMap fun e => (indexed e.2.putSend).map fun w => (e.1, w.1, w.2))[i]?

/-- The delivery of a held write once its register takes it. -/
def putRelease (s : State) (n : Nat) (k : Fin 4) (r : Fin 8) : State :=
  let c := s.cell n
  match c.putHeld.find? (fun h => decide (h.ctx = k) && decide (h.r = r)) with
  | some w =>
    if (c.ctx k).takesPut r then s.setCell n ({ c with putHeld := c.putHeld.erase w }.putWrite k r w.value) else s
  | none => s

def execPutrDeliver (w : PutFrom) (s : State) : Host.Outcome State Fault Refusal :=
  match w with
  | .mesh i =>
    (match s.putAt i with
     | some (n, j, p) =>
       (match s.leaving (.put n j) with
        | some f => .next (putArrive (s.turned f none) n j p)
        | none => .next s)
     | none => .next s)
  | .held n k r => .next (putRelease s n k r)

/-! ## Egress (R125, R367, R369) -/

/-- Count a word that a port which is down discards, for the one record of the scene (R369). -/
def loseWord (s : State) (st q n : Nat) : State :=
  let t := s.stage st
  let l := t.stat.egressLost
  let l := match l.find? (fun e => decide (e.1 = q)) with
    | some _ => l.map fun e => if e.1 = q then (e.1, e.2.1, e.2.2 + 1) else e
    | none => l ++ [(q, (s.cell n).num t, 1)]
  s.setStage st { t with stat := { t.stat with egressLost := l } }

/-- A word for a host queue is written, or discarded where its port is down. One whose check fails takes its mark here, at the interface
that consumes it, with a record of its sender's (R351; log 46). The exception log sees a mark now that no router on the way out of the
stage showed it: that of such a word, and that of one whose port stands within the stage. -/
def wordOut (s : State) (q i : Nat) (p : Packet) : State :=
  let c := s.cell p.src
  let s1 := { s with packets := s.packets.eraseIdx i }
  let e := s.egress q
  match p.data with
  | .word w =>
    let x := w.x || !p.good
    let seen := w.x && !(s.stage p.stage).owns p.hop.router
    let s1 := badWord (if x && !seen then s1.logMark p.stage c.cx c.cy p.oq p.item else s1) p p.src p.oq.val
    if s.portUp e.port then writeEntry s1 q (wordEntry e { w with x := x }) false else loseWord s1 p.stage q p.src
  | _ => s

/-- A word for a queue that has come to its port leaves the mesh in its turn; without one, a completion entry that waits is
written. -/
def execEgressEntryWrite (q : Nat) (s : State) : Host.Outcome State Fault Refusal :=
  let due := s.heads.findSome? fun e =>
    match e.1 with
    | .packet i => ((s.packets[i]?).filter fun p => decide (p.target = .egress q)).bind fun p => (s.leaving e.1).map fun f => (i, p, f)
    | _ => none
  match due with
  | some (i, p, f) => .next (wordOut (s.turned f none) q i p)
  | none => .next (writeHeld s q)

/-! ## Fault records (R343, R344, R353) -/

/-- The record of a place with the tick of its entry. -/
def recordAt (c : CellState) (w : RecFrom) : Option (Record × Nat) :=
  match w with
  | .ctx k => (c.ctx k).record
  | .async => c.asyncRecs.head?

/-- The place is free again. -/
def CellState.dropRecord (c : CellState) (w : RecFrom) : CellState :=
  match w with
  | .ctx k => c.setCtx k { (c.ctx k) with record := none }
  | .async => { c with asyncRecs := c.asyncRecs.tail }

/-- All records that a cell has not handed over. -/
def CellState.records (c : CellState) : List Record :=
  c.ctxs.toList.flatMap (fun t => (t.record.map (·.1)).toList ++ t.beside) ++ c.asyncRecs.map (·.1)

/-- A record goes where it is bound, once no record that its cell made before it waits: to the host, to the stage fault
log without a trap route or when the host ends the stage (R408), or to the trap cell's mailbox as soon as that takes four words. -/
def execFaultRecordDeliver (n : Nat) (w : RecFrom) (s : State) : Host.Outcome State Fault Refusal :=
  let c := s.cell n
  match recordAt c w with
  | none => .next s
  | some (r, _) =>
    if c.records.any (fun o => decide (o.made < r.made)) then .next s
    else
      let s1 := s.setCell n (c.dropRecord w)
      match r.dest, (if (s.stage c.stage).ending then none else c.trap) with
      | .host, _ => .next (s1.hostRecord c.stage r)
      | .log, _ => .next (s1.logFault c.stage r 1 true)
      | .trap, none => .next (s1.logFault c.stage r 1 true)
      | .trap, some (x, y) =>
        let m := (s.stage c.stage).cellAt x y
        let d := s1.cell m
        if (d.iq[7]).length ≤ 4 ∧ d.mail7 = [] then
          let k := r.w1.toNat / 2 ^ 9 % 4 * 64
          .next (s1.setCell m (d.post7
            [⟨r.w1, BitVec.ofNat 8 (k + 0x20), false⟩, ⟨r.w2, BitVec.ofNat 8 (k + 0x21), false⟩,
             ⟨r.w3, BitVec.ofNat 8 (k + 0x22), false⟩, ⟨r.w4, BitVec.ofNat 8 (k + 0x23), false⟩]))
        else .next s

/-- A record that has waited 1,000 ticks in its place goes to the stage fault log. -/
def execRecordDivert (n : Nat) (w : RecFrom) (s : State) : Host.Outcome State Fault Refusal :=
  let c := s.cell n
  match recordAt c w with
  | some (r, t) =>
    if r.dest = .trap ∧ t + 1000 ≤ s.tick then .next ((s.setCell n (c.dropRecord w)).logFault c.stage r 1 true) else .next s
  | none => .next s

end Sys2Proof.Machine
end

