-- ==== Sys2Proof/Machine/Crypto.lean ====
section
/-! DEFINITION. Crypto.lean: SHA-512 (FIPS 180-4) and ECDSA on curve P-521 (FIPS 186-5), which R329 names for every key of the
module; the spec names the standards and does not repeat them (log 20). -/

namespace Sys2Proof.Crypto

/-! ## SHA-512 -/

abbrev W64 := BitVec 64

/-- The primes below 410, of which there are eighty. -/
def primes : List Nat :=
  (List.range 410).filter fun p => decide (1 < p) && (List.range 21).all fun d => decide (d < 2 ∨ d = p ∨ p % d ≠ 0)

/-- The largest `r` from `low` up, in steps of powers of two below `2 ^ bits`, whose `e`-th power is at most `v`. -/
def rootFrom (e v low bits : Nat) : Nat :=
  match bits with
  | 0 => low
  | b + 1 => rootFrom e v (if (low + 2 ^ b) ^ e ≤ v then low + 2 ^ b else low) b

/-- The first 64 bits of the fraction of an `e`-th root. -/
def rootBits (e p : Nat) : W64 := BitVec.ofNat 64 (rootFrom e (p * 2 ^ (64 * e)) 0 69)

/-- The round constants: the fractions of the cube roots of the first eighty primes. -/
def roundWords : List W64 := primes.map (rootBits 3)

/-- The eight words before the first block: the fractions of the square roots of the first eight primes. -/
def startWords : List W64 := (primes.take 8).map (rootBits 2)

/-- A word turned right by three counts, the three exclusive-or'd; with `cut` the third is a shift. -/
def spread (cut : Bool) (i j k : Nat) (w : W64) : W64 :=
  let z := if cut then w >>> k else w.rotateRight k
  w.rotateRight i ^^^ w.rotateRight j ^^^ z

/-- One round over the eight words, with its schedule word and constant in one sum. -/
def turn (q : W64) : List W64 → List W64
  | [a, b, c, d, e, f, g, h] =>
    let pick := (e &&& (f ^^^ g)) ^^^ g
    let most := (a &&& (b ||| c)) ||| (b &&& c)
    let u := h + q + pick + spread false 14 18 41 e
    [u + most + spread false 28 34 39 a, a, b, c, d + u, e, f, g]
  | l => l

/-- The word `i` of the schedule's window. -/
def windowWord (w : List W64) (i : Nat) : W64 := (w[i]?).getD 0

/-- The rounds of one block: `w` is the window of sixteen schedule words that come next. -/
def block (ks w s : List W64) : List W64 :=
  match ks with
  | [] => s
  | k :: r =>
    let new := windowWord w 0 + spread true 1 8 7 (windowWord w 1) + windowWord w 9 + spread true 19 61 6 (windowWord w 14)
    block r (w.tail ++ [new]) (turn (k + windowWord w 0) s)

/-- The number that bytes spell, most significant first. -/
def bigEnd (l : List Byte) : Nat := l.foldl (fun n b => n * 256 + b.toNat) 0

/-- `n` bytes of a number, most significant first. -/
def bigBytes (n v : Nat) : List Byte := (List.range n).map fun i => BitVec.ofNat 8 (v / 256 ^ (n - 1 - i))

def wordsOf (l : List Byte) : List W64 := (List.range 16).map fun i => BitVec.ofNat 64 (bigEnd ((l.drop (8 * i)).take 8))

/-- The blocks of a padded message, `n` of them, each added to what stood before it. -/
def blocks (l : List Byte) (n : Nat) (s : List W64) : List W64 :=
  match n with
  | 0 => s
  | k + 1 => blocks (l.drop 128) k (List.zipWith (· + ·) s (block roundWords (wordsOf l) s))

/-- The message with its padding: a one bit, zeros, and the length in bits. -/
def padded (l : List Byte) : List Byte :=
  l ++ [0x80] ++ List.replicate ((128 - (l.length + 17) % 128) % 128) 0 ++ bigBytes 16 (8 * l.length)

/-- The digest of a message as a number whose most significant byte is its first. -/
def sha512 (l : List Byte) : BitVec 512 :=
  let m := padded l
  BitVec.ofNat 512 ((blocks m (m.length / 128) startWords).foldl (fun n w => n * 2 ^ 64 + w.toNat) 0)

/-! ## Curve P-521 -/

def prime : Nat := 2 ^ 521 - 1

def order : Nat :=
  0x1fffffffffffffffffffffffffffffffffffffffffffffffffffffffffffffffffa51868783bf2f966b7fcc0148f709a5d03bb5c9b8899c47aebb6fb71e91386409

def coeffB : Nat :=
  0x51953eb9618e1c9a1f929a21a0b68540eea2da725b99b315f3b8b489918ef109e156193951ec7e937b1652c0bd3bb1bf073573df883d2c34f1ef451fd46b503f00

def baseX : Nat :=
  0xc6858e06b70404e9cd9e3ecb662395b4429c648139053fb521f828af606b4d3dbaa14b5e77efe75928fe1dc127a2ffa8de3348b3c1856a429bf97e7e31c2e5bd66

def baseY : Nat :=
  0x11839296a789a3bc0045c8a5fb42c7d1bd998f54449579b446817afbd17273e662c97ee72995ef42640c550b9013fad0761353c7086a272c24088be94769fd16650

/-- A power modulo `m`, over the low `fuel` bits of the exponent. -/
def powMod (m b e fuel : Nat) : Nat :=
  match fuel with
  | 0 => 1 % m
  | k + 1 =>
    let r := powMod m (b * b % m) (e / 2) k
    if e % 2 = 1 then r * b % m else r

/-- The inverse modulo a prime of 521 bits. -/
def inverse (m a : Nat) : Nat := powMod m (a % m) (m - 2) 521

/-- A point of the curve, none for the point at infinity. -/
abbrev Point := Option (Nat × Nat)

def subMod (a b : Nat) : Nat := (a + prime - b % prime) % prime

/-- The third point of a line with slope `l`, reflected. -/
def chord (l : Nat) (a b : Nat × Nat) : Point :=
  let x := subMod (subMod (l * l % prime) a.1) b.1
  some (x, subMod (l * subMod a.1 x % prime) a.2)

def addPoint (p q : Point) : Point :=
  match p, q with
  | none, _ => q
  | _, none => p
  | some a, some b =>
    if a.1 = b.1 then
      (if (a.2 + b.2) % prime = 0 then none
       else chord (subMod (3 * a.1 * a.1) 3 * inverse prime (2 * a.2) % prime) a b)
    else chord (subMod b.2 a.2 * inverse prime (subMod b.1 a.1) % prime) a b

/-- A multiple of a point, over the low `fuel` bits of the factor. -/
def mulPoint (k : Nat) (p : Point) (fuel : Nat) : Point :=
  match fuel with
  | 0 => none
  | n + 1 =>
    let r := mulPoint (k / 2) (addPoint p p) n
    if k % 2 = 1 then addPoint p r else r

def base : Point := some (baseX, baseY)

def onCurve (x y : Nat) : Bool :=
  decide (x < prime ∧ y < prime) && decide (y * y % prime = subMod (x * x * x + coeffB) (3 * x))

/-- A public key from its 133 bytes, none where they are no point of the curve. -/
def pointOf (l : List Byte) : Point :=
  let x := bigEnd ((l.drop 1).take 66)
  let y := bigEnd ((l.drop 67).take 66)
  if l.length = 133 ∧ l.head? = some 4 ∧ onCurve x y = true then some (x, y) else none

/-- The 133 bytes of a point. -/
def bytesOfPoint (p : Point) : List Byte :=
  match p with
  | some (x, y) => 4 :: (bigBytes 66 x ++ bigBytes 66 y)
  | none => []

/-- Whether a signature, r and s, holds for a digest under a public key. -/
def verify (key : List Byte) (digest : BitVec 512) (sig : List Byte) : Bool :=
  let r := bigEnd (sig.take 66)
  let s := bigEnd (sig.drop 66)
  match pointOf key with
  | none => false
  | some q =>
    if sig.length = 132 ∧ 0 < r ∧ r < order ∧ 0 < s ∧ s < order then
      let w := inverse order s
      match addPoint (mulPoint (digest.toNat * w % order) base 521) (mulPoint (r * w % order) (some q) 521) with
      | some v => decide (v.1 % order = r)
      | none => false
    else false

/-- The signature of a digest with a private scalar and a per-message number. -/
def sign (d k : Nat) (digest : BitVec 512) : List Byte :=
  let r := match mulPoint (k % order) base 521 with
    | some v => v.1 % order
    | none => 0
  bigBytes 66 r ++ bigBytes 66 (inverse order k * (digest.toNat + r * d) % order)

/-- The public key of a private scalar. -/
def publicKey (d : Nat) : List Byte := bytesOfPoint (mulPoint (d % order) base 521)

end Sys2Proof.Crypto
end

