-- ==== Sys2Proof/Machine/Seal.lean ====
section
/-! DEFINITION. Seal.lean: signed objects, the casting table, the measurement log and the signed-object mailbox (spec 11
R329 to R332, 12 R360, 13 R378 to R380). -/

namespace Sys2Proof.Machine

/-! ## Bytes (R330) -/

/-- `n` bytes of a number, least significant first. -/
def bytesOf (n v : Nat) : List Byte :=
  match n with
  | 0 => []
  | k + 1 => BitVec.ofNat 8 v :: bytesOf k (v / 256)

/-- The number that bytes spell, least significant first. -/
def natOf (l : List Byte) : Nat :=
  match l with
  | [] => 0
  | b :: r => b.toNat + 256 * natOf r

/-- The bytes of a digest in order. -/
def digestBytes (d : BitVec 512) : List Byte := Crypto.bigBytes 64 d.toNat

/-- The public half of the device identity key (R329). -/
def deviceKey : List Byte := Crypto.publicKey Config.deviceScalar

/-- The key ID of a public key (R329), as SIGNER holds its bytes (log 20). -/
def keyId (key : List Byte) : Nat := natOf ((digestBytes (Crypto.sha512 key)).take 8)

/-! ## Envelopes (R330) -/

/-- The bytes that a signature covers: header and body. -/
def envelope (ty signer serial seq : Nat) (body : List Byte) : List Byte :=
  bytesOf 4 0xA64C5A01 ++ bytesOf 4 (ty + 256) ++ bytesOf 4 body.length ++ bytesOf 4 0 ++ bytesOf 8 signer
    ++ bytesOf 8 serial ++ bytesOf 8 seq ++ body

/-- An envelope that the device identity key signs. -/
def sealed (s : State) (ty seq : Nat) (body : List Byte) : List Byte :=
  let e := envelope ty (keyId deviceKey) s.host.serial seq body
  let d := Crypto.sha512 e
  e ++ Crypto.sign Config.deviceScalar (Config.nonce d) d

/-- Field `n` bytes from byte `o`. -/
def field (l : List Byte) (o n : Nat) : Nat := natOf ((l.drop o).take n)

/-! ## The casting table (R16, R17, R331) -/

/-- Dead positions of a row outside its dead field, in ascending column order, with the mark of retirement. -/
def Casting.row (k : Casting) (r : Nat) : List (Nat × Bool) :=
  (List.range 384).filterMap fun c => (k.dead.find? (fun d => decide (d.1 = r ∧ d.2.1 = c))).map fun d => (c, d.2.2)

def rowBytes (l : List (Nat × Bool)) : List Byte :=
  bytesOf 4 l.length ++ l.flatMap (fun d => bytesOf 2 (d.1 + d.2.toNat * 2 ^ 9)) ++ bytesOf (l.length % 2 * 2) 0

/-- The body of a casting table. -/
def Casting.body (k : Casting) : List Byte :=
  bytesOf 4 k.gen
    ++ (List.range 8).flatMap (fun r => bytesOf 4 (((k.deadFields.find? (fun d => decide (d.1 = r))).map (·.2)).getD 15))
    ++ (List.range 512).flatMap (fun r => rowBytes (k.row r))

/-- At most one dead field in each field row, and at least 320 live cells in every row (R16). -/
def Casting.sound (k : Casting) : Bool :=
  (List.range 8).all (fun r => decide ((k.deadFields.filter (fun d => decide (d.1 = r))).length ≤ 1))
    && (List.range 512).all (fun r => decide (320 ≤ (k.cols r).length))

/-- The table without the entries of reinstated positions, which a full cast omits (R360). -/
def Casting.without (k : Casting) (back : List (Nat × Nat)) : Casting := { k with dead := k.dead.filter fun d => !back.contains (d.1, d.2.1) }

/-- Rows that keep fewer than 320 live positions (R358). -/
def Casting.vacancies (k : Casting) : List Nat := (List.range 512).filter fun r => decide ((k.cols r).length < 320)

/-- The halfwords of `n` dead positions of a row. -/
def readRow (r : Nat) (l : List Byte) (n : Nat) : List (Nat × Nat × Bool) :=
  (List.range n).map fun i =>
    let h := natOf ((l.drop (2 * i)).take 2)
    (r, h % 2 ^ 9, h.testBit 9)

/-- The row sections from row `r` on, `n` of them; none where the bytes are not exactly theirs. -/
def readRows (r n : Nat) (l : List Byte) : Option (List (Nat × Nat × Bool)) :=
  match n with
  | 0 => if l = [] then some [] else none
  | k + 1 =>
    let nd := natOf (l.take 4)
    let size := 4 + (nd + 1) / 2 * 4
    if l.length < size then none
    else (readRows (r + 1) k (l.drop size)).map fun m => readRow r (l.drop 4) nd ++ m

/-- The casting table whose body bytes are, none where they are malformed: the columns of dead fields are 0 to 7 or 15, dead positions
stand outside the dead fields, and the table's own body gives the bytes back. -/
def Casting.ofBody (l : List Byte) : Option Casting :=
  let word (i : Nat) : Nat := natOf ((l.drop (4 * i)).take 4)
  match readRows 0 512 (l.drop 36) with
  | none => none
  | some dead =>
    let k : Casting :=
      { gen := word 0, deadFields := (List.range 8).filterMap fun r => if word (1 + r) = 15 then none else some (r, word (1 + r))
        dead := dead, vacant := [], back := [] }
    let fieldsOk := (List.range 8).all fun r => decide (word (1 + r) < 8 ∨ word (1 + r) = 15)
    if fieldsOk && k.dead.all (fun d => !k.deadFields.contains (d.1 / 64, d.2.1 / 48)) && decide (k.body = l) then
      some { k with vacant := k.vacancies }
    else none

/-! ## The measurement log (R332) -/

/-- Extend the log with the digest of an object. -/
def State.measure (s : State) (ty : Nat) (object : List Byte) : State :=
  let m := s.host.mbox
  { s with host := { s.host with mbox := { m with log := m.log ++ [(ty, m.log.length, Crypto.sha512 object)] } } }

/-- The bytes of the log; an entry's sequence number is its place (log 30). -/
def logBytes (l : List (Nat × Nat × BitVec 512)) : List Byte :=
  l.flatMap fun e => bytesOf 4 (e.1 + 256) ++ bytesOf 4 e.2.1 ++ digestBytes e.2.2

/-- The last sequence number accepted for a type (R330). -/
def lastSeq (s : State) (ty : Nat) : Option Nat := (s.host.mbox.seqs.find? (fun e => decide (e.1 = ty))).map (·.2)

/-- A sequence number is the last accepted one of its type. -/
def State.setSeq (s : State) (ty seq : Nat) : State :=
  let m := s.host.mbox
  { s with host := { s.host with mbox := { m with seqs := m.seqs.filter (fun (e : Nat × Nat) => decide (e.1 ≠ ty)) ++ [(ty, seq)] } } }

/-- A table enters into force with its envelope, and is measured. -/
def State.setTable (s : State) (t : List Byte) (seq : Nat) : State :=
  let s := s.setSeq 2 seq
  ({ s with host := { s.host with mbox := { s.host.mbox with table := t } } } : State).measure 2 t

/-- A recast table is signed with the device identity key and enters into force, under the next sequence number. -/
def State.signCasting (s : State) : State :=
  let seq := (lastSeq s 2).elim 0 (· + 1)
  s.setTable (sealed s 2 seq s.casting.body) seq

/-- Whether the header of an envelope has its fixed words and its length (R330). -/
def headOk (l : List Byte) : Bool :=
  decide (field l 0 4 = 0xA64C5A01) && decide (field l 4 4 / 256 = 1) && decide (field l 8 4 % 4 = 0)
    && decide (l.length = 40 + field l 8 4 + 132) && decide (field l 12 4 = 0)

/-- The body of an envelope. -/
def bodyOf (l : List Byte) : List Byte := (l.drop 40).take (l.length - 172)

/-- Whether the signature of an envelope verifies under a key that SIGNER names. -/
def signedBy (l key : List Byte) : Bool :=
  decide (field l 16 8 = keyId key)
    && Crypto.verify key (Crypto.sha512 (l.take (l.length - 132))) (l.drop (l.length - 132))

/-- Whether SERIAL is zero or the module's own. -/
def serialOk (s : State) (l : List Byte) : Bool := decide (field l 24 8 = 0 ∨ field l 24 8 = s.host.serial)

/-! ## Boot (R25, R378, R379) -/

/-- The firmware image that a boot runs: the last one accepted, else the one of shipment. -/
def State.image (s : State) (sm : Bool) : List Byte :=
  ((s.host.mbox.images.find? fun e => e.1 == sm).map (·.2)).getD (Config.firmware sm.toNat)

/-- Whether a firmware image verifies (R330, R332). -/
def imageOk (s : State) (sm : Bool) : Bool :=
  let l := s.image sm
  headOk l && decide (field l 4 1 = 1) && signedBy l Config.rootKey && serialOk s l

/-- The casting table of an envelope that the director accepts (R330, R331): the factory table is signed by the root, a recast one
by the device identity key; one that is not in force yet needs a new SEQ; every row then holds 320 live positions, reinstated ones
counted (log 31). -/
def tableOk (s : State) (l : List Byte) : Option Casting :=
  match Casting.ofBody (bodyOf l) with
  | none => none
  | some k =>
    if headOk l && decide (field l 4 1 = 2) && signedBy l (if k.gen = 0 then Config.rootKey else deviceKey) && serialOk s l
        && (decide (l = s.host.mbox.table) || (lastSeq s 2).all fun q => decide (q < field l 32 8)) && (k.without s.casting.back).sound then
      some k
    else none

/-- The neighbours whose own clocks a position could run from. -/
def clockChoice (f : BootFinds) (row col : Nat) : List Dir :=
  [Dir.north, .east, .south, .west].filter fun d =>
    (besideOf row col d).any fun p => !f.osc.contains p && !f.dead.contains p

/-- A position whose oscillator fails takes one of them, any (R25; log 76), and keeps it until the next reset. -/
def clocksOf (f : BootFinds) (n : Nat) : AMap Dir :=
  f.osc.foldl (fun (m : AMap Dir) p =>
    let l := clockChoice f p.1 p.2
    match l[Config.pick n % l.length]? with
    | some d => m.put (pollKey p.1 p.2) d
    | none => m) []

/-- Positions that do not work: dead ones, and those with neither an oscillator nor a neighbour's clock. -/
def notWorking (f : BootFinds) : List (Nat × Nat) := f.dead ++ f.osc.filter fun p => (clockChoice f p.1 p.2).isEmpty

/-- The table after the self-tests: reinstated entries leave it, positions newly found dead are retired (R357, R360). -/
def castAtBoot (k : Casting) (back : List (Nat × Nat)) (bad : List (Nat × Nat)) : Casting :=
  let kept := k.dead.filter fun d => !back.contains (d.1, d.2.1) || bad.contains (d.1, d.2.1)
  let new := bad.filter fun d => !kept.any (fun e => decide (e.1 = d.1 ∧ e.2.1 = d.2)) && !k.deadFields.contains (d.1 / 64, d.2 / 48)
  let k1 := { k with dead := kept ++ new.map fun (d : Nat × Nat) => (d.1, d.2, true) }
  { k1 with
    gen := if kept = k.dead ∧ new = [] then k.gen else k.gen + 1
    back := [], vacant := k1.vacancies }

/-- The module state that the table after the cast gives (R358, R379): a row that has become short since the table was accepted leaves
the module degraded (log 31). -/
def bootState (k : Casting) : Nat := if k.sound then 1 else 2

def State.setMod (s : State) (n : Nat) : State := { s with host := { s.host with modState := n } }

/-- Boot from the casting table on: recast, stage-manager firmware, owner key, pool. -/
def bootOn (f : BootFinds) (s : State) (t : List Byte) (k0 : Casting) : State :=
  let k := castAtBoot k0 s.casting.back (notWorking f)
  let s := { s with casting := k }
  let s := if k.gen = k0.gen then s.setTable t (field t 32 8) else s.signCasting
  if !imageOk s true then s.setMod 14
  else
    let s := s.measure 5 s.host.mbox.owner
    ({ s with firn := s.firn.filter fun e => decide (e.1 % 2 ^ 26 < 8 * (s.pl.getD (e.1 / 2 ^ 26) 4) * 2 ^ 20) } : State).setMod (bootState k)

/-- From power-good: firmware is measured and verified, positions self-test and take their clocks, the casting table is verified and
takes newly dead positions, the pool is zeroed and the module becomes ready. A bad image leaves it in recovery, a bad table
failed (log 31). -/
def execPowerOnBoot (f : BootFinds) (s : State) : Host.Outcome State Fault Refusal :=
  if s.host.modState ≠ 0 then .next s
  else
    let m := s.host.mbox
    let s := { s with host := { s.host with
      serial := f.serial, mbox := { m with owner := if m.owner = [] then Config.ownerKey else m.owner, log := [] } } }
    let s := s.measure 1 (s.image false)
    if !imageOk s false then .next (s.setMod 14)
    else
      let s := ({ s with clocks := clocksOf f s.strip } : State).measure 1 (s.image true)
      let t := if m.table = [] then f.table else m.table
      match tableOk s t with
      | none => .next (s.setMod 3)
      | some k => .next (bootOn f s t k)

/-! ## The mailbox (R380) -/

/-- Set the inbox's state and reason. -/
def State.sobResult (s : State) (state reason : Nat) : State :=
  { s with host := { s.host with mbox := { s.host.mbox with istat := state, ireason := reason } } }

/-- A GO write: a submission is checked unless one is already (R380). -/
def execSobSubmit (v : Word) (s : State) : Host.Outcome State Fault Refusal :=
  if v.getLsbD 0 = true ∧ s.host.mbox.istat ≠ 1 then .next (s.sobResult 1 0) else .next s

/-- The submitted object as the inbox holds it. -/
def inboxBytes (s : State) : List Byte :=
  let m := s.host.mbox
  bytesOf m.ilen (m.inbox.readN 0 m.ilen)

/-- The key that R329 allows for a type of the inbox, none for a type that the inbox does not take. -/
def signerOf (s : State) (ty : Nat) : Option (List Byte) :=
  match ty with
  | 1 => some Config.rootKey
  | 3 => some s.host.mbox.owner
  | 5 => some s.host.mbox.owner
  | _ => none

/-- The reason for which the body of a type is malformed or cannot be used, none where it can (R360, R380). A GEN above
the current one has reason 6 (log 32). -/
def bodyBad (s : State) (ty : Nat) (body : List Byte) (testPass : Bool) : Option Nat :=
  match ty with
  | 3 =>
    let col := field body 0 4 % 2 ^ 9
    let row := field body 0 4 / 2 ^ 9 % 2 ^ 9
    if body.length ≠ 16 ∨ 2 ^ 18 ≤ field body 0 4 ∨ 256 ≤ field body 8 4 ∨ field body 12 4 ≠ 0 then some 5
    else if !s.casting.dead.contains (row, col, true) || s.casting.back.contains (row, col)
        || decide (s.casting.gen < field body 4 4) || !testPass then some 6
    else none
  | 5 => if body.length = 136 ∧ field body 133 3 = 0 then none else some 5
  | _ => none

/-- The reason for which a submission is refused, in the order of the table of R380 where several hold (log 32). -/
def sobReason (s : State) (l : List Byte) (testPass : Bool) : Option Nat :=
  let ty := field l 4 1
  if !headOk l then some 5
  else
    match signerOf s ty with
    | none => some 7
    | some key =>
      if field l 16 8 ≠ keyId key then some 2
      else if !Crypto.verify key (Crypto.sha512 (l.take (l.length - 132))) (l.drop (l.length - 132)) then some 1
      else if !serialOk s l || (decide (ty = 3) && decide (field l 24 8 ≠ s.host.serial)) then some 3
      else if ty ≠ 1 ∧ (lastSeq s ty).any (fun q => decide (field l 32 8 ≤ q)) = true then some 4
      else bodyBad s ty (bodyOf l) testPass

/-- What an accepted object does: firmware is measured and lets a module in recovery boot again, a reinstated position
becomes an understudy and its reason is recorded, an owner key is enrolled (R332, R360; log 32). -/
def sobAccept (s : State) (l : List Byte) : State :=
  let ty := field l 4 1
  let body := bodyOf l
  let s := s.setSeq ty (field l 32 8)
  let m := s.host.mbox
  match ty with
  | 1 =>
    let sm := Config.firmwareSlot body
    let s := ({ s with host := { s.host with mbox := { m with images := (sm, l) :: m.images.filter fun e => e.1 != sm } } } : State).measure 1 l
    if s.host.modState = 14 then s.setMod 0 else s
  | 3 =>
    let at' := (field body 0 4 / 2 ^ 9 % 2 ^ 9, field body 0 4 % 2 ^ 9)
    { s with
      casting := { s.casting with back := s.casting.back ++ [at'] }
      host := { s.host with mbox := { m with reasons := m.reasons ++ [(at'.1, at'.2, field body 8 4)] } } }
  | _ =>
    let key := body.take 133
    ({ s with host := { s.host with mbox := { m with owner := key } } } : State).measure 5 key

/-- The end of a check, with the outcome of the self-test that a reinstatement needs. A record whose self-test fails has used its
sequence number (R360). -/
def execSobCheckDone (testPass : Bool) (s : State) : Host.Outcome State Fault Refusal :=
  if s.host.mbox.istat ≠ 1 then .next s
  else
    let l := inboxBytes s
    match sobReason s l testPass, sobReason s l true with
    | none, _ => .next ((sobAccept s l).sobResult 2 0)
    | some r, none => .next ((s.setSeq (field l 4 1) (field l 32 8)).sobResult 3 r)
    | some r, some _ => .next (s.sobResult 3 r)

/-- An object in the outbox, built at once: SOB.OSTAT is never 1 (log 32). -/
def State.outboxPut (s : State) (l : List Byte) : State :=
  { s with host := { s.host with mbox := { s.host.mbox with outbox := l, olen := l.length, ostat := 2 } } }

/-- Whether launches, aperture accesses and tokens are accepted: the module has become ready (R378). -/
def State.serving (s : State) : Bool := decide (s.host.modState = 1) || decide (s.host.modState = 2)

/-- Whether stage managers run: boot is over, and it was not a firmware image that failed (R378, R379). -/
def State.managed (s : State) : Bool := decide (s.host.modState ≠ 0) && decide (s.host.modState ≠ 14)

/-- Recovery: only the inbox takes writes (R379). Other writes with an action act in every other state, before boot too: R378
bars launches, aperture accesses and tokens alone (log 80). -/
def State.inRecovery (s : State) : Bool := decide (s.host.modState = 14)

def execSobOreqCasting (s : State) : Host.Outcome State Fault Refusal :=
  .next (if !s.inRecovery then s.outboxPut s.host.mbox.table else s)

/-- A quote of the measurement log; its SEQ is 0 (R332; log 30). -/
def execSobOreqQuote (s : State) : Host.Outcome State Fault Refusal :=
  let m := s.host.mbox
  .next (if !s.inRecovery then s.outboxPut (sealed s 4 0 (bytesOf 32 m.nonce.toNat ++ logBytes m.log)) else s)

def execSobOreqCert (s : State) : Host.Outcome State Fault Refusal :=
  .next (if !s.inRecovery then s.outboxPut Config.deviceCert else s)

end Sys2Proof.Machine
end

