-- ==== Sys2Proof/Machine/Stages.lean ====
section
/-! DEFINITION. Stages.lean: launches, placement, scene install, curtains and the end of a stage (spec 01 R15, R17, R23, 10
R285 to R292, 11 R314, R315, R319, 13 R370 to R373). -/

namespace Sys2Proof.Machine

/-- The first number from `i` on, among `fuel`, that meets a test. -/
def firstNat (p : Nat → Bool) (i fuel : Nat) : Option Nat :=
  match fuel with
  | 0 => none
  | k + 1 => if p i then some i else firstNat p (i + 1) k

/-! ## The launch record (R372) -/

/-- Word `i` of what stands at a byte offset of the launch area. -/
def State.launchWord (s : State) (off i : Nat) : Nat := s.host.launchArea.readN (off + 4 * i) 4

def wordsFrom (m : Mem) (a n : Nat) : List Word :=
  match n with
  | 0 => []
  | k + 1 => word (m.readN a 4) :: wordsFrom (m.dropWhile (fun e => decide (e.1 < a + 4))) (a + 4) k

/-- The words of an image, up to the last byte of the area that is not zero: an END record is no zero word
(log 84). -/
def imageWords (m : Mem) (a : Nat) : List Word :=
  let m := m.dropWhile (fun e => decide (e.1 < a))
  match m.getLast? with
  | some e => wordsFrom m a ((e.1 - a) / 4 + 1)
  | none => []

/-- A launch record whose fields are in range: channel entries (channel, cell, queue) and portal entries (queue,
channel). -/
structure LaunchRec where
  prio : Nat
  debug : Bool
  swd : Nat
  ubl : Nat
  job : Nat
  qp : Nat
  qs : Nat
  wq : Nat
  img : Nat
  cqn : Nat
  chans : List (Nat × Nat × Nat)
  egress : List Nat
  portals : List (Nat × Nat)
  deriving DecidableEq, Repr

/-- The record at an offset, none where a field is out of range or a reserved bit is set. -/
def launchRec (s : State) (off : Nat) : Option LaunchRec :=
  let w := s.launchWord off
  let nch := w 7
  let neg := w 8
  let npt := w 9
  let q4 := w 4
  let fieldsOk : Bool := decide (w 0 = 0xA64C4C01) && decide (w 1 < 8) && decide (q4 < 2 ^ 24) && !q4.testBit 7 && !q4.testBit 15
    && decide (1 ≤ bits q4 0 7 ∧ bits q4 0 7 ≤ 64) && decide (1 ≤ bits q4 8 7 ∧ bits q4 8 7 ≤ 64)
    && decide (1 ≤ bits q4 16 8 ∧ bits q4 16 8 ≤ 128) && decide (w 5 % 8 = 0 ∧ w 5 < 2 ^ 28) && decide (w 6 < 4096)
    && decide (nch ≤ 131072) && decide (neg ≤ 4096) && decide (npt ≤ 4096)
    && (List.range 6).all (fun i => decide (w (10 + i) = 0)) && decide (off + 64 + 8 * nch + 4 * neg + 4 * npt ≤ 2 ^ 28)
  if !fieldsOk then none
  else
    let ch := (List.range nch).map fun i => (w (16 + 2 * i), w (17 + 2 * i))
    let eg := (List.range neg).map fun i => w (16 + 2 * nch + i)
    let pt := (List.range npt).map fun i => w (16 + 2 * nch + neg + i)
    if ch.all (fun e => decide (e.1 < 2 ^ 17 ∧ e.2 < 2 ^ 21 ∧ e.2 / 2 ^ 18 ≤ 5)) && eg.all (fun e => decide (e < 4096))
        && pt.all (fun e => decide (e < 2 ^ 29)) then
      some
        { prio := w 1 % 4, debug := (w 1).testBit 2, swd := w 2, ubl := w 3 % 2 ^ 16, job := w 3 / 2 ^ 16
          qp := bits q4 0 7, qs := bits q4 8 7, wq := bits q4 16 8, img := w 5, cqn := w 6
          chans := ch.map fun e => (e.1, e.2 % 2 ^ 18, e.2 / 2 ^ 18), egress := eg
          portals := pt.map fun e => (e % 2 ^ 12, e / 2 ^ 12) }
    else none

/-- Whether a queue is bound to no stage. -/
def State.queueFree (s : State) (q : Nat) : Bool := (s.egress q).bound.isNone

/-- The egress queues that a scene's routes name; a scene that is refused names none here. -/
def sceneQueues (h : ImageHead) (img : List Word) (i : Nat) : List Nat :=
  let l := sceneWords img i
  match records ⟨h.w, h.h, blankCells 0 h.w h.h, [], none, Vector.replicate 8 none, none, []⟩ l (l.length + 1) with
  | .ok d => d.cells.flatMap fun e => e.2.routes.toList.filterMap fun r =>
      match r with
      | some ⟨_, _, .host q, _⟩ => some q
      | _ => none
  | .error _ => []

/-- Whether the bindings that a record asks for stand in the way of its launch (R317, R372; log 28). -/
def bindingsBad (s : State) (r : LaunchRec) (h : ImageHead) (img : List Word) : Bool :=
  let queues := r.egress ++ r.portals.map (·.1)
  let logOk (q : Nat) : Bool := decide (4 ≤ (s.egress q).log2n ∧ (s.egress q).log2n ≤ 20)
  let portalOk (k : Nat) : Bool :=
    match (s.chan k).bound with
    | some (st, _, _) => decide ((s.stage st).job = r.job)
    | none => false
  !(decide (r.chans.map (·.1)).Nodup && r.chans.all (fun c => (s.chan c.1).bound.isNone && decide (c.2.1 < h.w * h.h))
    && decide queues.Nodup && queues.all s.queueFree && r.egress.all logOk
    && !queues.contains r.cqn && s.queueFree r.cqn && (s.egress r.cqn).cq && logOk r.cqn
    && r.portals.all (fun p => portalOk p.2)
    && (List.range h.nsc).all (fun i => (sceneQueues h img i).all fun q => queues.contains q))

/-- What a launch comes to before an ID is looked for: a refusal with its reason and INSTALL code, or what to enter. The record's fields
come first, then the image, then the bindings (log 28). -/
def launchCheck (s : State) (off : Nat) : Except (Nat × Nat) (LaunchRec × ImageHead × List Word) :=
  match launchRec s off with
  | none => .error (1, 0)
  | some r =>
    let img := imageWords s.host.launchArea r.img
    match imageHead img with
    | .error f => .error (2, f.code)
    | .ok h =>
      match sceneOf h.w h.h (blankCells 0 h.w h.h) (fun _ => 8) (sceneWords img 0) with
      | .error f => .error (2, f.code)
      | .ok _ => if bindingsBad s r h img then .error (1, 0) else .ok (r, h, img)

/-! ## Acceptance, refusal, waiting for an ID (R285, R314, R370, R373) -/

/-- An ID that no queued, placed or pre-empted stage holds: the lowest (log 28). -/
def State.freeId (s : State) : Option Nat :=
  firstNat (fun i => match AMap.get? s.stages i with
    | some t => decide (t.status = .ended)
    | none => true) 0 4096

def State.setLaunchStat (s : State) (n : Nat) : State := { s with host := { s.host with launchStat := word n } }

/-- Refuse a launch: a TYPE 6 entry where the completion queue is fit and free, and LAUNCH.STAT. -/
def refuseLaunch (s : State) (off reason code : Nat) : State :=
  let q := s.launchWord off 6
  let e := s.egress q
  let post := decide (off + 64 ≤ 2 ^ 28) && decide (q < 4096) && s.queueFree q && e.cq && decide (4 ≤ e.log2n ∧ e.log2n ≤ 20)
  let s := if post then postCe s q (ceWords 6 [word (reason + code * 2 ^ 4)]) else s
  s.setLaunchStat (2 + reason * 2 ^ 2 + code * 2 ^ 6 + post.toNat * 2 ^ 11)

/-- Enter a stage into its priority queue under an ID: its block, its bindings, its TYPE 5 entry. Completion entries that are held
for its queues are of refused launches or ended stages, and are dropped: no entry is posted to a queue that another stage holds
(R372; log 81). -/
def acceptLaunch (s : State) (id : Nat) (r : LaunchRec) (h : ImageHead) (img : List Word) : State :=
  let queues := r.egress ++ r.portals.map (·.1) ++ [r.cqn]
  let t : Stage := { Stage.blank with
    w := h.w, h := h.h, job := r.job, prio := r.prio, debug := r.debug, swd := r.swd, ubl := r.ubl, qp := r.qp
    qs := r.qs, wq := r.wq, cqn := r.cqn, image := img, reloc := h.reloc, smax := h.smax, nsc := h.nsc
    arrived := s.tick, ordinal := s.host.nextOrdinal, egress := queues, channels := r.chans.map (·.1), portals := r.portals }
  let s := { (s.setStage id t) with host := { s.host with
    nextOrdinal := s.host.nextOrdinal + 1
    heldCe := s.host.heldCe.filter fun e => !queues.contains e.1
    chans := r.portals.foldl (fun (m : AMap Channel) (p : Nat × Nat) => m.put p.2 { m.getD p.2 Channel.blank with portal := true })
      (r.chans.foldl (fun (m : AMap Channel) (c : Nat × Nat × Nat) =>
        m.put c.1 { m.getD c.1 Channel.blank with bound := some (id, c.2.1, Fin.ofNat 8 c.2.2) }) s.host.chans) } }
  let s := queues.foldl (fun s q => s.setEgress q { s.egress q with bound := some id, head := 0, count := 0 }) s
  (s.complete id 5 [word id, 0xFFFFFFFF]).setLaunchStat (1 + 2 ^ 11 + id * 2 ^ 16)

/-- A doorbell write: the record is checked, then accepted, held for an ID, or refused. -/
def execLaunch (off : Nat) (s : State) : Host.Outcome State Fault Refusal :=
  if !s.serving then .next s
  else
    match launchCheck s off with
    | .error (reason, code) => .next (refuseLaunch s off reason code)
    | .ok (r, h, img) =>
      match s.host.heldLaunch, s.freeId with
      | [], some id => .next (acceptLaunch s id r h img)
      | _, _ => .next (({ s with host := { s.host with heldLaunch := s.host.heldLaunch ++ [off] } } : State).setLaunchStat 3)

/-- The oldest held launch is accepted once an ID is free; its record is read and checked again then (log 28). -/
def execLaunchAccept (s : State) : Host.Outcome State Fault Refusal :=
  match s.host.heldLaunch, s.freeId with
  | off :: rest, some id =>
    let s := { s with host := { s.host with heldLaunch := rest } }
    match launchCheck s off with
    | .error (reason, code) => .next (refuseLaunch s off reason code)
    | .ok (r, h, img) => .next (acceptLaunch s id r h img)
  | _, _ => .next s

/-! ## Placement (R15, R17, R286, R287) -/

def State.halfNum (s : State) (n : Nat) : Nat := s.stripOf n * 2 + s.halfOf n
def State.plOf (s : State) (h : Nat) : Nat := s.pl.getD h 4

/-- Whether a logical position exists and no placed stage owns it. -/
def cellFree (s : State) (n : Nat) : Bool :=
  decide (n % 320 < (s.casting.cols (n / 320)).length) && !s.stages.any (fun e => e.2.owns n)

/-- Whether a placed or pre-empted stage holds a number. -/
def Stage.covers (t : Stage) (n : Nat) : Bool :=
  (decide (t.status = .placed) || decide (t.status = .preempted))
    && decide (t.y0 ≤ n / 320 ∧ n / 320 < t.y0 + t.h ∧ t.x0 ≤ n % 320 ∧ n % 320 < t.x0 + t.w)

/-- Whether a stage that a recast pre-empted keeps a position, at which it is to be restored (R357). -/
def State.kept (s : State) (n : Nat) : Bool :=
  s.stages.any fun e => decide (e.2.status = .preempted) && e.2.recast && e.2.covers n

/-- Whether a change of a mapping that is not complete has unmapped a frame, which is not free before (R325). -/
def State.leaves (s : State) (f : Nat) : Bool := s.maps.any fun m => m.frames.contains f

/-- Whether a frame is allocated: some table maps or is in it, or it is not free yet. -/
def State.allocated (s : State) (f : Nat) : Bool := (AMap.get? s.frames f).isSome || s.leaves f

/-- Whether the half strip under a cell meets a slice size: by its PL, or by raising it over frames that are not
allocated (R15). -/
def canHold (s : State) (smax n : Nat) : Bool :=
  let h := s.halfNum n
  let p := s.plOf h
  (List.range 32).all fun t =>
    decide (31 < t + 4 * p) || decide (t + 4 * smax ≤ 31) || !s.allocated (t * 24576 + h)

def rectCells (w h x0 y0 : Nat) : List Nat := (List.range (w * h)).map fun i => (y0 + i / w) * 320 + (x0 + i % w)

/-- Whether a stage's rectangle at an origin lies on the grid and all its cells are free and hold its slices. -/
def fitsAt (s : State) (t : Stage) (x0 y0 : Nat) : Bool :=
  decide (x0 + t.w ≤ 320) && decide (y0 + t.h ≤ 512) && (rectCells t.w t.h x0 y0).all fun n => cellFree s n && canHold s t.smax n

/-- Whether a stage may be placed at an origin: no recast keeps a cell of it for another. -/
def originOk (s : State) (t : Stage) (x0 y0 : Nat) : Bool := fitsAt s t x0 y0 && (rectCells t.w t.h x0 y0).all fun n => !s.kept n

/-- The first origin in row-major order. -/
def findOrigin (s : State) (t : Stage) : Option (Nat × Nat) :=
  (firstNat (fun i => originOk s t (i % 320) (i / 320)) 0 (320 * 512)).map fun i => (i % 320, i / 320)

def State.zeroFrame (s : State) (f : Nat) : State :=
  { s with firn := s.firn.filter fun e => !(decide (frameKey f 0 ≤ e.1) && decide (e.1 < frameKey f 0 + 2 ^ 21)) }

/-- Free frames that a higher PL has made private lose what a job left in them (R315; log 40). -/
def State.scrubPrivate (s : State) : State :=
  (s.dirty.filter fun e => decide (31 < e.1 / 24576 + 4 * s.plOf (e.1 % 24576))).foldl
    (fun s e => { s.zeroFrame e.1 with dirty := s.dirty.del e.1 }) s

/-- Raise the PL of the half strips under a rectangle to a slice size. -/
def raisePl (s : State) (cells : List Nat) (smax : Nat) : State :=
  State.scrubPrivate { s with pl := cells.foldl (fun (m : AMap Nat) n => if m.getD (s.halfNum n) 4 < smax then m.put (s.halfNum n) smax else m) s.pl }

/-- The bank of a stage's rectangle. -/
def Stage.bank (t : Stage) (x0 y0 : Nat) : CtrlBank := ⟨x0, y0, t.w, t.h, []⟩

/-- The endpoints that have sent to a set of destinations, by stage: those of a stage's set, or those to the cells of a row. -/
def State.senders (s : State) (st : Nat) : List (Nat × Nat × Nat) :=
  if st < 4096 then (s.ctrlOf st).sent.map fun p => (st, p)
  else s.ctrl.flatMap fun e =>
    if e.1 < 4096 then (e.2.sent.filter fun p => decide (rowSet p.2 = some st)).map fun p => (e.1, p) else []

/-- A drain-and-swap of a set of CTRL destinations begins: the new entries stand in the other bank, new items are held at their
sources, and every endpoint that has sent to one of the set sends a drain token to it on the old path (R23). -/
def State.startSwap (s : State) (st : Nat) (b : CtrlBank) : State :=
  let k := s.ctrlOf st
  let l := s.senders st
  { s with
    ctrl := s.ctrl.put st { k with banks := vset k.banks (1 - k.use) b, pending := true, sent := [], tokens := k.tokens ++ l.map (·.2) }
    items := s.items ++ l.map fun p => ⟨p.1, p.2.1, p.2.2, .token, false, Hop.at (endRouter p.2.1) s.strip⟩ }

/-- A stage takes a rectangle: status, origin, and CTRL tables that wait for their swap (R23). -/
def takeRect (s : State) (id : Nat) (t : Stage) (x0 y0 : Nat) : State :=
  let s := raisePl s (rectCells t.w t.h x0 y0) t.smax
  (s.setStage id { t with status := .placed, x0 := x0, y0 := y0, placedOnce := true, unplaceable := false }).startSwap id
    (t.bank x0 y0)

/-- A queued request takes its rectangle with blank cells. -/
def placeStage (s : State) (id : Nat) (t : Stage) (x0 y0 : Nat) : State :=
  (List.range (t.w * t.h)).foldl (fun s i =>
    s.setCell ((y0 + i / t.w) * 320 + (x0 + i % t.w)) (CellState.blank id (i % t.w) (i / t.w))) (takeRect s id t x0 y0)

/-- Insert by a key, behind equal ones. -/
def insertBy {α : Type} (f : α → Nat) (a : α) (l : List α) : List α :=
  match l with
  | [] => [a]
  | b :: r => if f a < f b then a :: b :: r else b :: insertBy f a r

/-- The waiting requests in order of priority, within one in order of arrival. -/
def waiting (s : State) : List (Nat × Stage) :=
  let byAge := (s.stages.filter (fun e => decide (e.2.status = .queued))).foldl (fun l e => insertBy (fun x => x.2.ordinal) e l) []
  byAge.foldl (fun l e => insertBy (fun x => x.2.prio) e l) []

/-- Whether a request that waits has waited 50 ms, and is not reported unplaceable (R287, R288). -/
def State.agedOne (s : State) (t : Stage) : Bool :=
  decide (t.status = .queued) && (t.aged || decide (t.arrived + 5000000 ≤ s.tick)) && !t.unplaceable

/-- Whether an aged request arrived before a request. -/
def heldBack (s : State) (t : Stage) : Bool := s.stages.any fun e => s.agedOne e.2 && decide (e.2.ordinal < t.ordinal)

/-- Try one waiting request. -/
def tryPlace (s : State) (e : Nat × Stage) : State :=
  if heldBack s e.2 then s
  else
    match findOrigin s e.2 with
    | some o => placeStage s e.1 e.2 o.1 o.2
    | none => s

/-- The module places stages while it is ready or degraded (R379). -/
def execPlacement (s : State) : Host.Outcome State Fault Refusal :=
  .next (if s.serving then (waiting s).foldl tryPlace s else s)

/-- Whether an item is held for a set alone: of its stage, or of the row of the cell that it is for. -/
def State.heldFor (s : State) (st : Nat) (i : CtrlItem) : Bool :=
  i.held && (if st < 4096 then decide (i.stage = st) && !s.rowHeld i.dest else decide (rowSet i.dest = some st) && !s.ctrlHeld i.stage)

/-- Once every drain token has arrived, the standing bank is the one in use and the held items go (R23). The cells of a restored stage
start by their tick after it (R285). -/
def execDrainAndSwap (st : Nat) (s : State) : Host.Outcome State Fault Refusal :=
  let k := s.ctrlOf st
  if !k.pending || !k.tokens.isEmpty then .next s
  else
    let free := s.items.filter (s.heldFor st)
    let s := { s with
      items := s.items.map fun i => if s.heldFor st i then { i with held := false, hop := { i.hop with came := s.strip } } else i
      ctrl := s.ctrl.put st { k with use := 1 - k.use, pending := false } }
    let s : State := free.foldl (fun (s : State) (i : CtrlItem) => s.noteSent i.stage (i.src, i.dest)) s
    let t := s.stage st
    .next (if t.status = .placed ∧ t.upAt.isSome = true then s.setStage st { t with startAt := s.tick + 2 } else s)

def State.swapped (s : State) (st : Nat) : Bool := !s.ctrlHeld st

/-- Whether the rows of a stage's rectangle take what the director does to them: no recast swaps their entries (R23). -/
def State.rowsOpen (s : State) (t : Stage) : Bool := !(List.range t.h).any fun i => s.ctrlHeld (4096 + t.y0 + i)

/-- The router that lacks an entry on the way from the director to a cell of a stage, or back, and the port (R316). -/
def State.stageGap (s : State) (st : Nat) : Option (Nat × Nat) :=
  (s.cells.filter fun e => decide (e.2.stage = st)).findSome? fun e => (s.gapTo st e.1).or (s.ctrlGap st e.1 4 directorAt 831)

/-- What the director does to a stage on CTRL: where a router has no entry for it, it is discarded there and reported (R316). -/
def onCtrl (s : State) (st : Nat) (next : Host.Outcome State Fault Refusal) : Host.Outcome State Fault Refusal :=
  match s.stageGap st with
  | some g => .next (s.routerRecord g.1 g.2)
  | none => next

/-! ## The end of a stage (R291, R314, R315, R319, R365) -/

/-- The bytes of a position below its half strip's PL: its slice share (R13, R15). -/
def State.sliceLimit (s : State) (n : Nat) : Nat := s.plOf (s.halfNum n) * 2 ^ 20

/-- Remove and scrub a cell: its slice, its merge windows, its state; the count of its corrected errors stays with the module
(R315, R371). -/
def State.scrub (s : State) (n : Nat) : State :=
  let s := s.sliceZero n 0 (s.sliceLimit n)
  { s with
    host := { s.host with cecc := s.host.cecc + (s.cell n).ecc }
    cells := s.cells.del n
    merges := (s.merges.map fun m => { m with who := m.who.filter fun w => decide (w.1 ≠ n) }).filter fun m => !m.who.isEmpty }

/-- Eight-byte entries of a frame that are not all zero, by index. -/
def State.frameEntries (s : State) (f : Nat) : List (Nat × DWord) :=
  let k := frameKey f 0
  let idx := ((s.firn.filter (fun e => decide (k ≤ e.1 ∧ e.1 < k + 2 ^ 21))).map fun e => (e.1 - k) / 8).dedup
  idx.map fun i => (i, s.frameWord f (i * 8))

/-- The frames that a valid leaf gives: none for a host window. -/
def leafFrames (e : DWord) (huge : Bool) : List Nat :=
  if entryF e 5 1 = 1 then [] else (List.range (if huge then 512 else 1)).map fun i => entryF e 12 20 + i

/-- The pages that the second-level table of a pointer maps. -/
def State.pagesBelow (s : State) (e : DWord) : List Nat :=
  ((s.frameEntries (entryF e 12 20)).filter (fun q => decide (q.1 / 512 = entryF e 32 9))).flatMap fun q =>
    if entryF q.2 0 1 = 1 ∧ entryF q.2 1 1 = 1 then leafFrames q.2 false else []

/-- Whether a first-level entry is a pointer to a second-level table. -/
def isPointer (e : DWord) : Bool := decide (entryF e 0 1 = 1 ∧ entryF e 1 1 = 0)

/-- The frames that hold second-level tables of a table, and the frames that it maps as pages (R320, R321). -/
def State.tableFrames (s : State) (root : Nat) : List Nat :=
  (s.frameEntries root).filterMap fun p => if isPointer p.2 then some (entryF p.2 12 20) else none
def State.pageFrames (s : State) (root : Nat) : List Nat :=
  (s.frameEntries root).flatMap fun p =>
    if entryF p.2 0 1 = 0 then [] else if isPointer p.2 then s.pagesBelow p.2 else leafFrames p.2 true

/-- The frames that a table maps or uses, its root among them. -/
def mappedFrames (s : State) (root : Nat) : List Nat := root :: (s.tableFrames root ++ s.pageFrames root)

/-- The root frames of all tables, but for one. -/
def otherRoots (s : State) (root : Nat) : List Nat :=
  ((s.stages.filterMap fun e => e.2.root) ++ s.guests.map (·.2)).filter fun r => decide (r ≠ root)

/-- Zero and free every frame that only one table maps. -/
def freeFrames (s : State) (root : Nat) : State :=
  let others := (otherRoots s root).flatMap (mappedFrames s)
  ((mappedFrames s root).filter fun f => !others.contains f).foldl
    (fun s f => { s.zeroFrame f with frames := s.frames.del f }) s

/-- The channel of a portal whose target has been unbound: none of the module's. -/
def closedPortal : Nat := 131072

/-- Whether a request, an item or a packet belongs to a stage of this module. -/
def reqOf (st : Nat) (r : Req) : Bool := decide (r.stage = st) && r.origin.isNone

/-- Whether another stage that has not ended has a portal into a channel (R319). -/
def portalInto (s : State) (st k : Nat) : Bool :=
  s.stages.any fun e => decide (e.1 ≠ st ∧ e.2.status ≠ .ended) && e.2.portals.any fun p => decide (p.2 = k)

/-- Clear a stage's bindings and aperture slots, and the PORTAL bit of channels it sends into; portals into its channels are closed (R318, R319, R365, R367). -/
def unbind (s : State) (st : Nat) : State :=
  let mine : List Nat := (s.host.chans.filter (fun e => e.2.bound.any fun b => decide (b.1 = st))).map (·.1)
  { s with
    stages := s.stages.map fun e => (e.1, { e.2 with portals := e.2.portals.map fun p => if mine.contains p.2 then (p.1, closedPortal) else p })
    host := { s.host with
      chans := (s.host.chans.filter fun e => !mine.contains e.1).map fun e => (e.1, { e.2 with portal := e.2.portal && portalInto s st e.1 })
      egress := s.host.egress.map fun e => if e.2.bound = some st then (e.1, { e.2 with bound := none }) else e
      aper := s.host.aper.map fun e => if bits e.2.toNat 1 12 = st then (e.1, e.2 &&& ~~~1#64) else e } }

/-- The numbers under which a cell's contexts hold watches at other modules. -/
def CellState.remoteWatches (c : CellState) : List (Nat × Nat) := c.ctxs.toList.filterMap fun t => if t.watchOut then t.watchId else none

/-- The records of a scene's discarded words, once (R318, R369). -/
def logLosses (s : State) (st : Nat) : State :=
  let t := s.stage st
  let s := s.setStage st { t with stat := { t.stat with portalLost := 0, egressLost := [] } }
  let s := if t.stat.portalLost = 0 then s
    else s.logFault st (stageRecord s st t.scene 8 2 true 0 0 0 0 .log) t.stat.portalLost false
  t.stat.egressLost.foldl (fun s e =>
    s.logFault st (stageRecord s st t.scene 8 4 true 0 (e.2.1 % t.w) (e.2.1 / t.w) (word e.1) .log) e.2.2 false) s

/-- Drain markers of a stage that are still on CTRL reach the director, which takes nothing back (R281); what else the stage has
there but for drain tokens goes with it. -/
def landMarks (s : State) (st : Nat) : State :=
  let t := s.stage st
  let mark (i : CtrlItem) : Option Nat :=
    match i.what with
    | .mark _ num => if i.stage = st then some num else none
    | _ => none
  { (s.setStage st { t with markers := t.markers ++ s.items.filterMap mark }) with
    items := s.items.filter fun i => decide (i.stage ≠ st ∨ i.what = .token) }

/-- The end of a stage: all that bears its ID goes, its cells and its own frames are zeroed, its ID is
free, with no count of service left under it (R314, R328). Portal words that are on the mesh to it or from it go with it (log 48). -/
def State.endStage (s : State) (st : Nat) : State :=
  let s := landMarks (logLosses s st) st
  let t := s.stage st
  let mem := (s.cellsOf st).map (·.1)
  let away := (s.cellsOf st).flatMap (fun e => e.2.remoteWatches) ++ t.saved.flatMap fun e => e.2.1.remoteWatches
  let s := away.foldl (fun s w => s.send (.cancel w.1 w.2)) s
  let s := { s with
    packets := s.packets.filter fun p => !(decide (p.stage = st) || mem.contains p.src)
    reqs := s.reqs.filter fun r => !reqOf st r
    acks := s.acks.filter fun a => !reqOf st a.req
    watches := s.watches.filter fun w => !(decide (w.stage = st) && w.origin.isNone)
    tlb := s.tlb.filter fun e => !(decide (e.stage = st) && e.guest.isNone)
    served := s.served.filter fun e => decide (e.1 % 2 ^ 21 ≠ 256 * 4096 + st) }
  let s := mem.foldl State.scrub s
  let s := match t.root with
    | some r => freeFrames s r
    | none => s
  let s := unbind s st
  let held := decide (t.status = .placed) || decide (t.status = .preempted)
  let s := s.setStage st { (s.stage st) with
      status := .ended, stopping := false, ending := false, recast := false, regroup := none, installed := false
      upAt := none, mask := none, arr := [], aggs := [], carries := [], root := none, saved := [], heldWakes := [] }
  if held then s.startSwap st CtrlBank.blank else s

/-- A write of 1 at +8 withdraws a queued request (R288, R314). -/
def execStageWithdraw (st : Nat) (s : State) : Host.Outcome State Fault Refusal :=
  match AMap.get? s.stages st with
  | some t => if t.status = .queued then .next (s.endStage st) else .next s
  | none => .next s

/-! ## Scene install and curtain up (R66, R67, R101, R285) -/

/-- What scene `i` of a stage gives its cells as they stand, or why it is refused. -/
def sceneFor (s : State) (t : Stage) (i : Nat) : Except InstallFail Draft :=
  sceneOf t.w t.h ((List.range (t.w * t.h)).map fun n => (n, (s.cell (t.cellNum n)).fresh s.tick))
    (fun n => s.plOf (s.halfNum (t.cellNum n))) (sceneWords t.image i)

/-- One cell takes its scene: its line cache is written back, slice bytes beyond a smaller slice are discarded: they read
zero if a later scene reaches them again (log 75). -/
def installCell (t : Stage) (s : State) (e : Nat × CellState) : State :=
  let n := t.cellNum e.1
  let old := (s.cell n).sliceMiB
  let s := s.flush n
  let s := if e.2.sliceMiB < old then s.sliceZero n e.2.sliceReach (s.sliceLimit n) else s
  s.setCell n e.2

/-- A scene that fails its checks is logged and posted, and the script ends (R292). -/
def installFail (s : State) (st i : Nat) (f : InstallFail) : State :=
  (s.hostRecord st (stageRecord s st i 1 f.code true f.slot f.x f.y f.opnd .host)).endStage st

/-- Whether a stage waits for its scene: no order stops or moves it, every fill of a store has come in, and what the scene before left
on CTRL has arrived, for the install does not overtake it (R21; log 72). -/
def installable (s : State) (st : Nat) (t : Stage) : Bool :=
  decide (t.status = .placed) && !t.installed && !t.stopping && t.regroup.isNone && s.swapped st && s.rowsOpen t && !s.onWay st
    && (s.cellsOf st).all (fun e => e.2.fills.isEmpty)

def execSceneInstall (st : Nat) (s : State) : Host.Outcome State Fault Refusal :=
  let t := s.stage st
  if !installable s st t then .next s
  else onCtrl s st <|
    match sceneFor s t t.scene with
    | .error f => .next (installFail s st t.scene f)
    | .ok d =>
      let s := d.cells.foldl (installCell t) s
      .next (s.setStage st { (s.stage st) with
        installed := true, upAt := none, stat := t.stat.anew, groups := d.groups, aggs := [], carries := [], arr := [] })

/-- Curtain up with its start tick, two ticks on. -/
def execCurtainUp (st : Nat) (s : State) : Host.Outcome State Fault Refusal :=
  let t := s.stage st
  if t.status = .placed ∧ t.installed = true ∧ t.upAt = none ∧ t.stopping = false ∧ s.swapped st = true ∧ s.rowsOpen t = true then
    onCtrl s st <| .next (s.setStage st { t with
      upAt := some (s.tick + 2), startAt := s.tick + 2, stat := { t.stat with lastAct := s.tick + 2 } })
  else .next s

/-! ## Curtain down (R289 to R292) -/

/-- Whether an enabled cue can select a context. -/
def cueCan (e : DWord) (k : Fin 4) : Bool :=
  cueEn e && (decide (cueF e 32 2 = 1) || (decide (cueF e 32 2 = 0) && decide (cueF e 34 2 = k.val)))

/-- The cue that the first word of a valid slot names. -/
def slotCue (w : Option Word) : Option (Fin 63) :=
  match w with
  | some w => if h : w.toNat / 2 ^ 26 < 63 then some ⟨w.toNat / 2 ^ 26, h⟩ else none
  | none => none

/-- A context is finished (R289). -/
def CellState.finished (c : CellState) (k : Fin 4) : Bool :=
  decide ((c.ctx k).status = .halted) || !c.slots.toList.any fun w => (slotCue w).any fun i => cueCan c.cues[i] k

def loads (f : Fill) : Bool :=
  match f.uses with
  | .load _ => true
  | _ => false

/-- Whether words of a fault record wait for the service mailbox (R353). -/
def CellState.recordWaits (c : CellState) : Bool :=
  c.mail7.any fun l => l.any fun w => decide (0x20 ≤ w.tag.toNat % 64 ∧ w.tag.toNat % 64 ≤ 0x23)

/-- Whether a beat source or destination waits on a generator that no longer runs. -/
def deadSrc (c : CellState) (b : BSrc) : Bool :=
  match b with
  | .const _ => false
  | .sq q => (c.sq[q]).isEmpty && !(c.gens[q]).active
def deadDst (c : CellState) (d : VDst) : Bool :=
  match d with
  | .v _ => false
  | .so q => decide (8 ≤ (c.so[q]).length) && !(c.gens[q]).active

/-- Whether what holds the arbiter need not be awaited: nothing, or beats held by a stopped generator (R167). -/
def CellState.holdSettled (c : CellState) : Bool :=
  match c.hold with
  | .none => true
  | .beats r => deadSrc c r.a || deadSrc c r.b || deadSrc c r.e || deadDst c r.dst
  | _ => false

/-- The conditions of R290 on one cell. An N-beat instruction goes on to its end, unless a stopped generator holds it for good
(log 82). -/
def CellState.quiet (c : CellState) : Bool :=
  c.ctxs.all (fun t => decide (t.uack = 0) && t.station.isNone && !t.acq && !t.watchOut && t.record.isNone && t.beside.isEmpty)
    && c.copyPend.isEmpty && c.copyAct.all (fun x => x.isNone) && c.gens.all (fun g => !g.active)
    && c.sf.isNone && c.div.isNone && !c.fills.any loads && c.mxq.isEmpty && c.mxRun.isNone && c.tsend.isNone
    && c.oq.all (fun q => q.isEmpty) && c.putSend.isEmpty && c.putHeld.isEmpty && c.asyncRecs.isEmpty
    && c.scan.all (fun p => p.agg.isNone) && c.holdSettled && !c.recordWaits

/-- Whether something that a stage sent is on its way: packets, carries. -/
def inFlight (s : State) (st : Nat) (t : Stage) : Bool :=
  let mem := (s.cellsOf st).map (·.1)
  s.packets.any (fun p => mem.contains p.src) || !t.aggs.isEmpty || !t.carries.isEmpty

/-- Whether a scene has ended (R290). -/
def sceneOver (s : State) (st : Nat) (t : Stage) : Bool :=
  (s.cellsOf st).all (fun e => e.2.quiet && (List.finRange 4).all e.2.finished) && !inFlight s st t

/-- The count of R303 has reached its limit in the scene: one WATCHDOG record, and the curtain record says so. -/
def watchdog (s : State) (st : Nat) : State :=
  let t := s.stage st
  if t.status = .placed ∧ t.swd ≠ 0 ∧ t.stat.wdog = false ∧ t.upAt.any (fun u => decide (u + t.swd ≤ s.tick)) = true then
    let s := s.setStage st { t with stat := { t.stat with wdog := true } }
    s.hostRecord st (stageRecord s st t.scene 12 1 true 0 0 0 0 .host)
  else s

/-- The curtain record (R291). -/
def curtainRecord (s : State) (st : Nat) (last ifail hostend : Bool) : List Word :=
  let t := s.stage st
  [word (st % 4096 + t.scene % 2 ^ 16 * 2 ^ 16), word (last.toNat + ifail.toNat * 2 + hostend.toNat * 4), word s.tick,
    word (s.tick / 2 ^ 32), word t.stat.flog, word t.elog.length, word (min t.stat.ubc 0xFFFFFFFF),
    word (t.stat.masked.toNat + (if t.stat.masked then s.duty else 0) * 2 + min t.stat.stalls 1023 * 2 ^ 6 + t.stat.wdog.toNat * 2 ^ 16)]

/-- Whether an instruction of a stage has fired since a tick. -/
def firedSince (s : State) (st r : Nat) : Bool := (s.cellsOf st).any fun e => e.2.lastFired.any fun f => decide (r ≤ f.2)

/-- A stage between two scenes: its cells evaluate nothing, the mask is off, and the counts of the next scene begin. Its last stall
report stands while nothing has fired since (R301). -/
def closeScene (s : State) (st : Nat) : State :=
  let t := s.stage st
  let s := s.setStage st { t with
    installed := false, upAt := none, mask := none, scene := t.scene + 1
    stat := { t.stat with reportAt := t.stat.reportAt.filter fun r => !firedSince s st r }.anew }
  { s with cells := s.cells.map fun e => if e.2.stage = st then (e.1, { e.2 with live := false }) else e }

/-- The curtain comes down: the record, then the next scene or the end of the script. The next scene is checked before the
record is written, for its IFAIL (log 29). -/
def execCurtainDown (st : Nat) (s : State) : Host.Outcome State Fault Refusal :=
  let t := s.stage st
  if t.status = .placed ∧ t.stopping = false ∧ t.upAt.isSome = true ∧ t.startAt ≤ s.tick ∧ sceneOver s st t = true
      ∧ s.swapped st = true ∧ s.rowsOpen t = true then
    onCtrl s st <|
    let s := logLosses (watchdog s st) st
    if t.nsc ≤ t.scene + 1 then .next ((s.complete st 1 (curtainRecord s st true false false)).endStage st)
    else
      match sceneFor s t (t.scene + 1) with
      | .error f => .next (installFail (s.complete st 1 (curtainRecord s st true true false)) st (t.scene + 1) f)
      | .ok _ => .next (closeScene (s.complete st 1 (curtainRecord s st false false false)) st)
  else .next s

end Sys2Proof.Machine
end

