-- ==== Sys2Proof/Machine/Preempt.lean ====
section
/-! DEFINITION. Preempt.lean: stop orders, pre-emption, restore, the host's end of a stage, retirement and the recast (spec 10
R287, R304, 12 R346, R354 to R358, 13 R408). -/

namespace Sys2Proof.Machine

/-! ## Stopping (R354, R408) -/

/-- A stop order: no cell of the stage fires any more. -/
def State.stopStage (s : State) (st : Nat) : State :=
  let s := s.setStage st { (s.stage st) with stopping := true }
  { s with cells := s.cells.map fun (e : Nat × CellState) => if e.2.stage = st then (e.1, { e.2 with live := false }) else e }

/-- The stop order goes on CTRL: while a drain-and-swap holds what goes to the stage's cells it waits (R23), and a router without an
entry throws it away and reports (R316). -/
def State.orderStop (s : State) (st : Nat) (stop : State) : State :=
  if s.swapped st = true ∧ s.rowsOpen (s.stage st) = true then (s.stageGap st).elim stop fun g => s.routerRecord g.1 g.2 else s

/-- Whether no special function is outstanding but one that a stopped generator holds for good: its operand beats, or its results
(R167, R182; log 82). -/
def CellState.sfSettled (c : CellState) : Bool :=
  match c.sf with
  | none => true
  | some j =>
    match c.hold with
    | .beats r => (match r.op with | .sf _ _ => j.joined.isNone && c.holdSettled | _ => deadDst c j.dst)
    | _ => deadDst c j.dst

/-- Whether a stopped cell has settled: steps 1 to 4 of R354, with its combines on the carry line and its engines' slice
accesses, and R242. A record may stay whose trap cell stops too, as every trap cell does: it is of the stage. -/
def CellState.settled (c : CellState) : Bool :=
  c.holdSettled && c.fills.isEmpty && c.div.isNone && c.sfSettled && c.mxRun.isNone && c.port.isEmpty
    && c.scan.all (fun p => p.work.isEmpty)
    && (c.mxStop || c.mxPark || !(c.mxq.head?).any fun m => mxPresent c m)
    && c.ctxs.all (fun t => decide (t.uack = 0) && t.station.isNone && !t.acq)
    && c.copyAct.all (fun x => x.all fun y => y.flight.isEmpty && y.work.isEmpty)
    && c.records.all (fun r => decide (r.dest = .trap) && c.trap.isSome)

/-- Whether a stopped stage has settled: its cells, its packets, what it has on CTRL, and its scan rounds, which go as far as they can
(R215, R242). -/
def settled (s : State) (st : Nat) : Bool :=
  let mem := (s.cellsOf st).map (·.1)
  (s.cellsOf st).all (fun e => e.2.settled) && !s.packets.any (fun p => decide (p.stage = st) || mem.contains p.src)
    && !s.onWay st && !scanMoves s (s.stage st)

/-! ## Saving (R354, R355) -/

/-- The slice of a cell by offset. -/
def State.sliceTake (s : State) (n : Nat) : Mem :=
  s.firn.filterMap fun e =>
    if e.1 / 2 ^ 26 = s.halfNum n ∧ e.1 % 256 / 32 = s.posOf n ∧ e.1 % 2 ^ 26 / 256 * 32 + e.1 % 32 < s.sliceLimit n then
      some (e.1 % 2 ^ 26 / 256 * 32 + e.1 % 32, e.2)
    else none

/-- Windows that have begun end; a declaration that is still pending in a strip cycle is withdrawn, which its context hears of at
restore (R307, R309). -/
def Context.withdraw (strip : Nat) (t : Context) : Context :=
  { t.endPhase with withdrawn := t.withdrawn || t.phase.any (fun ph => ph.own && !ph.begun strip) }

/-- What is saved of a cell: commands that wait count as accepted before the pre-emption (R310), and remote writes that their
targets have not accepted are sent again (R256). Its count of corrected errors stays with the position that it leaves. -/
def CellState.saved (c : CellState) (strip : Nat) : CellState :=
  { c with live := false, ecc := 0, ctxs := c.ctxs.map (Context.withdraw strip), mxq := c.mxq.map (fun (m : MxCmd) => { m with early := true }),
           putSend := c.putSend.map fun (w : Put) => { w with hop := none } }

/-- Save one cell, its save area in its slice, and free it (R355, R356; log 47). -/
def saveCell (st : Nat) (s : State) (n : Nat) : State :=
  let s := s.flush n
  let t := s.stage st
  let c := s.cell n
  let image : CellState × Mem := (c.saved s.strip, (c.saved s.strip).withArea t (s.strip * 163840 + n) n (s.sliceTake n))
  (s.setStage st { t with saved := t.saved.put (c.num t) image }).scrub n

/-- The tick of the last progress of a stage (R301). -/
def lastProgress (s : State) (st : Nat) : Nat :=
  (s.cellsOf st).foldl (fun m e => max m e.2.lastAct) (s.stage st).stat.lastAct

/-- Save a settled stage. Intervals that R301 and R303 count are kept as spans while it is away; a count of R303 that has reached its
limit is reported before it goes. -/
def saveStage (s : State) (st : Nat) : State :=
  let s := watchdog s st
  let p := lastProgress s st
  let s := (s.cellsOf st).foldl (fun s e => saveCell st s e.1) s
  let t := s.stage st
  s.setStage st { t with
    status := .preempted, stopping := false, regroup := none, upAt := t.upAt.map fun u => s.tick - u
    stat := { t.stat with lastAct := s.tick - p } }

/-! ## The recast (R19, R326, R357, R358) -/

/-- One retired position enters the casting table: GEN + 1, signed and measured; name caches are emptied, and CTRL tables of its
row are swapped under number 4096 and the row (R23). -/
def recastOne (s : State) (p : Nat × Nat) : State :=
  let k := s.casting
  let again := k.dead.any fun d => decide (d.1 = p.1 ∧ d.2.1 = p.2)
  let k := { k with gen := k.gen + 1, dead := if again then k.dead else k.dead ++ [(p.1, p.2, true)], back := k.back.erase p }
  let k := { k with vacant := k.vacancies }
  let s := { s with casting := k, cells := s.cells.map fun (e : Nat × CellState) => (e.1, { e.2 with names := [], nameWalk := [] }) }
  let s := s.startSwap (4096 + p.1) ⟨0, p.1, 320, 1, []⟩
  let s := s.signCasting
  if s.host.modState = 1 ∧ k.vacant ≠ [] then { s with host := { s.host with modState := 2 } } else s

/-- The recasts that wait, once every stage that they stop is saved. -/
def recastReady (s : State) : State :=
  if s.stages.any fun e => decide (e.2.status = .placed) && e.2.recast then s
  else s.retiring.foldl recastOne { s with retiring := [] }

/-! ## Pre-emption (R287, R354) -/

/-- A stage that was ordered to stop is saved once it has settled; one that is to move is saved at its curtain down. -/
def execPreempt (st : Nat) (s : State) : Host.Outcome State Fault Refusal :=
  let t := s.stage st
  if t.status = .placed ∧ t.ending = false ∧ (t.stopping = true ∨ (t.regroup.isSome = true ∧ t.installed = false))
      ∧ settled s st = true then
    .next (recastReady (saveStage s st))
  else .next s

/-- A stage that is to move and had no curtain for 200 ms is stopped, as is one that a recast stops whose order did not reach it
(R357). -/
def execForcedPreempt (st : Nat) (s : State) : Host.Outcome State Fault Refusal :=
  let t := s.stage st
  let due := t.recast || t.regroup.any fun r => decide (r + 20000000 ≤ s.tick)
  if t.status = .placed ∧ t.stopping = false ∧ due = true then .next (s.orderStop st (s.stopStage st)) else .next s

/-! ## Regrouping (R287, R288) -/

/-- The stages that stand in a rectangle, none where it cannot be cleared. -/
def inTheWay (s : State) (t : Stage) (x0 y0 : Nat) : Option (List (Nat × Stage)) :=
  let rect := rectCells t.w t.h x0 y0
  if x0 + t.w ≤ 320 ∧ y0 + t.h ≤ 512
      ∧ rect.all (fun n => decide (n % 320 < (s.casting.cols (n / 320)).length) && canHold s t.smax n && !s.kept n) = true then
    let l := s.stages.filter fun e => rect.any fun n => e.2.owns n
    if l.all (fun e => e.2.reloc) then some l else none
  else none

/-- Ordinals of a set, latest launch first. -/
def ages (l : List (Nat × Stage)) : List Nat := (l.foldl (fun l e => insertBy id e.2.ordinal l) []).reverse

/-- Whether one set is moved rather than another: fewer stages, then later launches. -/
def better (a b : List (Nat × Stage)) : Bool :=
  decide (a.length < b.length) || (decide (a.length = b.length) && later (ages a) (ages b))
where
  later (a b : List Nat) : Bool :=
    match a, b with
    | x :: r, y :: q => decide (y < x) || (decide (x = y) && later r q)
    | _, _ => false

/-- The set to move for a request, over all origins from number `i` on. -/
def bestSet (s : State) (t : Stage) (best : Option (List (Nat × Stage))) (i fuel : Nat) : Option (List (Nat × Stage)) :=
  match fuel with
  | 0 => best
  | k + 1 =>
    let new := inTheWay s t (i % 320) (i / 320)
    let best := match best, new with
      | none, n => n
      | some b, some n => if better n b then some n else some b
      | some b, none => some b
    bestSet s t best (i + 1) k

/-- Whether a request is the first of the aged ones that the director serves. -/
def firstAged (s : State) (t : Stage) : Bool := !heldBack s t

/-- A request that has waited 50 ms ages. The first aged one has stages ordered to move, or is reported unplaceable. -/
def execRequestAged (st : Nat) (s : State) : Host.Outcome State Fault Refusal :=
  let t := s.stage st
  if t.status = .queued ∧ (AMap.get? s.stages st).isSome = true ∧ t.arrived + 5000000 ≤ s.tick then
    let s := s.setStage st { t with aged := true }
    if t.unplaceable || !firstAged s t || s.stages.any (fun e => e.2.regroup.isSome) then .next s
    else
      match bestSet s t none 0 (320 * 512) with
      | some l => .next (l.foldl (fun s e => s.setStage e.1 { (s.stage e.1) with regroup := some s.tick, movedFor := some t.ordinal }) s)
      | none => .next ((s.setStage st { t with aged := true, unplaceable := true }).complete st 3 [word st])
  else .next s

/-! ## Restore (R242, R287, R309, R354, R356) -/

/-- Write a saved slice. -/
def State.sliceLoad (s : State) (n : Nat) (m : Mem) : State :=
  { s with firn := m.foldl (fun f e => f.write (s.sliceKey n e.1) e.2) s.firn }

/-- The refusals that a restore posts for withdrawn declarations. -/
def CellState.postWithdrawn (c : CellState) : CellState :=
  (List.finRange 4).foldl (fun c k =>
    let t := c.ctx k
    if t.withdrawn then (c.setCtx k { t with withdrawn := false }).post7 [⟨5, boxTag k 0x28, false⟩] else c) c

/-- The watches of a pre-empted stage that are due, in the order in which they fell due: each ends, and its notice is held (R354). -/
def dueSaved (s : State) (st : Nat) : State :=
  let t := s.stage st
  if t.status ≠ .preempted then s
  else
    let l := t.saved.flatMap fun e => (List.finRange 4).filterMap fun k =>
      let x := e.2.1.ctx k
      (watchDue s x).map fun id => (x.watch.getD 0, t.cellNum e.1, k, id)
    (l.foldl (fun l e => insertBy (fun x => x.1) e l) []).foldl (fun s e =>
      (cancelWatch s st e.2.1 e.2.2.1 e.2.2.2).wakeCell st e.2.1 e.2.2.1 2) s

/-- A stage's old and new numbers for what names its cells by module-logical number. -/
def renumber (old new : Stage) (n : Nat) : Nat := new.cellNum (old.rel n)

/-- One cell comes back at its new number: name cache empty, matrix unit started, the senders of remote writes under their new numbers,
held wakes posted in order. -/
def restoreCell (old t : Stage) (s : State) (e : Nat × CellState × Mem) : State :=
  let n := t.cellNum e.1
  let held (w : Put) : Put := if w.src = directorAt then w else { w with src := renumber old t w.src }
  let c := { e.2.1 with
    names := [], nameWalk := [], mxStop := false, mxPark := false, putSend := e.2.1.putSend.map fun (w : Put) => { w with src := n }
    putHeld := e.2.1.putHeld.map held }
  let c := (t.heldWakes.filter (fun w => decide (w.1 = e.1))).foldl (fun c w => c.wakeUp w.2.1 w.2.2) c.postWithdrawn
  (s.setCell n c).sliceLoad n e.2.2

/-- Bring a stage back at an origin; a mask that is on masks the clocks there (R304, R311). -/
def restoreStage (s : State) (st : Nat) (old : Stage) (x0 y0 : Nat) : State :=
  let s := dueSaved s st
  let s := takeRect s st (s.stage st) x0 y0
  let t := s.stage st
  let s := t.saved.foldl (restoreCell old t) s
  let s := if t.mask.isSome then t.saved.foldl (fun s e => s.throttle (s.posKey (t.cellNum e.1))) s else s
  let s := { s with watches := s.watches.map fun (w : Watch) =>
    if w.stage = st ∧ w.origin = none then { w with cell := renumber old t w.cell } else w }
  s.setStage st { t with
    recast := false, regroup := none, movedFor := none, saved := [], heldWakes := [], startAt := s.tick + 2
    upAt := t.upAt.map fun u => s.tick - u, stat := { t.stat with lastAct := s.tick - t.stat.lastAct }
    aggs := t.aggs.map fun (a : Agg) => { a with cell := renumber old t a.cell } }

/-- Whether an origin is the one that a pre-empted stage takes: its former one after a recast, else the first free one
once the aged request for which it moved waits no longer. -/
def restoreAt (s : State) (t : Stage) (x0 y0 : Nat) : Bool :=
  if t.recast then
    s.retiring.isEmpty && s.ctrl.all (fun e => decide (e.1 < 4096) || !e.2.pending) && decide (x0 = t.x0) && decide (y0 = t.y0) && fitsAt s t x0 y0
  else
    !s.stages.any (fun e => s.agedOne e.2 && decide (t.movedFor = some e.2.ordinal)) && decide (findOrigin s t = some (x0, y0))

def execRestore (st x0 y0 : Nat) (s : State) : Host.Outcome State Fault Refusal :=
  let t := s.stage st
  if t.status = .preempted ∧ restoreAt s t x0 y0 = true then .next (restoreStage s st t x0 y0) else .next s

/-! ## The host's end of a stage (R353, R408) -/

/-- The order: the stage stops firing, pending copies end, active ones are cancelled. -/
def endOrder (s : State) (st : Nat) : State :=
  let s := s.stopStage st
  let quit (c : CellState) : CellState :=
    { c with
      copyPend := [], cts := c.cts.map fun (t : Template) => { t with armed := false, pending := false }
      copyAct := c.copyAct.map fun (x : Option Copy) => x.map fun (y : Copy) => { y with cancelled := true } }
  { (s.setStage st { (s.stage st) with ending := true }) with
    cells := s.cells.map fun (e : Nat × CellState) => if e.2.stage = st then (e.1, quit e.2) else e }

/-- Active generators are halted as SG.HALT halts them, a slice transfer under way included, once the N-beat instruction and the
special function that they serve have ended: step 1 of R354 comes before them (R182, R408). -/
def haltGens (s : State) (n : Nat) : State :=
  if (s.cell n).holdSettled && (s.cell n).sfSettled then
    (List.finRange 4).foldl (fun s g =>
      let s := sgSettle s n g
      let c := s.cell n
      s.setCell n (c.setGen g { c.gens[g] with active := false })) s
  else s

/-- The records of a cell go to the stage fault log. -/
def logRecords (st : Nat) (s : State) (c : CellState) : State := c.records.foldl (fun s r => s.logFault st r 1 true) s

/-- All records that a stage's cells have not handed over go to its fault log (R353). -/
def logAll (s : State) (st : Nat) : State :=
  (s.stage st).saved.foldl (fun s e => logRecords st s e.2.1) ((s.cellsOf st).foldl (fun s e => logRecords st s e.2) s)

/-- The last curtain record of a stage that the host ends, and its end. -/
def finishEnd (s : State) (st : Nat) : State :=
  let s := logAll s st
  let s := logLosses (watchdog s st) st
  (s.complete st 1 (curtainRecord s st true false true)).endStage st

/-- A write of 1 at +8 of a placed or pre-empted stage: the order, and its completion once the stage has settled. -/
def execHostEndStage (st : Nat) (s : State) : Host.Outcome State Fault Refusal :=
  let t := s.stage st
  if t.status = .preempted then .next (finishEnd s st)
  else if t.status = .placed then
    if !t.ending then .next (s.orderStop st (endOrder s st))
    else
      let s := (s.cellsOf st).foldl (fun s e => haltGens s e.1) s
      if settled s st && (s.cellsOf st).all (fun e => e.2.copyAct.all fun x => x.isNone) then
        .next (recastReady (finishEnd s st))
      else .next s
  else .next s

/-! ## Retirement (R357) -/

/-- A stage ends without saving: what its scene watchdog has counted and what its cells have not handed over is reported, then the
WATCHDOG record of its end (R303, R353). -/
def breakStage (s : State) (st code x y : Nat) : State :=
  let s := logAll (watchdog s st) st
  (s.hostRecord st (stageRecord s st (s.stage st).scene 12 code true 0 x y 0 .host)).endStage st

/-- Stages of a job end without saving. -/
def endJob (s : State) (job code x y : Nat) : State :=
  (s.stages.filter (fun e => decide (e.2.job = job) && decide (e.2.status ≠ .ended))).foldl (fun s e => breakStage s e.1 code x y) s

/-- The logical number at a physical position, if it has one. -/
def logicalAt (s : State) (row col : Nat) : Option Nat :=
  match (s.casting.cols row).findIdx? (fun c => decide (c = col)) with
  | some i => if i < 320 then some (row * 320 + i) else none
  | none => none

/-- A position is retired: the job of its stage ends, stages to its right in the row stop, the recast follows. -/
def retire (s : State) (row col : Nat) : State :=
  let s : State := match logicalAt s row col with
    | none => s
    | some n =>
      match (s.stages.find? (fun e => e.2.owns n)).or (s.stages.find? (fun e => e.2.covers n)) with
      | some e => endJob s e.2.job 2 (n % 320 - e.2.x0) (n / 320 - e.2.y0)
      | none => s
  let right (t : Stage) : Bool :=
    decide (t.status = .placed) && (List.range 320).any fun x => t.owns (row * 320 + x) && decide (col < s.physCol (row * 320 + x))
  let hit := (s.stages.filter (fun e => right e.2)).map (·.1)
  let s := hit.foldl (fun s id =>
    let s := s.setStage id { (s.stage id) with recast := true }
    s.orderStop id (s.stopStage id)) s
  recastReady { s with
    retiring := s.retiring ++ [(row, col)]
    silent := s.silent.del (pollKey row col), slow := s.slow.del (pollKey row col), flags := s.flags.del (pollKey row col)
    polled := s.polled.del (pollKey row col) }

/-- Whether a position is in service: live, or reinstated (R304, R360). -/
def inService (s : State) (row col : Nat) : Bool :=
  decide (row < 512) && decide (col < 384) && (s.casting.live col row || s.casting.back.contains (row, col))
    && !s.retiring.contains (row, col)

/-- The router without an entry on the way of a poll or of its answer (R316). A position without a number stands beyond the last numbered
router of its row (log 72). -/
def pollGap (s : State) (row : Nat) (n : Option Nat) : Option (Nat × Nat) :=
  let n := n.getD (row * 320 + 319)
  (s.gapTo (4096 + row) n).or (s.ctrlGap (4096 + row) n 4 directorAt 831)

/-- Whether the next poll of a position is due: its first, or the one 1,000 ticks behind the last. -/
def pollDue (s : State) (key : Nat) : Bool := (AMap.get? s.polled key).all fun t => decide (t + 1000 ≤ s.tick)

/-- One poll of a position (R304), 1,000 ticks behind the one before it: an answer clears its count and carries the throttle flag; a missed one counts unless a throttle record explains it;
three missed ones retire the position. In the interval that begins, a clock that is still stretched or masked makes its throttle
record anew. A recast of the row holds the poll (R23), and a router without an entry throws it, or its answer, away and reports (R316). -/
def execHeartbeatPoll (row col : Nat) (answer : Bool) (s : State) : Host.Outcome State Fault Refusal :=
  if !inService s row col || !s.managed || s.ctrlHeld (4096 + row) || !pollDue s (pollKey row col) then .next s
  else
    let key := pollKey row col
    let at' := logicalAt s row col
    let gap := pollGap s row at'
    let answer := answer && gap.isNone
    let s := gap.elim s fun g => s.routerRecord g.1 g.2
    let m := (s.silent.getD key (0, false)).1
    let missed := m + (if (s.slowAt key).2 then 0 else 1)
    let next : Nat × Bool := if answer then (0, false) else (missed, true)
    let masked := (at'.bind fun n => AMap.get? s.cells n).any fun c => (s.stage c.stage).mask.isSome
    let on := (s.stretchedAt key || masked) && !next.2
    let s1 := { s with
      silent := s.silent.put key next, polled := s.polled.put key s.tick
      slow := s.slow.put key ((s.slowAt key).1, on)
      flags := if answer then s.flags.put key (on, (s.flagAt key).1) else s.flags }
    if !answer && decide (3 ≤ missed) then .next (retire s1 row col) else .next s1

/-- The periodic self-test of a free cell or an understudy; one that fails is retired. -/
def execCellSelfTest (row col : Nat) (pass : Bool) (s : State) : Host.Outcome State Fault Refusal :=
  let used := (logicalAt s row col).any fun n => s.stages.any fun e => e.2.owns n
  if !inService s row col || used || !s.managed || pass then .next s else .next (retire s row col)

/-- A strip regulator stretches the clock of a position's oscillator, or stops stretching it: a throttle record of each position that
runs from it (R25, R304). `key` is the number of the position: free cells and understudies are polled too. -/
def execClockStretch (key : Nat) (on : Bool) (s : State) : Host.Outcome State Fault Refusal :=
  let s1 := { s with slow := s.slow.put key (on, (s.slowAt key).2) }
  let run := (key :: s.clocks.map (·.1)).filter fun k => decide (s.clockKey k = key)
  .next (if on then run.foldl State.throttle s1 else s1)

end Sys2Proof.Machine
end

