-- ==== Sys2Proof/Machine/Director.lean ====
section
/-! DEFINITION. Director.lean: stall reports, the scene watchdog, changes of a mapping, releases by the host (spec 10 R301 to
R303, 11 R315, R320 to R322, R325, 12 R346, 13 R370). -/

namespace Sys2Proof.Machine

/-! ## Stalls (R301, R302) -/

/-- Whether a cell's snapshot shows a held item, or an arrival of it is pending. -/
def CellState.holds (c : CellState) : Bool :=
  c.iq.any (fun q => !q.isEmpty) || c.oq.any (fun q => !q.isEmpty) || c.rings.any (fun r => decide (0 < r.count))
    || !c.putSend.isEmpty || !c.putHeld.isEmpty || c.ctxs.any (fun t => t.station.isSome) || c.bars.any (fun b => b.arr)

/-- Whether a stage holds an item. -/
def stageHolds (s : State) (st : Nat) : Bool :=
  (s.cellsOf st).any (fun e => e.2.holds) || !(s.stage st).carries.isEmpty || !(s.stage st).arr.isEmpty

/-- Small fields side by side, the first lowest. -/
def fieldsOf (w : Nat) (l : List Nat) : Nat :=
  match l with
  | [] => 0
  | a :: r => a % 2 ^ w + 2 ^ w * fieldsOf w r

/-- The snapshot of a cell (R302). -/
def snapshot (c : CellState) : List Word :=
  let t := c.ctxs.toList
  let last := c.lastFired.getD (0, 0)
  [word (c.cx % 512 + c.cy % 512 * 2 ^ 9), word (fieldsOf 4 (t.map fun x => statusCode x.status)),
    word (fieldsOf 4 (c.iq.toList.map List.length)), word (fieldsOf 3 (c.oq.toList.map List.length)),
    word (fieldsOf 4 (c.rings.toList.map fun r => min r.count 15)), uackWord c,
    word (fieldsOf 1 (t.map fun x => x.station.isSome.toNat) + fieldsOf 1 (t.map fun x => x.acq.toNat) * 2 ^ 4
      + fieldsOf 1 (t.map fun x => x.watchOut.toNat) * 2 ^ 8 + c.putSend.length * 2 ^ 12 + c.mxq.length * 2 ^ 16
      + c.mxRun.isSome.toNat * 2 ^ 20 + (c.copyAct.toList.filter (·.isSome)).length * 2 ^ 21),
    word (last.1 % 128 + c.lastFired.isNone.toNat * 2 ^ 7 + last.2 % 2 ^ 24 * 2 ^ 8)]

/-- A stage is stalled (R301); a further report needs a firing since the one before. -/
def stalled (s : State) (st : Nat) : Bool :=
  let t := s.stage st
  let again := t.stat.reportAt.all (firedSince s st)
  decide (t.status = .placed) && t.upAt.isSome && decide (t.startAt ≤ s.tick) && again
    && decide (lastProgress s st + 1000 ≤ s.tick) && stageHolds s st

/-- Whether a cell's snapshot shows a held item (R301, R302). -/
def CellState.shows (c : CellState) : Bool :=
  c.iq.any (fun q => !q.isEmpty) || c.oq.any (fun q => !q.isEmpty) || c.rings.any (fun r => decide (0 < r.count))
    || !c.putSend.isEmpty || c.ctxs.any (fun t => t.station.isSome)

/-- The cell that a report names: the lowest-numbered one whose snapshot shows a held item, cell 0 where none does
(log 39). -/
def summaryCell (s : State) (st : Nat) : Nat :=
  let t := s.stage st
  (((s.cellsOf st).find? fun e => e.2.shows).map fun e => e.2.num t).getD 0

/-- The trap route of a stage's scene: every cell holds it. -/
def trapCell (s : State) (st : Nat) : Option Nat :=
  match s.cellsOf st with
  | e :: _ => e.2.trap.map fun p => (s.stage st).cellAt p.1 p.2
  | [] => none

/-- A stall report: snapshots, the completion entry, the word for the trap cell. -/
def execStallReport (st : Nat) (s : State) : Host.Outcome State Fault Refusal :=
  if !stalled s st then .next s
  else
    let t := s.stage st
    let n := summaryCell s st
    let s1 := s.setStage st { t with
      stallLog := (s.cellsOf st).map fun e => snapshot e.2
      stat := { t.stat with stalls := t.stat.stalls + 1, reportAt := some s.tick } }
    let s1 := s1.complete st 4 [word n]
    match trapCell s st with
    | some m => .next (s1.setCell m ((s1.cell m).post7 [⟨word n, 0x29, false⟩]))
    | none => .next s1

/-- The scene watchdog (R303). -/
def execSceneWatchdog (st : Nat) (s : State) : Host.Outcome State Fault Refusal := .next (watchdog s st)

/-- Whether the director may map a frame (R322). -/
def mappable (s : State) (f : Nat) : Bool :=
  let h := f % 24576
  let strip := h / 2
  frameOk f && !s.casting.deadFields.contains (strip / 24 / 64, (strip % 24 * 16 + h % 2 * 8) / 48)
    && decide (f / 24576 + 4 * s.plOf h ≤ 31)

/-- The table that an update names: its root, its stage, the peer module of a guest table, and the job that its frames
count for (log 40). -/
structure TableRef where
  root : Option Nat
  stage : Nat
  guest : Option Nat
  job : Nat
  deriving DecidableEq, Repr

def tableRef (s : State) (t : MapTable) : Option TableRef :=
  match t with
  | .stage id =>
    (match AMap.get? s.stages id with
     | some e => if e.status = .ended then none else some ⟨e.root, id, none, e.job⟩
     | none => none)
  | .guest m id => some ⟨AMap.get? s.guests (m * 4096 + id), id, some m, 65536 + m⟩

/-- Whether a frame may be taken now: it is mapped already, or the highest free one of its half strip (R15), and no change of a mapping
that is not complete has unmapped it (R325). -/
def takeable (s : State) (f : Nat) : Bool :=
  ((AMap.get? s.frames f).isSome || (List.range (f / 24576)).all fun t => s.allocated (t * 24576 + f % 24576)) && !s.leaves f

/-- Allocate a frame for a job. -/
def State.allocate (s : State) (f job : Nat) : State := { s with frames := s.frames.put f job, dirty := s.dirty.del f }

/-- The root frame of a table, taken from the pool at the table's first entry: the lowest number that is free. -/
def withRoot (s : State) (t : MapTable) (r : TableRef) : Option (Nat × State) :=
  match r.root with
  | some f => some (f, s)
  | none =>
    match firstNat (fun f => mappable s f && !s.allocated f && takeable s f) 0 786432 with
    | none => none
    | some f =>
      let s := (s.zeroFrame f).allocate f r.job
      match t with
      | .stage id => some (f, s.setStage id { (s.stage id) with root := some f })
      | .guest m id => some (f, { s with guests := s.guests.put (m * 4096 + id) f })

/-- Where an entry stands: the frame and the byte in it; a second-level entry needs a valid pointer above it. -/
def entryPlace (s : State) (root : Nat) (level2 : Bool) (idx : Nat) : Option (Nat × Nat) :=
  if !level2 then some (root, idx % 2 ^ 18 * 8)
  else
    let e := s.frameWord root (idx / 512 % 2 ^ 18 * 8)
    if entryF e 0 1 = 1 ∧ entryF e 1 1 = 0 ∧ badEntry e true = false ∧ frameOk (entryF e 12 20) = true then
      some (entryF e 12 20, entryF e 32 9 * 4096 + idx % 512 * 8)
    else none

/-- The frames that an entry maps or names: a pointer its table's frame, and the pages that the table maps. -/
def entryFrames (s : State) (e : DWord) (level2 : Bool) : List Nat :=
  if entryF e 0 1 = 0 then []
  else if level2 then leafFrames e false
  else if isPointer e then entryF e 12 20 :: s.pagesBelow e
  else leafFrames e true

/-- The roots of all tables, and all that their tables map or use. -/
def allRoots (s : State) : List Nat := (s.stages.filterMap fun e => e.2.root) ++ s.guests.map (·.2)
def State.allMapped (s : State) : List Nat := (allRoots s).flatMap (mappedFrames s)

/-- Whether an entry keeps tables and pages apart, so that only the director writes tables (R320): no page is a frame that holds a
table, and no pointer names a frame that is mapped as a page. -/
def keepsApart (s : State) (e : DWord) (level2 : Bool) : Bool :=
  let tables := allRoots s ++ (allRoots s).flatMap s.tableFrames
  if level2 || !isPointer e then (entryFrames s e level2).all fun f => !tables.contains f
  else !(allRoots s).contains (entryF e 12 20) && !((allRoots s).flatMap s.pageFrames).contains (entryF e 12 20)

/-- Take a frame for a job: a free one that another job released is zeroed first (R315). -/
def takeFrame (job : Nat) (s : State) (f : Nat) : State :=
  if (AMap.get? s.frames f).isSome then s
  else (if (AMap.get? s.dirty f).any fun j => decide (j ≠ job) then s.zeroFrame f else s).allocate f job

/-- The frame of a new second-level table holds no entry yet (log 40). -/
def newTable (s : State) (e : DWord) (level2 : Bool) : State :=
  let f := entryF e 12 20
  if !level2 && isPointer e && !((allRoots s).flatMap s.tableFrames).contains f then s.zeroFrame f else s

/-- Frames that no table maps any more are free; the job whose table gave them up last leaves its bytes in them. -/
def State.released (s : State) (job : Nat) (l : List Nat) : State :=
  (l.filter fun f => !s.allMapped.contains f).foldl (fun s f => { s with frames := s.frames.del f, dirty := s.dirty.put f job }) s

/-- The mark of a change of a mapping in the paths of what the old entry translated: no DRAM place has such a number. -/
def mapTag (no : Nat) : Nat := 2 ^ 64 + no

/-- Mark every request and copy block that was translated by the entry at a place. -/
def State.tagOld (s : State) (key tag : Nat) : State :=
  let mark (p : List Nat) : List Nat := if p.contains key then p ++ [tag] else p
  let block (b : Block) : Block := { b with path := mark b.path }
  let copy (x : Copy) : Copy := { x with work := x.work.map block }
  { s with
    reqs := s.reqs.map fun (r : Req) => { r with path := mark r.path }
    cells := s.cells.map fun (e : Nat × CellState) => (e.1, { e.2 with copyAct := e.2.copyAct.map fun (x : Option Copy) => x.map copy }) }

/-- Whether something that an old entry translated is neither applied nor refused. -/
def State.usesOld (s : State) (tag : Nat) : Bool :=
  s.reqs.any (fun r => r.path.contains tag)
    || s.cells.any fun e => e.2.copyAct.any fun x => x.any fun y => y.work.any fun b => b.path.contains tag

/-- Changes of mappings that nothing old uses any more are reported complete to the host, and their frames may be taken
(R325; log 40). -/
def State.mapsDone (s : State) : State :=
  let done := s.maps.filter fun m => !s.usesOld (mapTag m.no)
  { s with maps := s.maps.filter (fun m => !done.contains m), host := { s.host with mapDone := s.host.mapDone ++ done.map (·.no) } }

/-- The director changes an entry: it is written, every cached copy goes, and what the old one translated is marked until it is
applied or refused (R325). An entry that would map a frame it may not map is not written. -/
def execMappingUpdate (t : MapTable) (level2 : Bool) (idx : Nat) (entry : DWord) (s : State) :
    Host.Outcome State Fault Refusal :=
  if !s.managed then .next s
  else
    match tableRef s t with
    | none => .next s
    | some r =>
      let fs := entryFrames (newTable s entry level2) entry level2
      if fs.all (fun f => mappable s f && takeable s f) = false ∨ keepsApart (newTable s entry level2) entry level2 = false then .next s
      else
        match withRoot s t r with
        | none => .next s
        | some (root, s1) =>
          match entryPlace s1 root level2 idx with
          | none => .next s
          | some (f, o) =>
            if fs.contains root then .next s
            else
              let key := frameKey f o
              let old := entryFrames s1 (s1.frameWord f o) level2
              let s1 := (newTable (fs.foldl (takeFrame r.job) s1) entry level2).tagOld key (mapTag s1.mapNo)
              .next (({ s1 with
                firn := s1.firn.writeN key 8 entry.toNat
                tlb := s1.tlb.filter fun e => !e.path.contains key
                maps := s1.maps ++ [⟨s1.mapNo, old.filter fun f => !fs.contains f⟩], mapNo := s1.mapNo + 1 } : State).released r.job old).mapsDone

/-! ## Releases by the host (R346, R370) -/

/-- A remote write of the host's, from a place of its own, which its cell takes or holds as it does any remote write. One for a
stage that stops waits, as a PUTR does (log 73). -/
def releaseWrite (s : State) (st num : Nat) (k : Fin 4) (v : Word) : Option State :=
  let t := s.stage st
  let n := t.cellNum num
  let c := s.cell n
  if t.status ≠ .placed ∨ t.stopping = true ∨ c.putHeld.any (fun h => decide (h.ctx = k) && decide (h.r = 7)) = true then none
  else if (c.ctx k).takesPut 7 then some (s.setCell n (c.putWrite k 7 v))
  else some (s.setCell n { c with putHeld := c.putHeld ++ [⟨directorAt, num, k, 7, v, 0, none⟩] })

/-- The remote writes of the host that wait, oldest first, each as soon as its cell takes it; those for a stage that has ended are
dropped. -/
def State.landReleases (s : State) : State :=
  s.host.releases.foldl (fun s e =>
    let drop (s : State) : State := { s with host := { s.host with releases := s.host.releases.erase e } }
    if (s.stage e.1).status = .ended then drop s
    else
      match releaseWrite s e.1 e.2.1 e.2.2.1 e.2.2.2 with
      | some t => drop t
      | none => s) s

/-- The value word of RELEASE: the remote write to `x15` of the context that the first word names. -/
def execHostRelease (st : Nat) (v : Word) (s : State) : Host.Outcome State Fault Refusal :=
  let t := s.stage st
  let w := (AMap.getD s.host.release st 0).toNat
  let num := w % 2 ^ 18
  if (t.status = .placed ∨ t.status = .preempted) ∧ num < t.w * t.h then
    .next ({ s with host := { s.host with releases := s.host.releases ++ [(st, num, Fin.ofNat 4 (w / 2 ^ 18), v)] } } : State).landReleases
  else .next s

end Sys2Proof.Machine
end

