-- ==== Sys2Proof/Machine/Host.lean ====
section
/-! DEFINITION. Host.lean: what hosts do to the module: doorbells and tokens, the aperture, PCIe ports, the power cap, plain
registers of the management window and what a read of it returns (spec 00 R6, R7, 08 R236, 11 R319, 13 R364 to R371,
R382). -/

namespace Sys2Proof.Machine

/-- The bits of a word that a mask names are written, the others stay (R6, R7). -/
def setBits (old new mask : Nat) : Nat := (old &&& (mask ^^^ 0xFFFFFFFF)) ||| (new &&& mask)

/-- Write one of the two words of a 64-bit register. -/
def setHalf (old : DWord) (high : Bool) (v mask : Nat) : DWord :=
  let lo := old.toNat % 2 ^ 32
  let hi := old.toNat / 2 ^ 32
  if high then BitVec.ofNat 64 (lo + setBits hi v mask * 2 ^ 32) else BitVec.ofNat 64 (setBits lo v mask + hi * 2 ^ 32)

/-! ## Ingress (R236, R319, R366) -/

def State.setChan (s : State) (k : Nat) (c : Channel) : State := { s with host := { s.host with chans := s.host.chans.put k c } }

/-- A record about no stage: it stands among the director's records, and the host finds it on the completion queues of a port
(log 46). -/
def State.portRecord (s : State) (port : Fin 8) (r : Record) : State :=
  let qs := s.host.egress.filter fun e => e.2.cq && e.2.bound.isSome && decide (e.2.port = port)
  qs.foldl (fun s e => postCe s e.1 (ceWords 2 (flogEntry 0 r 1 false))) { s with router := s.router ++ [r] }

/-- A host write or token whose check fails is not applied, and the host hears of it (R351): on the completion queue of the stage
that it is for, or, where it is for none, on those of the port by which it came. -/
def State.badHost (s : State) (port : Fin 8) (st : Option Nat) : State :=
  let s := { s with host := { s.host with badPayload := vset s.host.badPayload port false } }
  let f : FaultInfo := { cls := 10, code := 4, opnd := 0 }
  match st with
  | some id => s.hostRecord id (mkRecord s (CellState.blank id 0 0) 0 0 true f .host)
  | none => s.portRecord port (mkRecord s (CellState.blank 0 0 0) 0 0 true f .host)

/-- A doorbell write of eight bytes: a token, or a discard that a channel counts. -/
def execIngressDoorbell (port : Fin 8) (off : Nat) (v : DWord) (s : State) : Host.Outcome State Fault Refusal :=
  let k := off / 16
  let c := s.chan k
  if s.serving = false ∨ s.portUp port = false ∨ off % 16 ≠ 0 ∨ 131072 ≤ k ∨ v.toNat / 2 ^ 40 ≠ 0 then .next s
  else if s.host.badPayload[port] then .next (s.badHost port (c.bound.map (·.1)))
  else if c.bound.isNone || decide (16 ≤ c.tokens.length) then
    .next (s.setChan k { c with discards := min (c.discards + 1) 0xFFFF })
  else
    let w : QWord := ⟨v.setWidth 32, v.extractLsb' 32 8, false⟩
    let s1 := s.setChan k { c with tokens := c.tokens ++ [(w, port, s.host.tokenNo)] }
    .next { s1 with host := { s1.host with tokenNo := s1.host.tokenNo + 1 } }

/-- A channel's entry of the binding table (R319). -/
def Channel.binding (c : Channel) : DWord :=
  match c.bound with
  | none => 0
  | some (st, cell, q) => BitVec.ofNat 64 (1 + c.portal.toNat * 2 + st % 4096 * 2 ^ 2 + cell % 2 ^ 18 * 2 ^ 14 + q.val * 2 ^ 32)

/-- The status word of a channel. -/
def ingressStatus (s : State) (k : Nat) : Word :=
  let c := s.chan k
  word (c.tokens.length + (c.binding.getLsbD 0).toNat * 2 ^ 5 + c.discards * 2 ^ 16)

/-- Whether a token of another channel goes first: same port, same queue, written before. -/
def tokenBehind (s : State) (k : Nat) (b : Nat × Nat × Fin 8) (port : Fin 8) (no : Nat) : Bool :=
  s.host.chans.any fun e =>
    decide (e.1 ≠ k) && decide (e.2.bound = some b) && e.2.tokens.any fun t => decide (t.2.1 = port) && decide (t.2.2 < no)

/-- Whether a write that came through a port before a token is not applied yet (R236). -/
def tokenEarly (s : State) (port : Fin 8) (no : Nat) : Bool :=
  s.host.work.any fun w => decide (w.port = port) && w.write && decide (w.no < no)

/-- The first token of a channel enters its queue. -/
def execTokenDeliver (k : Nat) (s : State) : Host.Outcome State Fault Refusal :=
  let c := s.chan k
  match c.bound, c.tokens with
  | some (st, cell, q), (w, port, no) :: rest =>
    let n := (s.stage st).cellNum cell
    if s.fed st cell q && roomAt s (.queue n q) 4 && !tokenBehind s k (st, cell, q) port no
        && !tokenEarly s port no then
      let s1 := s.setChan k { c with tokens := rest }
      let d := s1.cell n
      .next (s1.setCell n { d with iq := vset d.iq q (d.iq[q] ++ [w]) })
    else .next s
  | _, _ => .next s

/-! ## The aperture (R236, R239, R365) -/

/-- One more refused word. -/
def addRefused (l : List Refused) (st cls code : Nat) (a : DWord) : List Refused :=
  match l with
  | [] => [⟨st, cls, code, a, 1⟩]
  | r :: rest =>
    if r.stage = st ∧ r.cls = cls ∧ r.code = code then { r with count := r.count + 1 } :: rest
    else r :: addRefused rest st cls code a

/-- What one word of an access comes to: nothing where no slot or stage is named (a slot with V = 0 still names the stage that it
was set for; log 33), a refusal, a home, or a frame that does
not exist. -/
inductive HostWord where
  | unmapped
  | refused (stage cls code : Nat) (a : DWord)
  | home (key : Nat)
  | nowhere
  deriving DecidableEq, Repr

def hostWord (k : ReqKind) (port : Fin 8) (off : Nat) (s : State) : HostWord × State :=
  let e := AMap.getD s.host.aper (port.val * 64 + off / 2 ^ 30) 0
  let st := bits e.toNat 1 12
  let a : DWord := BitVec.ofNat 64 (bits e.toNat 30 26 * 2 ^ 30 + off % 2 ^ 30)
  match AMap.get? s.stages st with
  | none => (.unmapped, s)
  | some t =>
    if 2 ^ 36 ≤ off then (.unmapped, s)
    else if bits e.toNat 0 1 = 0 ∨ t.status = .ended then (.refused st 6 1 a, s)
    else if modOf a ≠ s.host.modNum then (.refused st 6 4 a, s)
    else
      match pageOf s k 64 st none t.root (offOf a) with
      | (.fault cls code, s1) => (.refused st cls code a, s1)
      | (.window _ _, s1) => (.refused st 7 2 a, s1)
      | (.nowhere, s1) => (.nowhere, s1)
      | (.home key, s1) => (if s1.badFirn.contains (key / 32) then .refused st 10 3 a else .home key, s1)

/-- The records of a host access. -/
def logRefused (s : State) (l : List Refused) : State :=
  l.foldl (fun s r =>
    s.logFault r.stage (mkRecord s (CellState.blank r.stage 0 0) 0 0 true (waferFault r.cls r.code r.addr) .log) r.count false) s

def State.hostRead (s : State) (port : Fin 8) (ws : List Word) : State :=
  { s with host := { s.host with hostReads := s.host.hostReads ++ [(port, ws)] } }

def HostWork.setWord (w : HostWork) (i : Nat) (v : Word) : HostWork := { w with data := w.data.set i v }

/-- One word of an access: it is applied, read, or refused. None where its frame does not exist. -/
def workWord (s : State) (w : HostWork) (i : Nat) : Option (State × HostWork) :=
  let v := (w.data[i]?).getD 0
  let w := { w with left := w.left.erase i }
  match hostWord (if w.write then .store4 v else .getBlock) w.port (w.off + 4 * i) s with
  | (.unmapped, s) => some (s, if w.write then w else w.setWord i 0xFFFFFFFF)
  | (.refused st cls code a, s) =>
    let w := { w with refused := addRefused w.refused st cls code a }
    some (s, if w.write then w else w.setWord i 0xFFFFFFFF)
  | (.home key, s) => some (if w.write then (s.homeWrite key 4 v.toNat, w) else (s, w.setWord i (word (s.firn.readN key 4))))
  | (.nowhere, _) => none

/-- An access is done: its records, and what a read returns. -/
def workDone (s : State) (w : HostWork) : State :=
  let s := logRefused s w.refused
  if w.write then s else s.hostRead w.port w.data

/-- One word of the oldest access of a port, any of those that are left (R236). -/
def hostStep (port : Fin 8) (s : State) : Host.Outcome State Fault Refusal :=
  match s.host.work.findIdx? fun w => decide (w.port = port) with
  | none => .next s
  | some k =>
    match s.host.work[k]? with
    | none => .next s
    | some w =>
      match workWord s w ((w.left[Config.pick s.strip % w.left.length]?).getD 0) with
      | none => .fault .noSuchFrame
      | some (s, w) =>
        if w.left = [] then .next (workDone { s with host := { s.host with work := s.host.work.eraseIdx k } } w)
        else .next { s with host := { s.host with work := s.host.work.set k w } }

/-- An access enters behind those of its port that are under way; its first word comes at once where there are none. -/
def hostEnter (port : Fin 8) (off : Nat) (write : Bool) (ws : List Word) (s : State) : Host.Outcome State Fault Refusal :=
  if ws = [] then .next s
  else
    let w : HostWork := ⟨port, off, write, ws, List.range ws.length, [], s.host.tokenNo⟩
    hostStep port { s with host := { s.host with work := s.host.work ++ [w], tokenNo := s.host.tokenNo + 1 } }

/-- The stage of the slot that an offset of a port's aperture lies in, if it is there. -/
def slotStage (s : State) (port : Fin 8) (off : Nat) : Option Nat :=
  let st := bits (AMap.getD s.host.aper (port.val * 64 + off / 2 ^ 30) 0).toNat 1 12
  (AMap.get? s.stages st).map fun _ => st

/-- A host write through BAR4, of aligned words, each applied at its own time (R236). -/
def execApertureWrite (port : Fin 8) (off : Nat) (ws : List Word) (s : State) : Host.Outcome State Fault Refusal :=
  if s.serving = false ∨ s.portUp port = false ∨ off % 4 ≠ 0 then .next s
  else if s.host.badPayload[port] then .next (s.badHost port (slotStage s port off))
  else hostEnter port off true ws s

/-- A host read through BAR4; all ones before the module is ready and where the access is refused. -/
def execApertureRead (port : Fin 8) (off : Nat) (n : Nat) (s : State) : Host.Outcome State Fault Refusal :=
  if s.portUp port = false ∨ off % 4 ≠ 0 then .next s
  else if s.serving = false then .next (s.hostRead port (List.replicate n 0xFFFFFFFF))
  else hostEnter port off false (List.replicate n 0) s

/-! ## PCIe ports and the power cap (R369, R382) -/

def State.setPort (s : State) (port : Fin 8) (up : Bool) : State :=
  { s with host := { s.host with pcieUp := vset s.host.pcieUp port up } }

def execPciePortDown (port : Fin 8) (s : State) : Host.Outcome State Fault Refusal := .next (s.setPort port false)

/-- A port that is up again writes the completion entries that were held for it, in order. -/
def execPciePortUp (port : Fin 8) (s : State) : Host.Outcome State Fault Refusal :=
  .next (s.host.heldCe.foldl (fun s h => if (s.egress h.1).port = port then writeHeld s h.1 else s) (s.setPort port true))

/-- A write of PCAP: FL of every field and the clock mask's D; a mask that is applied starts again where D changes. -/
def execPcapWrite (v : Word) (s : State) : Host.Outcome State Fault Refusal :=
  let p := v.toNat % 2 ^ 9
  if s.host.modState = 14 ∨ p < 100 ∨ 300 < p then .next s
  else
    let d := max 16 (24 * p / 300)
    .next { s with
      fl := Vector.replicate 64 (46080 * (p - 60) / 240)
      duty := d
      stages := if d = s.duty then s.stages else s.stages.map fun e => (e.1, { e.2 with mask := e.2.mask.map fun _ => s.strip })
      host := { s.host with pcap := p } }

/-! ## Plain registers of the management window (R6, R7, R370) -/

/-- A word of an egress descriptor (R367): PORT alone of a bound queue may change, and only while its port is down. -/
def egressWord (s : State) (q j : Nat) (v : Word) : State :=
  let e := s.egress q
  let n := v.toNat
  match j with
  | 0 => if e.bound.isNone then s.setEgress q { e with base := setHalf e.base false n 0xFFFFF000 } else s
  | 1 => if e.bound.isNone then s.setEgress q { e with base := setHalf e.base true n 0xFFFFFFFF } else s
  | 2 =>
    if e.bound.isNone then
      s.setEgress q { e with
        log2n := bits n 0 5, port := Fin.ofNat 8 (bits n 5 3), cq := n.testBit 8, ien := n.testBit 9, vec := bits n 10 11 }
    else if s.portUp e.port then s
    else s.setEgress q { e with port := Fin.ofNat 8 (bits n 5 3) }
  | _ => s.setEgress q { e with head := bits n 0 21 }

/-- The RW fields of a reshape word (R403): word 1 without GO, the port set, markers, peers, routes. -/
def reshapeMask (i : Nat) : Nat :=
  if i = 0 then 0
  else if i = 1 then 0xFFFF
  else if i < 6 then 0xFFFFFFFF
  else if i < 38 then 0xFFFF0FFF
  else if i < 166 then 0xFFFF
  else 0xFFFFFFFF

def State.reshapeWord (s : State) (i : Nat) : Nat := (AMap.getD s.edge.reshape.words i 0).toNat

def State.setReshapeWord (s : State) (i : Nat) (v : Word) : State :=
  { s with edge := { s.edge with reshape := { s.edge.reshape with
    words := s.edge.reshape.words.put i (word (setBits (s.reshapeWord i) v.toNat (reshapeMask i))) } } }

def State.coll (s : State) (k : Fin 64) : Coll := s.edge.colls[k]
def State.setColl (s : State) (k : Fin 64) (c : Coll) : State := { s with edge := { s.edge with colls := vset s.edge.colls k c } }

/-- Words 1 to 9 of a collective descriptor, while V = 0 (R377). -/
def collWord (s : State) (k : Fin 64) (j : Nat) (v : Word) : State :=
  let c := s.coll k
  let n := v.toNat
  if c.v then s
  else
    match j with
    | 1 => s.setColl k { c with expect := bits n 0 21 }
    | 2 => s.setColl k { c with src := setHalf c.src false n 0xFFFFFFFF }
    | 3 => s.setColl k { c with src := setHalf c.src true n 0xFFFFFF }
    | 4 => s.setColl k { c with dst := setHalf c.dst false n 0xFFFFFFFF }
    | 5 => s.setColl k { c with dst := setHalf c.dst true n 0xFFFFFF }
    | 6 => s.setColl k { c with start := setHalf c.start false n 0xFFFFFFFF }
    | 7 => s.setColl k { c with start := setHalf c.start true n 0xFFFFFF }
    | 8 => s.setColl k { c with doneA := setHalf c.doneA false n 0xFFFFFFFF }
    | 9 => s.setColl k { c with doneA := setHalf c.doneA true n 0xFFFFFF }
    | _ => s

/-- Registers of the mailbox (R380): ILEN, the nonce, the inbox buffer. -/
def mailboxWord (s : State) (o : Nat) (v : Word) : State :=
  let m := s.host.mbox
  let put (m : Mailbox) : State := { s with host := { s.host with mbox := m } }
  if o = 0 then put { m with ilen := v.toNat % 2 ^ 24 }
  else if 0x40 ≤ o ∧ o < 0x60 then
    let sh := (o - 0x40) * 8
    if s.host.modState = 14 then s
    else put { m with nonce := (m.nonce &&& ~~~(BitVec.ofNat 256 (0xFFFFFFFF * 2 ^ sh))) ||| BitVec.ofNat 256 (v.toNat * 2 ^ sh) }
  else if 0x100000 ≤ o ∧ o < 0x900000 then put { m with inbox := m.inbox.writeN (o - 0x100000) 4 v.toNat }
  else s

/-- Ports of four host windows (R368). -/
def windowPorts (s : State) (w : Nat) (v : Word) : State :=
  { s with host := { s.host with
    winPort := (List.range 4).foldl (fun (m : AMap Nat) i => m.put (w + i) (v.toNat / 2 ^ (8 * i) % 8)) s.host.winPort } }

/-- Write the RW fields of the word at an offset; words with behaviour of their own, and words without RW fields, keep
what they hold. Words of a reshape order take a write while it runs too, and the order reads them as they are then (log 52). -/
def registerSet (s : State) (off : Nat) (v : Word) : State :=
  let h := s.host
  if 0x10000 ≤ off ∧ off < 0x11000 then
    let i := (off - 0x10000) / 8
    let old : DWord := AMap.getD h.aper i 0
    let mask := if off % 8 = 4 then 0xFFFFFF else 0xC0001FFF
    { s with host := { h with aper := h.aper.put i (setHalf old (off % 8 == 4) v.toNat mask) } }
  else if 0x100000 ≤ off ∧ off < 0x110000 then egressWord s ((off - 0x100000) / 16) (off % 16 / 4) v
  else if 0x400000 ≤ off ∧ off < 0x420000 then
    let i := (off - 0x400000) / 8
    let old : DWord := AMap.getD h.wins i 0
    let mask := if off % 8 = 4 then 0xFFFFFFFF else 0xFFE00001
    { s with host := { h with wins := h.wins.put i (setHalf old (off % 8 == 4) v.toNat mask) } }
  else if 0x600000 ≤ off ∧ off < 0x604000 then windowPorts s (off - 0x600000) v
  else if off = 0x1000000 then
    (if v.getLsbD 8 then s else { s with edge := { s.edge with domNum := v.toNat % 2 ^ 8 } })
  else if 0x1000100 ≤ off ∧ off < 0x1000300 then
    { s with edge := { s.edge with domPorts := vset s.edge.domPorts (Fin.ofNat 128 ((off - 0x1000100) / 4)) (word (v.toNat % 2 ^ 16)) } }
  else if 0x1001000 ≤ off ∧ off < 0x1002000 then collWord s (Fin.ofNat 64 ((off - 0x1001000) / 64)) (off % 64 / 4) v
  else if 0x1F00000 ≤ off ∧ off < 0x1F00398 then
    (if off = 0x1F00004 ∧ v.getLsbD 16 = true then s else s.setReshapeWord ((off - 0x1F00000) / 4) v)
  else if 0x2000000 ≤ off ∧ off < 0x4000000 then mailboxWord s (off - 0x2000000) v
  else if 0x10000000 ≤ off ∧ off < 0x20000000 then
    { s with host := { h with launchArea := h.launchArea.writeN (off - 0x10000000) 4 v.toNat } }
  else if 0x100000000 ≤ off ∧ off % 0x800000 = 16 ∧ off < 0x900000000 then
    { s with host := { h with release := h.release.put ((off - 0x100000000) / 0x800000) v } }
  else s

/-- A host write of one aligned word to BAR0; in recovery only the inbox takes writes (R379). -/
def execRegisterWrite (off : Nat) (v : Word) (s : State) : Host.Outcome State Fault Refusal :=
  let inbox := decide (off = 0x2000000) || (decide (0x2100000 ≤ off) && decide (off < 0x2900000))
  if off % 4 ≠ 0 ∨ (s.host.modState = 14 ∧ inbox = false) then .next s else .next (registerSet s off v)

/-! ## Reads of the management window (R371) -/

/-- Whether an edge port is down (R379). One that was so when a reshape made it dark is until it relocks. -/
def State.edgeDown (s : State) (p : Fin 128) : Bool :=
  let e := s.edge.ports[p]
  e.down || (e.dark && e.was && !e.trained) || (s.host.inDom && !(s.edge.peers[p]).getLsbD 15 && !e.trained && !e.dark)

/-- MOD.PORTDN as a number. -/
def downBits (s : State) : Nat := fieldsOf 1 ((List.finRange 128).map fun p => (s.edgeDown p).toNat)

def moduleWord (s : State) (off : Nat) : Nat :=
  let h := s.host
  match off with
  | 0x000 => h.modState + ((List.finRange 128).filter s.edgeDown).length * 2 ^ 16
  | 0x008 => h.serial % 2 ^ 32
  | 0x00C => h.serial / 2 ^ 32
  | 0x010 => h.modNum + h.inDom.toNat * 2 ^ 8
  | 0x014 => s.casting.gen
  | 0x018 => h.pcap
  | 0x01C => if s.tick < 100000 then 0 else (Config.power s.tick).toNat
  | 0x020 => (s.cells.foldl (fun n e => n + e.2.ecc) h.cecc) % 2 ^ 32
  | 0x024 => (s.cells.foldl (fun n e => n + e.2.ecc) h.cecc) / 2 ^ 32
  | 0x040 => downBits s % 2 ^ 32
  | 0x044 => downBits s / 2 ^ 32
  | 0x048 => downBits s / 2 ^ 64
  | 0x04C => downBits s / 2 ^ 96
  | _ => 0

/-- The words of an egress descriptor (R367). -/
def egressRead (e : Egress) (j : Nat) : Nat :=
  match j with
  | 0 => e.base.toNat
  | 1 => e.base.toNat / 2 ^ 32
  | 2 => e.log2n + e.port.val * 2 ^ 5 + e.cq.toNat * 2 ^ 8 + e.ien.toNat * 2 ^ 9 + e.vec * 2 ^ 10 + e.lost * 2 ^ 21
  | _ => e.head

/-- The words of a collective descriptor (R377). -/
def collRead (c : Coll) (j : Nat) : Nat :=
  match j with
  | 0 => c.v.toNat + c.fn * 2 + c.stage * 2 ^ 16
  | 1 => c.expect
  | 2 => c.src.toNat
  | 3 => c.src.toNat / 2 ^ 32
  | 4 => c.dst.toNat
  | 5 => c.dst.toNat / 2 ^ 32
  | 6 => c.start.toNat
  | 7 => c.start.toNat / 2 ^ 32
  | 8 => c.doneA.toNat
  | 9 => c.doneA.toNat / 2 ^ 32
  | 10 => c.rounds % 2 ^ 16 + c.abort.toNat * 2 ^ 16 + c.refused.toNat * 2 ^ 17
  | _ => 0

/-- A listed marker of the reshape order, and whether it is recorded (R403). -/
def State.markerDone (s : State) (i : Nat) : Bool :=
  let w := s.reshapeWord (6 + i)
  (s.stage (w % 2 ^ 12)).markers.contains (w / 2 ^ 16)

def State.markersListed (s : State) : Nat := bits (s.reshapeWord 1) 10 6

/-- The registers of a mailbox (R380). -/
def mailboxRead (m : Mailbox) (o : Nat) : Nat :=
  if o = 0 then m.ilen
  else if o = 8 then m.istat + m.ireason * 2 ^ 4
  else if o = 0x14 then m.ostat
  else if o = 0x18 then m.olen
  else if 0x40 ≤ o ∧ o < 0x60 then m.nonce.toNat / 2 ^ (8 * (o - 0x40))
  else if 0x100000 ≤ o ∧ o < 0x900000 then m.inbox.readN (o - 0x100000) 4
  else if 0x1000000 ≤ o ∧ o < 0x1200000 then natOf ((m.outbox.drop (o - 0x1000000)).take 4)
  else 0

def statusNum (t : StageStatus) : Nat :=
  match t with
  | .queued => 0
  | .placed => 1
  | .preempted => 2
  | .ended => 3

/-- A word of a list of entries. -/
def entryWord (l : List (List Word)) (i j : Nat) : Nat := ((l[i]?).bind fun e => e[j]?).elim 0 BitVec.toNat

/-- A stage block (R126, R302, R344, R370; the places of the counts before their logs are log 35). The words that R370 gives writes
alone, +8, +16 and +20, read zero (log 89). -/
def stageRead (t : Stage) (o : Nat) : Nat :=
  if o = 0 then statusNum t.status + t.unplaceable.toNat * 4 + t.scene % 2 ^ 16 * 2 ^ 16
  else if o = 4 then (if t.placedOnce then t.x0 + t.y0 * 2 ^ 16 else 0xFFFFFFFF)
  else if o = 0x1000 then t.elog.length
  else if o = 0x1004 then t.elogOvf
  else if 0x1010 ≤ o ∧ o < 0x5010 then
    entryWord (t.elog.map fun e => [e.1, e.2.1, e.2.2.1, e.2.2.2]) ((o - 0x1010) / 16) ((o - 0x1010) % 16 / 4)
  else if o = 0x20000 then t.flog.length
  else if o = 0x20004 then t.flogOvf
  else if 0x20020 ≤ o ∧ o < 0x40020 then entryWord t.flog ((o - 0x20020) / 32) ((o - 0x20020) % 32 / 4)
  else if 0x100000 ≤ o then entryWord t.stallLog ((o - 0x100000) / 32) (o % 32 / 4)
  else 0

/-- What a host reads at an aligned offset of BAR0. -/
def mgmtRead (s : State) (off : Nat) : Word :=
  let h := s.host
  word <|
    if off < 0x1000 then moduleWord s off
    else if off = 0x1004 then h.launchStat.toNat
    else if 0x10000 ≤ off ∧ off < 0x11000 then (AMap.getD h.aper ((off - 0x10000) / 8) 0).toNat / 2 ^ (8 * (off % 8))
    else if 0x100000 ≤ off ∧ off < 0x110000 then egressRead (s.egress ((off - 0x100000) / 16)) (off % 16 / 4)
    else if 0x200000 ≤ off ∧ off < 0x204000 then
      let e := s.egress ((off - 0x200000) / 4)
      e.bound.getD 0 + e.bound.isSome.toNat * 2 ^ 12
    else if 0x400000 ≤ off ∧ off < 0x420000 then (AMap.getD h.wins ((off - 0x400000) / 8) 0).toNat / 2 ^ (8 * (off % 8))
    else if 0x600000 ≤ off ∧ off < 0x604000 then fieldsOf 8 ((List.range 4).map fun i => AMap.getD h.winPort (off - 0x600000 + i) 0)
    else if off = 0x1000000 then s.edge.domNum + h.inDom.toNat * 2 ^ 9 + s.edge.domResult * 2 ^ 10
    else if 0x1000100 ≤ off ∧ off < 0x1000300 then (s.edge.domPorts[Fin.ofNat 128 ((off - 0x1000100) / 4)]).toNat
    else if 0x1001000 ≤ off ∧ off < 0x1002000 then collRead (s.coll (Fin.ofNat 64 ((off - 0x1001000) / 64))) (off % 64 / 4)
    else if off = 0x1F00000 then
      s.edge.reshape.state + ((List.range s.markersListed).filter s.markerDone).length * 2 ^ 8
    else if 0x1F00004 ≤ off ∧ off < 0x1F00398 then s.reshapeWord ((off - 0x1F00000) / 4)
    else if 0x2000000 ≤ off ∧ off < 0x4000000 then mailboxRead h.mbox (off - 0x2000000)
    else if 0x10000000 ≤ off ∧ off < 0x20000000 then h.launchArea.readN (off - 0x10000000) 4
    else if 0x100000000 ≤ off ∧ off < 0x900000000 then
      (AMap.get? s.stages ((off - 0x100000000) / 0x800000)).elim 0 fun t => stageRead t (off % 0x800000)
    else 0

end Sys2Proof.Machine
end

