-- ==== Sys2Proof/Machine/Edge.lean ====
section
/-! DEFINITION. Edge.lean: the domain table and port training, edge collectives, reshapes and lost links (spec 12 R361 to R363,
13 R374 to R377, 19 R403). -/

namespace Sys2Proof.Machine

def State.setEdgePort (s : State) (p : Fin 128) (e : EdgePort) : State :=
  { s with edge := { s.edge with ports := vset s.edge.ports p e } }

/-! ## The domain table (R374, R375) -/

def EdgePort.blank : EdgePort := { trained := false, dark := false, down := false, retry := none }

/-- Whether a reshape order runs. -/
def State.reshaping (s : State) : Bool := decide (1 ≤ s.edge.reshape.state ∧ s.edge.reshape.state ≤ 3)

/-- A COMMIT write: the table is adopted whole, or refused. `held` tells that a module outside the routes of the table
in force is reachable and holds NUM. -/
def execDomainCommit (v : Word) (held : Bool) (s : State) : Host.Outcome State Fault Refusal :=
  if s.inRecovery = true ∨ v.getLsbD 8 = false then .next s
  else
    let num := v.toNat % 2 ^ 8
    let s := { s with edge := { s.edge with domNum := num } }
    let result (n : Nat) : State := { s with edge := { s.edge with domResult := n } }
    if s.stages.any (fun e => decide (e.2.status = .placed)) || s.reshaping then .next (result 2)
    else if held || (s.host.inDom && decide (num ≠ s.host.modNum) && (s.toward num).isSome) then .next (result 3)
    else
      .next { s with
        host := { s.host with modNum := num, inDom := true }
        edge := { s.edge with
          domResult := 1, peers := s.edge.domPorts, ports := Vector.replicate 128 EdgePort.blank, next := none, cut := [], parts := []
          colls := s.edge.colls.map fun (c : Coll) => { c with ended := [] } } }

/-- Whether a used port's table entry names a module and a port. -/
def entryNames (w : Nat) (m : Byte) (peer : Fin 128) : Bool :=
  !w.testBit 15 && decide (bits w 7 8 = m.toNat) && decide (bits w 0 7 = peer.val)

/-- A port completes training with the peer that its table names; any other peer leaves it down. A link in retry has its
lock again (R363). -/
def execPortTraining (p : Fin 128) (m : Byte) (peer : Fin 128) (s : State) : Host.Outcome State Fault Refusal :=
  let e := s.edge.ports[p]
  if s.host.inDom = true ∧ e.down = false ∧ e.dark = false ∧ entryNames (s.edge.peers[p]).toNat m peer = true then
    .next (s.setEdgePort p { e with trained := true, retry := none })
  else .next s

/-! ## Collectives (R376, R377) -/

/-- Whether a descriptor may take V = 1. -/
def collOk (s : State) (c : Coll) : Bool :=
  (match AMap.get? s.stages c.stage with
   | some t => decide (t.status = .placed)
   | none => false)
    && decide (1 ≤ c.expect ∧ c.expect ≤ 2 ^ 20) && decide (c.src.toNat % 64 = 0 ∧ c.dst.toNat % 64 = 0)
    && decide (c.start.toNat % 4 = 0 ∧ c.doneA.toNat % 4 = 0)

/-- V is set or cleared, and the domain hears of it. -/
def collJoin (s : State) (k : Fin 64) (on : Bool) : State := s.send (.member allModules k on)

/-- A write of word 0. V = 0 takes effect after the round in progress; a look at START is no part of one, and its answer is then no
one's. -/
def execCollectiveEnable (k : Fin 64) (v : Word) (s : State) : Host.Outcome State Fault Refusal :=
  let c := s.coll k
  if s.inRecovery then .next s
  else if c.v then
    if v.getLsbD 0 then .next s
    else if c.phase ≠ .idle then .next (s.setColl k { c with closing := true })
    else .next (collJoin (s.setColl k { c with v := false, closing := false, out := [] }) k false)
  else
    let d := { c with fn := bits v.toNat 1 3, stage := bits v.toNat 16 12 }
    if v.getLsbD 0 then
      if collOk s d then .next (collJoin (s.setColl k { d with v := true, refused := false, closing := false }) k true)
      else .next (s.setColl k { d with refused := true })
    else .next (s.setColl k d)

/-- The RED functions in code order (R85). -/
def redOf (code : Nat) : RedFn :=
  match code with
  | 0 => .addI32
  | 1 => .addF32
  | 2 => .addBf16x2
  | 3 => .maxF32
  | 4 => .minF32
  | 5 => .and
  | 6 => .or
  | _ => .xor

/-- One step of the fold on 16 lanes. -/
def redLanes (fn : RedFn) (acc d : VWord) : VWord :=
  BitVec.ofNat 512 (fieldsOf 32 ((List.range 16).map fun i => (fn.new (acc.extractLsb' (32 * i) 32) (d.extractLsb' (32 * i) 32)).toNat))

/-- The fold of contributions, first to last. -/
def redFold (fn : RedFn) (l : List VWord) : VWord :=
  match l with
  | [] => 0
  | d :: r => r.foldl (redLanes fn) d

/-- The home of an address of a descriptor, none where it does not translate here or is not allowed (log 37). -/
def collHome (s : State) (c : Coll) (k : ReqKind) (a : DWord) : Option Nat :=
  if modOf a ≠ s.host.modNum then none
  else
    match (pageOf s k 64 c.stage none (s.stage c.stage).root (offOf a)).1 with
    | .home key => some key
    | _ => none

/-- Participants of a collective, this module among them, in ascending order. -/
def collMembers (s : State) (c : Coll) : List Nat := (c.members.filter (fun m => decide (m ≠ s.host.modNum))).foldl (fun l m => insertBy id m l) [s.host.modNum]

/-- How many rounds between this module and a participant are over. -/
def Coll.turnOf (c : Coll) (m : Nat) : Nat := c.ended.getD m 0

/-- One more round is over between this module and each of some participants. -/
def Coll.over (c : Coll) (l : List Nat) : Coll := { c with ended := l.foldl (fun (f : AMap Nat) m => f.put m (f.getD m 0 + 1)) c.ended }

/-- The contribution of a module to the round in progress. -/
def partOf (s : State) (k : Fin 64) (m : Nat) : Option Part :=
  s.edge.parts.find? fun p => decide (p.src = m) && decide (p.coll = k) && decide (p.turn = (s.coll k).turnOf m)

/-- Whether a module is in a later round: it ended the one in progress here by itself (log 37). -/
def ahead (s : State) (k : Fin 64) (m : Nat) : Bool :=
  s.edge.parts.any fun p => decide (p.src = m) && decide (p.coll = k) && decide ((s.coll k).turnOf m < p.turn)

/-- The end of a round at this module; then a V = 0 that waited. -/
def collOver (s : State) (k : Fin 64) : State :=
  let c := s.coll k
  let c := { c with
    phase := .idle, rounds := if c.ok then (c.rounds + 1) % 2 ^ 16 else c.rounds, abort := c.abort || c.lost, ok := true, lost := false }
  if c.closing then collJoin (s.setColl k { c with v := false, closing := false }) k false else s.setColl k c

/-- An operation that can never take place, since its stage has ended or its module cannot be reached: before its contribution a
participant gives one that no function matches, which ends the round; a DST that is not written fails the round; without its DONE
the round is over (R376; log 37). -/
def collFail (s : State) (k : Fin 64) (op : CollOp) : State :=
  let c := s.coll k
  match op with
  | .poll => s
  | .take | .src _ => s.setColl k { c with phase := .give, data := 0, ok := false }
  | .dst => s.setColl k { c with phase := .done, ok := false, lost := true }
  | .done => collOver s k

/-- What an answer does for a round; one that tells of a fault does nothing, and the step is tried again (log 37). -/
def collGot (s : State) (k : Fin 64) (op : CollOp) (res : AckRes) : State :=
  let c := s.coll k
  match op, res with
  | .poll, .value v => if c.v = true ∧ c.phase = .idle ∧ c.expect ≤ v.toNat then s.setColl k { c with phase := .take } else s
  | .take, .done => s.setColl k { c with phase := .srcLow }
  | .src false, .block d => s.setColl k { c with phase := .srcHigh, data := d.setWidth 512 }
  | .src true, .block d => s.setColl k { c with phase := .give, data := c.data ||| (d.setWidth 512 <<< 256) }
  | .dst, .done => s.setColl k { c with phase := .done }
  | .done, .done => collOver s k
  | _, _ => s

/-- One operation of the engine in wafer space: applied here, or sent to the module of its address (R320). -/
def collDo (s : State) (k : Fin 64) (op : CollOp) (a : DWord) (kind : ReqKind) : State :=
  let c := s.coll k
  let gone := decide ((s.stage c.stage).status = .ended)
  let r : Req :=
    { kind := kind, addr := a, cell := 0, ctx := 0, slot := 0, stage := c.stage, ordered := false, loc := .issued, lo := false
      hi := false, origin := none }
  if modOf a = s.host.modNum then
    match collHome s c kind a with
    | some key =>
      let p := applyAt s r (key / 2 ^ 27) key
      collGot p.1 k op p.2
    | none => if gone then collFail s k op else s
  else if gone then collFail s k op
  else
    match s.toward (modOf a) with
    | some port =>
      if s.portOpen port then
        let m := s.sendRequest (modOf a) port r
        m.2.setColl k { c with out := c.out ++ [(m.1, op)] }
      else s
    | none => collFail s k op

def redAdd (n : Nat) : ReqKind := .red .addI32 (word n)

/-- The function number of a contribution that cannot be made. -/
def noFn : Nat := 8

/-- The contribution of this module goes to the lowest participant. -/
def collGive (s : State) (k : Fin 64) (low : Nat) : State :=
  let c := s.coll k
  let job := (s.stage c.stage).job
  let fn := if c.ok then c.fn else noFn
  let s := s.setColl k { c with phase := .wait }
  if low = s.host.modNum then { s with edge := { s.edge with parts := s.edge.parts ++ [⟨low, k, job, fn, c.turnOf low, c.data⟩] } }
  else s.send (.contribute low k job fn (c.turnOf low) c.data)

/-- A round ends at this module, well or not. -/
def collEnd (s : State) (k : Fin 64) (ok lost : Bool) (d : VWord) : State :=
  let c := s.coll k
  s.setColl k { c with phase := if ok then .dst else .done, data := d, ok := ok, lost := lost }

/-- This module cannot reach the lowest participant: it ends the round by itself, and a contribution that has not left goes no more. -/
def collAlone (s : State) (k : Fin 64) (low : Nat) : State :=
  let mine (m : EdgeMsg) : Bool :=
    match m with
    | .contribute p j _ _ _ _ => decide (p = low ∧ j = k)
    | _ => false
  let s := collEnd s k false true 0
  ({ s with edge := { s.edge with waiting := s.edge.waiting.filter fun m => !mine m } } : State).setColl k ((s.coll k).over [low])

/-- The lowest participant ends a round: it sends the result to every other one, and takes its own. -/
def collFinish (s : State) (k : Fin 64) (mem : List Nat) (ok lost : Bool) (d : VWord) : State :=
  let c := s.coll k
  let left (p : Part) : Bool := decide (p.coll ≠ k) || !mem.contains p.src || decide (c.turnOf p.src < p.turn)
  let s := { s with edge := { s.edge with parts := s.edge.parts.filter left } }.setColl k (c.over mem)
  (mem.filter fun m => decide (m ≠ s.host.modNum)).foldl (fun s m => s.send (.result m k (c.turnOf m) ok lost d)) (collEnd s k ok lost d)

/-- The lowest participant folds once every contribution is there, or ends a round that a participant left (R376, R377). -/
def collFold (s : State) (k : Fin 64) (mem : List Nat) (away : Nat → Bool) : State :=
  let c := s.coll k
  if mem.any fun m => away m || ahead s k m then collFinish s k mem false true 0
  else
    let l := mem.filterMap (partOf s k)
    if l.length < mem.length then s
    else
      let job := (s.stage c.stage).job
      let ok := l.all fun p => decide (p.job = job) && decide (p.fn = c.fn)
      collFinish s k mem ok (l.any fun p => decide (p.fn = noFn)) (redFold (redOf c.fn) (l.map Part.data))

/-- The next step of a collective, none while an answer is awaited. -/
def collStep (s : State) (k : Fin 64) : State :=
  let c := s.coll k
  let mem := collMembers s c
  let low := mem.head?.getD s.host.modNum
  let away (m : Nat) : Bool := decide (m ≠ s.host.modNum) && (s.toward m).isNone
  if c.out ≠ [] then s
  else
    match c.phase with
    | .idle => if c.v then collDo s k .poll c.start (.amo .ld false false 0 0 0 noAct) else s
    | .take => collDo s k .take c.start (redAdd (2 ^ 32 - c.expect))
    | .srcLow => collDo s k (.src false) c.src .getBlock
    | .srcHigh => collDo s k (.src true) (setOff c.src (offOf c.src + 32)) .getBlock
    | .give => collGive s k low
    | .wait => if low ≠ s.host.modNum then (if away low then collAlone s k low else s) else collFold s k mem away
    | .dst => collDo s k .dst c.dst (.store64 c.data)
    | .done => collDo s k .done c.doneA (redAdd (if c.ok then 1 else 2 ^ 31))

/-- Steps as long as each leads to another phase, at most `fuel`. -/
def collRun (s : State) (k : Fin 64) (fuel : Nat) : State :=
  match fuel with
  | 0 => s
  | n + 1 =>
    let t := collStep s k
    if (t.coll k).phase = (s.coll k).phase then t else collRun t k n

/-- Whether a participant takes the result of its round now: a good one when it awaits it; a failed one as soon as nothing of the engine's
is out but a look at START, and the round before has come to its end (R376). A module that takes no part drops it. -/
def resultNow (c : Coll) (ok : Bool) : Bool :=
  !c.v || (if ok then decide (c.phase = .wait)
    else c.out.all (fun o => decide (o.2 = .poll)) && decide (c.phase ≠ .dst ∧ c.phase ≠ .done))

/-- Whether a message is for a collective now: of another participant, or an answer to one of its requests. -/
def msgFor (s : State) (k : Fin 64) (m : EdgeMsg) : Bool :=
  match m with
  | .member _ j _ => decide (j = k)
  | .contribute _ j _ _ _ _ => decide (j = k)
  | .result m j turn ok _ _ => decide (j = k) && (decide (turn < (s.coll k).turnOf m) || resultNow (s.coll k) ok)
  | .answer _ id _ => (s.coll k).out.any fun o => decide (o.1 = id)
  | _ => false

/-- A message of a collective that came in. A round that failed ends at every participant, however far it is; a contribution to a round
that is over, or a result of one, is dropped (R376). -/
def collMsg (s : State) (k : Fin 64) (i : Nat) : State :=
  let s1 := s.dropInbox i
  let c := s.coll k
  match s.edge.inbox[i]? with
  | some (.member m _ on) =>
    let l := c.members.filter fun x => decide (x ≠ m)
    s1.setColl k { c with members := if on then l ++ [m] else l }
  | some (.contribute m _ job fn turn d) =>
    if turn < c.turnOf m then s1 else { s1 with edge := { s1.edge with parts := s1.edge.parts ++ [⟨m, k, job, fn, turn, d⟩] } }
  | some (.result m _ turn ok lost d) =>
    if turn < c.turnOf m then s1
    else
      let s2 := s1.setColl k { c with ended := c.ended.put m (turn + 1) }
      if c.v then collEnd s2 k ok lost d else s2
  | some (.answer _ id res) =>
    (match c.out.find? fun o => decide (o.1 = id) with
     | some o => collGot (s1.setColl k { c with out := c.out.filter fun o => decide (o.1 ≠ id) }) k o.2 res
     | none => s1)
  | _ => s

/-- A step of a collective: a message that came in, and then as far as this module gets by itself. -/
def execCollectiveRound (k : Fin 64) (s : State) : Host.Outcome State Fault Refusal :=
  match s.edge.inbox.findIdx? (msgFor s k) with
  | some i => .next (collRun (collMsg s k i) k 8)
  | none => .next (collRun s k 8)

/-! ## Reshapes (R361, R362, R403) -/

/-- Reference ticks of a millisecond (R26). -/
def msTicks : Nat := 100000

/-- Whether an order names a port. -/
def State.named (s : State) (p : Nat) : Bool := (s.reshapeWord (2 + p / 32)).testBit (p % 32)

def State.setReshape (s : State) (n : Nat) : State := { s with edge := { s.edge with reshape := { s.edge.reshape with state := n } } }

/-- A write of word 1 with GO. -/
def execReshapeGo (v : Word) (s : State) : Host.Outcome State Fault Refusal :=
  if s.inRecovery = true ∨ v.getLsbD 16 = false then .next s
  else
    let s := s.setReshapeWord 1 v
    let n := v.toNat
    if s.reshaping then .next s
    else if bits n 0 10 = 0 ∨ 32 < bits n 10 6 then .next (s.setReshape 5)
    else .next { s with edge := { s.edge with reshape := { s.edge.reshape with state := 1, goAt := s.tick } } }

/-- Whether traffic of this module, for it, of a collective, or relayed for others is out through a named port (log 38). A relayed request
is so until its own allowance is back, whatever way its answer takes. -/
def allowancesOut (s : State) : Bool :=
  let out (m : Nat) : Bool := (s.toward m).any s.named
  s.edge.via.any (fun e => s.named e.2)
    || s.reqs.any (fun r => r.origin.any fun o => out o.1) || s.acks.any (fun a => a.req.origin.any fun o => out o.1)
    || s.edge.waiting.any (fun m => out m.to)
    || s.edge.inbox.any (fun m => match m with
        | .request peer _ _ => out peer
        | .transit src _ _ _ => out src
        | _ => false)
    || s.edge.relays.any (fun e => s.named e.2.2.1 && decide (s.strip < e.2.2.2))
    || s.edge.colls.any (fun c => decide (c.phase ≠ .idle) && c.members.any out)

/-- Whether the drain is complete. -/
def drained (s : State) : Bool :=
  (List.range s.markersListed).all s.markerDone && !allowancesOut s

/-- Whether a named port has nothing to wait for: it relocked, is down, or is to be unused. -/
def portSettled (s : State) (p : Fin 128) : Bool :=
  let e := s.edge.ports[p]
  !s.named p.val || e.trained || e.down || (s.reshapeWord (38 + p.val)).testBit 15

/-- The routes that NEXT gives. -/
def nextRoutes (s : State) : AMap Nat :=
  (List.range 256).filterMap fun m =>
    let n := s.reshapeWord (166 + m / 4) / 2 ^ (8 * (m % 4)) % 2 ^ 8
    if n = 255 ∨ m = s.host.modNum then none else some (m, n)

/-- Step 5: peers, routes, state, wakes. What neighbours told of routes before is void. -/
def resume (s : State) : State :=
  let new (p : Fin 128) (old : Word) : Word := if s.named p.val then word (s.reshapeWord (38 + p.val) % 2 ^ 16) else old
  let bad := (List.finRange 128).any fun p => s.named p.val && (s.edge.ports[p]).down
  wakeCutOff (tellUnreached { s with edge := { s.edge with
    domPorts := Vector.ofFn fun p => new p s.edge.domPorts[p]
    peers := Vector.ofFn fun p => new p s.edge.peers[p]
    ports := Vector.ofFn fun p => if s.named p.val then { s.edge.ports[p] with dark := false, was := false } else s.edge.ports[p]
    next := some (nextRoutes s)
    cut := []
    reshape := { s.edge.reshape with state := if bad then 6 else 4 } } })

/-- Resume once every named port has settled. -/
def settleReshape (s : State) : State := if (List.finRange 128).all (portSettled s) then resume s else s

/-- The drain completes within its timeout: the named ports go dark, or an order without ports is done. -/
def execReshapeDrainDone (s : State) : Host.Outcome State Fault Refusal :=
  let r := s.edge.reshape
  if r.state = 1 ∧ s.tick < r.goAt + bits (s.reshapeWord 1) 0 10 * msTicks ∧ drained s = true then
    .next (settleReshape { s with edge := { s.edge with
      ports := Vector.ofFn fun p =>
        if s.named p.val then ⟨false, true, false, none, s.edgeDown p⟩ else s.edge.ports[p]
      reshape := { r with state := 2, darkAt := s.tick } } })
  else .next s

def execReshapeDrainTimeout (s : State) : Host.Outcome State Fault Refusal :=
  let r := s.edge.reshape
  if r.state = 1 ∧ r.goAt + bits (s.reshapeWord 1) 0 10 * msTicks ≤ s.tick then .next (s.setReshape 5) else .next s

/-- Whether a port is dark in an order that waits for it. -/
def awaited (s : State) (p : Fin 128) : Bool :=
  let e := s.edge.ports[p]
  decide (s.edge.reshape.state = 2 ∨ s.edge.reshape.state = 3) && s.named p.val && e.dark && !e.trained && !e.down

/-- A dark port trains with its new peer; STATE is then 3 while others are awaited (log 52). -/
def execPortRelock (p : Fin 128) (m : Byte) (peer : Fin 128) (s : State) : Host.Outcome State Fault Refusal :=
  if awaited s p && entryNames (s.reshapeWord (38 + p.val)) m peer && decide (s.tick < s.edge.reshape.darkAt + 500 * msTicks) then
    .next (settleReshape ((s.setEdgePort p { s.edge.ports[p] with trained := true }).setReshape 3))
  else .next s

/-- Whether a port is one that a dark interval of 500 ms declares down. -/
def overdue (s : State) (p : Fin 128) : Bool :=
  awaited s p && !(s.reshapeWord (38 + p.val)).testBit 15 && decide (s.edge.reshape.darkAt + 500 * msTicks ≤ s.tick)

/-- A port that has not relocked 500 ms after the dark interval began is down, and so is every other such one: the order then ends
with STATE 6 (R361, R403). -/
def execPortRelockTimeout (p : Fin 128) (s : State) : Host.Outcome State Fault Refusal :=
  if overdue s p then
    .next (settleReshape { s with edge := { s.edge with
      ports := Vector.ofFn fun q => if overdue s q then { s.edge.ports[q] with down := true } else s.edge.ports[q] } })
  else .next s

/-! ## Lost links (R363) -/

def execLinkLoss (p : Fin 128) (s : State) : Host.Outcome State Fault Refusal :=
  let e := s.edge.ports[p]
  if e.trained = true ∧ e.dark = false ∧ e.down = false ∧ e.retry = none then
    .next (s.setEdgePort p { e with retry := some s.tick })
  else .next s

/-- A request of this module that is out at another: its stage, its cell (none for a collective), context, slot, unit and address. -/
structure OutReq where
  stage : Nat
  cell : Option Nat
  ctx : Fin 4
  slot : Nat
  unit : Nat
  addr : DWord
  deriving DecidableEq, Repr

/-- The address of an operation of a collective. -/
def Coll.addrOf (c : Coll) (op : CollOp) : DWord :=
  match op with
  | .poll | .take => c.start
  | .src high => if high then setOff c.src (offOf c.src + 32) else c.src
  | .dst => c.dst
  | .done => c.doneA

/-- The requests of this module that left by a port: of contexts, of copies under their template's number or 16, of collectives. -/
def outBy (s : State) (p : Nat) : List OutReq :=
  let mine (id : Nat) : Bool := decide (AMap.get? s.edge.via id = some p)
  let reqs := s.reqs.filterMap fun r =>
    match r.loc with
    | .edge id => if mine id then some ⟨r.stage, some r.cell, r.ctx, r.slot, 0, r.addr⟩ else none
    | _ => none
  let copies := s.cells.flatMap fun e => e.2.copyAct.toList.flatMap fun x =>
    match x with
    | some y => (y.flight.filter fun f => mine f.2).map fun f => ⟨e.2.stage, some e.1, y.ctx, y.slot, y.tmpl.elim 16 Fin.val, y.waferAt f.1⟩
    | none => []
  let colls := s.edge.colls.toList.flatMap fun c => (c.out.filter fun o => mine o.1).map fun o => ⟨c.stage, none, 0, 0, 0, c.addrOf o.2⟩
  reqs ++ copies ++ colls

/-- A request that a lost link leaves unanswered is entered in its stage's fault log. -/
def logOut (s : State) (q : OutReq) : State :=
  let c := q.cell.elim (CellState.blank q.stage 0 0) s.cell
  s.logFault q.stage (mkRecord s c q.ctx q.slot true { waferFault 8 3 q.addr with unit := q.unit } .log) 1 false

/-- A link is declared down after 10 ms of retries: the stages with a request out by it end, what collectives have out by it is out no
more (R376), and a recast that waited for one of those stages goes on (R357). -/
def execLinkDeclaredDown (p : Fin 128) (s : State) : Host.Outcome State Fault Refusal :=
  let e := s.edge.ports[p]
  match e.retry with
  | none => .next s
  | some r =>
    if s.tick < r + 10 * msTicks then .next s
    else
      let l := outBy s p.val
      let s := l.foldl logOut s
      let s := ((l.map (·.stage)).dedup).foldl (fun s st => breakStage s st 3 0 0) s
      let back := s.edge.relays.filter fun e => decide (e.2.2.1 = p.val)
      let s := back.foldl (fun s e => s.send (.transitBack e.1 e.2.1 (.fault 8 3))) s
      let lost (id : Nat) : Bool := decide (AMap.get? s.edge.via id = some p.val)
      let s := { s with edge := { s.edge with
        colls := s.edge.colls.map fun (c : Coll) => { c with out := c.out.filter fun o => !lost o.1 }
        via := s.edge.via.filter fun e => decide (e.2 ≠ p.val), relays := s.edge.relays.filter fun e => decide (e.2.2.1 ≠ p.val) } }
      .next (recastReady (wakeCutOff (tellUnreached (s.setEdgePort p { e with trained := false, down := true, retry := none }))))

end Sys2Proof.Machine
end

