-- ==== Sys2Proof/Machine/FloatScalar.lean ====
section
/-! DEFINITION. FloatScalar.lean: f32 arithmetic and conversions in scalar registers (spec 05 R140, R141, R146, R147). -/

namespace Sys2Proof.Machine

/-- A float operation of two sources under the firing context's captured scalar controls (R130). -/
def flt2 (c : Cue) (d : Dst) (a b : Src) (p : PAct) (f : Mode → Nat → Nat → Nat × Flags) (s : State) :
    Host.Outcome State Fault Refusal :=
  fire s c (needs2 d a b) (fun s =>
    let r := f (scalarMode s.here.fcr) (s.src a).toNat (s.src b).toNat
    result d p (word r.1) (srcsX s.cur [a, b]) r.2 s)

/-- A fused operation whose destination register is also the addend (R140). -/
def flt3 (c : Cue) (d : Fin 16) (a b : Src) (p : PAct) (f : Mode → Nat → Nat → Nat → Nat × Flags) (s : State) :
    Host.Outcome State Fault Refusal :=
  fire s c (needs2 (.reg d) a b) (fun s =>
    let r := f (scalarMode s.here.fcr) (s.src a).toNat (s.src b).toNat (s.here.getX d).toNat
    result (.reg d) p (word r.1) (srcsX s.cur [a, b]) r.2 s)

/-- A float function of one source (R146, R147). -/
def flt1 (c : Cue) (d : Dst) (a : Src) (p : PAct) (f : Mode → Nat → Nat × Flags) (s : State) :
    Host.Outcome State Fault Refusal :=
  fire s c (needs1 d a) (fun s =>
    let r := f (scalarMode s.here.fcr) (s.src a).toNat
    result d p (word r.1) (srcX s.cur a) r.2 s)

def cmp01 (k : CmpKind) (m : Mode) (a b : Nat) : Nat × Flags :=
  let r := fCmp .f32 m k a b
  (r.1.toNat, r.2)

def execFadd (c : Cue) (d : Dst) (a b : Src) (p : PAct) (s : State) := flt2 c d a b p (fAdd .f32) s
def execFsub (c : Cue) (d : Dst) (a b : Src) (p : PAct) (s : State) := flt2 c d a b p (fSub .f32) s
def execFmul (c : Cue) (d : Dst) (a b : Src) (p : PAct) (s : State) := flt2 c d a b p (fMul .f32) s
def execFma (c : Cue) (d : Fin 16) (a b : Src) (p : PAct) (s : State) := flt3 c d a b p (fFma .f32) s
def execFnms (c : Cue) (d : Fin 16) (a b : Src) (p : PAct) (s : State) := flt3 c d a b p (fNms .f32) s
def execFmin (c : Cue) (d : Dst) (a b : Src) (p : PAct) (s : State) := flt2 c d a b p (fMin .f32) s
def execFmax (c : Cue) (d : Dst) (a b : Src) (p : PAct) (s : State) := flt2 c d a b p (fMax .f32) s
def execFeq (c : Cue) (d : Dst) (a b : Src) (p : PAct) (s : State) := flt2 c d a b p (cmp01 .eq) s
def execFlt (c : Cue) (d : Dst) (a b : Src) (p : PAct) (s : State) := flt2 c d a b p (cmp01 .lt) s
def execFle (c : Cue) (d : Dst) (a b : Src) (p : PAct) (s : State) := flt2 c d a b p (cmp01 .le) s

/-- A conversion between formats; a narrow source is the low bits of A (R147). -/
def cvt (src dst : Fmt) (m : Mode) (n : Nat) : Nat × Flags := fCvtTo src dst m (n % 2 ^ (src.mag + 1))

def execCvtFi (c : Cue) (d : Dst) (a : Src) (p : PAct) (s : State) :=
  flt1 c d a p (fun m => fToInt .f32 m (-(2 ^ 31)) (2 ^ 31 - 1) 32) s
def execCvtFn (c : Cue) (d : Dst) (a : Src) (p : PAct) (s : State) :=
  flt1 c d a p (fun m => fToInt .f32 m 0 (2 ^ 32 - 1) 32) s
def execCvtIf (c : Cue) (d : Dst) (a : Src) (p : PAct) (s : State) :=
  flt1 c d a p (fun m n => fOfInt .f32 m (word n).toInt) s
def execCvtNf (c : Cue) (d : Dst) (a : Src) (p : PAct) (s : State) := flt1 c d a p (fun m n => fOfInt .f32 m n) s
def execFrnd (c : Cue) (d : Dst) (a : Src) (p : PAct) (s : State) := flt1 c d a p fRnd s
def execCvtBf (c : Cue) (d : Dst) (a : Src) (p : PAct) (s : State) := flt1 c d a p (cvt .f32 .bf16) s
def execCvtFb (c : Cue) (d : Dst) (a : Src) (p : PAct) (s : State) := flt1 c d a p (cvt .bf16 .f32) s
def execCvtHf (c : Cue) (d : Dst) (a : Src) (p : PAct) (s : State) := flt1 c d a p (cvt .f32 .f16) s
def execCvtFh (c : Cue) (d : Dst) (a : Src) (p : PAct) (s : State) := flt1 c d a p (cvt .f16 .f32) s
def execCvtE4f (c : Cue) (d : Dst) (a : Src) (p : PAct) (s : State) := flt1 c d a p (cvt .f32 .e4m3) s
def execCvtFe4 (c : Cue) (d : Dst) (a : Src) (p : PAct) (s : State) := flt1 c d a p (cvt .e4m3 .f32) s
def execCvtE5f (c : Cue) (d : Dst) (a : Src) (p : PAct) (s : State) := flt1 c d a p (cvt .f32 .e5m2) s
def execCvtFe5 (c : Cue) (d : Dst) (a : Src) (p : PAct) (s : State) := flt1 c d a p (cvt .e5m2 .f32) s

end Sys2Proof.Machine
end

