-- ==== Sys2Proof/Machine/Queue.lean ====
section
/-! DEFINITION. Queue.lean: words on routes and remote writes as instructions send them (spec 09 R252 to R256). -/

namespace Sys2Proof.Machine

/-- Enqueue one word with a chosen tag (R252). -/
def sendWord (o : Fin 8) (p : PAct) (v : Word) (tag : Byte) (x : Bool) (s : State) : Effect :=
  let c := s.cur.pushOq o ⟨v, tag, x⟩
  .done (s.setCur (c.setCtx s.focus.ctx (s.here.act p (decide (v ≠ 0)))))

def execSend (c : Cue) (o : Fin 8) (a b : Src) (p : PAct) (s : State) : Host.Outcome State Fault Refusal :=
  fire s c (needs2 (.oq o) a b) (fun s => sendWord o p (s.src a) ((s.src b).setWidth 8) (srcsX s.cur [a, b]) s)

def execSendi (c : Cue) (o : Fin 8) (a : Src) (tag : Byte) (s : State) : Host.Outcome State Fault Refusal :=
  fire s c (needs1 (.oq o) a) (fun s => sendWord o noAct (s.src a) tag (srcX s.cur a) s)

/-- What JOIN decides from its two heads: which it pops, and its result (R253). -/
def joinOf (a b : QWord) : (Bool × Bool) × Nat :=
  let ea := decide (a.tag.toNat % 64 = 63)
  let eb := decide (b.tag.toNat % 64 = 63)
  if ea && eb then ((true, true), 3)
  else if eb then ((true, false), 0)
  else if ea then ((false, true), 1)
  else if a.data.toNat < b.data.toNat then ((true, false), 0)
  else if b.data.toNat < a.data.toNat then ((false, true), 1)
  else ((true, true), 2)

/-- A second copy of a head, so that the dequeue of every firing leaves the queue as it was. -/
def CellState.keepHead (c : CellState) (q : Fin 8) : CellState := { c with iq := vset c.iq q (c.headIq q :: c.iq[q]) }

/-- JOIN: both heads count toward readiness and the mark; those that the table pops leave. -/
def execJoin (c : Cue) (d : Dst) (a b : Fin 8) (p : PAct) (s : State) : Host.Outcome State Fault Refusal :=
  fire s c (needs2 d (.deq a) (.deq b)) (fun s =>
    let h := s.cur.headIq a
    let k := s.cur.headIq b
    let j := joinOf h k
    let cell := writeDst s.cur s.focus.ctx d (word j.2) (h.x || k.x)
    let cell := if j.1.1 then cell else cell.keepHead a
    let cell := if j.1.2 then cell else cell.keepHead b
    .done (s.setCur (cell.setCtx s.focus.ctx ((cell.ctx s.focus.ctx).act p (decide (j.2 = 2))))))

def dropSrcs (a : Fin 8) (b : Option (Fin 8)) : List Src := .deq a :: b.toList.map Src.deq

def execDrop (c : Cue) (a : Fin 8) (b : Option (Fin 8)) (p : PAct) (s : State) : Host.Outcome State Fault Refusal :=
  fire s c (needsR (dropSrcs a b)) (onCtx p id)

/-- The cell number that a PUTR names, where its source stands. -/
def putrTarget (s : State) (a : Src) : Nat := (s.src a).toNat

/-- Cells of the firing cell's stage. -/
def stageSize (s : State) : Nat := let t := s.stage s.cur.stage; t.w * t.h

/-- PUTR waits for a free send place and for its name; a number outside the stage has no name to wait for
(R255; log 15). -/
def putrNeeds (a b : Src) (s : State) : Needs :=
  ⟨[a, b], none, decide (s.cur.putSend.length < 4)
    && (decide (stageSize s ≤ putrTarget s a) || s.cur.names.contains (putrTarget s a)), []⟩

/-- Use a name: it becomes the most recent of the cache (R326). -/
def useName (l : List Nat) (n : Nat) : List Nat := n :: l.filter (fun m => decide (m ≠ n))

def execPutr (c : Cue) (k : Fin 4) (r : Fin 8) (a b : Src) (p : PAct) (s : State) : Host.Outcome State Fault Refusal :=
  fire s c (putrNeeds a b s) (fun s =>
    let n := putrTarget s a
    if stageSize s ≤ n then .fault { cls := 5, code := 1, opnd := s.src a }
    else
      onCell p (fun cell => { cell with
        names := useName cell.names n
        putSend := cell.putSend ++ [⟨s.focus.cell, n, k, r, s.src b, s.cur.cyc + 3, none⟩] }) s)

/-- The number of a PUTR that starts a walk (R255): its cue is true, its context runs, its queue sources are present, and
neither the cache nor a walk under way has its name. A send place and what holds the arbiter do not count. -/
def putrWants (s : State) (cue : Cue) (a b : Src) : Option Nat :=
  let c := s.cur
  let n := putrTarget s a
  if c.live = true ∧ c.cueSel cue = some s.focus.ctx ∧ s.here.status = .running ∧ [a, b].all (srcReady c) = true
      ∧ n < stageSize s ∧ c.names.contains n = false ∧ c.nameWalk.any (fun w => w.1 == n) = false then some n
  else none

/-- Walks that end: their names enter the cache of 64, the least recently used leave (R326). -/
def execPutrNameWalk (n : Nat) (s : State) : Host.Outcome State Fault Refusal :=
  let c := s.cell n
  if c.nameWalk.any (fun w => decide (w.2 ≤ c.cyc)) = false then .next s
  else .next (s.setCell n { c with
    names := ((c.nameWalk.filter fun w => decide (w.2 ≤ c.cyc)).foldl (fun l w => useName l w.1) c.names).take 64
    nameWalk := c.nameWalk.filter fun w => decide (c.cyc < w.2) })

end Sys2Proof.Machine
end

