-- ==== Sys2Proof/Machine/Dispatch.lean ====
section
/-! DEFINITION. Dispatch.lean: one arm per constructor of `Instr`, each one call of its meaning. -/

namespace Sys2Proof.Machine

def exec (i : Instr) (s : State) : Host.Outcome State Fault Refusal :=
  match i with
  | .add c d a b p => Sys2Proof.Machine.execAdd c d a b p s
  | .sub c d a b p => Sys2Proof.Machine.execSub c d a b p s
  | .and c d a b p => Sys2Proof.Machine.execAnd c d a b p s
  | .or c d a b p => Sys2Proof.Machine.execOr c d a b p s
  | .xor c d a b p => Sys2Proof.Machine.execXor c d a b p s
  | .sll c d a b p => Sys2Proof.Machine.execSll c d a b p s
  | .srl c d a b p => Sys2Proof.Machine.execSrl c d a b p s
  | .sra c d a b p => Sys2Proof.Machine.execSra c d a b p s
  | .mul c d a b p => Sys2Proof.Machine.execMul c d a b p s
  | .mulh c d a b p => Sys2Proof.Machine.execMulh c d a b p s
  | .mulhu c d a b p => Sys2Proof.Machine.execMulhu c d a b p s
  | .min c d a b p => Sys2Proof.Machine.execMin c d a b p s
  | .max c d a b p => Sys2Proof.Machine.execMax c d a b p s
  | .minu c d a b p => Sys2Proof.Machine.execMinu c d a b p s
  | .maxu c d a b p => Sys2Proof.Machine.execMaxu c d a b p s
  | .seq c d a b p => Sys2Proof.Machine.execSeq c d a b p s
  | .sne c d a b p => Sys2Proof.Machine.execSne c d a b p s
  | .slt c d a b p => Sys2Proof.Machine.execSlt c d a b p s
  | .sltu c d a b p => Sys2Proof.Machine.execSltu c d a b p s
  | .sel c d a b ps => Sys2Proof.Machine.execSel c d a b ps s
  | .div c d a b p => Sys2Proof.Machine.execDiv c d a b p s
  | .divu c d a b p => Sys2Proof.Machine.execDivu c d a b p s
  | .rem c d a b p => Sys2Proof.Machine.execRem c d a b p s
  | .remu c d a b p => Sys2Proof.Machine.execRemu c d a b p s
  | .addi c d a imm => Sys2Proof.Machine.execAddi c d a imm s
  | .andi c d a imm => Sys2Proof.Machine.execAndi c d a imm s
  | .ori c d a imm => Sys2Proof.Machine.execOri c d a imm s
  | .xori c d a imm => Sys2Proof.Machine.execXori c d a imm s
  | .slli c d a sh => Sys2Proof.Machine.execSlli c d a sh s
  | .srli c d a sh => Sys2Proof.Machine.execSrli c d a sh s
  | .srai c d a sh => Sys2Proof.Machine.execSrai c d a sh s
  | .slti c d a imm => Sys2Proof.Machine.execSlti c d a imm s
  | .sltiu c d a imm => Sys2Proof.Machine.execSltiu c d a imm s
  | .seqi c d a imm => Sys2Proof.Machine.execSeqi c d a imm s
  | .li c d imm => Sys2Proof.Machine.execLi c d imm s
  | .fadd c d a b p => Sys2Proof.Machine.execFadd c d a b p s
  | .fsub c d a b p => Sys2Proof.Machine.execFsub c d a b p s
  | .fmul c d a b p => Sys2Proof.Machine.execFmul c d a b p s
  | .fma c d a b p => Sys2Proof.Machine.execFma c d a b p s
  | .fnms c d a b p => Sys2Proof.Machine.execFnms c d a b p s
  | .fmin c d a b p => Sys2Proof.Machine.execFmin c d a b p s
  | .fmax c d a b p => Sys2Proof.Machine.execFmax c d a b p s
  | .feq c d a b p => Sys2Proof.Machine.execFeq c d a b p s
  | .flt c d a b p => Sys2Proof.Machine.execFlt c d a b p s
  | .fle c d a b p => Sys2Proof.Machine.execFle c d a b p s
  | .mov c d a p => Sys2Proof.Machine.execMov c d a p s
  | .not c d a p => Sys2Proof.Machine.execNot c d a p s
  | .neg c d a p => Sys2Proof.Machine.execNeg c d a p s
  | .abs c d a p => Sys2Proof.Machine.execAbs c d a p s
  | .clz c d a p => Sys2Proof.Machine.execClz c d a p s
  | .ctz c d a p => Sys2Proof.Machine.execCtz c d a p s
  | .popc c d a p => Sys2Proof.Machine.execPopc c d a p s
  | .brev c d a p => Sys2Proof.Machine.execBrev c d a p s
  | .sextb c d a p => Sys2Proof.Machine.execSextb c d a p s
  | .sexth c d a p => Sys2Proof.Machine.execSexth c d a p s
  | .zextb c d a p => Sys2Proof.Machine.execZextb c d a p s
  | .zexth c d a p => Sys2Proof.Machine.execZexth c d a p s
  | .fabs c d a p => Sys2Proof.Machine.execFabs c d a p s
  | .fneg c d a p => Sys2Proof.Machine.execFneg c d a p s
  | .fclass c d a p => Sys2Proof.Machine.execFclass c d a p s
  | .cvtFi c d a p => Sys2Proof.Machine.execCvtFi c d a p s
  | .cvtIf c d a p => Sys2Proof.Machine.execCvtIf c d a p s
  | .cvtFn c d a p => Sys2Proof.Machine.execCvtFn c d a p s
  | .cvtNf c d a p => Sys2Proof.Machine.execCvtNf c d a p s
  | .frnd c d a p => Sys2Proof.Machine.execFrnd c d a p s
  | .cvtBf c d a p => Sys2Proof.Machine.execCvtBf c d a p s
  | .cvtFb c d a p => Sys2Proof.Machine.execCvtFb c d a p s
  | .cvtHf c d a p => Sys2Proof.Machine.execCvtHf c d a p s
  | .cvtFh c d a p => Sys2Proof.Machine.execCvtFh c d a p s
  | .cvtE4f c d a p => Sys2Proof.Machine.execCvtE4f c d a p s
  | .cvtFe4 c d a p => Sys2Proof.Machine.execCvtFe4 c d a p s
  | .cvtE5f c d a p => Sys2Proof.Machine.execCvtE5f c d a p s
  | .cvtFe5 c d a p => Sys2Proof.Machine.execCvtFe5 c d a p s
  | .tag c d q p => Sys2Proof.Machine.execTag c d q p s
  | .qcnt c d q p => Sys2Proof.Machine.execQcnt c d q p s
  | .xbit c d q p => Sys2Proof.Machine.execXbit c d q p s
  | .send c o a b p => Sys2Proof.Machine.execSend c o a b p s
  | .sendi c o a tag => Sys2Proof.Machine.execSendi c o a tag s
  | .join c d a b p => Sys2Proof.Machine.execJoin c d a b p s
  | .drop c a b p => Sys2Proof.Machine.execDrop c a b p s
  | .putr c k r a b p => Sys2Proof.Machine.execPutr c k r a b p s
  | .ldw c d a imm => Sys2Proof.Machine.execLdw c d a imm s
  | .ldh c d a imm => Sys2Proof.Machine.execLdh c d a imm s
  | .ldhu c d a imm => Sys2Proof.Machine.execLdhu c d a imm s
  | .ldb c d a imm => Sys2Proof.Machine.execLdb c d a imm s
  | .ldbu c d a imm => Sys2Proof.Machine.execLdbu c d a imm s
  | .stw c d a imm => Sys2Proof.Machine.execStw c d a imm s
  | .sth c d a imm => Sys2Proof.Machine.execSth c d a imm s
  | .stb c d a imm => Sys2Proof.Machine.execStb c d a imm s
  | .pand c d a b => Sys2Proof.Machine.execPand c d a b s
  | .por c d a b => Sys2Proof.Machine.execPor c d a b s
  | .pxor c d a b => Sys2Proof.Machine.execPxor c d a b s
  | .pnot c d a => Sys2Proof.Machine.execPnot c d a s
  | .pmovx c d => Sys2Proof.Machine.execPmovx c d s
  | .psetx c a => Sys2Proof.Machine.execPsetx c a s
  | .nop c => Sys2Proof.Machine.execNop c s
  | .fenceL c => Sys2Proof.Machine.execFenceL c s
  | .vadd h d a b => Sys2Proof.Machine.execVadd h d a b s
  | .vsub h d a b => Sys2Proof.Machine.execVsub h d a b s
  | .vmul h d a b => Sys2Proof.Machine.execVmul h d a b s
  | .vfma h d a b => Sys2Proof.Machine.execVfma h d a b s
  | .vmin h d a b => Sys2Proof.Machine.execVmin h d a b s
  | .vmax h d a b => Sys2Proof.Machine.execVmax h d a b s
  | .vand h d a b => Sys2Proof.Machine.execVand h d a b s
  | .vor h d a b => Sys2Proof.Machine.execVor h d a b s
  | .vxor h d a b => Sys2Proof.Machine.execVxor h d a b s
  | .vshl h d a b => Sys2Proof.Machine.execVshl h d a b s
  | .vshr h d a b => Sys2Proof.Machine.execVshr h d a b s
  | .vsra h d a b => Sys2Proof.Machine.execVsra h d a b s
  | .vceq h d a b => Sys2Proof.Machine.execVceq h d a b s
  | .vclt h d a b => Sys2Proof.Machine.execVclt h d a b s
  | .vcle h d a b => Sys2Proof.Machine.execVcle h d a b s
  | .vsel h d a b e => Sys2Proof.Machine.execVsel h d a b e s
  | .vcvt h d a conv xs => Sys2Proof.Machine.execVcvt h d a conv xs s
  | .vbcast h d xs => Sys2Proof.Machine.execVbcast h d xs s
  | .vext h d a b xs => Sys2Proof.Machine.execVext h d a b xs s
  | .vins h d a xs => Sys2Proof.Machine.execVins h d a xs s
  | .vperm h d a b => Sys2Proof.Machine.execVperm h d a b s
  | .vrsum h d a => Sys2Proof.Machine.execVrsum h d a s
  | .vrmax h d a => Sys2Proof.Machine.execVrmax h d a s
  | .vrmin h d a => Sys2Proof.Machine.execVrmin h d a s
  | .vabs h d a => Sys2Proof.Machine.execVabs h d a s
  | .vneg h d a => Sys2Proof.Machine.execVneg h d a s
  | .vmov h d a => Sys2Proof.Machine.execVmov h d a s
  | .vld h d xs => Sys2Proof.Machine.execVld h d xs s
  | .vst h a xs => Sys2Proof.Machine.execVst h a xs s
  | .vldexp h d a b => Sys2Proof.Machine.execVldexp h d a b s
  | .vdot2 h d a b => Sys2Proof.Machine.execVdot2 h d a b s
  | .vclamp h d a b e => Sys2Proof.Machine.execVclamp h d a b e s
  | .sfExp2 h d a => Sys2Proof.Machine.execSfExp2 h d a s
  | .sfLog2 h d a => Sys2Proof.Machine.execSfLog2 h d a s
  | .sfRcp h d a => Sys2Proof.Machine.execSfRcp h d a s
  | .sfRsq h d a => Sys2Proof.Machine.execSfRsq h d a s
  | .sfSqrt h d a => Sys2Proof.Machine.execSfSqrt h d a s
  | .sfTanh h d a => Sys2Proof.Machine.execSfTanh h d a s
  | .sfSigm h d a => Sys2Proof.Machine.execSfSigm h d a s
  | .sfSin h d a => Sys2Proof.Machine.execSfSin h d a s
  | .sfCos h d a => Sys2Proof.Machine.execSfCos h d a s
  | .mxMma c acc ga gb dt accum rows cols popa popb trb p => Sys2Proof.Machine.execMxMma c acc ga gb dt accum rows cols popa popb trb p s
  | .mxGmma c acc ga gb dt accum cols popa popb trb xv p => Sys2Proof.Machine.execMxGmma c acc ga gb dt accum cols popa popb trb xv p s
  | .mxZero c acc p => Sys2Proof.Machine.execMxZero c acc p s
  | .mxLda c acc ga popa p => Sys2Proof.Machine.execMxLda c acc ga popa p s
  | .mxRda c acc ga code accum p => Sys2Proof.Machine.execMxRda c acc ga code accum p s
  | .mxScale c acc trb xv p => Sys2Proof.Machine.execMxScale c acc trb xv p s
  | .mxIssue c q p => Sys2Proof.Machine.execMxIssue c q p s
  | .scCfg c grp dir p => Sys2Proof.Machine.execScCfg c grp dir p s
  | .scLocal c op cont a d nb p => Sys2Proof.Machine.execScLocal c op cont a d nb p s
  | .scAgg c op grp a p => Sys2Proof.Machine.execScAgg c op grp a p s
  | .scAggRel c op grp a p => Sys2Proof.Machine.execScAggRel c op grp a p s
  | .scPfx c grp d p => Sys2Proof.Machine.execScPfx c grp d p s
  | .scApply c op scan a d nb p => Sys2Proof.Machine.execScApply c op scan a d nb p s
  | .scReset c grp p => Sys2Proof.Machine.execScReset c grp p s
  | .sgSetBase c g a p => Sys2Proof.Machine.execSgSetBase c g a p s
  | .sgSetCtl c g a p => Sys2Proof.Machine.execSgSetCtl c g a p s
  | .sgSetLv c g a b lv p => Sys2Proof.Machine.execSgSetLv c g a b lv p s
  | .sgGo c g p => Sys2Proof.Machine.execSgGo c g p s
  | .sgHalt c g p => Sys2Proof.Machine.execSgHalt c g p s
  | .sgStatCtl c g d p => Sys2Proof.Machine.execSgStatCtl c g d p s
  | .sgStatIdx c g d lv p => Sys2Proof.Machine.execSgStatIdx c g d lv p s
  | .sgStatOcc c g d p => Sys2Proof.Machine.execSgStatOcc c g d p s
  | .gSetW0 c g a p => Sys2Proof.Machine.execGSetW0 c g a p s
  | .gSetW1 c g a p => Sys2Proof.Machine.execGSetW1 c g a p s
  | .gAdvPush c g p => Sys2Proof.Machine.execGAdvPush c g p s
  | .gAdvPop c g p => Sys2Proof.Machine.execGAdvPop c g p s
  | .gStatCnt c g d p => Sys2Proof.Machine.execGStatCnt c g d p s
  | .gStatHead c g d p => Sys2Proof.Machine.execGStatHead c g d p s
  | .gStatTail c g d p => Sys2Proof.Machine.execGStatTail c g d p s
  | .tsend c g o p => Sys2Proof.Machine.execTsend c g o p s
  | .cpArm c ct p => Sys2Proof.Machine.execCpArm c ct p s
  | .cpArmSet c ct a b wr p => Sys2Proof.Machine.execCpArmSet c ct a b wr p s
  | .cpFire c ct p => Sys2Proof.Machine.execCpFire c ct p s
  | .cpFireNow c ct p => Sys2Proof.Machine.execCpFireNow c ct p s
  | .cpGet c a b wr len notify p => Sys2Proof.Machine.execCpGet c a b wr len notify p s
  | .cpPut c a b wr len notify p => Sys2Proof.Machine.execCpPut c a b wr len notify p s
  | .cpCancel c ct p => Sys2Proof.Machine.execCpCancel c ct p s
  | .cpStatDep c ct d p => Sys2Proof.Machine.execCpStatDep c ct d p s
  | .cpStatEng c d p => Sys2Proof.Machine.execCpStatEng c d p s
  | .wstw c rel wr off d p => Sys2Proof.Machine.execWstw c rel wr off d p s
  | .wstd c rel wr off lo hi p => Sys2Proof.Machine.execWstd c rel wr off lo hi p s
  | .wstv c rel wr off v p => Sys2Proof.Machine.execWstv c rel wr off v p s
  | .amoAdd c ord wr off d a p => Sys2Proof.Machine.execAmoAdd c ord wr off d a p s
  | .amoAnd c ord wr off d a p => Sys2Proof.Machine.execAmoAnd c ord wr off d a p s
  | .amoOr c ord wr off d a p => Sys2Proof.Machine.execAmoOr c ord wr off d a p s
  | .amoXor c ord wr off d a p => Sys2Proof.Machine.execAmoXor c ord wr off d a p s
  | .amoMin c ord wr off d a p => Sys2Proof.Machine.execAmoMin c ord wr off d a p s
  | .amoMax c ord wr off d a p => Sys2Proof.Machine.execAmoMax c ord wr off d a p s
  | .amoMinn c ord wr off d a p => Sys2Proof.Machine.execAmoMinn c ord wr off d a p s
  | .amoMaxn c ord wr off d a p => Sys2Proof.Machine.execAmoMaxn c ord wr off d a p s
  | .amoSwap c ord wr off d a p => Sys2Proof.Machine.execAmoSwap c ord wr off d a p s
  | .amoCas c ord wr off d a p => Sys2Proof.Machine.execAmoCas c ord wr off d a p s
  | .amoLd c ord wr off d p => Sys2Proof.Machine.execAmoLd c ord wr off d p s
  | .amodAdd c ord wr off d a p => Sys2Proof.Machine.execAmodAdd c ord wr off d a p s
  | .amodAnd c ord wr off d a p => Sys2Proof.Machine.execAmodAnd c ord wr off d a p s
  | .amodOr c ord wr off d a p => Sys2Proof.Machine.execAmodOr c ord wr off d a p s
  | .amodXor c ord wr off d a p => Sys2Proof.Machine.execAmodXor c ord wr off d a p s
  | .amodMin c ord wr off d a p => Sys2Proof.Machine.execAmodMin c ord wr off d a p s
  | .amodMax c ord wr off d a p => Sys2Proof.Machine.execAmodMax c ord wr off d a p s
  | .amodMinn c ord wr off d a p => Sys2Proof.Machine.execAmodMinn c ord wr off d a p s
  | .amodMaxn c ord wr off d a p => Sys2Proof.Machine.execAmodMaxn c ord wr off d a p s
  | .amodSwap c ord wr off d a p => Sys2Proof.Machine.execAmodSwap c ord wr off d a p s
  | .amodCas c ord wr off d a p => Sys2Proof.Machine.execAmodCas c ord wr off d a p s
  | .amodLd c ord wr off d p => Sys2Proof.Machine.execAmodLd c ord wr off d p s
  | .redAddI32 c rel wr off a p => Sys2Proof.Machine.execRedAddI32 c rel wr off a p s
  | .redAddF32 c rel wr off a p => Sys2Proof.Machine.execRedAddF32 c rel wr off a p s
  | .redAddBf16x2 c rel wr off a p => Sys2Proof.Machine.execRedAddBf16x2 c rel wr off a p s
  | .redMaxF32 c rel wr off a p => Sys2Proof.Machine.execRedMaxF32 c rel wr off a p s
  | .redMinF32 c rel wr off a p => Sys2Proof.Machine.execRedMinF32 c rel wr off a p s
  | .redAnd c rel wr off a p => Sys2Proof.Machine.execRedAnd c rel wr off a p s
  | .redOr c rel wr off a p => Sys2Proof.Machine.execRedOr c rel wr off a p s
  | .redXor c rel wr off a p => Sys2Proof.Machine.execRedXor c rel wr off a p s
  | .waita c wr off t cmp p => Sys2Proof.Machine.execWaita c wr off t cmp p s
  | .wpoke c dbl wr off p => Sys2Proof.Machine.execWpoke c dbl wr off p s
  | .fenceW c p => Sys2Proof.Machine.execFenceW c p s
  | .fenceC c p => Sys2Proof.Machine.execFenceC c p s
  | .fenceAll c p => Sys2Proof.Machine.execFenceAll c p s
  | .mark c a p => Sys2Proof.Machine.execMark c a p s
  | .barArr c g p => Sys2Proof.Machine.execBarArr c g p s
  | .barArrRel c g p => Sys2Proof.Machine.execBarArrRel c g p s
  | .barStat c g d p => Sys2Proof.Machine.execBarStat c g d p s
  | .phase c onset int k p => Sys2Proof.Machine.execPhase c onset int k p s
  | .phaseGang c a onset int k p => Sys2Proof.Machine.execPhaseGang c a onset int k p s
  | .phaseEnd c p => Sys2Proof.Machine.execPhaseEnd c p s
  | .phaseEndGang c a p => Sys2Proof.Machine.execPhaseEndGang c a p s
  | .pwrRd c d item p => Sys2Proof.Machine.execPwrRd c d item p s
  | .trap c a code p => Sys2Proof.Machine.execTrap c a code p s
  | .trapPark c a code p => Sys2Proof.Machine.execTrapPark c a code p s
  | .bkpt c a code p => Sys2Proof.Machine.execBkpt c a code p s
  | .cfgRd c d a ca p => Sys2Proof.Machine.execCfgRd c d a ca p s
  | .cfgWr c v a ca p => Sys2Proof.Machine.execCfgWr c v a ca p s
  | .slotLd c a first n1 p => Sys2Proof.Machine.execSlotLd c a first n1 p s
  | .cueWr c hi lo idx p => Sys2Proof.Machine.execCueWr c hi lo idx p s
  | .cueEn c idx en p => Sys2Proof.Machine.execCueEn c idx en p s
  | .fcrRd c d p => Sys2Proof.Machine.execFcrRd c d p s
  | .fcrWr c d a mask p => Sys2Proof.Machine.execFcrWr c d a mask p s
  | .halt c mask p => Sys2Proof.Machine.execHalt c mask p s
  | .presClr c mask p => Sys2Proof.Machine.execPresClr c mask p s
  | .timeRd c d p => Sys2Proof.Machine.execTimeRd c d p s
  | .timeRdHi c d p => Sys2Proof.Machine.execTimeRdHi c d p s
  | .cycRd c d p => Sys2Proof.Machine.execCycRd c d p s
  | .cycRdHi c d p => Sys2Proof.Machine.execCycRdHi c d p s
  | .cycRdFired c d p => Sys2Proof.Machine.execCycRdFired c d p s
  | .cycRdIdle c d p => Sys2Proof.Machine.execCycRdIdle c d p s
  | .idRd c d item p => Sys2Proof.Machine.execIdRd c d item p s
  | .liw c d imm => Sys2Proof.Machine.execLiw c d imm s
  | .addip c d a imm p => Sys2Proof.Machine.execAddip c d a imm p s
  | .addipHi c d a imm p => Sys2Proof.Machine.execAddipHi c d a imm p s
  | .lea c d a b sh imm p => Sys2Proof.Machine.execLea c d a b sh imm p s
  | .cmpiEq c d a imm p => Sys2Proof.Machine.execCmpiEq c d a imm p s
  | .cmpiNe c d a imm p => Sys2Proof.Machine.execCmpiNe c d a imm p s
  | .cmpiLt c d a imm p => Sys2Proof.Machine.execCmpiLt c d a imm p s
  | .cmpiLtu c d a imm p => Sys2Proof.Machine.execCmpiLtu c d a imm p s
  | .extr c d a pos len1 p => Sys2Proof.Machine.execExtr c d a pos len1 p s
  | .extrS c d a pos len1 p => Sys2Proof.Machine.execExtrS c d a pos len1 p s
  | .insr c d a pos len1 p => Sys2Proof.Machine.execInsr c d a pos len1 p s
  | .madd c d a b p => Sys2Proof.Machine.execMadd c d a b p s
  | .decp c d px => Sys2Proof.Machine.execDecp c d px s
  | .wSet c w a b p => Sys2Proof.Machine.execWSet c w a b p s
  | .wAdd c w a sh p => Sys2Proof.Machine.execWAdd c w a sh p s
  | .wAddi c w imm p => Sys2Proof.Machine.execWAddi c w imm p s
  | .wGet c d w half p => Sys2Proof.Machine.execWGet c d w half p s
  | .ldwp c d a imm p => Sys2Proof.Machine.execLdwp c d a imm p s
  | .ldhp c d a imm p => Sys2Proof.Machine.execLdhp c d a imm p s
  | .ldhup c d a imm p => Sys2Proof.Machine.execLdhup c d a imm p s
  | .ldbp c d a imm p => Sys2Proof.Machine.execLdbp c d a imm p s
  | .ldbup c d a imm p => Sys2Proof.Machine.execLdbup c d a imm p s
  | .vectorBeat n => Sys2Proof.Machine.execVectorBeat n s
  | .sliceAccessResume n => Sys2Proof.Machine.execSliceAccessResume n s
  | .divideResult n => Sys2Proof.Machine.execDivideResult n s
  | .sfServiceStart n => Sys2Proof.Machine.execSfServiceStart n s
  | .sfResultWrite n => Sys2Proof.Machine.execSfResultWrite n s
  | .lineFillComplete n line => Sys2Proof.Machine.execLineFillComplete n line s
  | .fenceLComplete n => Sys2Proof.Machine.execFenceLComplete n s
  | .mergeWindowClose k0 => Sys2Proof.Machine.execMergeWindowClose k0 s
  | .sgTransfer n g => Sys2Proof.Machine.execSgTransfer n g s
  | .mxCommandStart n => Sys2Proof.Machine.execMxCommandStart n s
  | .mxCommandComplete n => Sys2Proof.Machine.execMxCommandComplete n s
  | .copyStart n => Sys2Proof.Machine.execCopyStart n s
  | .copyBlock n k j => Sys2Proof.Machine.execCopyBlock n k j s
  | .copyComplete n k => Sys2Proof.Machine.execCopyComplete n k s
  | .tsendUnit n => Sys2Proof.Machine.execTsendUnit n s
  | .oqWordSend n q => Sys2Proof.Machine.execOqWordSend n q s
  | .meshFlitForward k0 dir => Sys2Proof.Machine.execMeshFlitForward k0 dir s
  | .wordDeliver k0 => Sys2Proof.Machine.execWordDeliver k0 s
  | .tileArrive k0 => Sys2Proof.Machine.execTileArrive k0 s
  | .putrNameWalk n => Sys2Proof.Machine.execPutrNameWalk n s
  | .putrDeliver w => Sys2Proof.Machine.execPutrDeliver w s
  | .releaseStationIssue n c => Sys2Proof.Machine.execReleaseStationIssue n c s
  | .translationWalk r => Sys2Proof.Machine.execTranslationWalk r s
  | .suuAccept k0 => Sys2Proof.Machine.execSuuAccept k0 s
  | .suuApply k0 half => Sys2Proof.Machine.execSuuApply k0 half s
  | .ackReceive r => Sys2Proof.Machine.execAckReceive r s
  | .responseReceive r => Sys2Proof.Machine.execResponseReceive r s
  | .waitaTimeout n c => Sys2Proof.Machine.execWaitaTimeout n c s
  | .markerRecorded k0 => Sys2Proof.Machine.execMarkerRecorded k0 s
  | .barrierComplete st g => Sys2Proof.Machine.execBarrierComplete st g s
  | .scanCombine st grp round q => Sys2Proof.Machine.execScanCombine st grp round q s
  | .phaseGrant n c => Sys2Proof.Machine.execPhaseGrant n c s
  | .phaseWindowEnd n c => Sys2Proof.Machine.execPhaseWindowEnd n c s
  | .clockMaskApply st => Sys2Proof.Machine.execClockMaskApply st s
  | .faultRecordDeliver n w => Sys2Proof.Machine.execFaultRecordDeliver n w s
  | .recordDivert n w => Sys2Proof.Machine.execRecordDivert n w s
  | .launch off => Sys2Proof.Machine.execLaunch off s
  | .launchAccept => Sys2Proof.Machine.execLaunchAccept s
  | .placement => Sys2Proof.Machine.execPlacement s
  | .requestAged st => Sys2Proof.Machine.execRequestAged st s
  | .forcedPreempt st => Sys2Proof.Machine.execForcedPreempt st s
  | .sceneInstall st => Sys2Proof.Machine.execSceneInstall st s
  | .curtainUp st => Sys2Proof.Machine.execCurtainUp st s
  | .curtainDown st => Sys2Proof.Machine.execCurtainDown st s
  | .stallReport st => Sys2Proof.Machine.execStallReport st s
  | .sceneWatchdog st => Sys2Proof.Machine.execSceneWatchdog st s
  | .heartbeatPoll row col answer => Sys2Proof.Machine.execHeartbeatPoll row col answer s
  | .cellSelfTest row col pass => Sys2Proof.Machine.execCellSelfTest row col pass s
  | .preempt st => Sys2Proof.Machine.execPreempt st s
  | .restore st x0 y0 => Sys2Proof.Machine.execRestore st x0 y0 s
  | .drainAndSwap st => Sys2Proof.Machine.execDrainAndSwap st s
  | .mappingUpdate t level2 idx entry => Sys2Proof.Machine.execMappingUpdate t level2 idx entry s
  | .stageWithdraw st => Sys2Proof.Machine.execStageWithdraw st s
  | .hostEndStage st => Sys2Proof.Machine.execHostEndStage st s
  | .hostRelease st v => Sys2Proof.Machine.execHostRelease st v s
  | .ingressDoorbell port off v => Sys2Proof.Machine.execIngressDoorbell port off v s
  | .tokenDeliver k => Sys2Proof.Machine.execTokenDeliver k s
  | .apertureWrite port off ws => Sys2Proof.Machine.execApertureWrite port off ws s
  | .apertureRead port off n => Sys2Proof.Machine.execApertureRead port off n s
  | .egressEntryWrite q => Sys2Proof.Machine.execEgressEntryWrite q s
  | .pciePortDown port => Sys2Proof.Machine.execPciePortDown port s
  | .pciePortUp port => Sys2Proof.Machine.execPciePortUp port s
  | .pcapWrite v => Sys2Proof.Machine.execPcapWrite v s
  | .domainCommit v held => Sys2Proof.Machine.execDomainCommit v held s
  | .portTraining p m peer => Sys2Proof.Machine.execPortTraining p m peer s
  | .collectiveEnable k v => Sys2Proof.Machine.execCollectiveEnable k v s
  | .collectiveRound k => Sys2Proof.Machine.execCollectiveRound k s
  | .reshapeGo v => Sys2Proof.Machine.execReshapeGo v s
  | .reshapeDrainDone => Sys2Proof.Machine.execReshapeDrainDone s
  | .reshapeDrainTimeout => Sys2Proof.Machine.execReshapeDrainTimeout s
  | .portRelock p m peer => Sys2Proof.Machine.execPortRelock p m peer s
  | .portRelockTimeout p => Sys2Proof.Machine.execPortRelockTimeout p s
  | .linkLoss p => Sys2Proof.Machine.execLinkLoss p s
  | .linkDeclaredDown p => Sys2Proof.Machine.execLinkDeclaredDown p s
  | .sobSubmit v => Sys2Proof.Machine.execSobSubmit v s
  | .sobCheckDone testPass => Sys2Proof.Machine.execSobCheckDone testPass s
  | .sobOreqCasting => Sys2Proof.Machine.execSobOreqCasting s
  | .sobOreqQuote => Sys2Proof.Machine.execSobOreqQuote s
  | .sobOreqCert => Sys2Proof.Machine.execSobOreqCert s
  | .powerOnBoot f => Sys2Proof.Machine.execPowerOnBoot f s
  | .registerWrite off v => Sys2Proof.Machine.execRegisterWrite off v s
  | .clockStretch n on => Sys2Proof.Machine.execClockStretch n on s

end Sys2Proof.Machine
end

