-- ==== Sys2Proof/Machine/Cycle.lean ====
section
/-! DEFINITION. Cycle.lean: what one turn of the machine is made of: an event of the agenda, the cycle of one cell with its due
results, its arbiter and its end, the end of a strip cycle (spec 02 R41 to R46, 10 R284, R301, R311; log 1, 2). -/

namespace Sys2Proof.Machine

abbrev Out := Host.Outcome State Fault Refusal

/-- Go on from a next state. -/
def andThen (o : Out) (f : State → Out) : Out :=
  match o with
  | .next s => f s
  | .fault r => .fault r
  | .refused r => .refused r

/-! ## Events -/

/-- Whether a row of the table is a step of the machine with no encoding. -/
def isEvent (i : Instr) : Bool :=
  match i with
  | .vectorBeat _ => true
  | .sliceAccessResume _ => true
  | .divideResult _ => true
  | .sfServiceStart _ => true
  | .sfResultWrite _ => true
  | .lineFillComplete _ _ => true
  | .fenceLComplete _ => true
  | .mergeWindowClose _ => true
  | .sgTransfer _ _ => true
  | .mxCommandStart _ => true
  | .mxCommandComplete _ => true
  | .copyStart _ => true
  | .copyBlock _ _ _ => true
  | .copyComplete _ _ => true
  | .tsendUnit _ => true
  | .oqWordSend _ _ => true
  | .meshFlitForward _ _ => true
  | .wordDeliver _ => true
  | .tileArrive _ => true
  | .putrNameWalk _ => true
  | .putrDeliver _ => true
  | .releaseStationIssue _ _ => true
  | .translationWalk _ => true
  | .suuAccept _ => true
  | .suuApply _ _ => true
  | .ackReceive _ => true
  | .responseReceive _ => true
  | .waitaTimeout _ _ => true
  | .markerRecorded _ => true
  | .barrierComplete _ _ => true
  | .scanCombine _ _ _ _ => true
  | .phaseGrant _ _ => true
  | .phaseWindowEnd _ _ => true
  | .clockMaskApply _ => true
  | .faultRecordDeliver _ _ => true
  | .recordDivert _ _ => true
  | .launch _ => true
  | .launchAccept => true
  | .placement => true
  | .requestAged _ => true
  | .forcedPreempt _ => true
  | .sceneInstall _ => true
  | .curtainUp _ => true
  | .curtainDown _ => true
  | .stallReport _ => true
  | .sceneWatchdog _ => true
  | .heartbeatPoll _ _ _ => true
  | .cellSelfTest _ _ _ => true
  | .preempt _ => true
  | .restore _ _ _ => true
  | .drainAndSwap _ => true
  | .mappingUpdate _ _ _ _ => true
  | .stageWithdraw _ => true
  | .hostEndStage _ => true
  | .hostRelease _ _ => true
  | .ingressDoorbell _ _ _ => true
  | .tokenDeliver _ => true
  | .apertureWrite _ _ _ => true
  | .apertureRead _ _ _ => true
  | .egressEntryWrite _ => true
  | .pciePortDown _ => true
  | .pciePortUp _ => true
  | .pcapWrite _ => true
  | .domainCommit _ _ => true
  | .portTraining _ _ _ => true
  | .collectiveEnable _ _ => true
  | .collectiveRound _ => true
  | .reshapeGo _ => true
  | .reshapeDrainDone => true
  | .reshapeDrainTimeout => true
  | .portRelock _ _ _ => true
  | .portRelockTimeout _ => true
  | .linkLoss _ => true
  | .linkDeclaredDown _ => true
  | .sobSubmit _ => true
  | .sobCheckDone _ => true
  | .sobOreqCasting => true
  | .sobOreqQuote => true
  | .sobOreqCert => true
  | .powerOnBoot _ => true
  | .registerWrite _ _ => true
  | .clockStretch _ _ => true
  | _ => false

/-- The instructions that the decoder keeps apart, as `exec` runs them. -/
def execLx (x : Lx) (s : State) : Out :=
  match x with
  | .addip c d a imm p => execAddip c d a imm p s
  | .addipHi c d a imm p => execAddipHi c d a imm p s
  | .lea c d a b sh imm p => execLea c d a b sh imm p s
  | .cmpiEq c d a imm p => execCmpiEq c d a imm p s
  | .cmpiNe c d a imm p => execCmpiNe c d a imm p s
  | .cmpiLt c d a imm p => execCmpiLt c d a imm p s
  | .cmpiLtu c d a imm p => execCmpiLtu c d a imm p s
  | .extr c d a pos len1 p => execExtr c d a pos len1 p s
  | .extrS c d a pos len1 p => execExtrS c d a pos len1 p s
  | .insr c d a pos len1 p => execInsr c d a pos len1 p s
  | .madd c d a b p => execMadd c d a b p s
  | .decp c d px => execDecp c d px s
  | .wSet c w a b p => execWSet c w a b p s
  | .wAdd c w a sh p => execWAdd c w a sh p s
  | .wAddi c w imm p => execWAddi c w imm p s
  | .wGet c d w half p => execWGet c d w half p s
  | .ldwp c d a imm p => execLdwp c d a imm p s
  | .ldhp c d a imm p => execLdhp c d a imm p s
  | .ldhup c d a imm p => execLdhup c d a imm p s
  | .ldbp c d a imm p => execLdbp c d a imm p s
  | .ldbup c d a imm p => execLdbup c d a imm p s

/-- Run a decoded instruction. -/
def execDecoded (d : Decoded) (s : State) : Out :=
  match d with
  | .inl i => exec i s
  | .inr x => execLx x s

/-! ## A cell's cycle -/

/-- Run meanings one after another. -/
def runAll (l : List (State → Out)) (s : State) : Out :=
  match l with
  | [] => .next s
  | f :: r => andThen (f s) (runAll r)

/-- What falls due in a cell before it fires: completions, starts, ends of intervals. Each meaning leaves the state as it is
while it is not due. A copy whose last block is settled has completed before an instruction fires (R270). -/
def dueSteps (n : Nat) : List (State → Out) :=
  [execMxCommandComplete n, execMxCommandStart n, execCopyComplete n 0, execCopyComplete n 1, execCopyStart n, execCopyStart n,
    execFenceLComplete n, execPutrNameWalk n, ownPrefixes n]
    ++ (List.finRange 4).flatMap fun k => [execPhaseWindowEnd n k, execPhaseGrant n k, execWaitaTimeout n k]

/-- What is written in a cell's cycle beside its firing, for later cycles to see: the divider's result (R137), a line that
has arrived (R407), a special function's result (R180): in this order, behind what fires (log 85). Remote writes of the same cycle
come after them (R33). -/
def lateSteps (n : Nat) (c : CellState) : List (State → Out) :=
  [execDivideResult n, execSfResultWrite n] ++ c.fills.map fun f => execLineFillComplete n f.line

/-- Whether the scene of a cell has begun: its stage stands, its curtain is up and its start tick has come (R285). -/
def begun (s : State) (c : CellState) : Bool :=
  let t := s.stage c.stage
  decide (t.status = .placed) && t.upAt.isSome && decide (t.startAt ≤ s.tick) && s.swapped c.stage

/-- Whether a cell's clock runs in this strip cycle: no mask and no stretch stops it, or a clear poll lifts them (R304,
R311). -/
def clockRuns (s : State) (n : Nat) (c : CellState) : Bool :=
  s.clearAt n || (!s.masked (s.stage c.stage) && !s.stretchedAt (s.posKey n))

/-- The start of a cycle: the cell is live from its start tick on, and it keeps which registers were taken (R32). -/
def cycleStart (s : State) (n : Nat) : State :=
  let c := s.cell n
  s.setCell n { c.mendStore with
    live := begun s c && !(s.stage c.stage).stopping
    ctxs := c.ctxs.map fun t => { t with was := t.pres ||| t.resv } }

/-- Cue entries that SECDED finds uncorrectable are reported when they are first evaluated (R352). -/
def badCueRecords (s : State) (n : Nat) : State :=
  let new := (s.cell n).badCues.filter fun i => decide (i < 64) && !(s.cell n).badCues.contains (i + 64)
  new.foldl (fun s i =>
    let c := s.cell n
    (s.setCell n { c with badCues := c.badCues ++ [i + 64] }).cellRecord n 0 0 { cls := 11, code := 4, opnd := word i }) s

/-- The decoded instruction that a slot begins. -/
def slotInstr (c : CellState) (k : Nat) : Option Decoded :=
  match c.slot k with
  | none => none
  | some w =>
    if isContinuation w.toNat then none
    else
      match decodeWords w.toNat ((c.slot (k + 1)).map BitVec.toNat) with
      | .ok d => some d
      | .error _ => none

/-- The context that the cue of a slot selects. -/
def slotCtx (c : CellState) (k : Nat) : Option (Fin 4) := (slotCue (c.slot k)).bind c.cueSel

/-- Whether an instruction fired or faulted: it counts, its context left the running state, or it holds the arbiter. -/
def hasFired (s t : State) (n : Nat) (k : Fin 4) : Bool :=
  decide (((t.cell n).ctx k).fired ≠ ((s.cell n).ctx k).fired) || decide (((t.cell n).ctx k).status ≠ ((s.cell n).ctx k).status)
    || decide ((t.cell n).hold ≠ .none)

/-- Try the instruction of one slot: its outcome if it fires or stops. -/
def trySlot (s : State) (n k : Nat) : Option Out :=
  match slotInstr (s.cell n) k, slotCtx (s.cell n) k with
  | some d, some x =>
    match execDecoded d { s with focus := ⟨n, k, x⟩ } with
    | .next t => if hasFired s t n x then some (.next t) else none
    | o => some o
  | _, _ => none

/-- The arbiter: of the slots from `k` on the lowest-numbered ready one fires (R42); without one the cell is idle. -/
def arbitrate (s : State) (n k fuel : Nat) : Out :=
  match fuel with
  | 0 => .next (s.setCell n { (s.cell n) with idle := (s.cell n).idle + 1 })
  | m + 1 =>
    match trySlot s n k with
    | some o => o
    | none => arbitrate s n (k + 1) m

/-- What a cell does in its cycle: go on with what holds its arbiter, or fire (R42, R43). -/
def cycleWork (s : State) (n : Nat) : Out :=
  let c := s.cell n
  match c.hold with
  | .none => if c.live then arbitrate s n 0 128 else .next s
  | .stall m => .next (s.setCell n { c with hold := if m ≤ 1 then .none else .stall (m - 1) })
  | .beats _ => execVectorBeat n s
  | .slice _ => execSliceAccessResume n s
  | .fenceL => .next (fenceIssue s n)
  | .slotLd _ _ _ _ _ _ _ _ _ => .next (slotLdCycle s n)

/-- Whether an instruction accesses SRAM in the cycle in which it fires. -/
def sramAccess (d : Decoded) (s : State) : Bool :=
  let at' (a : Src) (off : Int) (n : Nat) : Bool := inSram (effAddr (s.src a) off) n
  match d with
  | .inl (.ldw _ _ a i) => at' a (i.toInt * 4) 4
  | .inl (.ldh _ _ a i) | .inl (.ldhu _ _ a i) => at' a (i.toInt * 2) 2
  | .inl (.ldb _ _ a i) | .inl (.ldbu _ _ a i) => at' a i.toInt 1
  | .inl (.stw _ _ a i) => at' a (i.toInt * 4) 4
  | .inl (.sth _ _ a i) => at' a (i.toInt * 2) 2
  | .inl (.stb _ _ a i) => at' a i.toInt 1
  | .inr (.ldwp _ _ a i _) => at' a i.toInt 4
  | .inr (.ldhp _ _ a i _) | .inr (.ldhup _ _ a i _) => at' a i.toInt 2
  | .inr (.ldbp _ _ a i _) | .inr (.ldbup _ _ a i _) => at' a i.toInt 1
  | .inl (.vld _ _ xs) | .inl (.vst _ _ xs) => inSram (beatAddr (s.here.getX xs) 0) 64
  | .inl (.slotLd _ _ _ _ _) => true
  | _ => false

def BeatOp.inMemory (o : BeatOp) : Bool :=
  match o with
  | .vld | .vst => true
  | _ => false

/-- Whether port A of the SRAM serves the instructions of a cell in a cycle, from `s` where the arbiter begins to `t` (R43, R64, R338). -/
def usesPortA (s t : State) (n : Nat) : Bool :=
  match (s.cell n).hold with
  | .none => decide (t.focus.cell = n) && hasFired s t n t.focus.ctx
      && (slotInstr (s.cell n) t.focus.slot).any fun d => sramAccess d { s with focus := t.focus }
  | .stall _ | .slotLd _ _ _ _ _ _ _ _ _ => true
  | .beats r => r.op.inMemory && decide ((t.cell n).hold ≠ .beats r) && inSram (beatAddr r.xs (r.done - (if 0 < r.wait then 1 else 0))) 64
  | .slice _ | .fenceL => false

/-- A release that waited for a record beside the place ends its park; then the first record that waits takes an empty
place (R343). -/
def placeRecords (s : State) (n : Nat) (k : Fin 4) : State :=
  let c := s.cell n
  let t := c.ctx k
  match t.release, t.beside with
  | some v, [] => s.setCell n (c.releaseNow k v)
  | _, r :: rest =>
    if t.record.isNone then s.setCell n (c.setCtx k { t with record := some (r, s.tick), beside := rest }) else s
  | _, _ => s

/-- The names that PUTRs in the slots wait for and no walk fetches yet (R255), in slot order. -/
def wantedNames (s : State) (n : Nat) : List Nat :=
  ((List.range 128).filterMap fun k =>
    match slotInstr (s.cell n) k, slotCtx (s.cell n) k with
    | some (.inl (.putr cue _ _ a b _)), some x => putrWants { s with focus := ⟨n, k, x⟩ } cue a b
    | _, _ => none).dedup

/-- The end of a cycle: release stations issue, held remote writes are delivered, records move up, name walks start,
mailboxes refill, the cycle is counted (R49, R228, R255, R313); `portA` tells engines that port A of the SRAM is taken (R64). -/
def cycleEnd (s : State) (n : Nat) (ordered : Bool) (want : List Nat) (portA : Bool) : State :=
  let s := (List.finRange 4).foldl (fun s k => stationIssue s n k ordered) s
  let s := (s.cell n).putHeld.foldl (fun s h => putRelease s n h.ctx h.r) s
  let s := (List.finRange 4).foldl (fun s k => placeRecords s n k) s
  let c := s.cell n
  let c := ({ c with nameWalk := c.nameWalk ++ want.map fun m => (m, c.cyc + 40) } : CellState).refill
  s.setCell n { c with cyc := if begun s c then c.cyc + 1 else c.cyc, sramA := portA }

/-- What engines may take in this cycle: what stands in the queues and rings at its start (R45), and the SRAM's ports (R64). -/
def CellState.snap (c : CellState) : CellState :=
  { c with
    oqAt := c.oq.map List.length, soAt := c.so.map List.length, ringAt := c.rings.map (fun (r : Ring) => r.count), newPend := 0
    sramTook := [] }

/-- The firing part of a cycle, from the state in which what was due has come. -/
def cellFire (s : State) (n : Nat) : Out :=
  let s := if (s.cell n).live then badCueRecords s n else s
  let s := s.setCell n (s.cell n).snap
  let ordered := (s.cell n).suuord
  let want := wantedNames s n
  andThen (cycleWork s n) fun t =>
    if (AMap.get? t.cells n).isSome then
      andThen (runAll (lateSteps n (t.cell n)) t) fun u => .next (cycleEnd u n ordered want (usesPortA s t n))
    else .next t

/-- One cycle of a cell. -/
def cellCycle (s : State) (n : Nat) : Out :=
  if clockRuns s n (s.cell n) then
    andThen (runAll (dueSteps n) (askPort (cycleStart s n) n)) fun s => cellFire s n
  else .next s

/-! ## The end of a strip cycle -/

/-- Whether a merge window is due (R14). -/
def Merge.due (m : Merge) (strip : Nat) : Bool := decide (m.who.length = 8) || decide (m.opened + 64 ≤ strip)

/-- The stage that a window counts for, and its share of a strip port's private-slice traffic: n/16 for n cells in the strip
(R327). -/
def mergeShare (s : State) (m : Merge) : Nat × Nat :=
  let st := (m.who.head?).elim 0 fun w => (s.cell w.1).stage
  (256 * 4096 + st, 4 * (s.cells.filter fun e => decide (e.2.stage = st) && decide (s.stripOf e.1 = m.half / 2)).length)

/-- Whether a window that is due may close before the other ones of its strip (R328). -/
def mayClose (s : State) (m : Merge) : Bool :=
  let w := mergeShare s m
  let all := (s.merges.filter fun k => k.due s.strip && decide (k.half / 2 = m.half / 2)).map (mergeShare s)
  m.due s.strip && mayServe s (m.half / 2) 2 all all w.1 w.2

/-- Close the merge windows that are due, at most `fuel`. -/
def closeDue (s : State) (fuel : Nat) : Out :=
  match fuel with
  | 0 => .next s
  | k + 1 =>
    match s.merges.findIdx? (mayClose s) with
    | some i =>
      let s1 := match s.merges[i]? with
        | some m => s.serve (m.half / 2) 2 (mergeShare s m).1
        | none => s
      andThen (execMergeWindowClose i s1) fun s => closeDue s k
    | none => .next s

/-- At a tick a stage that holds no item starts its stall interval again (R301). -/
def restartStalls (s : State) : State :=
  { s with stages := s.stages.map fun e =>
      if e.2.status = .placed ∧ stageHolds s e.1 = false then (e.1, { e.2 with stat := { e.2.stat with lastAct := s.tick } }) else e }

/-- After the last cell of a strip cycle comes the next strip cycle: merge windows close, and quads serve, on the strip's
clock whatever the clocks of the cells do (R14, R180), posted writes reach hosts (R237), changes of mappings complete (R325), remote writes of
hosts go on (R370), messages that waited at the edge leave (R361), watches fall due whatever the clocks of the cells do (R3, R277), those of
pre-empted stages too (R354), links have their
slots again (R296), every 256 cycles an epoch of service begins (R328), and a curtain comes down in the first tick in which its
scene is over (R290); a recast that no stage holds up any more is made, however the last one ended (R357). -/
def stripEnd (s : State) : Out :=
  let s := ({ s with strip := s.strip + 1, turn := 0, links := [] } : State).landPosted.mapsDone.landReleases.sendWaiting
  let s := s.stages.foldl (fun s e => dueSaved s e.1) s
  let s := if s.strip % 256 = 0 then { s with served := [] } else s
  andThen (closeDue s s.merges.length) fun s =>
  andThen (runAll ((List.finRange 8).map hostStep) s) fun s =>
  andThen (runAll (s.cells.map fun e => execSfServiceStart e.1) s) fun s =>
  andThen (runAll (s.cells.flatMap fun e => (List.finRange 4).map (execWaitaTimeout e.1)) s) fun s =>
  andThen (runAll (s.stages.map fun e => execCurtainDown e.1) s) fun s =>
  let s := recastReady s
  .next (if s.strip % 11 = 0 then restartStalls s else s)

/-! ## The ports of the SRAM (R64) -/

/-- Whether a generator makes a transfer now that moves a block in or out of SRAM: its entry, or that of its ring (R55). -/
def sgPort (s : State) (n : Nat) (g : Fin 4) : Bool :=
  let c := s.cell n
  let v := c.gens[g]
  let ls := sgLines v.addr
  v.active && decide (v.start ≤ c.cyc) && (!genPaused s n || c.portAsked (.gen g)) && v.aligned && c.inPrivate v.addr 64 && sgCan c g
    && (ls.isEmpty || v.rgen && c.portServed (.gen g) ls v.dir)

/-- Whether a block of a copy is to be read or written in SRAM now. -/
def blockPort (x : Copy) (y : Block) : Bool := decide (y.phase = .read ∨ y.phase = .write) && inSram (x.privAt y.blk) 32

/-- The cell in whose ring a packet that leaves the mesh now completes a block. -/
def packetPort (s : State) (i : Nat) : Option Nat :=
  match s.packets[i]? with
  | some p =>
    (match p.target, p.data with
     | .ring n g, .word _ => if ((s.cell n).rings[g]).buf.length = 15 ∧ (s.leaving (.packet i)).isSome = true then some n else none
     | .ring n _, .unit _ _ => if (s.leaving (.packet i)).isSome = true then some n else none
     | _, _ => none)
  | none => none

/-- Whether the tile sender reads a unit now (R264). -/
def senderPort (s : State) (n : Nat) : Bool :=
  let c := s.cell n
  c.tsend.any fun k =>
    match c.routes[k.q] with
    | some ⟨_, _, .ring g dx dy, _⟩ => !(s.stage c.stage).stopping && roomAt s (.ring (routeCell (s.stage c.stage) c dx dy) g) 64
    | _ => false

/-- Whether a command that reads or pushes tiles has the matrix unit. -/
def matrixPort (c : CellState) : Bool := c.mxRun.any fun r => decide (r.cmd.kind ≠ .zero ∧ r.cmd.kind ≠ .scale)

/-- Whether an engine of a cell could use a port now, in the order of R64: generators, copies, inbound tiles, the matrix unit, and
behind them the tile sender, which reads one unit a cycle at most (R264). -/
def wantsPort (s : State) (n k : Nat) : Bool :=
  let c := s.cell n
  match k with
  | 0 => (List.finRange 4).any (sgPort s n)
  | 1 => c.copyAct.any fun x => x.any fun x => x.work.any (blockPort x)
  | 2 => (List.range s.packets.length).any fun i => decide (packetPort s i = some n)
  | 3 => matrixPort c
  | _ => senderPort s n && !c.sramTook.contains 4

/-- The engine whose turn it is: the next one, round-robin, that could use a port. -/
def nextPort (s : State) (n : Nat) : Option Nat :=
  ((List.range 5).map fun i => ((s.cell n).sramLast + 1 + i) % 5).find? (wantsPort s n)

/-- Whether a port is left in this cycle: port B, and port A where no instruction has it. -/
def CellState.portLeft (c : CellState) : Bool := decide (c.sramTook.length < if c.sramA then 1 else 2)

/-- An engine has a port. -/
def CellState.portTo (c : CellState) (k : Nat) : CellState := { c with sramTook := c.sramTook ++ [k], sramLast := k }

/-- The cell and the engine for which an event moves a block in or out of SRAM now. -/
def portOf (i : Instr) (s : State) : Option (Nat × Nat) :=
  match i with
  | .sgTransfer n g => if sgPort s n g then some (n, 0) else none
  | .copyBlock n k j =>
    if ((s.cell n).copyAct[k]).any fun x => x.work.any fun y => decide (y.blk = j / 8) && blockPort x y then some (n, 1) else none
  | .wordDeliver j => if (s.packets[j]?).any (·.data.isWord) then (packetPort s j).map fun n => (n, 2) else none
  | .tileArrive j => if (s.packets[j]?).any (·.data.isWord) then none else (packetPort s j).map fun n => (n, 2)
  | .tsendUnit n => if senderPort s n then some (n, 4) else none
  | _ => none

/-- The turn of the matrix unit, which always has it: its commands take the time that R189 gives them (log 88). -/
def matrixTurn (s : State) (n : Nat) : State :=
  let c := s.cell n
  if c.portLeft ∧ nextPort s n = some 3 then s.setCell n (c.portTo 3) else s

/-- An engine that has its turn at a port goes on; any other one waits. -/
def portTurn (i : Instr) (n k : Nat) (s : State) : Out :=
  let s := matrixTurn s n
  let c := s.cell n
  if c.portLeft ∧ nextPort s n = some k then exec i (s.setCell n (c.portTo k)) else .next s

/-! ## One turn -/

/-- What happens in a cycle that a rule names, and so in the cell's own cycle or at the end of the strip's: a beat (R164), the stages of
divides and special functions (R137, R180), fills, windows, starts and ends of commands and copies, walks, stations, timeouts, phases. No
agenda decides when. -/
def ownTime (i : Instr) : Bool :=
  match i with
  | .vectorBeat _ | .sliceAccessResume _ | .divideResult _ | .sfServiceStart _ | .sfResultWrite _ | .lineFillComplete _ _
  | .fenceLComplete _ | .mergeWindowClose _ | .mxCommandStart _ | .mxCommandComplete _ | .copyStart _ | .copyComplete _ _
  | .putrNameWalk _ | .releaseStationIssue _ _ | .waitaTimeout _ _ | .phaseGrant _ _ | .phaseWindowEnd _ _ => true
  | _ => false

/-- An event of the agenda happens, at a port of the SRAM where it needs one. What has a cycle of its own is passed over, and an
instruction too, since only cells fire instructions. -/
def agendaTurn (i : Instr) (s : State) : Out :=
  if isEvent i && !ownTime i then (portOf i s).elim (exec i s) fun q => portTurn i q.1 q.2 s else .next s

/-- With an empty agenda the next cell of the strip cycle has its cycle, or the strip cycle ends. -/
def cellTurn (s : State) : Out :=
  match s.cells[s.turn]? with
  | some e => cellCycle { s with turn := s.turn + 1 } e.1
  | none => stripEnd s

/-! ## A cell that is ready for one instruction (log 42) -/

/-- A word of zeros. -/
def zeroWord : QWord := ⟨0, 0, false⟩

/-- A ring of four tiles of 512 bytes, one of them full. -/
def benchRing (g : Fin 8) : Ring :=
  { Ring.blank with base := g.val * 0x1000, tsz := 7, depth := 3, tail := 1, count := 1, marks := [false] }

/-- A cell at the origin of stage 0 whose first slots hold an instruction: every cue selects context 0, every queue that an
instruction takes from holds words, every ring a tile, every scan port a prefix. -/
def benchCell (w0 w1 : Word) : CellState :=
  { CellState.blank 0 0 0 with
    live := true
    slots := Vector.ofFn fun i => if i.val = 0 then some w0 else if i.val = 1 then some w1 else none
    cues := Vector.replicate 63 0x1000000000000000
    iq := Vector.replicate 8 [zeroWord, zeroWord, zeroWord, zeroWord]
    sq := Vector.replicate 4 [⟨0, false⟩, ⟨0, false⟩]
    rings := Vector.ofFn benchRing
    scan := Vector.replicate 8 { ScanPort.blank with member := true, pfx := [(0, 0, false)], ops := [(0, .addI32)] } }

/-- A stage of one cell whose scene runs. -/
def benchStage : Stage :=
  { Stage.blank with status := .placed, placedOnce := true, installed := true, upAt := some 0 }

/-- The first two words of an instruction whose bits are numbered as the opcode table numbers them. -/
def tableWords (nbits w : Nat) : Word × Word := (word (w % 2 ^ 32), word (w % 2 ^ nbits / 2 ^ 32))

end Sys2Proof.Machine
end

