-- ==== Sys2Proof/Machine/Step.lean ====
section
/-! DEFINITION. Step.lean: one step of the machine, and the state in which the next step fetches a given instruction. -/

namespace Sys2Proof.Machine

/-- One step: the next event of the agenda, or the next turn of the cells (log 1, 2). -/
def step (s : State) : Host.Outcome State Fault Refusal :=
  match s.agenda with
  | i :: rest => agendaTurn i { s with agenda := rest }
  | [] => cellTurn s

/-- `s` with a program of one instruction in the first cell of stage 0, whose turn is next (log 42). -/
def State.withFetchWord (s : State) (nbits w : Nat) : State :=
  { s with
    agenda := []
    turn := 0
    cells := s.cells.put 0 (benchCell (tableWords nbits w).1 (tableWords nbits w).2)
    stages := s.stages.put 0 benchStage }

end Sys2Proof.Machine
end

