-- ==== Sys2Proof/Safety.lean ====
section
/-! DEFINITION. Safety.lean: the terms in which statements speak: when an instruction is ready, what every firing does and
leaves alone, what a result changes, what a fault does, and the invariants of the machine. -/

namespace Sys2Proof.Safety

open Sys2Proof.Machine

/-! ## Firing (R31 to R46, R71, R73, R111, R129) -/

/-- An instruction on a cue may fire at the focus: its cue is true and selects the focused running context, the needs
are met, nothing holds the arbiter, and its own words are sound (R38 to R43, R46, R352). -/
def Ready (s : State) (cue : Cue) (n : Needs) : Prop :=
  canFire s cue n = true ∧ slotBad s.cur s.focus.slot = false

/-- How many words a list of sources dequeues from each input queue: one where some source names it (R71). -/
def deqs (l : List Src) (q : Fin 8) : Nat := if Src.deq q ∈ l then 1 else 0

/-- A cell with contexts, input queues, the record of its last firing and the tick of its last progress replaced. -/
def cellWith (c : CellState) (ctxs : Vector Context 4) (iq : Vector (List QWord) 8) (last : Option (Nat × Nat)) (act : Nat) :
    CellState := { c with ctxs := ctxs, iq := iq, lastFired := last, lastAct := act }

/-- A cell with contexts and output queues replaced. -/
def cellOut (c : CellState) (ctxs : Vector Context 4) (oq : Vector (List QWord) 8) : CellState := { c with ctxs := ctxs, oq := oq }

/-- A context with what a firing itself may change replaced. -/
def ctxWith (t : Context) (pres : BitVec 8) (wake granted : Bool) (fired : Word) : Context :=
  { t with pres := pres, wake := wake, granted := granted, fired := fired }

/-- A context with registers, predicates and FCR replaced. -/
def ctxOut (t : Context) (x : Vector Word 16) (p : BitVec 8) (fcr : Word) : Context := { t with x := x, p := p, fcr := fcr }

/-- A state with its cells replaced. -/
def stateWith (s : State) (cells : AMap CellState) : State := { s with cells := cells }

/-- What every firing adds to the state `s1` that its own effect leaves: queues lose the words taken, the context counts
one more firing, the cue's consumed event and the presence bit of PRESCLR clear, the cell records the slot and the tick (R302,
R301); every other cell, context, register and byte is as in `s1` (R32, R39, R71, R313). The cue's entry is that of the start of the cycle. -/
def Fired (s s1 t : State) (cue : Cue) (takes : Fin 8 → Nat) : Prop :=
  let n := s.focus.cell
  let k := s.focus.ctx
  let e := s1.cell n
  let c := t.cell n
  let v := e.ctx k
  let u := c.ctx k
  let cu := s.cur.cues[cue]
  stateWith t s1.cells = s1 ∧
  (∀ m, m ≠ n → AMap.get? t.cells m = AMap.get? s1.cells m) ∧
  cellWith c e.ctxs e.iq e.lastFired e.lastAct = e ∧
  (∀ j, j ≠ k → c.ctx j = e.ctx j) ∧
  ctxWith u v.pres v.wake v.granted v.fired = v ∧
  (∀ q : Fin 8, c.iq[q] = (e.iq[q]).drop (takes q)) ∧
  c.lastFired = some (s.focus.slot, s.tick) ∧ c.lastAct = s.tick ∧
  u.fired = v.fired + 1 ∧
  u.wake = (v.wake && decide (cueEv cu ≠ 2)) ∧
  u.granted = (v.granted && decide (cueEv cu ≠ 4)) ∧
  ∀ r : Fin 8, u.pres.getLsbD r.val =
    (v.pres.getLsbD r.val && !(decide (cueF cu 51 1 = 1) && decide (cueF cu 46 4 % 8 = r.val)))

/-- What a scalar result changes in a cell: the destination register, unless it is `x0`, or one word on the destination
queue with the context as tag and the mark `x` or the flags' mark; the predicate of the action; the sticky flags.
Every other register, predicate, queue, special register and byte of SRAM stays (R31, R71, R73, R111, R129). -/
def Settles (c e : CellState) (k : Fin 4) (d : Dst) (p : PAct) (v : Word) (x : Bool) (f : Flags) : Prop :=
  cellOut e c.ctxs c.oq = c ∧
  (∀ j, j ≠ k → e.ctx j = c.ctx j) ∧
  ctxOut (e.ctx k) (c.ctx k).x (c.ctx k).p (c.ctx k).fcr = c.ctx k ∧
  (∀ r : Fin 16, (e.ctx k).getX r = if d = .reg r ∧ r ≠ 0 then v else (c.ctx k).getX r) ∧
  (∀ q : Fin 8, e.oq[q] = if d = .oq q then c.oq[q] ++ [⟨v, ctxTag k, x || f.marks⟩] else c.oq[q]) ∧
  (∀ i : Fin 8, (e.ctx k).pred i =
    if p.px = i ∧ p.pm ≠ 0 then (if p.pm = 1 then true else if p.pm = 2 then false else decide (v ≠ 0)) else (c.ctx k).pred i) ∧
  (e.ctx k).fcr = (c.ctx k).fcr ||| (f.setWidth 32 <<< 16)

/-- A firing whose whole effect is a scalar result of the given sources. -/
def Results (s t : State) (cue : Cue) (srcs : List Src) (d : Dst) (p : PAct) (v : Word) (x : Bool) (f : Flags) : Prop :=
  ∃ e, Settles s.cur e s.focus.ctx d p v x f ∧ Fired s (s.setCur e) t cue (deqs srcs)

/-- The predicate action of an instruction without a destination, whose result counts as 0 (R73). -/
def afterAct (c : CellState) (k : Fin 4) (p : PAct) : CellState := c.setCtx k ((c.ctx k).act p false)

/-- A firing without a destination: its own change of the cell is `e`, then its predicate action. -/
def Acts (s t : State) (cue : Cue) (takes : Fin 8 → Nat) (p : PAct) (e : CellState) : Prop :=
  Fired s (s.setCur (afterAct e s.focus.ctx p)) t cue takes

/-- The cell in which only the focused context is changed. -/
def withHere (s : State) (t : Context) : CellState := s.cur.setCtx s.focus.ctx t

/-- A cell after a read of `n` bytes of SRAM from `a`: each 8-byte word of them with one wrong bit counts as corrected and is whole
again (R352; log 78). -/
def mended (c : CellState) (a n : Nat) : CellState :=
  let hit (w : Nat) : Bool := decide (w * 8 < a + n ∧ a < w * 8 + 8)
  { c with ecc := c.ecc + (c.flipSram.filter hit).length, flipSram := c.flipSram.filter fun w => !hit w }

/-! ## Beats (R164 to R167) -/

/-- The value and mark that a vector source supplies to a first beat, none given counts as zero. -/
def beatIn (s : State) (l : List VSrc) (i : Nat) : SEnt :=
  match l[i]? with
  | some (.v r) => ⟨s.here.v[r], false⟩
  | some (.sq q) => ((s.cur.sq[q]).head?).getD ⟨0, false⟩
  | none => ⟨0, false⟩

/-- A source as an instruction of several beats keeps it: the register's value at firing, or the queue. -/
def beatKept (s : State) (l : List VSrc) (i : Nat) : BSrc :=
  match l[i]? with
  | some (.v r) => .const s.here.v[r]
  | some (.sq q) => .sq q
  | none => .const 0

/-- The needs of an N-beat instruction: an entry in every stream queue it reads, a free entry in the one it writes (R41). -/
def beatNeeds (c : CellState) (l : List VSrc) (d : Option VDst) (ok : Bool) : Needs :=
  ⟨[], none, l.all (vsrcReady c) && d.all (soRoom c) && ok, []⟩

/-- A cell after one beat: every stream queue among the sources loses its head once, and the value reaches a `v` register or
the end of a stream write queue with its mark. -/
def afterBeat (c : CellState) (k : Fin 4) (l : List VSrc) (d : Option VDst) (v : VWord) (x : Bool) : CellState :=
  let c1 := { c with sq := Vector.ofFn fun i => if VSrc.sq i ∈ l then (c.sq[i]).tail else c.sq[i] }
  match d with
  | some (.v r) => c1.setCtx k { c.ctx k with v := vset (c.ctx k).v r v }
  | some (.so i) => { c1 with so := vset c.so i (c.so[i] ++ [⟨v, x⟩]) }
  | none => c1

/-- The end of a last beat: predicate action and flags of its context. -/
def lastBeat (c : CellState) (k : Fin 4) (p : PAct) (v : VWord) (f : Flags) : CellState :=
  c.setCtx k (((c.ctx k).act p (decide (v ≠ 0))).raise f)

/-- The value of a destination register before the instruction, zero for a stream write queue. -/
def dstBefore (s : State) (d : VDst) : VWord :=
  match d with
  | .v r => s.here.v[r]
  | .so _ => 0

/-- A cell whose arbiter an instruction holds. -/
def holding (c : CellState) (h : Hold) : CellState := { c with hold := h }

/-- A cell after a beat of the run `r`, which counts it: the arbiter stays held for the next beat, or the instruction ends with `v` as
its result, where a wait that is left holds the arbiter on. -/
def beatOver (c : CellState) (r : BeatRun) (v : VWord) : CellState :=
  if r.done < r.total then holding c (.beats r)
  else holding (lastBeat c r.ctx r.p v r.flags) (if r.wait = 0 then .none else .stall r.wait)

/-- The slice lines that the 64 bytes at an address of the slice touch (R177). -/
def linesAt (t0 : Nat) : List Nat := List.range' ((t0 - 0x40000000) / 32) (if t0 % 32 = 0 then 2 else 3)

/-- The lines of a cache after a use of some of them, the last one used being the most recent. -/
def cacheUsed (cache : List Line) (l : List Nat) : List Line :=
  l.foldl (fun a n => a.filter (fun x => decide (x.line = n)) ++ a.filter fun x => decide (x.line ≠ n)) cache

/-- One beat of VLD, or of VST with the value `a`, takes a cell to `c'` (R43, R177): 64 bytes of SRAM, with a wait where they span two
64-byte blocks; 64 bytes of lines that are all in the cache, which are dirty after a store; else the beat waits, and its missing lines
take their miss entries together. Over an SRAM word that is uncorrectable a store leaves it so (log 65, DESIGN CHOICE). -/
def MemBeat (c : CellState) (r : BeatRun) (l : List VSrc) (a : VWord) (c' : CellState) : Prop :=
  let t0 := (r.xs + BitVec.ofNat 32 (64 * r.done)).toNat
  let next (wait : Nat) : BeatRun := { r with done := r.done + 1, wait := wait }
  let wait := if t0 % 64 = 0 then 0 else 1
  let byte (v k : Nat) : Nat := v / 2 ^ (8 * k) % 256
  let ls := linesAt t0
  let miss := ls.filter fun n => !c.cache.any (fun x => decide (x.line = n)) && !c.fills.any fun f => decide (f.line = n)
  if t0 + 64 ≤ 0x40000 then
    if r.op = .vld then
      let v : VWord := BitVec.ofNat 512 (c.sram.readN t0 64)
      c' = beatOver (afterBeat (mended c t0 64) r.ctx l (some r.dst) v false) (next wait) v
    else
      ∃ m, c' = beatOver (afterBeat { c with sram := m } r.ctx l none 0 false) (next wait) 0 ∧
        m.readN t0 64 = a.toNat ∧ ∀ x, x < t0 ∨ t0 + 64 ≤ x → m.read x = c.sram.read x
  else if ∀ n ∈ ls, ∃ x ∈ c.cache, x.line = n then
    if r.op = .vld then
      ∃ v : VWord, c' = beatOver (afterBeat { c with cache := cacheUsed c.cache ls } r.ctx l (some r.dst) v false) (next 0) v ∧
        ∀ k < 64, ∀ x ∈ c.cache, x.line = (t0 - 0x40000000 + k) / 32 → byte v.toNat k = byte x.data.toNat ((t0 + k) % 32)
    else
      ∃ g : Line → BitVec 256,
        c' = beatOver (afterBeat { c with cache := (cacheUsed c.cache ls).map fun x => if x.line ∈ ls then { x with data := g x, dirty := true } else x }
          r.ctx l none 0 false) (next 0) 0 ∧
        ∀ x ∈ c.cache, x.line ∈ ls → ∀ k < 32,
          let o := 0x40000000 + x.line * 32 + k
          byte (g x).toNat k = if t0 ≤ o ∧ o < t0 + 64 then byte a.toNat (o - t0) else byte x.data.toNat k
  else c' = holding { c with fills := c.fills ++ if miss.length + c.fills.length ≤ 4 then miss.map (fun n => ⟨n, .beat, false, none⟩) else [] } (.beats r)

/-! ## Numbers of encodings and Round (R102, R106, R108, R109) -/

/-- Whether an encoding is finite. -/
def IsFin (f : Fmt) (n : Nat) : Prop := n < 2 ^ (f.mag + 1) ∧ n % 2 ^ f.mag ≤ f.maxMag

/-- The sign and the number of a finite encoding, by the formulas of R102. -/
def negOf (f : Fmt) (n : Nat) : Bool := decide (n / 2 ^ f.mag % 2 = 1)
def numOf (f : Fmt) (n : Nat) : ℚ :=
  let e : Nat := n / 2 ^ f.frac % 2 ^ f.expo
  let r : ℚ := (n % 2 ^ f.frac : Nat) / 2 ^ f.frac
  (if negOf f n then -1 else 1) *
    (if e = 0 then (2 : ℚ) ^ (1 - f.bias : ℤ) * r else (2 : ℚ) ^ (e - f.bias : ℤ) * (1 + r))

/-- The same after the input flush of a unit (R110). -/
def numIn (f : Fmt) (md : Mode) (n : Nat) : ℚ := if md.daz = true ∧ n / 2 ^ f.frac % 2 ^ f.expo = 0 then 0 else numOf f n

/-- RoundInt of R108: to nearest with ties to even, toward zero, up, down. -/
def roundedInt (rm : Nat) (x : ℚ) : ℤ :=
  if rm = 0 then
    (if x - ⌊x⌋ < 1 / 2 then ⌊x⌋ else if x - ⌊x⌋ > 1 / 2 then ⌊x⌋ + 1 else if ⌊x⌋ % 2 = 0 then ⌊x⌋ else ⌊x⌋ + 1)
  else if rm = 1 then (if x < 0 then ⌈x⌉ else ⌊x⌋)
  else if rm = 2 then ⌈x⌉
  else ⌊x⌋

/-- The overflow value of R109: infinity, or the largest finite value. -/
def IsOverflow (f : Fmt) (md : Mode) (neg : Bool) (n : Nat) : Prop :=
  let inf := f ≠ .e4m3 ∧ (f = .e5m2 → md.sat = true) ∧ (md.rm = 0 ∨ md.rm = 2 ∧ neg = false ∨ md.rm = 3 ∧ neg = true)
  n = (if neg then 2 ^ f.mag else 0) + if inf then f.maxMag + 1 else f.maxMag

/-- Round of R108: what an operation gives whose exact value is `v`; `zneg` is the sign of an exact zero (R106). -/
def Rounded (f : Fmt) (md : Mode) (v : ℚ) (zneg : Bool) (r : Nat × Flags) : Prop :=
  let neg := decide (v < 0)
  let least : ℚ := (2 : ℚ) ^ (1 - f.bias : ℤ)
  let at' (q : ℤ) : ℚ := roundedInt md.rm (v / (2 : ℚ) ^ q) * (2 : ℚ) ^ q
  let w := at' (max (Int.log 2 |v|) (1 - f.bias) - f.frac)
  let u := at' (Int.log 2 |v| - f.frac)
  let fl : Flags := flIf (decide (w ≠ v)) flNX ||| flIf (decide (|u| < least) && decide (w ≠ v)) flUF
  if v = 0 then r = (if zneg then 2 ^ f.mag else 0, 0)
  else if numOf f f.maxMag < |w| then IsOverflow f md neg r.1 ∧ r.2 = (fl ||| flOF ||| flNX)
  else if md.ftz = true ∧ |w| < least ∧ w ≠ 0 then r = (if neg then 2 ^ f.mag else 0, fl ||| flUF ||| flNX)
  else IsFin f r.1 ∧ negOf f r.1 = neg ∧ numOf f r.1 = w ∧ r.2 = fl

/-- The sign of an exact zero sum of terms, each a number with its sign (R106). -/
def zeroSum (md : Mode) (l : List (ℚ × Bool)) : Bool :=
  l.all (fun t => decide (t.1 = 0) && t.2) || decide (md.rm = 3) && !l.all (fun t => decide (t.1 = 0) && !t.2)

/-- Whether an encoding is a NaN, a signalling NaN, an infinity (R102, R103, R105). -/
def IsNanOf (f : Fmt) (n : Nat) : Prop := f.maxMag < n % 2 ^ f.mag ∧ (f = .e4m3 ∨ n % 2 ^ f.frac ≠ 0)
def IsSnanOf (f : Fmt) (n : Nat) : Prop := IsNanOf f n ∧ f ≠ .e4m3 ∧ f ≠ .e5m2 ∧ n % 2 ^ f.frac < 2 ^ (f.frac - 1)
def IsInfOf (f : Fmt) (n : Nat) : Prop := f.maxMag < n % 2 ^ f.mag ∧ f ≠ .e4m3 ∧ n % 2 ^ f.frac = 0

/-! ## Requests (R223 to R228) -/

/-- A request of the firing instruction as it leaves its cell: address, cell, context, slot, stage and mode bit at firing, its stage's quotas
(R327), its place on the mesh, and how many watches its context had begun (R277). -/
def requestAt (s : State) (kind : ReqKind) (a : DWord) : Req :=
  { kind := kind, addr := a, cell := s.focus.cell, ctx := s.focus.ctx, slot := s.focus.slot, stage := s.cur.stage
    ordered := s.cur.suuord, loc := .issued, lo := false, hi := false, origin := none, qp := (s.stage s.cur.stage).qp
    qs := (s.stage s.cur.stage).qs, wq := (s.stage s.cur.stage).wq
    hop := ⟨s.focus.cell % 320, s.focus.cell % 320, s.focus.cell / 320, [], s.strip⟩, serial := s.here.watchNo }

/-- The state after an issue with the firing context as `u`: the request is out and counted, or, with REL and a counter that is
not zero, it is in the release station (R224, R228). -/
def issued (s : State) (u : Context) (rel : Bool) (r : Req) : State :=
  if rel = true ∧ u.uack ≠ 0 then s.setCur (withHere s { u with station := some (.req r) })
  else { s.setCur (withHere s { u with uack := u.uack + 1 }) with reqs := s.reqs ++ [r] }

/-! ## Precise faults (R340 to R345) -/

/-- A context with what a park for a fault changes put back from `v`. -/
def ctxParked (u v : Context) : Context :=
  { u with
    status := v.status, pres := v.pres, record := v.record, beside := v.beside
    parkDeq := v.parkDeq, parkCue := v.parkCue }

/-- A record made at the focus (R342): class, code, context, slot, not asynchronous, unit and module number; the coordinates and the high
address bits; the operand word; the scene and the tick; and where it goes. -/
def IsRecord (s : State) (f : FaultInfo) (dest : RecDest) (r : Record) : Prop :=
  bits r.w1.toNat 0 4 = f.cls % 16 ∧ bits r.w1.toNat 4 5 = f.code % 32 ∧ bits r.w1.toNat 9 2 = s.focus.ctx.val ∧
  bits r.w1.toNat 11 7 = s.focus.slot % 128 ∧ bits r.w1.toNat 18 1 = 0 ∧ bits r.w1.toNat 19 5 = f.unit % 32 ∧
  bits r.w1.toNat 24 8 = f.modNum % 256 ∧
  bits r.w2.toNat 0 9 = s.cur.cx % 512 ∧ bits r.w2.toNat 9 9 = s.cur.cy % 512 ∧ bits r.w2.toNat 18 14 = f.ahi % 2 ^ 14 ∧
  r.w3 = f.opnd ∧
  bits r.w4.toNat 0 8 = (s.stage s.cur.stage).scene % 256 ∧ bits r.w4.toNat 8 24 = s.tick % 2 ^ 24 ∧ r.dest = dest

/-- A record that no instruction at the focus makes (R342, R343): as above for a context and slot of a cell, and asynchronous. -/
def IsAsyncRecord (s : State) (n : Nat) (k : Fin 4) (slot : Nat) (f : FaultInfo) (r : Record) : Prop :=
  let c := s.cell n
  bits r.w1.toNat 0 4 = f.cls % 16 ∧ bits r.w1.toNat 4 5 = f.code % 32 ∧ bits r.w1.toNat 9 2 = k.val ∧
  bits r.w1.toNat 11 7 = slot % 128 ∧ bits r.w1.toNat 18 1 = 1 ∧ bits r.w1.toNat 19 5 = f.unit % 32 ∧
  bits r.w1.toNat 24 8 = f.modNum % 256 ∧
  bits r.w2.toNat 0 9 = c.cx % 512 ∧ bits r.w2.toNat 9 9 = c.cy % 512 ∧ bits r.w2.toNat 18 14 = f.ahi % 2 ^ 14 ∧
  r.w3 = f.opnd ∧
  bits r.w4.toNat 0 8 = (s.stage c.stage).scene % 256 ∧ bits r.w4.toNat 8 24 = s.tick % 2 ^ 24 ∧ r.dest = .trap

/-- A cell that has come to be `d`, and holds one more asynchronous record, made now. -/
def Reports (s : State) (n : Nat) (k : Fin 4) (slot : Nat) (f : FaultInfo) (d e : CellState) : Prop :=
  ∃ r, IsAsyncRecord s n k slot f r ∧ e = { d with asyncRecs := d.asyncRecs ++ [(r, s.tick)] }

/-- A cell with a word in its completion mailbox, which waits there while `iq6` is full (R49). -/
def mailed (c : CellState) (w : QWord) : CellState :=
  if c.mail6 = [] ∧ (c.iq[(6 : Fin 8)]).length < 8 then { c with iq := vset c.iq 6 (c.iq[(6 : Fin 8)] ++ [w]) }
  else { c with mail6 := c.mail6 ++ [w] }

/-- A precise fault taken at the focus: the context parks for its fault with the presence bit of `x15` clear and keeps
its record with class, code, context, slot and operand word; the instruction has no other effect: no register, queue,
predicate, flag or byte of memory changes, and it does not count as fired. -/
def Faults (s t : State) (f : FaultInfo) : Prop :=
  let n := s.focus.cell
  let k := s.focus.ctx
  let c := t.cell n
  let u := c.ctx k
  let v := s.here
  stateWith t s.cells = s ∧
  (∀ m, m ≠ n → AMap.get? t.cells m = AMap.get? s.cells m) ∧
  cellOut c s.cur.ctxs s.cur.oq = s.cur ∧ c.oq = s.cur.oq ∧
  (∀ j, j ≠ k → c.ctx j = s.cur.ctx j) ∧
  ctxParked u v = v ∧
  u.status = .parkFault ∧
  (∀ r : Fin 8, u.pres.getLsbD r.val = (v.pres.getLsbD r.val && decide (r ≠ 7))) ∧
  ∃ r : Record,
    (if v.record.isNone ∧ v.beside = [] then u.record = some (r, s.tick) ∧ u.beside = []
     else u.record = v.record ∧ u.beside = v.beside ++ [r]) ∧
    IsRecord s f .trap r

/-! ## Many cells -/

/-- Every cell becomes what `f` makes of it under its number, and nothing else of the state changes. -/
def CellsBecome (s s1 : State) (f : Nat → CellState → CellState) : Prop :=
  stateWith s1 s.cells = s ∧ ∀ n, AMap.get? s1.cells n = (AMap.get? s.cells n).map (f n)

/-! ## Hosts and stages -/

/-- An entry `l` is posted to completion queue `q`: its write, and its interrupt behind it, leave on the queue's port; with the ring
full or the port down the entry is held, and behind 256 held ones it is lost; a curtain record, TYPE 1, reaches the host behind all
that any port sent before (R237, R241, R367, R369, R373). -/
def Posts (s t : State) (q : Nat) (l : List Word) : Prop :=
  let e := s.egress q
  let held := s.host.heldCe.filter fun h => decide (h.1 = q)
  let h := s.host
  let addr := (e.base.toNat + e.count % 2 ^ e.log2n * (if e.cq then 64 else 8)) % 2 ^ 64
  let data := wordsNat l % 2 ^ 511 + (decide (e.count / 2 ^ e.log2n % 2 = 0)).toNat * 2 ^ 511
  let due (i : Nat) : Nat := s.strip + Config.linkDelay (h.postNo + i)
  let entry : Posted := ⟨e.port, addr, if e.cq then 64 else 8, data, none, due 0, l.head? == some 1⟩
  let int : Posted := ⟨e.port, 0, 0, 0, some e.vec, due 1, false⟩
  t.host =
    if h.pcieUp[e.port] = false ∧ 256 ≤ held.length then { h with egress := h.egress.put q { e with lost := min (e.lost + 1) 2047 } }
    else if held = [] ∧ h.pcieUp[e.port] = true ∧ (e.count + 2 ^ 21 - e.head) % 2 ^ 21 < 2 ^ e.log2n then
      { h with
        posted := h.posted ++ entry :: if e.ien then [int] else []
        postNo := h.postNo + if e.ien then 2 else 1
        egress := h.egress.put q { e with count := (e.count + 1) % 2 ^ 21 } }
    else { h with heldCe := h.heldCe ++ [(q, l)] }

/-- Cells that stand apart: no two of them have their slices at one position of one half strip (R12, R13). -/
def Apart (s : State) (l : List Nat) : Prop :=
  l.Pairwise fun n m => s.halfNum n ≠ s.halfNum m ∨ s.posOf n ≠ s.posOf m

/-- A cell right after an install: only what records give differs from the cell as a scene starts it, and of that nothing runs, is
armed or is full (R36, R37, R66, R67). -/
def Installed (fresh c : CellState) : Prop :=
  { c with
    slots := fresh.slots, cues := fresh.cues, ctxs := fresh.ctxs, rings := fresh.rings, gens := fresh.gens, cts := fresh.cts
    routes := fresh.routes, feeds := fresh.feeds, bars := fresh.bars, scan := fresh.scan, sliceMiB := fresh.sliceMiB
    trap := fresh.trap, sram := fresh.sram } = fresh ∧
  (∀ g : Fin 8, (c.rings[g]).head = 0 ∧ (c.rings[g]).tail = 0 ∧ (c.rings[g]).count = 0) ∧
  (∀ g : Fin 4, (c.gens[g]).active = false ∧ (c.gens[g]).done = false ∧ (c.gens[g]).fault = false) ∧
  (∀ i : Fin 16, (c.cts[i]).armed = false ∧ (c.cts[i]).count = 0 ∧ (c.cts[i]).pending = false) ∧
  (∀ k : Fin 4, (c.ctx k).status = .running ∧ (c.ctx k).wake = false ∧ (c.ctx k).uack = 0 ∧ (c.ctx k).record = none ∧
    ∀ r : Fin 8, (c.ctx k).v[r] = 0)

/-- Whether a destination is a stream write queue that is full and that no running generator empties. -/
def StuckSo (c : CellState) (d : VDst) : Prop := ∃ q : Fin 4, d = .so q ∧ 8 ≤ (c.so[q]).length ∧ (c.gens[q]).active = false

/-- Whether no instruction holds the arbiter, but for an N-beat one that a generator which no longer runs holds for good: an operand's
queue stays empty, or its result's full (R167, R408; log 82). -/
def HoldOver (c : CellState) : Prop :=
  c.hold = .none ∨ ∃ r, c.hold = .beats r ∧ (StuckSo c r.dst ∨
    ∃ q : Fin 4, (r.a = .sq q ∨ r.b = .sq q ∨ r.e = .sq q) ∧ c.sq[q] = [] ∧ (c.gens[q]).active = false)

/-! ## The invariant -/

/-- The DRAM wafer and the memory of the hosts are in canonical form: addresses rise and no listed byte is zero. -/
def MemOk (s : State) : Prop := s.firn.wf = true ∧ s.host.hostMem.wf = true

/-- The keys of a table rise, so that it lists each number once. -/
def Rising {α : Type} (m : AMap α) : Prop := (m.map fun e => e.1).Pairwise (· < ·)

/-- The tables of cells and stages list each number once, in order. -/
def TablesOk (s : State) : Prop := Rising s.cells ∧ Rising s.stages

end Sys2Proof.Safety
end

