-- ==== Sys2Proof/Certificates/Slice0/Obligations.lean ====
section
/-! DEFINITION. Obligations.lean: the statements for the provers, family by family of the opcode table. A statement of an
instruction says for which states it completes and with which next state; `Fired` says what every firing adds and leaves. -/

open Sys2Proof Sys2Proof.Machine Sys2Proof.Safety

/-! ## Scalar results -/

/-- R133: the nineteen integer instructions on two sources, ready at the focus, write the tabled result and nothing else. R134: SEL
takes both sources and writes the one that its predicate selects; it has no predicate action. -/
def Obligations.IntegerPairResults : Prop :=
  (∀ (s : State) (c : Cue) (d : Dst) (a b : Src) (p : PAct),
    Ready s c ⟨[a, b], some d, true, []⟩ →
    let x := s.src a
    let y := s.src b
    let k := y.toNat % 32
    ∀ e ∈ [(Instr.add c d a b p, x + y), (.sub c d a b p, x - y), (.and c d a b p, x &&& y), (.or c d a b p, x ||| y),
        (.xor c d a b p, x ^^^ y), (.sll c d a b p, BitVec.ofNat 32 (x.toNat * 2 ^ k)),
        (.srl c d a b p, BitVec.ofNat 32 (x.toNat / 2 ^ k)), (.sra c d a b p, BitVec.ofInt 32 (x.toInt / 2 ^ k)),
        (.mul c d a b p, BitVec.ofNat 32 (x.toNat * y.toNat)), (.mulh c d a b p, BitVec.ofInt 32 (x.toInt * y.toInt / 2 ^ 32)),
        (.mulhu c d a b p, BitVec.ofNat 32 (x.toNat * y.toNat / 2 ^ 32)), (.min c d a b p, if x.toInt < y.toInt then x else y),
        (.max c d a b p, if x.toInt > y.toInt then x else y), (.minu c d a b p, if x.toNat < y.toNat then x else y),
        (.maxu c d a b p, if x.toNat > y.toNat then x else y), (.seq c d a b p, if x = y then 1 else 0),
        (.sne c d a b p, if x ≠ y then 1 else 0), (.slt c d a b p, if x.toInt < y.toInt then 1 else 0),
        (.sltu c d a b p, if x.toNat < y.toNat then 1 else 0)],
      ∃ t, exec e.1 s = .next t ∧ Results s t c [a, b] d p e.2 (srcsX s.cur [a, b]) 0) ∧
  (∀ (s : State) (c : Cue) (d : Dst) (a b : Src) (ps : Fin 8),
    Ready s c ⟨[a, b], some d, true, []⟩ →
    ∃ t, exec (.sel c d a b ps) s = .next t ∧
      Results s t c [a, b] d ⟨0, 0⟩ (if s.here.pred ps then s.src a else s.src b) (srcsX s.cur [a, b]) 0)

/-- R138, R139: the immediate forms and LI; SExt is the sign extension to 32 bits. -/
def Obligations.ImmediateResults : Prop :=
  ∀ (s : State) (c : Cue) (d : Dst) (a : Src) (imm : BitVec 10) (k : Fin 32) (i : BitVec 15),
    (Ready s c ⟨[a], some d, true, []⟩ →
      let x := s.src a
      let y := imm.signExtend 32
      ∀ e ∈ [(Instr.addi c d a imm, x + y), (.andi c d a imm, x &&& y), (.ori c d a imm, x ||| y), (.xori c d a imm, x ^^^ y),
          (.slli c d a k, BitVec.ofNat 32 (x.toNat * 2 ^ k.val)), (.srli c d a k, BitVec.ofNat 32 (x.toNat / 2 ^ k.val)),
          (.srai c d a k, BitVec.ofInt 32 (x.toInt / 2 ^ k.val)), (.slti c d a imm, if x.toInt < y.toInt then 1 else 0),
          (.sltiu c d a imm, if x.toNat < y.toNat then 1 else 0), (.seqi c d a imm, if x = y then 1 else 0)],
        ∃ t, exec e.1 s = .next t ∧ Results s t c [a] d ⟨0, 0⟩ e.2 (srcX s.cur a) 0) ∧
    (Ready s c ⟨[], some d, true, []⟩ →
      ∃ t, exec (.li c d i) s = .next t ∧ Results s t c [] d ⟨0, 0⟩ (i.signExtend 32) false 0)

/-- R152: LIW, ADDIP, ADDIP.HI, LEA, CMPI and MADD; MADD's destination register is also its addend. -/
def Obligations.LongScalarResults : Prop :=
  ∀ (s : State) (c : Cue) (d : Dst) (r : Fin 16) (a b : Src) (sh : Fin 4) (imm : BitVec 16) (w : Word) (p : PAct),
    (Ready s c ⟨[], some d, true, []⟩ → ∃ t, exec (.liw c d w) s = .next t ∧ Results s t c [] d ⟨0, 0⟩ w false 0) ∧
    (Ready s c ⟨[a], some d, true, []⟩ →
      let x := s.src a
      let y := imm.signExtend 32
      ∀ e ∈ [(Instr.addip c d a imm p, x + y), (.addipHi c d a imm p, x + BitVec.ofNat 32 (imm.toNat * 2 ^ 16)),
          (.cmpiEq c d a imm p, if x = y then 1 else 0), (.cmpiNe c d a imm p, if x ≠ y then 1 else 0),
          (.cmpiLt c d a imm p, if x.toInt < y.toInt then 1 else 0), (.cmpiLtu c d a imm p, if x.toNat < y.toNat then 1 else 0)],
        ∃ t, exec e.1 s = .next t ∧ Results s t c [a] d p e.2 (srcX s.cur a) 0) ∧
    (Ready s c ⟨[a, b], some d, true, []⟩ →
      ∃ t, exec (.lea c d a b sh imm p) s = .next t ∧
        Results s t c [a, b] d p (s.src a + BitVec.ofNat 32 ((s.src b).toNat * 2 ^ sh.val) + imm.signExtend 32) (srcsX s.cur [a, b]) 0) ∧
    (Ready s c ⟨[a, b], some (.reg r), true, []⟩ →
      ∃ t, exec (.madd c r a b p) s = .next t ∧
        Results s t c [a, b] (.reg r) p (s.here.getX r + s.src a * s.src b) (srcsX s.cur [a, b]) 0)

/-- R153: EXTR, EXTR.S and INSR on the field of `len` bits at `pos`. R154: DECP writes its register less one and records in its
predicate whether the new value is not zero. -/
def Obligations.FieldAndCountResults : Prop :=
  (∀ (s : State) (c : Cue) (d : Dst) (r : Fin 16) (a : Src) (pos len1 : Fin 32) (p : PAct),
    pos.val + (len1.val + 1) ≤ 32 →
    let n := len1.val + 1
    let f := (s.src a).toNat / 2 ^ pos.val % 2 ^ n
    let m : Word := BitVec.ofNat 32 ((2 ^ n - 1) * 2 ^ pos.val)
    (Ready s c ⟨[a], some d, true, []⟩ →
      (∃ t, exec (.extr c d a pos len1 p) s = .next t ∧ Results s t c [a] d p (BitVec.ofNat 32 f) (srcX s.cur a) 0) ∧
      (∃ t, exec (.extrS c d a pos len1 p) s = .next t ∧
        Results s t c [a] d p (if f ≥ 2 ^ (n - 1) then BitVec.ofInt 32 ((f : Int) - 2 ^ n) else BitVec.ofNat 32 f) (srcX s.cur a) 0)) ∧
    (Ready s c ⟨[a], some (.reg r), true, []⟩ →
      ∃ t, exec (.insr c r a pos len1 p) s = .next t ∧
        Results s t c [a] (.reg r) p
          ((s.here.getX r &&& ~~~m) ||| (BitVec.ofNat 32 ((s.src a).toNat * 2 ^ pos.val) &&& m)) (srcX s.cur a) 0)) ∧
  (∀ (s : State) (c : Cue) (r : Fin 16) (px : Fin 8), Ready s c ⟨[], some (.reg r), true, []⟩ →
    ∃ t, exec (.decp c r px) s = .next t ∧ Results s t c [] (.reg r) ⟨3, px⟩ (s.here.getX r - 1) false 0 ∧
      (t.cell s.focus.cell |>.ctx s.focus.ctx).pred px = decide (s.here.getX r - 1 ≠ 0))

/-- R143, R144: the integer and bit functions, FABS and FNEG, raise no flag. CLZ, CTZ and POPC are told by their property: `n` leading
or trailing zeros and then a one, the number of one bits. -/
def Obligations.SingleSourceResults : Prop :=
  ∀ (s : State) (c : Cue) (d : Dst) (a : Src) (p : PAct), Ready s c ⟨[a], some d, true, []⟩ →
    let x := s.src a
    (∀ e ∈ [(Instr.mov c d a p, x), (.not c d a p, ~~~x), (.neg c d a p, 0 - x), (.abs c d a p, if x.toInt < 0 then 0 - x else x),
        (.sextb c d a p, (x.setWidth 8).signExtend 32), (.sexth c d a p, (x.setWidth 16).signExtend 32),
        (.zextb c d a p, (x.setWidth 8).setWidth 32), (.zexth c d a p, (x.setWidth 16).setWidth 32),
        (.fabs c d a p, x &&& 0x7FFFFFFF), (.fneg c d a p, x ^^^ 0x80000000)],
      ∃ t, exec e.1 s = .next t ∧ Results s t c [a] d p e.2 (srcX s.cur a) 0) ∧
    (∃ t n, exec (.clz c d a p) s = .next t ∧ n ≤ 32 ∧ (∀ i, 32 - n ≤ i → i < 32 → x.getLsbD i = false) ∧
      (n < 32 → x.getLsbD (31 - n) = true) ∧ Results s t c [a] d p (BitVec.ofNat 32 n) (srcX s.cur a) 0) ∧
    (∃ t n, exec (.ctz c d a p) s = .next t ∧ n ≤ 32 ∧ (∀ i, i < n → x.getLsbD i = false) ∧
      (n < 32 → x.getLsbD n = true) ∧ Results s t c [a] d p (BitVec.ofNat 32 n) (srcX s.cur a) 0) ∧
    (∃ t, exec (.popc c d a p) s = .next t ∧
      Results s t c [a] d p (BitVec.ofNat 32 ((List.range 32).filter fun i => x.getLsbD i).length) (srcX s.cur a) 0) ∧
    (∃ t v, exec (.brev c d a p) s = .next t ∧ (∀ i, i < 32 → v.getLsbD i = x.getLsbD (31 - i)) ∧
      Results s t c [a] d p v (srcX s.cur a) 0)

/-- R148: TAG and XBIT peek their queue, QCNT counts it whether or not it holds a word; none dequeues. R149, R150: predicate
instructions read every predicate at the start of the cycle and have no predicate action; NOP does nothing but what its firing does. -/
def Obligations.QueueAndPredicateResults : Prop :=
  (∀ (s : State) (c : Cue) (d : Dst) (q : Fin 8) (p : PAct),
    (∀ w r, s.cur.iq[q] = w :: r → Ready s c ⟨[.peek q], some d, true, []⟩ →
      (∃ t, exec (.tag c d q p) s = .next t ∧ Results s t c [] d p (w.tag.setWidth 32) w.x 0) ∧
      (∃ t, exec (.xbit c d q p) s = .next t ∧ Results s t c [] d p (if w.x then 1 else 0) w.x 0)) ∧
    (Ready s c ⟨[], some d, true, []⟩ →
      ∃ t, exec (.qcnt c d q p) s = .next t ∧ Results s t c [] d p (BitVec.ofNat 32 (s.cur.iq[q]).length) false 0)) ∧
  (∀ (s : State) (c : Cue) (i j k : Fin 8) (a : Src) (d : Dst),
    let t0 := s.here
    (Ready s c ⟨[], none, true, []⟩ →
      (∀ e ∈ [(Instr.pand c i j k, t0.pred j && t0.pred k), (.por c i j k, t0.pred j || t0.pred k),
          (.pxor c i j k, t0.pred j ^^ t0.pred k), (.pnot c i j, !t0.pred j)],
        ∃ t u, exec e.1 s = .next t ∧ (∀ m : Fin 8, u.pred m = if m = i then e.2 else t0.pred m) ∧ { u with p := t0.p } = t0 ∧
          Acts s t c (fun _ => 0) ⟨0, 0⟩ (withHere s u)) ∧
      ∃ t, exec (.nop c) s = .next t ∧ Acts s t c (fun _ => 0) ⟨0, 0⟩ s.cur) ∧
    (Ready s c ⟨[a], none, true, []⟩ →
      ∃ t, exec (.psetx c a) s = .next t ∧
        Acts s t c (deqs [a]) ⟨0, 0⟩ (withHere s { t0 with p := (s.src a).setWidth 8 })) ∧
    (Ready s c ⟨[], some d, true, []⟩ →
      ∃ t, exec (.pmovx c d) s = .next t ∧ Results s t c [] d ⟨0, 0⟩ (t0.p.setWidth 32) false 0))

/-- R155: the wafer address registers. The offset wraps in 48 bits, the module number of W.ADD and W.ADDI stays, bits 63 to 56 are zero.
R158 to R160: FCR.RD reads the FCR; FCR.WR replaces the masked bits by A's and returns the old value; PRES.CLR clears the named presence
bits and changes no register. -/
def Obligations.AddressAndControlRegisters : Prop :=
  (∀ (s : State) (c : Cue) (w : Fin 4) (a b : Src) (sh : Fin 32) (imm : BitVec 16) (d : Dst) (h : Bool) (p : PAct),
    let t0 := s.here
    let o : Int := ((t0.w[w]).toNat % 2 ^ 48 : Nat)
    let hi := (t0.w[w]).toNat / 2 ^ 48 % 2 ^ 8
    let put (v : DWord) : CellState := withHere s { t0 with w := vset t0.w w v }
    (Ready s c ⟨[a, b], none, true, []⟩ →
      ∃ t, exec (.wSet c w a b p) s = .next t ∧
        Acts s t c (deqs [a, b]) p (put (BitVec.ofNat 64 ((s.src b).toNat % 2 ^ 24 * 2 ^ 32 + (s.src a).toNat)))) ∧
    (Ready s c ⟨[a], none, true, []⟩ →
      ∃ t, exec (.wAdd c w a sh p) s = .next t ∧
        Acts s t c (deqs [a]) p (put (BitVec.ofNat 64 (hi * 2 ^ 48 + ((o + (s.src a).toInt * 2 ^ sh.val) % 2 ^ 48).toNat)))) ∧
    (Ready s c ⟨[], none, true, []⟩ →
      ∃ t, exec (.wAddi c w imm p) s = .next t ∧
        Acts s t c (fun _ => 0) p (put (BitVec.ofNat 64 (hi * 2 ^ 48 + ((o + imm.toInt) % 2 ^ 48).toNat)))) ∧
    (Ready s c ⟨[], some d, true, []⟩ →
      ∃ t, exec (.wGet c d w h p) s = .next t ∧
        Results s t c [] d p (BitVec.ofNat 32 (if h then (t0.w[w]).toNat / 2 ^ 32 else (t0.w[w]).toNat)) false 0)) ∧
  (∀ (s : State) (c : Cue) (a : Src) (d : Dst) (mask : BitVec 21) (pm : BitVec 8) (p : PAct),
    let t0 := s.here
    (Ready s c ⟨[], some d, true, []⟩ →
      ∃ t, exec (.fcrRd c d p) s = .next t ∧ Results s t c [] d p t0.fcr false 0) ∧
    ((Instr.fcrWr c d a mask p).wf = true → Ready s c ⟨[a], some d, true, []⟩ →
      ∃ t e, exec (.fcrWr c d a mask p) s = .next t ∧
        Settles (withHere s { t0 with fcr := (t0.fcr &&& ~~~(mask.setWidth 32)) ||| (s.src a &&& mask.setWidth 32) }) e s.focus.ctx d p
          t0.fcr (srcX s.cur a) 0 ∧
        Fired s (s.setCur e) t c (deqs [a])) ∧
    (Ready s c ⟨[], none, true, []⟩ →
      ∃ t, exec (.presClr c pm p) s = .next t ∧ Acts s t c (fun _ => 0) p (withHere s { t0 with pres := t0.pres &&& ~~~pm })))

/-! ## Floating point in scalar registers -/

/-- R140, R146, R147, R145: the f32 operations and conversions write what the operations of spec 04 give under the captured scalar
controls, and their flags reach the FCR and the mark; a narrow source is the low bits of A; FMA and FNMS add to their destination. The
functions named are those of Float.lean; O9 says of them what spec 04 says of their values. R145: FCLASS sets the one bit of its table:
infinities 0 and 7, normal numbers 1 and 6, subnormal ones 2 and 5, zeros 3 and 4, a signalling NaN 8, a quiet one 9. -/
def Obligations.FloatScalarResults : Prop :=
  (∀ (s : State) (c : Cue) (d : Dst) (r : Fin 16) (a b : Src) (p : PAct),
    let md := scalarMode s.here.fcr
    let x := (s.src a).toNat
    let y := (s.src b).toNat
    let z := (s.here.getX r).toNat
    let cmp (k : CmpKind) : Nat × Flags := ((fCmp .f32 md k x y).1.toNat, (fCmp .f32 md k x y).2)
    (Ready s c ⟨[a, b], some d, true, []⟩ →
      ∀ e ∈ [(Instr.fadd c d a b p, fAdd .f32 md x y), (.fsub c d a b p, fSub .f32 md x y), (.fmul c d a b p, fMul .f32 md x y),
          (.fmin c d a b p, fMin .f32 md x y), (.fmax c d a b p, fMax .f32 md x y), (.feq c d a b p, cmp .eq),
          (.flt c d a b p, cmp .lt), (.fle c d a b p, cmp .le)],
        ∃ t, exec e.1 s = .next t ∧ Results s t c [a, b] d p (BitVec.ofNat 32 e.2.1) (srcsX s.cur [a, b]) e.2.2) ∧
    (Ready s c ⟨[a, b], some (.reg r), true, []⟩ →
      ∀ e ∈ [(Instr.fma c r a b p, fFma .f32 md x y z), (.fnms c r a b p, fNms .f32 md x y z)],
        ∃ t, exec e.1 s = .next t ∧ Results s t c [a, b] (.reg r) p (BitVec.ofNat 32 e.2.1) (srcsX s.cur [a, b]) e.2.2) ∧
    (Ready s c ⟨[a], some d, true, []⟩ →
      ∀ e ∈ [(Instr.frnd c d a p, fRnd md x), (.fclass c d a p, (fClass x, 0)),
          (.cvtFi c d a p, fToInt .f32 md (-(2 ^ 31)) (2 ^ 31 - 1) 32 x), (.cvtFn c d a p, fToInt .f32 md 0 (2 ^ 32 - 1) 32 x),
          (.cvtIf c d a p, fOfInt .f32 md (s.src a).toInt), (.cvtNf c d a p, fOfInt .f32 md x),
          (.cvtBf c d a p, cvt .f32 .bf16 md x), (.cvtFb c d a p, cvt .bf16 .f32 md (x % 2 ^ 16)),
          (.cvtHf c d a p, cvt .f32 .f16 md x), (.cvtFh c d a p, cvt .f16 .f32 md (x % 2 ^ 16)),
          (.cvtE4f c d a p, cvt .f32 .e4m3 md x), (.cvtFe4 c d a p, cvt .e4m3 .f32 md (x % 2 ^ 8)),
          (.cvtE5f c d a p, cvt .f32 .e5m2 md x), (.cvtFe5 c d a p, cvt .e5m2 .f32 md (x % 2 ^ 8))],
        ∃ t, exec e.1 s = .next t ∧ Results s t c [a] d p (BitVec.ofNat 32 e.2.1) (srcX s.cur a) e.2.2)) ∧
  (∀ n : Nat, n < 2 ^ 32 →
    let neg := negOf .f32 n
    (IsInfOf .f32 n → fClass n = if neg then 2 ^ 0 else 2 ^ 7) ∧ (IsSnanOf .f32 n → fClass n = 2 ^ 8) ∧
    (IsNanOf .f32 n → ¬ IsSnanOf .f32 n → fClass n = 2 ^ 9) ∧
    (IsFin .f32 n →
      let v := numOf .f32 n
      (v = 0 → fClass n = if neg then 2 ^ 3 else 2 ^ 4) ∧
      (v ≠ 0 → |v| < (2 : ℚ) ^ (-126 : ℤ) → fClass n = if neg then 2 ^ 2 else 2 ^ 5) ∧
      ((2 : ℚ) ^ (-126 : ℤ) ≤ |v| → fClass n = if neg then 2 ^ 1 else 2 ^ 6)))

/-- R102, R107: comparison orders finite encodings of a format by the numbers they stand for, with both zeros equal and no flag, while
no input flush is set. R107: the minimum and maximum of two numbers are the operand that is less or greater after the input flush, with
−0 below +0; of one NaN and a number it is the number, of two NaNs the default NaN; a signalling NaN raises NV. A comparison with a NaN
is false; FEQ raises NV for a signalling one alone, FLT and FLE for any; infinities are ordered beyond the finite numbers. R114, R147:
widening to f32 keeps the number a finite encoding stands for and raises no flag, while no flush is set. R105, R106, R108, R109, R114,
R115, R117, R140, R146: the sum, difference, product, fused forms and conversions of finite encodings are Round of the exact value of
the operation on the input-flushed numbers, with the zeros of R106; whether a widening conversion meets the output flush is left open,
since R114 calls it exact and R147 flushes results (log 11, the model's choice); conversions to integers and FRND round to an integer;
NaNs and infinities give the results and flags of R105, R114 and R115. -/
def Obligations.FloatOrderAndWidening : Prop :=
  (∀ (f : Fmt) (md : Mode) (a b : Nat) (na nb : Bool) (ma mb : Nat) (ea eb : Int),
    md.daz = false → a < 2 ^ (f.mag + 1) → b < 2 ^ (f.mag + 1) →
    Fval.of f a = .fin na ma ea → Fval.of f b = .fin nb mb eb →
    let x : ℚ := (if na then -1 else 1) * ma * (2 : ℚ) ^ ea
    let y : ℚ := (if nb then -1 else 1) * mb * (2 : ℚ) ^ eb
    fCmp f md .eq a b = (decide (x = y), 0) ∧ fCmp f md .lt a b = (decide (x < y), 0) ∧ fCmp f md .le a b = (decide (x ≤ y), 0)) ∧
  (∀ (f : Fmt) (md : Mode) (a b : Nat), a < 2 ^ (f.mag + 1) → b < 2 ^ (f.mag + 1) →
    let put (n : Nat) : Nat := if md.daz = true ∧ n / 2 ^ f.frac % 2 ^ f.expo = 0 then (if negOf f n then 2 ^ f.mag else 0) else n
    let x := numIn f md a
    let y := numIn f md b
    let signals : Prop := IsSnanOf f a ∨ IsSnanOf f b
    (IsFin f a → IsFin f b →
      (x < y → (∀ r ∈ [fMin f md a b, fMin f md b a], r = (put a, 0)) ∧ ∀ r ∈ [fMax f md a b, fMax f md b a], r = (put b, 0)) ∧
      (x = 0 → y = 0 → fMin f md a b = (if negOf f a then put a else put b, 0) ∧ fMax f md a b = (if negOf f a then put b else put a, 0)) ∧
      fCmp f md .eq a b = (decide (x = y), 0) ∧ fCmp f md .lt a b = (decide (x < y), 0) ∧ fCmp f md .le a b = (decide (x ≤ y), 0)) ∧
    (IsInfOf f a → ¬ IsNanOf f b →
      let low := negOf f a
      (∀ r ∈ [fMin f md a b, fMin f md b a], r = (if low then a else put b, 0)) ∧
      (∀ r ∈ [fMax f md a b, fMax f md b a], r = (if low then put b else a, 0)) ∧
      (IsFin f b → fCmp f md .eq a b = (false, 0) ∧ (∀ k ∈ [CmpKind.lt, .le], fCmp f md k a b = (low, 0) ∧ fCmp f md k b a = (!low, 0)))) ∧
    (IsNanOf f a → ¬ IsNanOf f b → ∀ r ∈ [fMin f md a b, fMin f md b a, fMax f md a b, fMax f md b a], r.1 = put b) ∧
    (IsNanOf f a → IsNanOf f b → ∀ r ∈ [fMin f md a b, fMax f md a b], r.1 = f.nan) ∧
    (IsNanOf f a ∨ IsNanOf f b →
      (∀ r ∈ [fMin f md a b, fMax f md a b], (signals → r.2 = flNV) ∧ (¬ signals → r.2 = 0)) ∧
      (∀ k, (fCmp f md k a b).1 = false) ∧ (signals → (fCmp f md .eq a b).2 = flNV) ∧ (¬ signals → (fCmp f md .eq a b).2 = 0) ∧
      (fCmp f md .lt a b).2 = flNV ∧ (fCmp f md .le a b).2 = flNV)) ∧
  (∀ (f : Fmt) (md : Mode) (n : Nat) (neg : Bool) (m : Nat) (e : Int),
    md.daz = false → md.ftz = false → n < 2 ^ (f.mag + 1) → Fval.of f n = .fin neg m e →
    (cvt f .f32 md n).2 = 0 ∧ (cvt f .f32 md n).1 < 2 ^ 32 ∧
      ∃ m' e', Fval.of .f32 (cvt f .f32 md n).1 = .fin neg m' e' ∧ (m : ℚ) * (2 : ℚ) ^ e = m' * (2 : ℚ) ^ e') ∧
  (∀ (f g : Fmt) (md : Mode) (a b d : Nat) (i lo hi : Int), md.rm < 4 →
    let x := numIn f md a
    let y := numIn f md b
    let z := numIn f md d
    let sa := negOf f a
    let sb := negOf f b
    let sd := negOf f d
    let top (neg : Bool) (h : Fmt) (n : Nat) : Nat := (if neg then 2 ^ h.mag else 0) + n
    (IsFin f a → IsFin f b →
      Rounded f md (x + y) (zeroSum md [(x, sa), (y, sb)]) (fAdd f md a b) ∧
      Rounded f md (x - y) (zeroSum md [(x, sa), (y, !sb)]) (fSub f md a b) ∧ Rounded f md (x * y) (sa != sb) (fMul f md a b) ∧
      (IsFin f d → Rounded f md (x * y + z) (zeroSum md [(x * y, sa != sb), (z, sd)]) (fFma f md a b d) ∧
        Rounded f md (z - x * y) (zeroSum md [(x * y, sa == sb), (z, sd)]) (fNms f md a b d))) ∧
    (IsFin f a → Rounded g { md with ftz := md.ftz && (decide (g.mag ≤ f.mag) || Config.wideningFlush) } x sa (fCvtTo f g md a)) ∧
    Rounded f md i false (fOfInt f md i) ∧
    (IsFin f a → lo ≤ 0 → 0 ≤ hi →
      let k := roundedInt md.rm x
      let put (j : Int) : Nat := (j % 2 ^ 32).toNat
      fToInt f md lo hi 32 a =
        if k < lo then (put lo, flNV) else if hi < k then (put hi, flNV) else (put k, if k = x then 0 else flNX)) ∧
    (IsFin .f32 a →
      let v := numIn .f32 md a
      IsFin .f32 (fRnd md a).1 ∧ numOf .f32 (fRnd md a).1 = roundedInt md.rm v ∧ negOf .f32 (fRnd md a).1 = negOf .f32 a ∧
        (fRnd md a).2 = if (roundedInt md.rm v : ℚ) = v then 0 else flNX) ∧
    (IsNanOf f a ∨ IsNanOf f b →
      ∀ r ∈ [fAdd f md a b, fSub f md a b, fMul f md a b], r.1 = f.nan ∧
        (IsSnanOf f a ∨ IsSnanOf f b → r.2 = flNV) ∧ (¬ IsSnanOf f a → ¬ IsSnanOf f b → r.2 = 0)) ∧
    (IsNanOf f a → fToInt f md lo hi 32 a = (0, flNV) ∧ (fCvtTo f g md a).1 = g.nan ∧
      (IsSnanOf f a → (fCvtTo f g md a).2 = flNV) ∧ (¬ IsSnanOf f a → (fCvtTo f g md a).2 = 0)) ∧
    (IsNanOf .f32 a → (fRnd md a).1 = 0x7FC00000 ∧ (IsSnanOf .f32 a → (fRnd md a).2 = flNV) ∧ (¬ IsSnanOf .f32 a → (fRnd md a).2 = 0)) ∧
    (IsInfOf .f32 a → fRnd md a = (a, 0)) ∧
    (IsInfOf f a →
      (IsFin f b → fAdd f md a b = (top sa f (f.maxMag + 1), 0) ∧ fSub f md b a = (top (!sa) f (f.maxMag + 1), 0) ∧
        fMul f md a b = (if y = 0 then (f.nan, flNV) else (top (sa != sb) f (f.maxMag + 1), 0))) ∧
      (IsInfOf f b → fAdd f md a b = if sa = sb then (top sa f (f.maxMag + 1), 0) else (f.nan, flNV)) ∧
      fCvtTo f g md a = (if g = .e4m3 ∨ g = .e5m2 ∧ md.sat = false then (top sa g g.maxMag, flOF ||| flNX)
        else (top sa g (g.maxMag + 1), 0)) ∧
      fToInt f md lo hi 32 a = (((if sa then lo else hi) % 2 ^ 32).toNat, flNV)) ∧
    (let mixed : Prop := (IsInfOf f a ∧ IsFin f b ∧ y = 0) ∨ (IsInfOf f b ∧ IsFin f a ∧ x = 0)
      let signals : Prop := IsSnanOf f a ∨ IsSnanOf f b ∨ IsSnanOf f d
      ∀ q ∈ [(fFma f md a b d, sa != sb), (fNms f md a b d, sa == sb)],
        (mixed → q.1 = (f.nan, flNV)) ∧
        (IsNanOf f a ∨ IsNanOf f b ∨ IsNanOf f d → q.1.1 = f.nan ∧ (signals → q.1.2 = flNV) ∧ (¬ signals → ¬ mixed → q.1.2 = 0)) ∧
        (IsInfOf f a ∨ IsInfOf f b → ¬ IsNanOf f a → ¬ IsNanOf f b → ¬ mixed →
          (IsFin f d → q.1 = (top q.2 f (f.maxMag + 1), 0)) ∧
          (IsInfOf f d → q.1 = if q.2 = sd then (top sd f (f.maxMag + 1), 0) else (f.nan, flNV))) ∧
        (IsFin f a → IsFin f b → IsInfOf f d → q.1 = (top sd f (f.maxMag + 1), 0))) ∧
    Fmt.nan .f32 = 0x7FC00000 ∧ Fmt.nan .bf16 = 0x7FC0 ∧ Fmt.nan .f16 = 0x7E00 ∧ Fmt.nan .e4m3 = 0x7F ∧ Fmt.nan .e5m2 = 0x7E)

/-! ## Division -/

/-- R135, R137: a ready divide reads its sources, reserves an entry of a destination queue, parks its context and keeps the divider
busy; its result is due in cycle F + 17. R136, R137: once it is due, the divider writes the quotient or remainder of R136 with its
predicate action, gives the reserved entry back and is free, and the context runs again; before, nothing happens. -/
def Obligations.DivisionResults : Prop :=
  (∀ (s : State) (c : Cue) (d : Dst) (a b : Src) (p : PAct), Ready s c ⟨[a, b], some d, s.cur.div.isNone, []⟩ →
    ∀ e ∈ [(Instr.div c d a b p, true, false), (.divu c d a b p, false, false), (.rem c d a b p, true, true),
        (.remu c d a b p, false, true)],
      ∃ t, exec e.1 s = .next t ∧
        Fired s (s.setCur { withHere s { s.here with status := .parkDiv } with
          oqResv := (match d with
            | .oq q => vset s.cur.oqResv q (s.cur.oqResv[q] + 1)
            | .reg _ => s.cur.oqResv)
          div := some { signed := e.2.1, remainder := e.2.2, a := s.src a, b := s.src b, ctx := s.focus.ctx, slot := s.focus.slot
                        dst := d, p := p, x := srcsX s.cur [a, b], due := s.cur.cyc + 17 } }) t c (deqs [a, b])) ∧
  (∀ (s : State) (n : Nat) (j : DivJob), (s.cell n).div = some j →
    let c := s.cell n
    let A := j.a
    let B := j.b
    let v : Word :=
      if j.signed ∧ j.remainder = false then
        (if B = 0 then 0xFFFFFFFF else if A = 0x80000000 ∧ B = 0xFFFFFFFF then 0x80000000 else BitVec.ofInt 32 (A.toInt.tdiv B.toInt))
      else if j.signed then
        (if B = 0 then A else if A = 0x80000000 ∧ B = 0xFFFFFFFF then 0
         else BitVec.ofInt 32 (A.toInt - A.toInt.tdiv B.toInt * B.toInt))
      else if j.remainder = false then (if B = 0 then 0xFFFFFFFF else BitVec.ofNat 32 (A.toNat / B.toNat))
      else (if B = 0 then A else BitVec.ofNat 32 (A.toNat % B.toNat))
    let freed : CellState := { c.setCtx j.ctx { c.ctx j.ctx with status := .running } with
      oqResv := (match j.dst with
        | .oq q => vset c.oqResv q (c.oqResv[q] - 1)
        | .reg _ => c.oqResv)
      div := none }
    (j.due ≤ c.cyc → (c.ctx j.ctx).status = .parkDiv → (c.ctx j.ctx).respFaults = 0 →
      ∃ e, exec (.divideResult n) s = .next (s.setCell n e) ∧ Settles freed e j.ctx j.dst j.p v j.x 0) ∧
    (c.cyc < j.due → exec (.divideResult n) s = .next s))

/-! ## Words and remote writes -/

/-- R252, R254: SEND and SENDI enqueue one word with a chosen tag; DROP discards the heads it names. R253: JOIN on two heads pops the
smaller key, both where the keys are equal or both streams end, and the other stream's head where one ends; the predicate of a recording
action takes whether the keys met. -/
def Obligations.WordsSentAndMerged : Prop :=
  (∀ (s : State) (c : Cue) (o q : Fin 8) (r : Option (Fin 8)) (a b : Src) (tag : Byte) (p : PAct),
    let put (v : Word) (g : Byte) (x : Bool) : CellState := { s.cur with oq := vset s.cur.oq o (s.cur.oq[o] ++ [⟨v, g, x⟩]) }
    (Ready s c ⟨[a, b], some (.oq o), true, []⟩ →
      ∃ t, exec (.send c o a b p) s = .next t ∧
        Fired s (s.setCur ((put (s.src a) ((s.src b).setWidth 8) (srcsX s.cur [a, b])).setCtx s.focus.ctx
          (s.here.act p (decide (s.src a ≠ 0))))) t c (deqs [a, b])) ∧
    (Ready s c ⟨[a], some (.oq o), true, []⟩ →
      ∃ t, exec (.sendi c o a tag) s = .next t ∧ Fired s (s.setCur (put (s.src a) tag (srcX s.cur a))) t c (deqs [a])) ∧
    (Ready s c ⟨.deq q :: r.toList.map Src.deq, none, true, []⟩ →
      ∃ t, exec (.drop c q r p) s = .next t ∧ Acts s t c (fun i => if i = q ∨ some i = r then 1 else 0) p s.cur)) ∧
  (∀ (s : State) (c : Cue) (d : Dst) (a b : Fin 8) (p : PAct) (h g : QWord) (r q : List QWord),
    a ≠ b → s.cur.iq[a] = h :: r → s.cur.iq[b] = g :: q → Ready s c ⟨[.deq a, .deq b], some d, true, []⟩ →
    let ea := h.tag.toNat % 64 = 63
    let eb := g.tag.toNat % 64 = 63
    let v : Word := if ea ∧ eb then 3 else if eb then 0 else if ea then 1
      else if h.data.toNat < g.data.toNat then 0 else if h.data.toNat > g.data.toNat then 1 else 2
    ∃ t e, exec (.join c d a b p) s = .next t ∧ Settles s.cur e s.focus.ctx d ⟨0, 0⟩ v (h.x || g.x) 0 ∧
      Fired s (s.setCur (e.setCtx s.focus.ctx ((e.ctx s.focus.ctx).act p (decide (v = 2))))) t c
        (fun i => if i = a ∧ v ≠ 1 ∨ i = b ∧ v ≠ 0 then 1 else 0))

/-- R255: PUTR takes a send place for its write while its name is cached, and waits without it; a cell number outside the stage faults
with NAME whether or not it is cached: that no name is waited for there is the model's choice (log 15, DEDUCED). R255, R326: a name walk
that is due puts its number first in the cache of 64 and ends; the other walks under way go on. -/
def Obligations.RemoteWriteNames : Prop :=
  (∀ (s : State) (c : Cue) (k : Fin 4) (r : Fin 8) (a b : Src) (p : PAct),
    let n := (s.src a).toNat
    let size := (s.stage s.cur.stage).w * (s.stage s.cur.stage).h
    (n < size → n ∈ s.cur.names → Ready s c ⟨[a, b], none, decide (s.cur.putSend.length < 4), []⟩ →
      ∃ t, exec (.putr c k r a b p) s = .next t ∧
        Acts s t c (deqs [a, b]) p { s.cur with
          names := n :: s.cur.names.filter (· ≠ n)
          putSend := s.cur.putSend ++ [⟨s.focus.cell, n, k, r, s.src b, s.cur.cyc + 3, none⟩] }) ∧
    (size ≤ n → Ready s c ⟨[a, b], none, decide (s.cur.putSend.length < 4), []⟩ →
      ∃ t, exec (.putr c k r a b p) s = .next t ∧ Faults s t { cls := 5, code := 1, opnd := s.src a }) ∧
    (n < size → n ∉ s.cur.names → exec (.putr c k r a b p) s = .next s)) ∧
  (∀ (s : State) (n m due : Nat) (a b : List (Nat × Nat)), let c := s.cell n
    c.nameWalk = a ++ (m, due) :: b → due ≤ c.cyc → (∀ w ∈ a ++ b, c.cyc < w.2) →
    exec (.putrNameWalk n) s = .next (s.setCell n { c with
      names := (m :: c.names.filter (fun x => decide (x ≠ m))).take 64, nameWalk := a ++ b }))

/-! ## Private loads and stores -/

/-- R247, R248, R250, R352: an aligned load from SRAM whose words are not uncorrectable writes the loaded value in its firing cycle; a
word with one wrong bit counts as corrected and is whole again (whole again: the model's reading, log 78). R247, R248: an aligned store
to SRAM writes its bytes in its firing cycle, and every other byte of SRAM stays. Over an uncorrectable word it leaves the word so,
which is the model's choice (log 65). R247, R342: a misaligned address faults with ALIGN, an access that lies neither in SRAM nor in the
reachable slice with PRIVATE_BOUNDS; the record holds the address. -/
def Obligations.SramAccess : Prop :=
  (∀ (s : State) (c : Cue) (d : Dst) (a : Src) (i : BitVec 10) (j : BitVec 16) (p : PAct), Ready s c ⟨[a], some d, true, []⟩ →
    ∀ e ∈ [(Instr.ldw c d a i, 4, false, i.toInt * 4, (⟨0, 0⟩ : PAct)), (.ldh c d a i, 2, true, i.toInt * 2, ⟨0, 0⟩),
        (.ldhu c d a i, 2, false, i.toInt * 2, ⟨0, 0⟩), (.ldb c d a i, 1, true, i.toInt, ⟨0, 0⟩), (.ldbu c d a i, 1, false, i.toInt, ⟨0, 0⟩),
        (.ldwp c d a j p, 4, false, j.toInt, p), (.ldhp c d a j p, 2, true, j.toInt, p), (.ldhup c d a j p, 2, false, j.toInt, p),
        (.ldbp c d a j p, 1, true, j.toInt, p), (.ldbup c d a j p, 1, false, j.toInt, p)],
      let n := e.2.1
      let t0 := (BitVec.ofInt 32 ((s.src a).toInt + e.2.2.2.1)).toNat
      let m := s.cur.sram.readN t0 n
      let v : Word := if e.2.2.1 ∧ 2 ^ (8 * n - 1) ≤ m then BitVec.ofInt 32 ((m : Int) - 2 ^ (8 * n)) else BitVec.ofNat 32 m
      t0 % n = 0 → t0 + n ≤ 0x40000 → (∀ w ∈ s.cur.badSram, w * 8 + 8 ≤ t0 ∨ t0 + n ≤ w * 8) →
      ∃ t u, exec e.1 s = .next t ∧ Settles (mended s.cur t0 n) u s.focus.ctx d e.2.2.2.2 v (srcX s.cur a) 0 ∧
        Fired s (s.setCur u) t c (deqs [a])) ∧
  (∀ (s : State) (c : Cue) (d a : Src) (i : BitVec 10), s.cur.sram.wf = true → Ready s c ⟨[d, a], none, true, []⟩ →
    ∀ e ∈ [(Instr.stw c d a i, (4 : Nat)), (.sth c d a i, 2), (.stb c d a i, 1)],
      let n := e.2
      let t0 := (BitVec.ofInt 32 ((s.src a).toInt + i.toInt * (n : Int))).toNat
      t0 % n = 0 → t0 + n ≤ 0x40000 →
      ∃ t m, exec e.1 s = .next t ∧ Fired s (s.setCur { s.cur with sram := m }) t c (deqs [d, a]) ∧ m.wf = true ∧
        m.readN t0 n = (s.src d).toNat % 256 ^ n ∧ ∀ x, x < t0 ∨ t0 + n ≤ x → m.read x = s.cur.sram.read x) ∧
  (∀ (s : State) (c : Cue) (d : Dst) (v a : Src) (i : BitVec 10) (j : BitVec 16) (p : PAct),
    ∀ e ∈ [(Instr.ldw c d a i, 4, i.toInt * 4, true), (.ldh c d a i, 2, i.toInt * 2, true), (.ldhu c d a i, 2, i.toInt * 2, true),
        (.ldb c d a i, 1, i.toInt, true), (.ldbu c d a i, 1, i.toInt, true), (.ldwp c d a j p, 4, j.toInt, true),
        (.ldhp c d a j p, 2, j.toInt, true), (.ldhup c d a j p, 2, j.toInt, true), (.ldbp c d a j p, 1, j.toInt, true),
        (.ldbup c d a j p, 1, j.toInt, true), (.stw c v a i, 4, i.toInt * 4, false), (.sth c v a i, 2, i.toInt * 2, false),
        (.stb c v a i, 1, i.toInt, false)],
      Ready s c (if e.2.2.2 then ⟨[a], some d, true, []⟩ else ⟨[v, a], none, true, []⟩) →
      let n := e.2.1
      let t0 := (BitVec.ofInt 32 ((s.src a).toInt + e.2.2.1)).toNat
      let reach := s.cur.sliceMiB * 2 ^ 20 - 2 ^ 19
      (t0 % n ≠ 0 → ∃ t, exec e.1 s = .next t ∧ Faults s t { cls := 4, code := 0, opnd := BitVec.ofNat 32 t0 }) ∧
      (t0 % n = 0 → ¬ t0 + n ≤ 0x40000 → ¬ (0x40000000 ≤ t0 ∧ t0 + n ≤ 0x40000000 + reach) →
        ∃ t, exec e.1 s = .next t ∧ Faults s t { cls := 3, code := 0, opnd := BitVec.ofNat 32 t0 }))

/-- R248: an aligned load from a slice line that is in the cache completes in its firing cycle and makes the line the most recently
used. One whose line is missing parks its context, reserves its place of a destination queue and takes a miss entry, which asks the
strip port in the next cycle of the cell. One whose line is being filled, or that finds no free entry, holds the arbiter. R248, R65: an
aligned store to a slice line that is in the cache replaces its bytes of the line, which is dirty and the most recently used; one to a
missing line takes a miss entry and completes; one to a line that is being filled, or without a free entry, holds the arbiter. R14,
R407: in the next cycle of its cell the request of a fill reaches the strip port: it joins the open merge window of its half strip, line
and direction in which its position does not stand yet, or opens one, and nothing else changes but that it has asked. That a position
which stands in the window opens a second one beside it is the model's choice (log 63). R251: FENCE.L on a cache with no dirty line, no
fill and no write-back empties it in one cycle; else it holds the arbiter. -/
def Obligations.SliceLoadsAndFence : Prop :=
  (∀ (s : State) (c : Cue) (d : Dst) (a : Src) (i : BitVec 10) (j : BitVec 16) (p : PAct), Ready s c ⟨[a], some d, true, []⟩ →
    ∀ e ∈ [(Instr.ldw c d a i, 4, false, i.toInt * 4, (⟨0, 0⟩ : PAct)), (.ldh c d a i, 2, true, i.toInt * 2, ⟨0, 0⟩),
        (.ldhu c d a i, 2, false, i.toInt * 2, ⟨0, 0⟩), (.ldb c d a i, 1, true, i.toInt, ⟨0, 0⟩), (.ldbu c d a i, 1, false, i.toInt, ⟨0, 0⟩),
        (.ldwp c d a j p, 4, false, j.toInt, p), (.ldhp c d a j p, 2, true, j.toInt, p), (.ldhup c d a j p, 2, false, j.toInt, p),
        (.ldbp c d a j p, 1, true, j.toInt, p), (.ldbup c d a j p, 1, false, j.toInt, p)],
      let n := e.2.1
      let t0 := (BitVec.ofInt 32 ((s.src a).toInt + e.2.2.2.1)).toNat
      let l := (t0 - 0x40000000) / 32
      let acc : Access := { store := false, size := n, signed := e.2.2.1, addr := t0, data := 0, dst := d, p := e.2.2.2.2, x := srcX s.cur a
                            ctx := s.focus.ctx, slot := s.focus.slot }
      let kept := match d with
        | .oq q => vset s.cur.oqResv q (s.cur.oqResv[q] + 1)
        | .reg _ => s.cur.oqResv
      t0 % n = 0 → 0x40000000 ≤ t0 → t0 + n ≤ 0x40000000 + (s.cur.sliceMiB * 2 ^ 20 - 2 ^ 19) →
      (∀ x ∈ s.cur.cache, x.line = l → (∀ y ∈ s.cur.cache, y.line = l → y = x) → (∀ f ∈ s.cur.fills, f.line ≠ l) →
        let m := x.data.toNat / 2 ^ (8 * ((t0 - 0x40000000) % 32)) % 2 ^ (8 * n)
        let v : Word := if e.2.2.1 ∧ 2 ^ (8 * n - 1) ≤ m then BitVec.ofInt 32 ((m : Int) - 2 ^ (8 * n)) else BitVec.ofNat 32 m
        ∃ t u, exec e.1 s = .next t ∧
          Settles { s.cur with cache := x :: s.cur.cache.filter (fun y => decide (y.line ≠ l)) } u s.focus.ctx d e.2.2.2.2 v (srcX s.cur a) 0 ∧
          Fired s (s.setCur u) t c (deqs [a])) ∧
      ((∀ x ∈ s.cur.cache, x.line ≠ l) → (∀ f ∈ s.cur.fills, f.line ≠ l) → s.cur.fills.length < 4 →
        ∃ t, exec e.1 s = .next t ∧
          Fired s (s.setCur { withHere s { s.here with status := .parkMiss } with
            oqResv := kept, fills := s.cur.fills ++ [⟨l, .load acc, false, none⟩] }) t c (deqs [a])) ∧
      ((∃ f ∈ s.cur.fills, f.line = l) ∨ (∀ x ∈ s.cur.cache, x.line ≠ l) ∧ 4 ≤ s.cur.fills.length →
        ∃ t, exec e.1 s = .next t ∧ Fired s (s.setCur { s.cur with oqResv := kept, hold := .slice acc }) t c (deqs [a]))) ∧
  (∀ (s : State) (c : Cue) (d a : Src) (i : BitVec 10), Ready s c ⟨[d, a], none, true, []⟩ →
    ∀ e ∈ [(Instr.stw c d a i, (4 : Nat)), (.sth c d a i, 2), (.stb c d a i, 1)],
      let n := e.2
      let t0 := (BitVec.ofInt 32 ((s.src a).toInt + i.toInt * (n : Int))).toNat
      let l := (t0 - 0x40000000) / 32
      let o := (t0 - 0x40000000) % 32
      let byte (v k : Nat) : Nat := v / 2 ^ (8 * k) % 256
      let acc : Access := { store := true, size := n, signed := false, addr := t0, data := s.src d, dst := .reg 0, p := ⟨0, 0⟩, x := false
                            ctx := s.focus.ctx, slot := s.focus.slot }
      t0 % n = 0 → 0x40000000 ≤ t0 → t0 + n ≤ 0x40000000 + (s.cur.sliceMiB * 2 ^ 20 - 2 ^ 19) →
      (∀ x ∈ s.cur.cache, x.line = l → (∀ y ∈ s.cur.cache, y.line = l → y = x) → (∀ f ∈ s.cur.fills, f.line ≠ l) →
        ∃ t v, exec e.1 s = .next t ∧
          (∀ k, k < 32 → byte v.toNat k = if o ≤ k ∧ k < o + n then byte (s.src d).toNat (k - o) else byte x.data.toNat k) ∧
          Fired s (s.setCur { s.cur with
            cache := { x with data := v, dirty := true } :: s.cur.cache.filter (fun y => decide (y.line ≠ l)) }) t c (deqs [d, a])) ∧
      ((∀ x ∈ s.cur.cache, x.line ≠ l) → (∀ f ∈ s.cur.fills, f.line ≠ l) → s.cur.fills.length < 4 →
        ∃ t, exec e.1 s = .next t ∧
          Fired s (s.setCur { s.cur with fills := s.cur.fills ++ [⟨l, .store acc, false, none⟩] }) t c (deqs [d, a])) ∧
      ((∃ f ∈ s.cur.fills, f.line = l) ∨ (∀ x ∈ s.cur.cache, x.line ≠ l) ∧ 4 ≤ s.cur.fills.length →
        ∃ t, exec e.1 s = .next t ∧ Fired s (s.setCur { s.cur with hold := .slice acc }) t c (deqs [d, a]))) ∧
  (∀ (s : State) (n : Nat) (g : Fill),
    let c := s.cell n
    let me := (n, s.posOf n, PortUser.cache, (0 : BitVec 256))
    let fits (m : Merge) : Prop :=
      m.half = s.stripOf n * 2 + s.halfOf n ∧ m.line = g.line ∧ m.write = false ∧ ∀ w ∈ m.who, w.2.1 ≠ s.posOf n
    let after (ms : List Merge) : State := { s.setCell n { c with
      fills := c.fills.map fun f => { f with asked := true }, wbs := c.wbs.map fun w => { w with asked := true } } with merges := ms }
    (c.fills.filter fun f => !f.asked) = [g] → (∀ w ∈ c.wbs, w.asked = true) →
    ((∀ m ∈ s.merges, ¬ fits m) →
      askPort s n = after (s.merges ++ [⟨s.stripOf n * 2 + s.halfOf n, g.line, false, s.strip, [me]⟩])) ∧
    ∀ a m b, s.merges = a ++ m :: b → (∀ x ∈ a, ¬ fits x) → fits m → askPort s n = after (a ++ { m with who := m.who ++ [me] } :: b)) ∧
  (∀ (s : State) (c : Cue), Ready s c ⟨[], none, true, []⟩ →
    let clean := s.cur.fills = [] ∧ s.cur.wbs = [] ∧ ∀ x ∈ s.cur.cache, x.dirty = false
    (clean → ∃ t, exec (.fenceL c) s = .next t ∧ Fired s (s.setCur { s.cur with cache := [] }) t c (fun _ => 0)) ∧
    (¬ clean → ∃ t, exec (.fenceL c) s = .next t ∧ Fired s (s.setCur { s.cur with hold := .fenceL }) t c (fun _ => 0)))

/-! ## Vector and special-function instructions -/

/-- R164 to R176: a ready vector instruction performs its first beat in its firing cycle. With one beat it ends there, with its
predicate action and flags; with more it holds the arbiter with one beat done. `vecBeat` is what one beat computes. -/
def Obligations.VectorInstructionsFire : Prop :=
  ∀ (s : State) (h : VHead) (d : VDst) (r : Fin 8) (a b m : VSrc) (k : VConv) (xs : Fin 16),
    ∀ e ∈ [(Instr.vadd h d a b, VOp.add, d, [a, b], (0 : Fin 16)), (.vsub h d a b, .sub, d, [a, b], 0), (.vmul h d a b, .mul, d, [a, b], 0),
        (.vfma h r a b, .fma, .v r, [a, b], 0), (.vmin h d a b, .min, d, [a, b], 0), (.vmax h d a b, .max, d, [a, b], 0),
        (.vand h d a b, .and, d, [a, b], 0), (.vor h d a b, .or, d, [a, b], 0), (.vxor h d a b, .xor, d, [a, b], 0),
        (.vshl h d a b, .shl, d, [a, b], 0), (.vshr h d a b, .shr, d, [a, b], 0), (.vsra h d a b, .sra, d, [a, b], 0),
        (.vceq h d a b, .ceq, d, [a, b], 0), (.vclt h d a b, .clt, d, [a, b], 0), (.vcle h d a b, .cle, d, [a, b], 0),
        (.vsel h d a b m, .sel, d, [a, b, m], 0), (.vcvt h d a k xs, .cvt k, d, [a], xs), (.vbcast h d xs, .bcast, d, [], xs),
        (.vext h d a b xs, .ext, d, [a, b], xs), (.vins h d a xs, .ins, d, [a], xs), (.vperm h d a b, .perm, d, [a, b], 0),
        (.vrsum h r a, .rsum, .v r, [a], 0), (.vrmax h r a, .rmax, .v r, [a], 0), (.vrmin h r a, .rmin, .v r, [a], 0),
        (.vabs h d a, .abs, d, [a], 0), (.vneg h d a, .neg, d, [a], 0), (.vmov h d a, .mov, d, [a], 0),
        (.vldexp h d a b, .ldexp, d, [a, b], 0), (.vdot2 h r a b, .dot2, .v r, [a, b], 0), (.vclamp h d a b m, .clamp, d, [a, b, m], 0)],
      let op := e.2.1
      let dst := e.2.2.1
      let l := e.2.2.2.1
      Ready s h.cue (beatNeeds s.cur l (some dst) true) →
      let kk := s.focus.ctx
      let md := vectorMode s.here.fcr
      let base := dstBefore s dst
      let x := s.here.getX e.2.2.2.2
      let run0 : Option VWord := if op.accumulates then some (op.start h.ty md base) else none
      let q := vecBeat op h.ty md x base (run0.getD 0) (beatIn s l 0).data (beatIn s l 1).data (beatIn s l 2).data
      let mark := (beatIn s l 0).x || (beatIn s l 1).x || (beatIn s l 2).x || q.2.marks
      let c1 := afterBeat s.cur kk l (some dst) q.1 mark
      ∃ t, exec e.1 s = .next t ∧
        (h.nb = 0 → Fired s (s.setCur (lastBeat c1 kk h.p q.1 q.2)) t h.cue (fun _ => 0)) ∧
        (h.nb ≠ 0 → Fired s (s.setCur (holding c1 (.beats
          { op := .vec op h.ty, slot := s.focus.slot, ctx := kk, total := h.nb.val + 1, done := 1, a := beatKept s l 0
            b := beatKept s l 1, e := beatKept s l 2, dst := dst, run := if op.accumulates then some q.1 else none, base := base
            xs := x, p := h.p, fcr := s.here.fcr, flags := q.2, wait := 0 }))) t h.cue (fun _ => 0))

/-- R168, R170 to R172, R5: what one beat computes in each 32-bit integer lane of the element-wise instructions. R116, R168, R170 to
R172, R120, R5: what one beat computes in each lane of the 16-bit and 8-bit integer types, where n8 alone compares unsigned, and of the
32-bit and 16-bit float types, whose lanes are the operations of one number each, with the flags of all lanes; VRSUM of an integer type
adds the running value and every lane. R168, R169, R172: each float lane of VFMA, VCEQ, VCLT, VCLE, VCLAMP and VLDEXP, where the running
value of VFMA meets no input flush (R166). R168, R170, R144: VAND, VOR, VXOR, VSEL and VMOV act on the bits of every type, VABS and VNEG
clear and invert the sign bits of float lanes, none raises a flag; VCLAMP of i32 lanes. R169, R118: each f32 lane of VDOT2 is Round of
the exact sum of two products and the running value; a NaN among them gives the default NaN. R175: the lane-moving instructions move the
lanes of every type as they are and raise no flag. R120, R176: VRSUM, VRMAX and VRMIN of every type combine the lanes of a beat in the
pairwise tree, of which `t k i` is entry i after k levels with its flags, and the running lane 0 with the outcome; the other lanes of
the result are 0. R173, R174, R114, R115: VCVT converts lane by lane between every two types and the two 8-bit float formats, at the
part that its scalar names: a narrowing one keeps the destination's other lanes, a widening one fills the destination; whether a
widening meets the output flush is left open, the model's choice (log 11). R43, R164, R165: a further beat of a vector instruction that
holds the arbiter, with its sources present and room for its result: it writes its value; the last one acts on the predicate, raises the
flags gathered so far and frees the arbiter. -/
def Obligations.VectorBeats : Prop :=
  (∀ (md : Mode) (xs : Word) (base run a b m : VWord) (i : Nat), i < 16 →
    let at' (v : VWord) : Word := v.extractLsb' (32 * i) 32
    let x := at' a
    let y := at' b
    let z := at' m
    let k := y.toNat % 32
    ∀ e ∈ [(VOp.add, x + y), (.sub, x - y), (.mul, x * y), (.fma, x * y + at' run), (.min, if x.toInt < y.toInt then x else y),
        (.max, if x.toInt > y.toInt then x else y), (.and, x &&& y), (.or, x ||| y), (.xor, x ^^^ y), (.shl, x <<< k), (.shr, x >>> k),
        (.sra, x.sshiftRight k), (.ceq, if x = y then 0xFFFFFFFF else 0), (.clt, if x.toInt < y.toInt then 0xFFFFFFFF else 0),
        (.cle, if x.toInt ≤ y.toInt then 0xFFFFFFFF else 0), (.sel, (z &&& x) ||| (~~~z &&& y)), (.bcast, xs), (.neg, 0 - x),
        (.abs, if x.toInt < 0 then 0 - x else x), (.mov, x)],
      at' (vecBeat e.1 .i32 md xs base run a b m).1 = e.2 ∧ (vecBeat e.1 .i32 md xs base run a b m).2 = 0) ∧
  (∀ (md : Mode) (xs : Word) (base run a b m : VWord),
    (∀ ty ∈ [(Ty.i16, 16, true), (.i8, 8, true), (.n8, 8, false)],
      let w : Nat := ty.2.1
      let sg : Bool := ty.2.2
      let lane (v : VWord) (i : Nat) : BitVec w := v.extractLsb' (w * i) w
      let lt (x y : BitVec w) : Bool := if sg then x.slt y else x.ult y
      let le (x y : BitVec w) : Bool := !lt y x
      let ones (t : Bool) : BitVec w := if t then BitVec.allOnes w else 0
      (∀ i, i < 512 / w →
        let x := lane a i
        let y := lane b i
        let z := lane m i
        let k := y.toNat % w
        let mx := if lt x y then y else x
        ∀ e ∈ [(VOp.add, x + y), (.sub, x - y), (.mul, x * y), (.fma, x * y + lane run i), (.min, if lt x y then x else y), (.max, mx),
            (.and, x &&& y), (.or, x ||| y), (.xor, x ^^^ y), (.shl, x <<< k), (.shr, x >>> k), (.ceq, ones (decide (x = y))),
            (.clt, ones (lt x y)), (.cle, ones (le x y)), (.sel, (z &&& x) ||| (~~~z &&& y)), (.bcast, xs.setWidth w), (.neg, 0 - x),
            (.abs, if sg && x.msb then 0 - x else x), (.mov, x), (.clamp, if lt mx z then mx else z)],
          lane (vecBeat e.1 ty.1 md xs base run a b m).1 i = e.2 ∧ (vecBeat e.1 ty.1 md xs base run a b m).2 = 0) ∧
      (sg = true → ∀ i, i < 512 / w → lane (vecBeat .sra ty.1 md xs base run a b m).1 i = (lane a i).sshiftRight ((lane b i).toNat % w)) ∧
      vecBeat .rsum ty.1 md xs base run a b m =
        (((List.range (512 / w)).foldl (fun s i => s + lane a i) (lane run 0)).setWidth 512, 0)) ∧
    ∀ ty ∈ [(Ty.f32, Fmt.f32, 32), (.bf16, .bf16, 16), (.f16, .f16, 16)],
      let w : Nat := ty.2.2
      let lane (v : VWord) (i : Nat) : Nat := v.toNat / 2 ^ (w * i) % 2 ^ w
      ∀ e ∈ [(VOp.add, fAdd ty.2.1 md), (.sub, fSub ty.2.1 md), (.mul, fMul ty.2.1 md), (.min, fMin ty.2.1 md), (.max, fMax ty.2.1 md)],
        (∀ i, i < 512 / w → lane (vecBeat e.1 ty.1 md xs base run a b m).1 i = (e.2 (lane a i) (lane b i)).1) ∧
        (vecBeat e.1 ty.1 md xs base run a b m).2 = (List.range (512 / w)).foldl (fun f i => f ||| (e.2 (lane a i) (lane b i)).2) 0) ∧
  (∀ (md : Mode) (xs : Word) (base run a b m : VWord), md.rm < 4 →
    ∀ ty ∈ [(Ty.f32, Fmt.f32, 32), (.bf16, .bf16, 16), (.f16, .f16, 16)],
      let f := ty.2.1
      let w : Nat := ty.2.2
      let lane (v : VWord) (i : Nat) : Nat := v.toNat / 2 ^ (w * i) % 2 ^ w
      let flush (v : Nat) : Nat := if md.daz = true ∧ v / 2 ^ f.frac % 2 ^ f.expo = 0 then v / 2 ^ f.mag * 2 ^ f.mag else v
      let cmp (k : CmpKind) (i : Nat) : Nat × Flags :=
        let r := fCmp f md k (lane a i) (lane b i)
        (if r.1 then 2 ^ w - 1 else 0, r.2)
      let beat (op : VOp) : VWord × Flags := vecBeat op ty.1 md xs base run a b m
      (∀ e ∈ [(VOp.fma, fun i => fFma f { md with daz := false } (flush (lane a i)) (flush (lane b i)) (lane run i)), (.ceq, cmp .eq),
          (.clt, cmp .lt), (.cle, cmp .le), (.clamp, fun i =>
            let r := fMax f md (lane a i) (lane b i)
            let q := fMin f md r.1 (lane m i)
            (q.1, r.2 ||| q.2))],
        (∀ i, i < 512 / w → lane (beat e.1).1 i = (e.2 i).1) ∧ (beat e.1).2 = (List.range (512 / w)).foldl (fun g i => g ||| (e.2 i).2) 0) ∧
      ∃ g : Nat → Flags, (beat .ldexp).2 = (List.range (512 / w)).foldl (fun h i => h ||| g i) 0 ∧ ∀ i, i < 512 / w →
        let x := lane a i
        let y := lane b i
        let k : Int := if y < 2 ^ (w - 1) then y else (y : Int) - 2 ^ w
        let r := lane (beat .ldexp).1 i
        (IsFin f x → Rounded f md (numIn f md x * (2 : ℚ) ^ k) (negOf f x) (r, g i)) ∧ (IsInfOf f x → r = x ∧ g i = 0) ∧
          (IsNanOf f x → r = f.nan ∧ (IsSnanOf f x → g i = flNV) ∧ (¬ IsSnanOf f x → g i = 0))) ∧
  (∀ (md : Mode) (xs : Word) (base run a b m : VWord),
    (∀ ty ∈ [Ty.f32, .bf16, .f16, .i32, .i16, .i8, .n8],
      ∀ e ∈ [(VOp.and, a &&& b), (.or, a ||| b), (.xor, a ^^^ b), (.sel, (m &&& a) ||| (~~~m &&& b)), (.mov, a)],
        vecBeat e.1 ty md xs base run a b m = (e.2, 0)) ∧
    (∀ ty ∈ [(Ty.f32, 32), (.bf16, 16), (.f16, 16)],
      let w : Nat := ty.2
      let lane (v : VWord) (i : Nat) : Nat := v.toNat / 2 ^ (w * i) % 2 ^ w
      ∀ i, i < 512 / w → ∀ e ∈ [(VOp.abs, lane a i % 2 ^ (w - 1)), (.neg, (lane a i + 2 ^ (w - 1)) % 2 ^ w)],
        lane (vecBeat e.1 ty.1 md xs base run a b m).1 i = e.2 ∧ (vecBeat e.1 ty.1 md xs base run a b m).2 = 0) ∧
    ∀ i, i < 16 →
      let at' (v : VWord) : Word := v.extractLsb' (32 * i) 32
      let mx := if (at' a).toInt < (at' b).toInt then at' b else at' a
      at' (vecBeat .clamp .i32 md xs base run a b m).1 = (if (at' m).toInt < mx.toInt then at' m else mx) ∧
        (vecBeat .clamp .i32 md xs base run a b m).2 = 0) ∧
  (∀ (md : Mode) (xs : Word) (base run a b m : VWord), md.rm < 4 → ∀ ty ∈ [(Ty.bf16, Fmt.bf16), (.f16, .f16)],
    let f := ty.2
    let lane (w : Nat) (v : VWord) (i : Nat) : Nat := v.toNat / 2 ^ (w * i) % 2 ^ w
    let q := vecBeat .dot2 ty.1 md xs base run a b m
    ∃ g : Nat → Flags, q.2 = (List.range 16).foldl (fun h j => h ||| g j) 0 ∧ ∀ j, j < 16 →
      let x (i : Nat) : Nat := lane 16 a (2 * j + i)
      let y (i : Nat) : Nat := lane 16 b (2 * j + i)
      let p (i : Nat) : ℚ := numIn f md (x i) * numIn f md (y i)
      let sg (i : Nat) : Bool := negOf f (x i) != negOf f (y i)
      let d := lane 32 run j
      let r := lane 32 q.1 j
      ((∀ i, i < 2 → IsFin f (x i) ∧ IsFin f (y i)) → IsFin .f32 d →
        Rounded .f32 md (p 0 + p 1 + numOf .f32 d) (zeroSum md [(p 0, sg 0), (p 1, sg 1), (numOf .f32 d, negOf .f32 d)]) (r, g j)) ∧
      ((∃ i, i < 2 ∧ (IsNanOf f (x i) ∨ IsNanOf f (y i))) ∨ IsNanOf .f32 d → r = 0x7FC00000)) ∧
  (∀ (md : Mode) (xs : Word) (base run a b m : VWord),
    ∀ ty ∈ [(Ty.f32, 32), (.bf16, 16), (.f16, 16), (.i32, 32), (.i16, 16), (.i8, 8), (.n8, 8)],
      let w : Nat := ty.2
      let n := 512 / w
      let lane (v : VWord) (i : Nat) : Nat := v.toNat / 2 ^ (w * i) % 2 ^ w
      let k := xs.toNat % n
      ∀ i, i < n →
        ∀ e ∈ [(VOp.bcast, xs.toNat % 2 ^ w), (.ext, if i + k < n then lane a (i + k) else lane b (i + k - n)),
            (.ins, if i = 0 then xs.toNat % 2 ^ w else lane a (i - 1)), (.perm, if lane b i < n then lane a (lane b i) else 0)],
          lane (vecBeat e.1 ty.1 md xs base run a b m).1 i = e.2 ∧ (vecBeat e.1 ty.1 md xs base run a b m).2 = 0) ∧
  (∀ (md : Mode) (xs : Word) (base run a b m : VWord),
    let m0 : Mode := { md with daz := false }
    let float (f : Fmt) (w : Nat) (v : Nat) : Nat := if md.daz = true ∧ v / 2 ^ f.frac % 2 ^ f.expo = 0 then v / 2 ^ (w - 1) * 2 ^ (w - 1) else v
    let whole (w : Nat) (sg : Bool) (op : VOp) (x y : Nat) : Nat × Flags :=
      let lt (x y : Nat) : Bool := if sg then (BitVec.ofNat w x).slt (BitVec.ofNat w y) else decide (x < y)
      (if op = .rsum then (x + y) % 2 ^ w else if op = .rmax then (if lt y x then x else y) else if lt x y then x else y, 0)
    let real (f : Fmt) (op : VOp) : Nat → Nat → Nat × Flags := if op = .rsum then fAdd f m0 else if op = .rmax then fMax f m0 else fMin f m0
    ∀ ty ∈ [(Ty.f32, 32, 4, float .f32 32, real .f32), (.bf16, 16, 5, float .bf16 16, real .bf16), (.f16, 16, 5, float .f16 16, real .f16),
        (.i32, 32, 4, id, whole 32 true), (.i16, 16, 5, id, whole 16 true), (.i8, 8, 6, id, whole 8 true), (.n8, 8, 6, id, whole 8 false)],
      ∀ op ∈ [VOp.rsum, .rmax, .rmin], ∀ t : Nat → Nat → Nat × Flags,
        let w : Nat := ty.2.1
        let g := ty.2.2.2.2 op
        (∀ i, t 0 i = (ty.2.2.2.1 (a.toNat / 2 ^ (w * i) % 2 ^ w), 0)) →
        (∀ k i, t (k + 1) i = ((g (t k (2 * i)).1 (t k (2 * i + 1)).1).1,
          (t k (2 * i)).2 ||| (t k (2 * i + 1)).2 ||| (g (t k (2 * i)).1 (t k (2 * i + 1)).1).2)) →
        let top := t ty.2.2.1 0
        let q := g (run.toNat % 2 ^ w) top.1
        vecBeat op ty.1 md xs base run a b m = (BitVec.ofNat 512 q.1, top.2 ||| q.2)) ∧
  (∀ (md : Mode) (xs : Word) (base run a b m : VWord),
    let flt (f : Fmt) : Nat × Option Fmt × Int × Int := (f.mag + 1, some f, 0, 0)
    let int (w : Nat) (lo hi : Int) : Nat × Option Fmt × Int × Int := (w, none, lo, hi)
    let types : List (Ty × Nat × Option Fmt × Int × Int) := [(.f32, flt .f32), (.bf16, flt .bf16), (.f16, flt .f16),
      (.i32, int 32 (-(2 ^ 31)) (2 ^ 31 - 1)), (.i16, int 16 (-(2 ^ 15)) (2 ^ 15 - 1)), (.i8, int 8 (-128) 127), (.n8, int 8 0 255)]
    let kinds : List (VConv × Ty × (Nat × Option Fmt × Int × Int) × (Nat × Option Fmt × Int × Int)) :=
      (types.flatMap fun x => (types.filter fun y => decide (y.1 ≠ x.1)).map fun y => (.toTy y.1, x.1, x.2, y.2))
        ++ (types.take 3).flatMap fun x => [(.toE4m3, x.1, x.2, flt .e4m3), (.toE5m2, x.1, x.2, flt .e5m2), (.fromE4m3, x.1, flt .e4m3, x.2),
          (.fromE5m2, x.1, flt .e5m2, x.2)]
    ∀ e ∈ kinds,
      let src := e.2.2.1
      let dst := e.2.2.2
      let ws := src.1
      let wd := dst.1
      let lo := dst.2.2.1
      let hi := dst.2.2.2
      let num (n : Nat) : Int := if src.2.2.1 < 0 ∧ 2 ^ (ws - 1) ≤ n then (n : Int) - 2 ^ ws else n
      let conv (n : Nat) : Nat × Flags := match src.2.1, dst.2.1 with
        | some f, some g => fCvtTo f g md n
        | some f, none => fToInt f md lo hi wd n
        | none, some g => fOfInt g md (num n)
        | none, none => ((max lo (min hi (num n)) % 2 ^ wd).toNat, 0)
      let lane (w : Nat) (v : VWord) (i : Nat) : Nat := v.toNat / 2 ^ (w * i) % 2 ^ w
      let count := 512 / max ws wd
      let part := xs.toNat % 4 % (max ws wd / min ws wd)
      let at' := if wd ≤ ws then 0 else part * count
      let q := vecBeat (.cvt e.1) e.2.1 md xs base run a b m
      (∀ i, i < 512 / wd → lane wd q.1 i =
        if ws < wd then (conv (lane ws a (at' + i))).1
        else if part * count ≤ i ∧ i < part * count + count then (conv (lane ws a (i - part * count))).1 else lane wd base i) ∧
      q.2 = (List.range count).foldl (fun g i => g ||| (conv (lane ws a (at' + i))).2) 0) ∧
  (∀ (s : State) (n : Nat) (r : BeatRun) (op : VOp) (ty : Ty) (a b m : SEnt), (s.cell n).hold = .beats r → r.op = .vec op ty → r.wait = 0 →
    let c := s.cell n
    beatSrc c r.a = some a → beatSrc c r.b = some b → beatSrc c r.e = some m → soRoom c r.dst = true →
    let q := vecBeat op ty (vectorMode r.fcr) r.xs r.base (r.run.getD 0) a.data b.data m.data
    let mark := a.x || b.x || m.x || q.2.marks
    let l := [r.a, r.b, r.e].filterMap fun x => match x with
      | .sq i => some (VSrc.sq i)
      | .const _ => none
    let c1 := afterBeat c r.ctx l (some r.dst) q.1 mark
    (r.done + 1 < r.total → exec (.vectorBeat n) s = .next (s.setCell n (holding c1 (.beats { r with
      done := r.done + 1, run := if op.accumulates then some q.1 else r.run, flags := r.flags ||| q.2 })))) ∧
    (r.total ≤ r.done + 1 → exec (.vectorBeat n) s = .next (s.setCell n (holding (lastBeat c1 r.ctx r.p q.1 (r.flags ||| q.2)) .none))))

/-- R177, R178: VLD and VST of one beat in SRAM load or store 64 bytes; a span over two blocks of 64 bytes holds the arbiter for one
more cycle (R43). SRAM words with one wrong bit that VLD reads count as corrected (R352, log 78); over an uncorrectable word VST leaves
it so (log 65, the model's choice). R43, R177: a first beat of VLD or VST whose beats pass the check of R178, and each further beat
while the instruction holds the arbiter, does what MemBeat says: it moves its 64 bytes of SRAM or of the lines of the slice, or waits
for missing lines. R177, R178: VLD and VST check the address of every beat in the firing cycle: ALIGN for an address that is no multiple
of 4, PRIVATE_BOUNDS with the address of the first beat that leaves private space. -/
def Obligations.VectorMemory : Prop :=
  (∀ (s : State) (h : VHead) (d : VDst) (a : VSrc) (xs : Fin 16), h.nb = 0 →
    let t0 := (s.here.getX xs).toNat
    let kk := s.focus.ctx
    let spill (c : CellState) : CellState := if t0 % 64 = 0 then c else holding c (.stall 1)
    t0 % 4 = 0 → t0 + 64 ≤ 0x40000 →
    (Ready s h.cue (beatNeeds s.cur [] (some d) true) → (∀ w ∈ s.cur.badSram, w * 8 + 8 ≤ t0 ∨ t0 + 64 ≤ w * 8) →
      let v : VWord := BitVec.ofNat 512 (s.cur.sram.readN t0 64)
      ∃ t, exec (.vld h d xs) s = .next t ∧
        Fired s (s.setCur (spill (lastBeat (afterBeat (mended s.cur t0 64) kk [] (some d) v false) kk h.p v 0))) t h.cue (fun _ => 0)) ∧
    (Ready s h.cue (beatNeeds s.cur [a] none true) → s.cur.sram.wf = true →
      ∃ t m, exec (.vst h a xs) s = .next t ∧
        Fired s (s.setCur (spill (lastBeat (afterBeat { s.cur with sram := m } kk [a] none 0 false) kk h.p 0 0))) t h.cue (fun _ => 0) ∧
        m.readN t0 64 = (beatIn s [a] 0).data.toNat ∧ ∀ x, x < t0 ∨ t0 + 64 ≤ x → m.read x = s.cur.sram.read x)) ∧
  (let plain (c : CellState) : Prop := (c.cache.map (·.line)).Nodup ∧ (∀ x ∈ c.cache, x.bad = false) ∧ c.sram.wf = true
  let sound (c : CellState) (t0 : Nat) : Prop := ∀ w ∈ c.badSram, w * 8 + 8 ≤ t0 ∨ t0 + 64 ≤ w * 8
  let inside (c : CellState) (t0 : Nat) : Prop :=
    t0 % 4 = 0 ∧ (t0 + 64 ≤ 0x40000 ∨ 0x40000000 ≤ t0 ∧ t0 + 64 ≤ 0x40000000 + (c.sliceMiB * 2 ^ 20 - 2 ^ 19))
  (∀ (s : State) (h : VHead) (d : VDst) (a : VSrc) (xs : Fin 16),
    let x := s.here.getX xs
    let run (op : BeatOp) (l : List VSrc) (d : VDst) : BeatRun :=
      { op := op, slot := s.focus.slot, ctx := s.focus.ctx, total := h.nb.val + 1, done := 0, a := beatKept s l 0, b := .const 0, e := .const 0
        dst := d, run := none, base := dstBefore s d, xs := x, p := h.p, fcr := s.here.fcr, flags := 0, wait := 0 }
    plain s.cur → (∀ k, k ≤ h.nb.val → inside s.cur (x + BitVec.ofNat 32 (64 * k)).toNat) →
    (sound s.cur x.toNat → Ready s h.cue (beatNeeds s.cur [] (some d) true) →
      ∃ t c, exec (.vld h d xs) s = .next t ∧ MemBeat s.cur (run .vld [] d) [] 0 c ∧ Fired s (s.setCur c) t h.cue (fun _ => 0)) ∧
    (Ready s h.cue (beatNeeds s.cur [a] none true) →
      ∃ t c, exec (.vst h a xs) s = .next t ∧ MemBeat s.cur (run .vst [a] (.v 0)) [a] (beatIn s [a] 0).data c ∧
        Fired s (s.setCur c) t h.cue (fun _ => 0))) ∧
  ∀ (s : State) (n : Nat) (r : BeatRun) (v : SEnt),
    let c := s.cell n
    let t0 := (r.xs + BitVec.ofNat 32 (64 * r.done)).toNat
    let l := match r.a with
      | .sq i => [VSrc.sq i]
      | .const _ => []
    c.hold = .beats r → r.wait = 0 → r.b = .const 0 → r.e = .const 0 → r.run = none → r.flags = 0 → plain c → inside c t0 →
    beatSrc c r.a = some v →
    (r.op = .vld → r.a = .const 0 → soRoom c r.dst = true → sound c t0 →
      ∃ c', MemBeat c r [] 0 c' ∧ exec (.vectorBeat n) s = .next (s.setCell n c')) ∧
    (r.op = .vst → ∃ c', MemBeat c r l v.data c' ∧ exec (.vectorBeat n) s = .next (s.setCell n c'))) ∧
  (∀ (s : State) (h : VHead) (d : VDst) (a : VSrc) (xs : Fin 16),
    ∀ e ∈ [(Instr.vld h d xs, beatNeeds s.cur [] (some d) true), (.vst h a xs, beatNeeds s.cur [a] none true)],
      let t0 := (s.here.getX xs).toNat
      let addr (k : Nat) : Nat := (t0 + 64 * k) % 2 ^ 32
      let out (k : Nat) : Prop := ¬ addr k + 64 ≤ 0x40000 ∧
        ¬ (0x40000000 ≤ addr k ∧ addr k + 64 ≤ 0x40000000 + (s.cur.sliceMiB * 2 ^ 20 - 2 ^ 19))
      Ready s h.cue e.2 →
      (t0 % 4 ≠ 0 → ∃ t, exec e.1 s = .next t ∧ Faults s t { cls := 4, code := 0, opnd := BitVec.ofNat 32 t0 }) ∧
      (∀ k, t0 % 4 = 0 → k ≤ h.nb.val → out k → (∀ j, j < k → ¬ out j) →
        ∃ t, exec e.1 s = .next t ∧ Faults s t { cls := 3, code := 0, opnd := BitVec.ofNat 32 (addr k) }))

/-- R180: a special-function instruction of one beat parks its context, copies its operand into its buffer and joins the queue of its
quad; with more beats it holds the arbiter while it copies them. R181, R180: the quad's unit serves a request that has joined once no
other request of the quad is before it, 4 lanes a cycle. A `v` register is written when that is due, with the last beat's result; a
stream queue takes one beat's result a cycle, in their order, as soon as it has room, each with its mark. With the last write come the
predicate action on that beat's result, the flags of all beats and the end of the park. -/
def Obligations.SpecialFunctions : Prop :=
  (∀ (s : State) (h : VHead) (d : VDst) (a : VSrc),
    Ready s h.cue (beatNeeds s.cur [a] (some d) s.cur.sf.isNone) →
    ∀ e ∈ [(Instr.sfExp2 h d a, SfFn.exp2), (.sfLog2 h d a, .log2), (.sfRcp h d a, .rcp), (.sfRsq h d a, .rsq), (.sfSqrt h d a, .sqrt),
        (.sfTanh h d a, .tanh), (.sfSigm h d a, .sigm), (.sfSin h d a, .sin), (.sfCos h d a, .cos)],
      let c1 : CellState := { afterBeat (withHere s { s.here with status := .parkSf }) s.focus.ctx [a] none 0 false with
        sf := some { fn := e.2, ty := h.ty, ctx := s.focus.ctx, slot := s.focus.slot, buf := [beatIn s [a] 0], dst := d, p := h.p
                     fcr := s.here.fcr, joined := if h.nb = 0 then some (s.strip + 2) else none, stop := none, written := 0, due := 0
                     flags := 0 } }
      ∃ t, exec e.1 s = .next t ∧
        (h.nb = 0 → Fired s (s.setCur c1) t h.cue (fun _ => 0)) ∧
        (h.nb ≠ 0 → ∃ r, r.done = 1 ∧ r.total = h.nb.val + 1 ∧ r.a = beatKept s [a] 0 ∧
          Fired s (s.setCur (holding c1 (.beats r))) t h.cue (fun _ => 0))) ∧
  (∀ (s : State) (n : Nat) (j : SfJob), (s.cell n).sf = some j →
    let c := s.cell n
    (∀ q, j.joined = some q → j.stop = none → q ≤ s.strip → (∀ o ∈ s.cells, quadBefore s n q o = false) →
      let e := s.strip + (if j.ty = .f32 ∨ j.ty = .i32 then 16 else 32) * j.buf.length / 4 - 1
      exec (.sfServiceStart n) s = .next (s.setCell n { c with sf := some { j with stop := some e, due := e + 7 } })) ∧
    (let u := c.ctx j.ctx
      let val (b : SEnt) : VWord × Flags := sfBeat j.fn j.ty j.fcr b.data
      let ended (d : CellState) (w : Context) (v : VWord) (f : Flags) : CellState :=
        { d.setCtx j.ctx { (w.act j.p (decide (v ≠ 0))).raise f with status := .running } with sf := none }
      (j.stop = none ∨ s.strip < j.due → exec (.sfResultWrite n) s = .next s) ∧
      (∀ e, j.stop = some e → j.due ≤ s.strip → u.status = .parkSf → u.respFaults = 0 →
        (∀ r b l, j.dst = .v r → j.buf = l ++ [b] →
          let w : Context := { u with v := vset u.v r (val b).1 }
          exec (.sfResultWrite n) s =
            .next (s.setCell n (ended c w (val b).1 (j.buf.foldl (fun f y => f ||| (val y).2) (0 : Flags))))) ∧
        (∀ q, j.dst = .so q →
          (8 ≤ (c.so[q]).length → exec (.sfResultWrite n) s = .next s) ∧
          (∀ b, (c.so[q]).length < 8 → j.buf[j.written]? = some b →
            let d : CellState := { c with so := vset c.so q (c.so[q] ++ [⟨(val b).1, b.x || (val b).2.marks⟩]) }
            let f := j.flags ||| (val b).2
            exec (.sfResultWrite n) s = .next (s.setCell n
              (if j.written + 1 < j.buf.length then
                { d with sf := some { j with written := j.written + 1, due := s.strip + 1, flags := f } }
              else ended d u (val b).1 f)))))))

/-- R122, R123: the special cases of each function, and its bound. An input with no listed exact result gives a value within the
function's bound of units in the last place of the value that the model's 400-bit series gives for it (log 8), whatever the unit picks.
For SF.RCP and SF.RSQ the bound is against the exact result, SF.SQRT is correctly rounded. The series double from x to x + 1 for
SF.EXP2, grow by 1 from x to 2x for SF.LOG2, and are odd for SF.TANH and SF.SIN, even for SF.COS. -/
def Obligations.SpecialFunctionWithinBound : Prop :=
  ∀ (sel rm code : Nat), rm < 4 → code < 2 ^ 32 →
    let x := numOf .f32 code
    let neg := negOf .f32 code
    let give (fn : SfFn) : Nat × Flags := sfPick sel (sfRes fn rm code)
    let ulp (v : ℚ) : ℚ := (2 : ℚ) ^ (max (Int.log 2 |v|) (-126) - 23)
    let inf : Nat := 0x7F800000
    let bad : Nat × Flags := (0x7FC00000, flNV)
    let top (b : Bool) (n : Nat) : Nat := (if b then 2 ^ 31 else 0) + n
    let one : Nat := 0x3F800000
    (IsNanOf .f32 code → ∀ fn, (give fn).1 = 0x7FC00000 ∧ ((give fn).2 = flNV ↔ IsSnanOf .f32 code) ∧ ((give fn).2 = 0 ↔ ¬ IsSnanOf .f32 code)) ∧
    (IsInfOf .f32 code → give .exp2 = (if neg then 0 else inf, 0) ∧ give .log2 = (if neg then bad else (inf, 0)) ∧
      give .rcp = (top neg 0, 0) ∧ give .rsq = (if neg then bad else (0, 0)) ∧ give .sqrt = (if neg then bad else (inf, 0)) ∧
      give .tanh = (top neg one, 0) ∧ give .sigm = (if neg then 0 else one, 0) ∧ give .sin = bad ∧ give .cos = bad) ∧
    (IsFin .f32 code →
      (x = 0 → give .exp2 = (one, 0) ∧ give .log2 = (top true inf, flDZ) ∧ give .rcp = (top neg inf, flDZ) ∧
        give .rsq = (top neg inf, flDZ) ∧ give .sqrt = (top neg 0, 0) ∧ give .tanh = (top neg 0, 0) ∧ give .sigm = (0x3F000000, 0) ∧
        give .sin = (top neg 0, 0) ∧ give .cos = (one, 0)) ∧
      (x < 0 → give .log2 = bad ∧ give .rsq = bad ∧ give .sqrt = bad) ∧
      (128 ≤ x → give .exp2 = (inf, flOF ||| flNX)) ∧ (x < -149 → give .exp2 = (0, flUF ||| flNX)) ∧
      ((2 : ℚ) ^ 20 ≤ |x| → give .sin = bad ∧ give .cos = bad) ∧
      (∀ n : ℤ, x ≠ 0 →
        (x = n → -149 ≤ n → n < 128 → numOf .f32 (give .exp2).1 = (2 : ℚ) ^ n ∧ (give .exp2).2 = 0) ∧
        (x = (2 : ℚ) ^ n → numOf .f32 (give .log2).1 = n ∧ (give .log2).2 = 0) ∧
        (|x| = (2 : ℚ) ^ n → -127 ≤ n → n ≤ 126 → numOf .f32 (give .rcp).1 = 1 / x ∧ (give .rcp).2 = 0) ∧
        (x = (2 : ℚ) ^ (2 * n) → numOf .f32 (give .rsq).1 = (2 : ℚ) ^ (-n) ∧ (give .rsq).2 = 0)) ∧
      (∀ fn sg p b, sfRes fn rm code = .near sg p b →
        let v : ℚ := p.m * (2 : ℚ) ^ p.e
        let r := give fn
        let m := r.1 % 2 ^ 31
        fn ≠ .sqrt ∧ b = (if fn ∈ [SfFn.exp2, .log2, .rcp, .rsq] then 1 else 2) ∧ 0 < v ∧ r.1 = top sg m ∧ IsFin .f32 r.1 ∧
          |numOf .f32 m - v| ≤ b * ulp v ∧ (r.2 = if numOf .f32 m = v then 0 else flIf (decide (v < (2 : ℚ) ^ (-126 : ℤ))) flUF ||| flNX)) ∧
      ((∀ n : ℤ, x ≠ n) → -149 < x → x < 128 → ∃ p, sfRes .exp2 rm code = .near false p 1) ∧
      (0 < x → (∀ n : ℤ, x ≠ (2 : ℚ) ^ n) → ∃ sg p, sfRes .log2 rm code = .near sg p 1 ∧ sg = decide (x < 1)) ∧
      (x ≠ 0 → (∃ p, sfRes .tanh rm code = .near neg p 2) ∧ (∃ p, sfRes .sigm rm code = .near false p 2) ∧
        (|x| < (2 : ℚ) ^ 20 → ∃ sg sg' p q, sfRes .sin rm code = .near sg p 2 ∧ sfRes .cos rm code = .near sg' q 2)) ∧
      (x ≠ 0 →
        (1 / |x| ≤ numOf .f32 0x7F7FFFFF → |numOf .f32 (give .rcp).1 - 1 / x| ≤ ulp (1 / x)) ∧
        (numOf .f32 0x7F7FFFFF < 1 / |x| → give .rcp = (top neg inf, flOF ||| flNX))) ∧
      (0 < x →
        let r := numOf .f32 (give .rsq).1
        let u := (2 : ℚ) ^ (-(Int.log 2 x / 2) - 24)
        let w := numOf .f32 (give .sqrt).1
        let h := (2 : ℚ) ^ (Int.log 2 w - 24)
        (u ≤ r ∧ (r - u) ^ 2 * x ≤ 1 ∧ 1 ≤ (r + u) ^ 2 * x) ∧
        (0 < w ∧ (rm = 0 → (w - h) ^ 2 ≤ x ∧ x ≤ (w + h) ^ 2) ∧ (rm = 1 ∨ rm = 3 → w ^ 2 ≤ x ∧ x < (w + 2 * h) ^ 2) ∧
          (rm = 2 → (w - 2 * h) ^ 2 < x ∧ x ≤ w ^ 2) ∧ ((give .sqrt).2 = if w ^ 2 = x then 0 else flNX))) ∧
      (∀ c, IsFin .f32 c →
        (numOf .f32 c = x + 1 → ∀ p, sfRes .exp2 rm code = .near false p 1 → -148 ≤ x → numOf .f32 c < 128 →
          sfRes .exp2 rm c = .near false ⟨p.m, p.e + 1⟩ 1) ∧
        (numOf .f32 c = 2 * x → ∀ sg p, sfRes .log2 rm code = .near sg p 1 →
          ∃ sg' q, sfRes .log2 rm c = .near sg' q 1 ∧ q.e = p.e ∧
            (if sg' then -(q.m : ℚ) else q.m) * (2 : ℚ) ^ q.e = (if sg then -(p.m : ℚ) else p.m) * (2 : ℚ) ^ p.e + 1) ∧
        (numOf .f32 c = -x → ∀ sg p,
          (sfRes .tanh rm code = .near sg p 2 → sfRes .tanh rm c = .near (!sg) p 2) ∧
          (sfRes .sin rm code = .near sg p 2 → sfRes .sin rm c = .near (!sg) p 2) ∧
          (sfRes .cos rm code = .near sg p 2 → sfRes .cos rm c = .near sg p 2))))

/-! ## Matrix commands -/

/-- R183, R185, R186: a ready matrix instruction whose descriptors pass its checks puts its command with the captured FCR, context,
counts and vector behind the command queue; the queue of a stopped unit is another matter (R191). -/
def Obligations.MatrixCommandsAccepted : Prop :=
  ∀ (s : State) (c : Cue) (acc : Fin 4) (ga gb code : Fin 8) (dt : MxTy) (ac pa pb tr : Bool) (rows cols xr : Fin 16) (p : PAct),
    Ready s c ⟨[], none, s.cur.mxRoom, []⟩ → s.cur.mxStop = false →
    let ra := s.cur.rings[ga]
    let rb := s.cur.rings[gb]
    let cnt : Nat := (s.here.getX xr).toNat % 2 ^ 16
    let cmd (k : MxKind) : MxCmd :=
      { kind := k, acc := acc, ga := 0, gb := 0, dt := 0, accum := false, rows := 1, cols := 1, popa := false, popb := false
        trb := false, counts := 0, vec := 0, fcr := s.here.fcr, ctx := s.focus.ctx, mark := false, early := false }
    ∀ e ∈ [(Instr.mxMma c acc ga gb dt ac rows cols pa pb tr p, decide (7 ≤ ra.tsz ∧ 7 ≤ rb.tsz), { cmd .mma with
            ga := ga, gb := gb, dt := mxCode dt, accum := ac, rows := rows.val + 1, cols := cols.val + 1, popa := pa, popb := pb, trb := tr }),
        (.mxGmma c acc ga gb dt ac cols pa pb tr xr p, decide (7 ≤ ra.tsz ∧ 7 ≤ rb.tsz ∧ 3 ≤ rb.depth ∧
            cnt % 16 + cnt / 16 % 16 + cnt / 256 % 16 + cnt / 4096 ≤ 16), { cmd .gmma with
            ga := ga, gb := gb, dt := mxCode dt, accum := ac, cols := cols.val + 1, popa := pa, popb := pb, trb := tr, counts := cnt }),
        (.mxZero c acc p, true, cmd .zero), (.mxLda c acc ga pa p, decide (15 ≤ ra.tsz), { cmd .lda with ga := ga, popa := pa }),
        (.mxRda c acc ga code ac p, decide (256 * rdaSize code.val ≤ (ra.tsz + 1) * 64 ∧ ra.prod = 3 ∧ ra.pidx = acc.val),
          { cmd .rda with ga := ga, dt := code.val, accum := ac }),
        (.mxScale c acc tr gb p, true, { cmd .scale with trb := tr, vec := s.here.v[gb] })],
      e.2.1 = true →
      ∃ t, exec e.1 s = .next t ∧
        Acts s t c (fun _ => 0) p { s.cur with mxq := s.cur.mxq ++ [e.2.2] }

/-- R186, R342: the shape faults of the product instructions, of MX.LDA on a tile below 1 KiB, of MX.RDA on one below its read-out size,
and OPERAND 0x01 of MX.RDA on a ring that is not its accumulator's. R199, R200: MX.ISSUE takes the head word of its queue as a token,
and with one of KIND 1 the word behind it, which has the counts; a token that describes a command, passing the checks, becomes that
command, with the marks of its words, which leave the queue. One whose unused bits are not zero, or of KIND 5 to 7, faults with OPERAND
0x02, and one whose command fails its checks as the instruction would, with the token as operand. -/
def Obligations.MatrixTokensAndFaults : Prop :=
  (∀ (s : State) (c : Cue) (acc : Fin 4) (ga gb code : Fin 8) (dt : MxTy) (ac pa pb tr : Bool) (rows cols xr : Fin 16) (p : PAct),
    Ready s c ⟨[], none, s.cur.mxRoom, []⟩ →
    let ra := s.cur.rings[ga]
    let rb := s.cur.rings[gb]
    let x := s.here.getX xr
    let cnt : Nat := x.toNat % 2 ^ 16
    let sum := cnt % 16 + cnt / 16 % 16 + cnt / 256 % 16 + cnt / 4096
    (ra.tsz < 7 ∨ rb.tsz < 7 →
      (∃ t, exec (.mxMma c acc ga gb dt ac rows cols pa pb tr p) s = .next t ∧ Faults s t { cls := 9, code := 1, opnd := 0 }) ∧
      (∃ t, exec (.mxGmma c acc ga gb dt ac cols pa pb tr xr p) s = .next t ∧ Faults s t { cls := 9, code := 1, opnd := x })) ∧
    (ra.tsz < 15 → ∃ t, exec (.mxLda c acc ga pa p) s = .next t ∧ Faults s t { cls := 9, code := 1, opnd := 0 }) ∧
    (∀ e ∈ [(0, 4), (1, 2), (2, 2), (3, 1), (4, 1), (5, 4), (6, 1), (7, 2)], code.val = e.1 →
      ((ra.tsz + 1) * 64 < 256 * e.2 → ∃ t, exec (.mxRda c acc ga code ac p) s = .next t ∧ Faults s t { cls := 9, code := 1, opnd := 0 }) ∧
      (256 * e.2 ≤ (ra.tsz + 1) * 64 → ra.prod ≠ 3 ∨ ra.pidx ≠ acc.val →
        ∃ t, exec (.mxRda c acc ga code ac p) s = .next t ∧ Faults s t { cls := 2, code := 1, opnd := 0 })) ∧
    (7 ≤ ra.tsz → 7 ≤ rb.tsz → 16 < sum →
      ∃ t, exec (.mxGmma c acc ga gb dt ac cols pa pb tr xr p) s = .next t ∧ Faults s t { cls := 9, code := 2, opnd := x }) ∧
    (7 ≤ ra.tsz → 7 ≤ rb.tsz → sum ≤ 16 → rb.depth < 3 →
      ∃ t, exec (.mxGmma c acc ga gb dt ac cols pa pb tr xr p) s = .next t ∧ Faults s t { cls := 9, code := 3, opnd := x })) ∧
  (∀ (s : State) (c : Cue) (q : Fin 6) (w : QWord) (r : List QWord) (acc : Fin 4) (ga gb code : Fin 8) (dt : MxTy) (ac pa pb tr : Bool)
    (rows cols : Fin 16) (p : PAct),
    let i : Fin 8 := Fin.ofNat 8 q.val
    let base : MxCmd :=
      { kind := .zero, acc := acc, ga := 0, gb := 0, dt := 0, accum := false, rows := 1, cols := 1, popa := false, popb := false
        trb := false, counts := 0, vec := 0, fcr := s.here.fcr, ctx := s.focus.ctx, mark := w.x, early := false }
    let product := acc.val * 2 ^ 3 + ga.val * 2 ^ 5 + gb.val * 2 ^ 8 + mxCode dt * 2 ^ 11 + ac.toNat * 2 ^ 15 + pa.toNat * 2 ^ 16
      + pb.toNat * 2 ^ 17 + tr.toNat * 2 ^ 18 + rows.val * 2 ^ 19 + cols.val * 2 ^ 23
    let faults (cls code : Nat) : Prop := ∃ t, exec (.mxIssue c q p) s = .next t ∧ Faults s t { cls := cls, code := code, opnd := w.data }
    let load := 3 + acc.val * 2 ^ 3 + ga.val * 2 ^ 5 + pa.toNat * 2 ^ 16
    let readOut := 4 + acc.val * 2 ^ 3 + ga.val * 2 ^ 5 + code.val * 2 ^ 11 + ac.toNat * 2 ^ 15
    let ra := s.cur.rings[ga]
    let rb := s.cur.rings[gb]
    s.cur.iq[i] = w :: r → s.cur.mxStop = false →
    (Ready s c ⟨[.deq i], none, s.cur.mxRoom, []⟩ → w.data.toNat % 8 ≠ 1 →
    (w.data = BitVec.ofNat 32 product → ga ≠ gb → 7 ≤ (s.cur.rings[ga]).tsz → 7 ≤ (s.cur.rings[gb]).tsz →
      ∃ t, exec (.mxIssue c q p) s = .next t ∧
        Acts s t c (deqs [.deq i]) p { s.cur with mxq := s.cur.mxq ++ [{ base with
          kind := .mma, ga := ga, gb := gb, dt := mxCode dt, accum := ac, rows := rows.val + 1, cols := cols.val + 1, popa := pa
          popb := pb, trb := tr }] }) ∧
    (w.data = BitVec.ofNat 32 (2 + acc.val * 2 ^ 3) →
      ∃ t, exec (.mxIssue c q p) s = .next t ∧ Acts s t c (deqs [.deq i]) p { s.cur with mxq := s.cur.mxq ++ [base] }) ∧
    (w.data = BitVec.ofNat 32 load →
      (15 ≤ ra.tsz → ∃ t, exec (.mxIssue c q p) s = .next t ∧
        Acts s t c (deqs [.deq i]) p { s.cur with mxq := s.cur.mxq ++ [{ base with kind := .lda, ga := ga, popa := pa }] }) ∧
      (ra.tsz < 15 → faults 9 1)) ∧
    (w.data = BitVec.ofNat 32 readOut →
      let size := 256 * rdaSize code.val
      (size ≤ (ra.tsz + 1) * 64 → ra.prod = 3 → ra.pidx = acc.val → ∃ t, exec (.mxIssue c q p) s = .next t ∧
        Acts s t c (deqs [.deq i]) p { s.cur with mxq := s.cur.mxq ++ [{ base with kind := .rda, ga := ga, dt := code.val, accum := ac }] }) ∧
      ((ra.tsz + 1) * 64 < size → faults 9 1) ∧ (size ≤ (ra.tsz + 1) * 64 → ra.prod ≠ 3 ∨ ra.pidx ≠ acc.val → faults 2 1)) ∧
    (5 ≤ w.data.toNat % 8 ∨ 2 ^ 27 ≤ w.data.toNat ∨ w.data.toNat % 8 = 2 ∧ 2 ^ 5 ≤ w.data.toNat → faults 2 2) ∧
    (w.data = BitVec.ofNat 32 product → (ga = gb → faults 2 2) ∧ (ga ≠ gb → ra.tsz < 7 ∨ rb.tsz < 7 → faults 9 1))) ∧
    ∀ v l, r = v :: l → Ready s c ⟨[.deq i], none, s.cur.mxRoom, [i]⟩ → rows = 0 → w.data = BitVec.ofNat 32 (product + 1) →
      let cnt (g : Nat) : Nat := v.data.toNat / 2 ^ (4 * g) % 16
      let sum := cnt 0 + cnt 1 + cnt 2 + cnt 3
      (ga ≠ gb → v.data.toNat < 2 ^ 16 → 7 ≤ ra.tsz → 7 ≤ rb.tsz →
        (sum ≤ 16 → 3 ≤ rb.depth → ∃ t, exec (.mxIssue c q p) s = .next t ∧
          Acts s t c (fun x => if x = i then 2 else 0) p { s.cur with mxq := s.cur.mxq ++ [{ base with
            kind := .gmma, ga := ga, gb := gb, dt := mxCode dt, accum := ac, cols := cols.val + 1, popa := pa, popb := pb, trb := tr
            counts := v.data.toNat, mark := w.x || v.x }] }) ∧
        (16 < sum → faults 9 2) ∧ (sum ≤ 16 → rb.depth < 3 → faults 9 3)) ∧
      (2 ^ 16 ≤ v.data.toNat → faults 2 2))

/-- R189, R191, R310: the head command starts once none executes and its tiles are present. A product in an open window with budget runs
at full width and spends its cycles; one without a window, with one still pending, or with too little budget left for its cycles runs at
half width and counts as undeclared. In a stage that stops, a head command that finds a tile missing stops the unit. R188 to R198: a due
command whose operand words check out has its effect, words of its tiles with one wrong bit count as corrected (R352, log 78), and its
flags reach the context that issued it. A clear zeroes its accumulator and its mark; a load fills it from the head tile with the tile's
mark. That tiles and accumulators are read in the step of completion is the model's reading (log 44, DEDUCED). R192 to R195, R197: a
completed product pops its tile of GA and its tile of GB, a grouped one all four of GB, where it is told to, and a load its tile of GA;
a tile of a read-out ring leaves its accumulator's count, which the push of MX.RDA raises. No other command pops. R119, R188: one
element of an i8 product is the wrapped sum of the 32 products of its row of A and column of B, on top of the old element where the
command accumulates. R119, R192, R193: a completed product updates the rows and columns that its command covers, each group of rows of a
grouped one with its own tile of GB: of a float type with Round to f32, to nearest even and without a flush, of the exact sum of the
element's products and of its old value where the command accumulates; the other elements stay. The accumulator's mark follows. R196,
R198: MX.RDA writes its 256 elements, converted by its code in the captured mode without a flush, into the tail tile of its ring and
pushes it with its mark; without ACCUM it clears the accumulator. MX.SCALE multiplies each element by its row's or column's lane. -/
def Obligations.MatrixCommandsRun : Prop :=
  (∀ (s : State) (n : Nat) (m : MxCmd) (r : List MxCmd),
    let c := s.cell n
    let t0 := c.ctx m.ctx
    let started (d : CellState) (l : Nat) : CellState := { d with mxq := r, mxRun := some ⟨m, c.cyc, c.cyc + l⟩ }
    let len := match m.kind with
      | .mma => 16
      | .gmma => 16 * max 1 (mxGroups m.counts)
      | .zero => 1
      | .lda => 16
      | .rda => 4 * rdaSize m.dt
      | .scale => 4
    (c.mxPark = true → exec (.mxCommandStart n) s = .next s) ∧
    (c.mxq = m :: r → c.mxRun = none → c.mxStop = false → c.mxPark = false → mxPresent c m = false →
      exec (.mxCommandStart n) s = .next (if (s.stage c.stage).stopping = true then s.setCell n { c with mxPark := true } else s)) ∧
    (c.mxq = m :: r → c.mxRun = none → c.mxStop = false → c.mxPark = false → mxPresent c m = true →
    ((m.kind ≠ .mma ∧ m.kind ≠ .gmma ∨ m.early = true) → exec (.mxCommandStart n) s = .next (s.setCell n (started c len))) ∧
    (∀ ph, (m.kind = .mma ∨ m.kind = .gmma) → m.early = false → t0.phase = some ph → ph.grant ≤ s.strip → s.strip < ph.stop →
      len ≤ ph.budget →
      exec (.mxCommandStart n) s = .next (s.setCell n (started (c.setCtx m.ctx { t0 with
        phase := some { ph with budget := ph.budget - len } }) len))) ∧
    ((m.kind = .mma ∨ m.kind = .gmma) → m.early = false →
      (∀ ph, t0.phase = some ph → s.strip < ph.grant ∨ ph.stop ≤ s.strip ∨ ph.budget < len) →
      ∃ t, exec (.mxCommandStart n) s = .next t ∧
        t.cell n = started (c.setCtx m.ctx { t0 with undeclared := min (t0.undeclared + 1) 0xFFFFFFFF }) (2 * len) ∧
        (t.stage c.stage).stat.ubc = (s.stage c.stage).stat.ubc + 1))) ∧
  (∀ (s : State) (n : Nat) (run : MxRun),
    let c := s.cell n
    let m := run.cmd
    c.mxRun = some run → run.due ≤ c.cyc → c.badSram = [] →
    let fin (d : CellState) : CellState := { d with mxRun := none, lastAct := s.tick }
    let d := (mxReads c m).foldl (fun d r => mended d r.1 r.2.1) (mxEffect c m).1
    (exec (.mxCommandComplete n) s = .next (s.setCell n (fin (d.setCtx m.ctx ((d.ctx m.ctx).raise (mxEffect c m).2))))) ∧
    (m.kind = .zero → ∃ t, exec (.mxCommandComplete n) s = .next t ∧
      (∀ i : Fin 256, ((t.cell n).accs[m.acc])[i] = 0) ∧ (t.cell n).accMark[m.acc] = false ∧
      ∀ a, a ≠ m.acc → (t.cell n).accs[a] = c.accs[a]) ∧
    (m.kind = .lda → m.popa = false → ∃ t, exec (.mxCommandComplete n) s = .next t ∧
      (∀ i : Fin 256, ((t.cell n).accs[m.acc])[i] =
        BitVec.ofNat 32 (c.sram.readN ((c.rings[m.ga]).tile (c.rings[m.ga]).head + 4 * i.val) 4)) ∧
      (t.cell n).accMark[m.acc] = ((c.rings[m.ga]).mark || m.mark))) ∧
  (∀ (s : State) (n : Nat) (run : MxRun),
    let c := s.cell n
    let m := run.cmd
    let product := m.kind = .mma ∨ m.kind = .gmma
    c.mxRun = some run → run.due ≤ c.cyc → c.badSram = [] → (product → m.ga ≠ m.gb) →
    let ka := if (product ∨ m.kind = .lda) ∧ m.popa = true then 1 else 0
    let kb := if product ∧ m.popb = true then (if m.kind = .gmma then 4 else 1) else 0
    let count (g : Fin 8) : Nat := (if g = m.ga then ka else 0) + if g = m.gb then kb else 0
    ∃ t, exec (.mxCommandComplete n) s = .next t ∧ (t.cell n).mxRun = none ∧
      (∀ g : Fin 8, m.kind ≠ .rda ∨ g ≠ m.ga →
        let r := c.rings[g]
        (t.cell n).rings[g] = if count g = 0 then r
          else { r with head := (r.head + count g) % (r.depth + 1), count := r.count - count g, marks := r.marks.drop (count g), drain := 0 }) ∧
      (∀ g : Fin 8, (t.cell n).ringAt[g] = c.ringAt[g] - count g) ∧
      (m.kind = .rda → ((t.cell n).rings[m.ga]).count = (c.rings[m.ga]).count + 1) ∧
      ∀ a : Fin 4, (t.cell n).readCnt[a] =
        if m.kind = .rda then c.readCnt[a] + (if a = m.acc then 1 else 0)
        else c.readCnt[a] - (((List.finRange 8).filter fun g =>
          decide ((c.rings[g]).prod = 3 ∧ (c.rings[g]).pidx % 4 = a.val)).map count).sum) ∧
  (∀ (mem : Mem) (ba bb : Nat) (trb accum : Bool) (i j : Nat) (old : Word),
    let a (k : Nat) : Int := (mem.read (ba + i * 32 + k)).toInt
    let b (k : Nat) : Int := (mem.read (bb + (if trb then j * 32 + k else k * 16 + j))).toInt
    let r := mxDot mem ba bb 5 trb accum i j old
    BitVec.ofNat 32 r.1 = (if accum then old else 0) + BitVec.ofInt 32 (((List.range 32).map fun k => a k * b k).sum) ∧ r.2 = 0) ∧
  (∀ (s : State) (n : Nat) (run : MxRun),
    let c := s.cell n
    let m := run.cmd
    let ra := c.rings[m.ga]
    let rb := c.rings[m.gb]
    let grouped := decide (m.kind = .gmma)
    let cnt (g : Nat) : Nat := m.counts / 2 ^ (4 * g) % 16
    let before (g : Nat) : Nat := ((List.range g).map cnt).sum
    let covers (g i : Nat) : Prop := if grouped then g < 4 ∧ before g ≤ i ∧ i < before (g + 1) else g = 0 ∧ i < m.rows
    let e := if m.dt < 2 then 2 else 1
    let K := if m.dt < 2 then 16 else 32
    let a (i k : Nat) : Nat := c.sram.readN (ra.tile ra.head + i * 32 + k * e) e
    let b (g k j : Nat) : Nat := c.sram.readN (rb.tile (rb.head + g) + if m.trb then j * 32 + k * e else (k * 16 + j) * e) e
    let rne : Mode := ⟨0, false, false, false⟩
    c.mxRun = some run → run.due ≤ c.cyc → c.badSram = [] → m.kind = .mma ∨ grouped = true → m.dt ≤ 5 →
    ∃ (t : State) (fl : Fin 256 → Flags), exec (.mxCommandComplete n) s = .next t ∧
      ((t.cell n).ctx m.ctx).fcr = (c.ctx m.ctx).fcr ||| (((List.finRange 256).foldl (fun f i => f ||| fl i) 0).setWidth 32 <<< 16) ∧
      (t.cell n).accMark[m.acc] =
        ((c.accMark[m.acc] && !(!m.accum && decide (m.cols = 16) && decide ((if grouped then before 4 else m.rows) = 16)))
          || ra.mark || (rb.marks.take (if grouped then 4 else 1)).any id || ((List.finRange 256).foldl (fun f i => f ||| fl i) 0).marks
          || m.mark) ∧
      (∀ x, x ≠ m.acc → (t.cell n).accs[x] = c.accs[x]) ∧
      ∀ q : Fin 256,
        let i := q.val / 16
        let j := q.val % 16
        let old := (c.accs[m.acc])[q]
        let new := ((t.cell n).accs[m.acc])[q]
        (m.cols ≤ j ∨ (∀ g, ¬ covers g i) → new = old ∧ fl q = 0) ∧
        ∀ g, covers g i → j < m.cols →
          (m.dt = 5 → fl q = 0 ∧ new = (if m.accum then old else 0) +
            BitVec.ofInt 32 (((List.range 32).map fun k => (BitVec.ofNat 8 (a i k)).toInt * (BitVec.ofNat 8 (b g k j)).toInt).sum)) ∧
          ∀ f ∈ [(0, Fmt.bf16, Fmt.bf16), (1, .f16, .f16), (2, .e4m3, .e4m3), (3, .e5m2, .e5m2), (4, .e4m3, .e5m2)], m.dt = f.1 →
            let acc := if m.accum then old.toNat else 0
            let p (k : Nat) : ℚ := numOf f.2.1 (a i k) * numOf f.2.2 (b g k j)
            let sg (k : Nat) : Bool := negOf f.2.1 (a i k) != negOf f.2.2 (b g k j)
            ((∀ k, k < K → IsFin f.2.1 (a i k) ∧ IsFin f.2.2 (b g k j)) → IsFin .f32 acc →
              Rounded .f32 rne (numOf .f32 acc + ((List.range K).map p).sum)
                (zeroSum rne ((numOf .f32 acc, negOf .f32 acc) :: (List.range K).map fun k => (p k, sg k))) (new.toNat, fl q)) ∧
            ((∃ k, k < K ∧ (IsNanOf f.2.1 (a i k) ∨ IsNanOf f.2.2 (b g k j))) ∨ IsNanOf .f32 acc → new = 0x7FC00000)) ∧
  (∀ (s : State) (n : Nat) (run : MxRun),
    let c := s.cell n
    let m := run.cmd
    let acc := c.accs[m.acc]
    let all (fl : Fin 256 → Flags) : Flags := (List.finRange 256).foldl (fun f i => f ||| fl i) 0
    c.mxRun = some run → run.due ≤ c.cyc → c.badSram = [] →
    (m.kind = .rda → c.sram.wf = true →
      let r := c.rings[m.ga]
      let md : Mode := ⟨m.fcr.toNat % 4, false, false, m.fcr.getLsbD 10⟩
      let clamp (w : Nat) (v : Word) : Nat × Flags := ((max (-(2 ^ (w - 1))) (min (2 ^ (w - 1) - 1) v.toInt) % 2 ^ w).toNat, 0)
      ∀ k ∈ [(0, (4 : Nat), fun v : Word => (v.toNat, (0 : Flags))), (1, 2, fun v => fCvtTo .f32 .bf16 md v.toNat),
          (2, 2, fun v => fCvtTo .f32 .f16 md v.toNat), (3, 1, fun v => fCvtTo .f32 .e4m3 md v.toNat),
          (4, 1, fun v => fCvtTo .f32 .e5m2 md v.toNat), (5, 4, fun v => fOfInt .f32 md v.toInt), (6, 1, clamp 8), (7, 2, clamp 16)],
        m.dt = k.1 →
        let fl (i : Fin 256) : Flags := (k.2.2 acc[i]).2
        let t0 := r.tile r.tail
        ∃ t, exec (.mxCommandComplete n) s = .next t ∧
          (∀ i : Fin 256, (t.cell n).sram.readN (t0 + i.val * k.2.1) k.2.1 = (k.2.2 acc[i]).1) ∧
          (∀ x, x < t0 ∨ t0 + 256 * k.2.1 ≤ x → (t.cell n).sram.read x = c.sram.read x) ∧
          (t.cell n).rings[m.ga] = r.push (c.accMark[m.acc] || (all fl).marks || m.mark) ∧
          ((t.cell n).ctx m.ctx).fcr = (c.ctx m.ctx).fcr ||| ((all fl).setWidth 32 <<< 16) ∧
          (∀ i : Fin 256, ((t.cell n).accs[m.acc])[i] = if m.accum then acc[i] else 0) ∧
          (t.cell n).accMark[m.acc] = (m.accum && c.accMark[m.acc])) ∧
    (m.kind = .scale →
      let out (i : Fin 256) : Nat × Flags := fMul .f32 ⟨0, false, false, false⟩ acc[i].toNat
        (m.vec.toNat / 2 ^ (32 * if m.trb then i.val % 16 else i.val / 16) % 2 ^ 32)
      ∃ t, exec (.mxCommandComplete n) s = .next t ∧ (∀ i : Fin 256, ((t.cell n).accs[m.acc])[i] = BitVec.ofNat 32 (out i).1) ∧
        (t.cell n).accMark[m.acc] = (c.accMark[m.acc] || (all fun i => (out i).2).marks) ∧
        ((t.cell n).ctx m.ctx).fcr = (c.ctx m.ctx).fcr ||| ((all fun i => (out i).2).setWidth 32 <<< 16)))

/-! ## Scans -/

/-- R210, R213: SC.LOCAL and SC.APPLY of one beat. SC.LOCAL writes the operator of its running value and the entry, the entry alone
where it starts afresh; SC.APPLY writes the operator of the prefix and the entry, and a re-scan leaves the value in VA. R164, R210,
R213: SC.LOCAL and SC.APPLY of more beats keep the arbiter with their running value after the first beat, and each further beat folds
its entry in; the last one acts as that of one beat does. That the running value is not flushed again (log 13, DEDUCED) and that an
entry of `so` is marked by its own beat only (log 56, DEDUCED) is the model's choice. -/
def Obligations.ScanBeatsFire : Prop :=
  (∀ (s : State) (c : Cue) (op : ScanOp) (flag : Bool) (a : VSrc) (va : Fin 8) (d : VDst) (nb : Fin 64) (p : PAct), nb = 0 →
    let md := scanMode s.here.fcr
    let k := s.focus.ctx
    (Ready s c (beatNeeds s.cur [a] (some d) true) →
      let v := (beatIn s [a] 0).data
      let q := if flag then scanOp op md (scanFlush op md (dstBefore s d)) (scanFlush op md v) else (scanFlush op md v, 0)
      ∃ t, exec (.scLocal c op flag a d nb p) s = .next t ∧
        Fired s (s.setCur (lastBeat (afterBeat s.cur k [a] (some d) q.1 ((beatIn s [a] 0).x || q.2.marks)) k p q.1 q.2)) t c (fun _ => 0)) ∧
    (let src : VSrc := match d with
        | .v r => .v r
        | .so i => .sq i
      Ready s c (beatNeeds s.cur [src] (some d) true) →
      let v := (beatIn s [src] 0).data
      let q := scanOp op md (scanFlush op md s.here.v[va]) (scanFlush op md v)
      let c1 := afterBeat s.cur k [src] (some d) q.1 ((beatIn s [src] 0).x || q.2.marks)
      let c2 := if flag then c1.setCtx k { c1.ctx k with v := vset (c1.ctx k).v va q.1 } else c1
      ∃ t, exec (.scApply c op flag va d nb p) s = .next t ∧ Fired s (s.setCur (lastBeat c2 k p q.1 q.2)) t c (fun _ => 0))) ∧
  ((∀ (s : State) (c : Cue) (op : ScanOp) (flag : Bool) (a : VSrc) (va : Fin 8) (d : VDst) (nb : Fin 64) (p : PAct), nb ≠ 0 →
    let md := scanMode s.here.fcr
    let hold (o : BeatOp) (src : VSrc) (run : VWord) (q : VWord × Flags) : CellState :=
      holding (afterBeat s.cur s.focus.ctx [src] (some d) q.1 ((beatIn s [src] 0).x || q.2.marks)) (.beats
        { op := o, slot := s.focus.slot, ctx := s.focus.ctx, total := nb.val + 1, done := 1, a := beatKept s [src] 0, b := .const 0, e := .const 0
          dst := d, run := some run, base := dstBefore s d, xs := 0, p := p, fcr := s.here.fcr, flags := q.2, wait := 0 })
    (Ready s c (beatNeeds s.cur [a] (some d) true) →
      let v := (beatIn s [a] 0).data
      let q := if flag then scanOp op md (scanFlush op md (dstBefore s d)) (scanFlush op md v) else (scanFlush op md v, 0)
      ∃ t, exec (.scLocal c op flag a d nb p) s = .next t ∧ Fired s (s.setCur (hold (.scanLocal op) a q.1 q)) t c (fun _ => 0)) ∧
    (let src : VSrc := match d with
        | .v r => .v r
        | .so i => .sq i
      Ready s c (beatNeeds s.cur [src] (some d) true) →
      let pre := scanFlush op md s.here.v[va]
      let q := scanOp op md pre (scanFlush op md (beatIn s [src] 0).data)
      ∃ t, exec (.scApply c op flag va d nb p) s = .next t ∧
        Fired s (s.setCur (hold (.scanApply op flag va) src (if flag then q.1 else pre) q)) t c (fun _ => 0))) ∧
  ∀ (s : State) (n : Nat) (r : BeatRun) (op : ScanOp) (v : SEnt),
    let c := s.cell n
    let md := scanMode r.fcr
    let l := match r.a with
      | .sq i => [VSrc.sq i]
      | .const _ => []
    c.hold = .beats r → r.wait = 0 → r.b = .const 0 → r.e = .const 0 → beatSrc c r.a = some v → soRoom c r.dst = true →
    let wrote (q : VWord × Flags) : CellState := afterBeat c r.ctx l (some r.dst) q.1 (v.x || q.2.marks)
    let next (run : VWord) (q : VWord × Flags) : BeatRun := { r with done := r.done + 1, run := some run, flags := r.flags ||| q.2 }
    (r.op = .scanLocal op →
      let q := match r.run with
        | some u => scanOp op md u (scanFlush op md v.data)
        | none => (scanFlush op md v.data, 0)
      exec (.vectorBeat n) s = .next (s.setCell n (beatOver (wrote q) (next q.1 q) q.1))) ∧
    ∀ again va u, r.op = .scanApply op again va → r.run = some u →
      let q := scanOp op md u (scanFlush op md v.data)
      let k := next (if again then q.1 else u) q
      let last : CellState := if again then (wrote q).setCtx r.ctx { (wrote q).ctx r.ctx with v := vset ((wrote q).ctx r.ctx).v va q.1 } else wrote q
      exec (.vectorBeat n) s = .next (s.setCell n (beatOver (if k.done < k.total then wrote q else last) k q.1)))

/-- R203, R211, R212: SC.AGG submits its value for round sub with its mark and captured mode and raises sub; its aggregate place is then
taken. SC.PFX takes the prefix of round rcv from the buffer and raises rcv; the mark goes to PMARK. R214, R201: SC.CFG and SC.RESET zero
the counters, empty the prefix buffer, forget the captures of the old epoch and invert the epoch; SC.CFG sets the direction, and a new
direction counts the member's position from the opposite corner. -/
def Obligations.ScanPorts : Prop :=
  (∀ (s : State) (c : Cue) (op : ScanOp) (g d : Fin 8) (a : VSrc) (p : PAct),
    let port := s.cur.scan[g]
    let w := beatIn s [a] 0
    let st := s.stage s.cur.stage
    let agg : Agg := { round := port.sub, grp := g, cell := s.focus.cell, op := op, val := w.data, mark := w.x, fcr := s.here.fcr
                       ctx := s.focus.ctx, dir := port.dir, epoch := port.epoch, sent := s.cur.cyc }
    let s1 := s.setStage s.cur.stage { st with aggs := st.aggs ++ [agg] }
    let c1 : CellState := { afterBeat s.cur s.focus.ctx [a] none 0 false with
      scan := vset s.cur.scan g { port with sub := port.sub + 1, agg := some port.sub, ops := port.ops ++ [(port.sub, op)] } }
    let ok := decide ((port.sub - port.rcv).toInt < 2) && port.agg.isNone
    (Ready s c (beatNeeds s.cur [a] none ok) →
      ∃ t, exec (.scAgg c op g a p) s = .next t ∧ Fired s (s1.setCur (afterAct c1 s.focus.ctx p)) t c (fun _ => 0)) ∧
    (Ready s c (beatNeeds s.cur [a] none (ok && decide (s.here.uack = 0))) →
      ∃ t, exec (.scAggRel c op g a p) s = .next t ∧ Fired s (s1.setCur (afterAct c1 s.focus.ctx p)) t c (fun _ => 0)) ∧
    (∀ v x, (port.rcv, v, x) ∈ port.pfx → (∀ e ∈ port.pfx, e.1 = port.rcv → e = (port.rcv, v, x)) →
      Ready s c ⟨[], none, true, []⟩ →
      ∃ t, exec (.scPfx c g d p) s = .next t ∧
        Fired s (s.setCur ({ s.cur with scan := vset s.cur.scan g { port with
          rcv := port.rcv + 1, pmark := x, pfx := port.pfx.filter (·.1 ≠ port.rcv), ops := port.ops.filter (·.1 ≠ port.rcv) } }.setCtx
          s.focus.ctx (({ s.here with v := vset s.here.v d v } : Context).act p (decide (v ≠ 0))))) t c (fun _ => 0))) ∧
  (∀ (s : State) (c : Cue) (g : Fin 8) (dir : Bool) (p : PAct),
    let port := s.cur.scan[g]
    let st := s.stage s.cur.stage
    Ready s c ⟨[], none, decide (port.sub = port.rcv) && port.agg.isNone, []⟩ →
    ∀ e ∈ [(Instr.scCfg c g dir p, dir), (.scReset c g p, port.dir)],
      let far := match st.groups[g] with
        | some r => r.w * r.h - 1 - port.pos
        | none => 0
      let s1 := s.setStage s.cur.stage { st with aggs := st.aggs.filter fun a => decide (¬ (a.grp = g ∧ a.cell = s.focus.cell)) }
      (e.2 = port.dir ∨ st.groups[g] ≠ none →
        ∃ t, exec e.1 s = .next t ∧
          Fired s (s1.setCur (afterAct { s.cur with scan := vset s.cur.scan g { port with
            sub := 0, rcv := 0, pfx := [], ops := [], work := [], epoch := !port.epoch, pmark := false, dir := e.2
            pos := if e.2 = port.dir then port.pos else far } } s.focus.ctx p)) t c (fun _ => 0)))

/-- R203, R204, R205, R212: the first member's prefix is the identity of the operator it submitted; what its neighbour in the segment
receives is its own aggregate unchanged, which empties the aggregate place. R201 to R207, R212: every quantity of the table of R204 is
formed at its port from its left and right operands once these have arrived over their hops (counted in strip cycles: log 61), the
port's own cell has submitted the round and no earlier carry holds the port back (log 62). Two operands are combined by the captured
operator in its latency; a lone one passes unchanged; none is the identity. The row value of the last row is not among what is formed,
the aggregate of the last segment of a row is (log 14, DEDUCED). R207: the identity of an integer operator leaves every value unchanged
on either side, with no flag. R207: lane by lane, the operators of a combine; AFFINE composes maps (a, b) and (c, d) to (a × c, c × b +
d), the second component rounded once. The flags of a combine are those of its lanes together; integer lanes raise none. R207, R208:
MAXIDX gives the pair whose value is the greater, of two equal ones the lower index, of a NaN and a number the number's pair. LSE has
the greater maximum; its sum is Round of the exact weighted sum. Weights are 1 where the maximum is −∞, 1 and 0 by the operand where one
is infinite, and 2 to the power of the difference; one below 2^-1000 counts as 2^-1000, which rounds alike, and one that is irrational
lies where the model's 600-bit series puts it (log 8). A NaN among the maxima gives the default NaN, with NV where it signals; what
stands in the sums then raises nothing (log 71, the model's choice). R207: the identity of each operator, lane by lane. As either
operand of a combine it leaves the other one unchanged: an integer or a maximum or minimum that is no NaN, a finite number that is not
zero and not flushed, the pair of a map of such numbers, of a sum of such numbers, or of any number with its index. -/
def Obligations.ScanRounds : Prop :=
  (∀ (s : State) (id : Nat) (grp : Fin 8) (round : Word) (g : ScanGroup) (a : Agg),
    let st := s.stage id
    let n := scanCell st g false (0, 0)
    let port := (s.cell n).scan[grp]
    st.status = .placed → st.groups[grp] = some g → 0 < g.w → 0 < g.h → port.member = true → port.dir = false → port.work = [] →
    ownAgg st grp n round port = some a → a.sent < (s.cell n).cyc → findCarry st grp round (.pfx 0 0) port = none →
    ((round - port.rcv).toNat < 2 → st.heldBack g grp (.pfx 0 0) = false →
      ∃ t, exec (.scanCombine id grp round (.pfx 0 0)) s = .next t ∧
        ((t.cell n).scan[grp]).pfx = port.pfx ++ [(round, scanIdent a.op, false)] ∧ ((t.cell n).scan[grp]).agg = port.agg) ∧
    (1 < g.w → findCarry st grp round (.cellPfx 1 0) port = none → st.heldBack g grp (.cellPfx 1 0) = false →
      ∃ t, exec (.scanCombine id grp round (.cellPfx 1 0)) s = .next t ∧ ((t.cell n).scan[grp]).agg = none ∧
        ((t.cell n).scan[grp]).pfx = port.pfx ∧
        ∃ k ∈ (t.stage id).carries, k.q = .cellPfx 1 0 ∧ k.round = round ∧ k.val = a.val ∧ k.mark = a.mark)) ∧
  (∀ (s : State) (id : Nat) (grp : Fin 8) (round : Word) (g : ScanGroup) (dir : Bool) (c h sg : Nat) (a : Agg),
    let st := s.stage id
    let K := (g.w + 15) / 16
    let last (i : Nat) : Nat := min (16 * i + 15) (g.w - 1)
    let noneIf (b : Bool) (q : ScanQ) : ScanArg := if b then .empty else .carry q
    st.status = .placed → st.groups[grp] = some g → c < g.w → h < g.h → sg < K →
    ∀ e ∈ [(decide (c % 16 ≠ 0), ScanQ.cellPfx c h, (c - 1, h), noneIf (decide (c % 16 = 1)) (.cellPfx (c - 1) h), ScanArg.own),
        (true, .seg sg h, (last sg, h), noneIf (decide (last sg % 16 = 0)) (.cellPfx (last sg) h), .own),
        (decide (1 ≤ sg), .segPfx sg h, (16 * sg, h), noneIf (decide (sg = 1)) (.segPfx (sg - 1) h), .carry (.seg (sg - 1) h)),
        (decide (h + 1 < g.h), .row h, (16 * (K - 1), h), noneIf (decide (K = 1)) (.segPfx (K - 1) h), .carry (.seg (K - 1) h)),
        (decide (1 ≤ h), .rowPfx h, (0, h - 1), noneIf (decide (h = 1)) (.rowPfx (h - 1)), .carry (.row (h - 1))),
        (decide (sg ≠ 0 ∨ h ≠ 0), .base sg h, (16 * sg, h), noneIf (decide (h = 0)) (.rowPfx h), noneIf (decide (sg = 0)) (.segPfx sg h)),
        (true, .pfx c h, (c, h), noneIf (decide (c < 16 ∧ h = 0)) (.base (c / 16) h), noneIf (decide (c % 16 = 0)) (.cellPfx c h))],
      e.1 = true →
      let q := e.2.1
      let m := e.2.2.1
      let at' (d : Bool) (x y : Nat) : Nat := if d then st.cellAt (g.x + (g.w - 1 - x)) (g.y + (g.h - 1 - y)) else st.cellAt (g.x + x) (g.y + y)
      let n := at' dir m.1 m.2
      let cell := s.cell n
      let port := cell.scan[grp]
      let gap (x : Nat) : Nat := ((s.physCol (at' dir x m.2) : Int) - s.physCol n).natAbs
      let hops (q : ScanQ) : Nat := match q with
        | .cellPfx x _ => gap (x - 1)
        | .seg i _ => if m.1 = 16 * i then min 1 (gap (last i)) else gap (last i)
        | .segPfx i _ => m.1 / 16 - i
        | .row _ => K - 1
        | .rowPfx _ => 1 + m.1 / 16
        | .base i _ => gap (16 * i)
        | .pfx _ _ => 0
      let comes (x : ScanArg) (o : Option (VWord × Bool)) : Prop := match x with
        | .empty => o = none
        | .own => o = some (a.val, a.mark)
        | .carry q => ∃ k, findCarry st grp round q port = some k ∧ k.stray = false ∧ k.good = true ∧ k.formed + 2 * hops q ≤ s.strip ∧
            o = some (k.val, k.mark)
      let mine (w : Word × ScanQ × Nat) : Bool := decide (w.1 = round ∧ w.2.1 = q)
      port.member = true → port.dir = dir → ((s.cell (at' false m.1 m.2)).scan[grp]).dir = dir → ownAgg st grp n round port = some a →
      a.sent < cell.cyc → findCarry st grp round q port = none → st.heldBack g grp q = false →
      (q = .pfx c h → (round - port.rcv).toNat < 2) →
      ∀ l r, comes e.2.2.2.1 l → comes e.2.2.2.2 r →
        let md := scanMode a.fcr
        let out : (VWord × Bool) × Flags × Nat := match l, r with
          | none, none => ((scanIdent a.op, false), 0, 0)
          | some x, none => (x, 0, 0)
          | none, some y => (y, 0, 0)
          | some x, some y =>
            let v := scanOp a.op md (scanFlush a.op md x.1) (scanFlush a.op md y.1)
            ((v.1, x.2 || y.2 || v.2.marks), v.2, if a.op = .affine then 3 else if a.op = .lse then 6 else 1)
        let lat := out.2.2
        let k : Carry := { round := round, grp := grp, q := q, val := out.1.1, mark := out.1.2, formed := s.strip, dir := dir, epoch := port.epoch
                           good := true }
        let all := st.carries ++ [k]
        let done (x : Carry) : Bool := decide (x.grp = grp ∧ x.round = round ∧ x.dir = dir ∧ x.epoch = port.epoch)
        (port.work.find? mine = none → lat ≠ 0 →
          exec (.scanCombine id grp round q) s =
            .next (s.setCell n { cell with scan := vset cell.scan grp { port with work := port.work ++ [(round, q, cell.cyc)] } })) ∧
        (∀ w, port.work.find? mine = some w → cell.cyc < w.2.2 + lat → exec (.scanCombine id grp round q) s = .next s) ∧
        ((∃ w, port.work.find? mine = some w ∧ w.2.2 + lat ≤ cell.cyc) ∨ port.work.find? mine = none ∧ lat = 0 →
          ∃ t, exec (.scanCombine id grp round q) s = .next t ∧
            (t.cell n).scan[grp] = { port with
              agg := if q = .cellPfx c h ∨ q = .seg sg h then none else port.agg
              pfx := port.pfx ++ (if q = .pfx c h then [(round, out.1.1, out.1.2)] else [])
              work := port.work.filter fun w => !mine w } ∧
            ((t.cell n).ctx a.ctx).fcr = (cell.ctx a.ctx).fcr ||| (out.2.1.setWidth 32 <<< 16) ∧
            (t.stage id).carries =
              if g.all.all fun x => (findCarry { st with carries := all } grp round x port).isSome then all.filter fun x => !done x else all)) ∧
  (∀ (md : Mode) (v : VWord), ∀ op ∈ [ScanOp.addI32, .maxI32, .minI32],
    scanOp op md (scanIdent op) v = (v, 0) ∧ scanOp op md v (scanIdent op) = (v, 0)) ∧
  (∀ (m : Mode) (u v : VWord),
    let md : Mode := { m with daz := false }
    let lane (x : VWord) (i : Nat) : Word := x.extractLsb' (32 * i) 32
    (∀ i, i < 16 →
      let x := lane u i
      let y := lane v i
      lane (scanOp .addI32 m u v).1 i = x + y ∧ lane (scanOp .maxI32 m u v).1 i = (if x.toInt < y.toInt then y else x) ∧
        lane (scanOp .minI32 m u v).1 i = (if y.toInt < x.toInt then y else x) ∧
        ∀ e ∈ [(ScanOp.addF32, fAdd .f32 md), (.maxF32, fMax .f32 md), (.minF32, fMin .f32 md)],
          lane (scanOp e.1 m u v).1 i = BitVec.ofNat 32 (e.2 x.toNat y.toNat).1) ∧
    (∀ op ∈ [ScanOp.addI32, .maxI32, .minI32], (scanOp op m u v).2 = 0) ∧
    (∀ e ∈ [(ScanOp.addF32, fAdd .f32 md), (.maxF32, fMax .f32 md), (.minF32, fMin .f32 md)],
      (scanOp e.1 m u v).2 = (List.range 16).foldl (fun f i => f ||| (e.2 (lane u i).toNat (lane v i).toNat).2) (0 : Flags)) ∧
    ((scanOp .affine m u v).2 = (List.range 8).foldl (fun f p =>
      f ||| (fMul .f32 md (lane u (2 * p)).toNat (lane v (2 * p)).toNat).2
        ||| (fFma .f32 md (lane v (2 * p)).toNat (lane u (2 * p + 1)).toNat (lane v (2 * p + 1)).toNat).2) (0 : Flags)) ∧
    ∀ p, p < 8 →
      lane (scanOp .affine m u v).1 (2 * p) = BitVec.ofNat 32 (fMul .f32 md (lane u (2 * p)).toNat (lane v (2 * p)).toNat).1 ∧
        lane (scanOp .affine m u v).1 (2 * p + 1) = BitVec.ofNat 32
          (fFma .f32 md (lane v (2 * p)).toNat (lane u (2 * p + 1)).toNat (lane v (2 * p + 1)).toNat).1) ∧
  (∀ (mode : Mode) (u v : VWord), mode.rm < 4 →
    let md : Mode := { mode with daz := false }
    let lane (x : VWord) (i : Nat) : Nat := x.toNat / 2 ^ (32 * i) % 2 ^ 32
    let nan : Nat := 0x7FC00000
    let inf : Nat := 0x7F800000
    let signals (a b : Nat) : Flags → Prop := fun f => (IsSnanOf .f32 a ∨ IsSnanOf .f32 b → f = flNV) ∧ (¬ IsSnanOf .f32 a → ¬ IsSnanOf .f32 b → f = 0)
    let int (n : Nat) : Int := (BitVec.ofNat 32 n).toInt
    let low (i j : Nat) : Nat := if int j < int i then j else i
    (∃ fl : Nat → Flags, (scanOp .maxidx mode u v).2 = (List.range 8).foldl (fun f p => f ||| fl p) (0 : Flags) ∧
      ∀ p, p < 8 →
        let a := lane u (2 * p)
        let b := lane v (2 * p)
        let i := lane u (2 * p + 1)
        let j := lane v (2 * p + 1)
        let r := (lane (scanOp .maxidx mode u v).1 (2 * p), lane (scanOp .maxidx mode u v).1 (2 * p + 1))
        signals a b (fl p) ∧
        (IsNanOf .f32 a → IsNanOf .f32 b → r = (nan, low i j)) ∧
        (IsNanOf .f32 a → ¬ IsNanOf .f32 b → r = (b, j)) ∧ (¬ IsNanOf .f32 a → IsNanOf .f32 b → r = (a, i)) ∧
        (¬ IsNanOf .f32 a → ¬ IsNanOf .f32 b → r = if a = b then (a, low i j) else if (fMax .f32 md a b).1 = a then (a, i) else (b, j))) ∧
    ∃ fm fs : Nat → Flags, (scanOp .lse mode u v).2 = (List.range 8).foldl (fun f p => f ||| (fm p ||| fs p)) (0 : Flags) ∧
      ∀ p, p < 8 →
        let a := lane u (2 * p)
        let b := lane v (2 * p)
        let x := lane u (2 * p + 1)
        let y := lane v (2 * p + 1)
        let top := lane (scanOp .lse mode u v).1 (2 * p)
        let sum : Nat × Flags := (lane (scanOp .lse mode u v).1 (2 * p + 1), fs p)
        let gap := |numOf .f32 a - numOf .f32 b|
        let first := decide (numOf .f32 b ≤ numOf .f32 a)
        let big := if first then x else y
        let small := if first then y else x
        let zero := zeroSum md [(numOf .f32 x, negOf .f32 x), (numOf .f32 y, negOf .f32 y)]
        (top, fm p) = fMax .f32 md a b ∧ signals a b (fm p) ∧
        (IsNanOf .f32 a ∨ IsNanOf .f32 b → sum = (nan, 0)) ∧
        (a = 2 ^ 31 + inf → b = 2 ^ 31 + inf → sum = fAdd .f32 md x y) ∧ (a = inf → b = inf → sum = fAdd .f32 md x y) ∧
        (¬ IsNanOf .f32 a → ¬ IsNanOf .f32 b → a = inf ∧ b ≠ inf ∨ IsFin .f32 a ∧ b = 2 ^ 31 + inf → sum = fFma .f32 md y 0 x) ∧
        (¬ IsNanOf .f32 a → ¬ IsNanOf .f32 b → b = inf ∧ a ≠ inf ∨ IsFin .f32 b ∧ a = 2 ^ 31 + inf → sum = fFma .f32 md x 0 y) ∧
        (IsFin .f32 a → IsFin .f32 b →
          (IsNanOf .f32 x ∨ IsNanOf .f32 y → sum.1 = nan ∧ signals x y sum.2) ∧
          (IsFin .f32 x → IsFin .f32 y →
            (∀ k : Nat, gap = k → Rounded .f32 md (numOf .f32 big + numOf .f32 small / 2 ^ (min k 1000)) zero sum) ∧
            ((∀ k : Nat, gap ≠ k) → negOf .f32 x = negOf .f32 y ∨ numOf .f32 x = 0 ∨ numOf .f32 y = 0 →
              ∃ w : ℚ, 2 ^ (-(min ⌊gap⌋ 1000) - 1) ≤ w ∧ w ≤ 2 ^ (-(min ⌊gap⌋ 1000)) ∧
                Rounded .f32 md (numOf .f32 big + numOf .f32 small * w) zero sum)))) ∧
  (∀ (md : Mode) (v : VWord), md.rm < 4 →
    let lane (x : VWord) (i : Nat) : Nat := x.toNat / 2 ^ (32 * i) % 2 ^ 32
    let keeps (op : ScanOp) : Prop := scanOp op md (scanIdent op) v = (v, 0) ∧ scanOp op md v (scanIdent op) = (v, 0)
    let plain (n : Nat) : Prop := IsFin .f32 n ∧ numOf .f32 n ≠ 0 ∧ (md.ftz = false ∨ (2 : ℚ) ^ (-126 : ℤ) ≤ |numOf .f32 n|)
    (∀ i, i < 16 →
      lane (scanIdent .addF32) i = 0x80000000 ∧ lane (scanIdent .addI32) i = 0 ∧ lane (scanIdent .maxF32) i = 0xFF800000 ∧
      lane (scanIdent .maxI32) i = 0x80000000 ∧ lane (scanIdent .minF32) i = 0x7F800000 ∧ lane (scanIdent .minI32) i = 0x7FFFFFFF ∧
      lane (scanIdent .affine) i = (if i % 2 = 0 then 0x3F800000 else 0x80000000) ∧
      lane (scanIdent .lse) i = (if i % 2 = 0 then 0xFF800000 else 0) ∧
      lane (scanIdent .maxidx) i = if i % 2 = 0 then 0xFF800000 else 0x7FFFFFFF) ∧
    ((∀ i, i < 16 → plain (lane v i)) → keeps .addF32 ∧ keeps .affine ∧ keeps .lse) ∧
    ((∀ i, i < 16 → ¬ IsNanOf .f32 (lane v i)) → keeps .maxF32 ∧ keeps .minF32) ∧
    ((∀ p, p < 8 → ¬ IsNanOf .f32 (lane v (2 * p))) → keeps .maxidx))

/-! ## Streams, rings, tiles -/

/-- R257 to R259: the registers of an inactive generator are set field by field; SG.GO starts it with zero indices and its first
transfer two cycles later, as the model counts the cycle of a transfer (its choice: log 88); SG.HALT stops it, where a slice transfer is
under way after that transfer (R14; log 67). R45, R53, R55, R124, R197, R259: an aligned transfer from SRAM of a generator, at the
address whose sum wraps to 32 bits, puts 64 bytes behind its stream queue or, with RGEN = 1, at the partial count of its ring's tail
tile, and pushes a tile that is full (words with one wrong bit count as corrected, log 78); one that writes stores the head of its write
queue or the next 64 bytes of the ring's head tile, which stood there at the start of the cycle, and pops a tile that is drained, of a
read-out ring with its accumulator's count; the indices step, and the last transfer ends the sequence. A transfer of the slice first
asks the strip port for its two lines (R14; log 43). That a ring has two partial counts, one at each end, is the model's choice (log
12). R54, R55, R259, R343, R350: the lowest level whose index is not at its end steps, and every level below it returns to 0; the last
transfer leaves the indices. A generator of which BASE or a stride is no multiple of 64 stops with FAULT = 1 and an ALIGN record before
its first transfer, one whose entry lies outside SRAM and the slice with a PRIVATE_BOUNDS record; the indices stay, and the record has
the two lowest. With RGEN = 1 a transfer of the slice asks for its lines while its ring takes part, and once these are served fills or
drains the ring as one of SRAM does. -/
def Obligations.StreamGenerators : Prop :=
  (∀ (s : State) (c : Cue) (g : Fin 4) (lv : Fin 4) (a b : Src) (p : PAct),
    let v := s.cur.gens[g]
    let x := s.src a
    let put (w : Gen) : CellState := { s.cur with gens := vset s.cur.gens g w }
    (v.active = false →
      (Ready s c ⟨[a], none, true, []⟩ →
        (∃ t, exec (.sgSetBase c g a p) s = .next t ∧ Acts s t c (deqs [a]) p (put { v with base := x })) ∧
        (∃ t, exec (.sgSetCtl c g a p) s = .next t ∧ Acts s t c (deqs [a]) p (put { v with
          dir := x.getLsbD 0, rgen := x.getLsbD 6, rg := Fin.ofNat 8 (x.toNat / 2 ^ 7), done := v.done && !x.getLsbD 2 }))) ∧
      (Ready s c ⟨[a, b], none, true, []⟩ →
        ∃ t, exec (.sgSetLv c g a b lv p) s = .next t ∧ Acts s t c (deqs [a, b]) p (put { v with
          lv := vset v.lv lv { v.lv[lv] with stride := x.setWidth 24, cntm1 := (s.src b).setWidth 16 } })) ∧
      (Ready s c ⟨[], none, true, []⟩ →
        let r := s.cur.rings[v.rg]
        (v.rgen = false ∨ v.dir = true ∨ r.prod = 2 ∧ r.pidx = g.val →
          ∃ t, exec (.sgGo c g p) s = .next t ∧ Acts s t c (fun _ => 0) p (put { v with
            lv := v.lv.map (fun l => { l with idx := 0 }), done := false, fault := false, active := true
            ctx := s.focus.ctx, slot := s.focus.slot, start := s.cur.cyc + 2 })) ∧
        (v.rgen = true → v.dir = false → ¬ (r.prod = 2 ∧ r.pidx = g.val) →
          ∃ t, exec (.sgGo c g p) s = .next t ∧ Faults s t { cls := 2, code := 4, opnd := 0 }))) ∧
    (v.active = true →
      (Ready s c ⟨[a], none, true, []⟩ → ∃ t, exec (.sgSetBase c g a p) s = .next t ∧ Faults s t { cls := 2, code := 3, opnd := x }) ∧
      (Ready s c ⟨[], none, true, []⟩ → ∃ t, exec (.sgGo c g p) s = .next t ∧ Faults s t { cls := 2, code := 3, opnd := 0 })) ∧
    (Ready s c ⟨[], none, true, []⟩ →
      ((∀ r ∈ s.cur.port, r.user ≠ .gen g) →
        ∃ t, exec (.sgHalt c g p) s = .next t ∧ Acts s t c (fun _ => 0) p (put { v with active := false })) ∧
      ∃ t, exec (.sgHalt c g p) s = .next t ∧ ((t.cell s.focus.cell).gens[g]).active = false ∧
        ∀ r ∈ (t.cell s.focus.cell).port, r.user ≠ .gen g)) ∧
  (∀ (s : State) (n : Nat) (g : Fin 4),
    let c := s.cell n
    let v := c.gens[g]
    let sum : Int := v.base.toNat + (v.lv[0]).idx.toNat * (v.lv[0]).stride.toInt + (v.lv[1]).idx.toNat * (v.lv[1]).stride.toInt
      + (v.lv[2]).idx.toNat * (v.lv[2]).stride.toInt + (v.lv[3]).idx.toNat * (v.lv[3]).stride.toInt
    let ad := (sum % 2 ^ 32).toNat
    let stepped (d : CellState) : CellState := { d with gens := vset d.gens g v.next, lastAct := s.tick }
    let r := c.rings[v.rg]
    let tile (i : Nat) : Nat := r.base + i % (r.depth + 1) * ((r.tsz + 1) * 64)
    let ring (d : CellState) (x : Ring) : CellState := stepped { d with rings := vset d.rings v.rg x }
    let runs := exec (.sgTransfer n g) s
    v.active = true → v.start ≤ c.cyc → v.base.toNat % 64 = 0 → (∀ i : Fin 4, (v.lv[i]).stride.toNat % 64 = 0) →
    (s.stage c.stage).stopping = false →
    (v.rgen = false → 0x40000000 ≤ ad → ad + 64 ≤ 0x40000000 + (c.sliceMiB * 2 ^ 20 - 2 ^ 19) → (∀ r ∈ c.port, r.user ≠ .gen g) →
      (if v.dir then c.so[g] ≠ [] ∧ 1 ≤ c.soAt[g] else (c.sq[g]).length < 8) →
      let l := (ad - 0x40000000) / 32
      runs = .next (s.portAsk n (.gen g) [l, l + 1] v.dir)) ∧
    (v.rgen = false → ad + 64 ≤ 0x40000 → c.badSram = [] →
      (v.dir = false → (c.sq[g]).length < 8 →
        runs = .next (s.setCell n (stepped { mended c ad 64 with
          sq := vset c.sq g (c.sq[g] ++ [⟨BitVec.ofNat 512 (c.sram.readN ad 64), false⟩]) }))) ∧
      (∀ e q, v.dir = true → c.so[g] = e :: q → 1 ≤ c.soAt[g] →
        runs = .next (s.setCell n (stepped { c with
          so := vset c.so g q, soAt := vset c.soAt g (c.soAt[g] - 1), sram := c.sram.writeN ad 64 e.data.toNat }))) ∧
      (v.dir = true → c.soAt[g] = 0 → runs = .next s) ∧
      (v.dir = false → 8 ≤ (c.sq[g]).length → runs = .next s)) ∧
    (v.rgen = true → ad + 64 ≤ 0x40000 → c.badSram = [] →
      (v.dir = false → r.count ≤ r.depth →
        let d : CellState := { mended c ad 64 with sram := c.sram.writeN (tile r.tail + r.part * 64) 64 (c.sram.readN ad 64) }
        runs = .next (s.setCell n (if r.part = r.tsz then
          ring d { r with tail := (r.tail + 1) % (r.depth + 1), count := r.count + 1, marks := r.marks ++ [r.acc], part := 0, acc := false
                          bytes := 0, buf := [] }
          else ring d { r with part := r.part + 1 }))) ∧
      (v.dir = true → 1 ≤ r.count → 1 ≤ c.ringAt[v.rg] →
        let e := tile r.head + r.drain * 64
        let d : CellState := { mended c e 64 with sram := c.sram.writeN ad 64 (c.sram.readN e 64) }
        let acc : Fin 4 := Fin.ofNat 4 r.pidx
        runs = .next (s.setCell n (if r.drain = r.tsz then
          ring { d with
            readCnt := if r.prod = 3 then vset c.readCnt acc (c.readCnt[acc] - 1) else c.readCnt
            ringAt := vset c.ringAt v.rg (c.ringAt[v.rg] - 1) }
            { r with head := (r.head + 1) % (r.depth + 1), count := r.count - 1, marks := r.marks.tail, drain := 0 }
          else ring d { r with drain := r.drain + 1 }))) ∧
      (v.dir = false → r.depth < r.count → runs = .next s) ∧
      (v.dir = true → r.count = 0 ∨ c.ringAt[v.rg] = 0 → runs = .next s)) ∧
    ((∀ i : Fin 4, (v.lv[i]).idx = (v.lv[i]).cntm1) → v.next.active = false ∧ v.next.done = true) ∧
    ((v.lv[0]).idx ≠ (v.lv[0]).cntm1 → v.next.active = true ∧ (v.next.lv[0]).idx = (v.lv[0]).idx + 1)) ∧
  (∀ (s : State) (n : Nat) (g k : Fin 4),
    let c := s.cell n
    let v := c.gens[g]
    let sum : Int := v.base.toNat + (v.lv[0]).idx.toNat * (v.lv[0]).stride.toInt + (v.lv[1]).idx.toNat * (v.lv[1]).stride.toInt
      + (v.lv[2]).idx.toNat * (v.lv[2]).stride.toInt + (v.lv[3]).idx.toNat * (v.lv[3]).stride.toInt
    let ad := (sum % 2 ^ 32).toNat
    let r := c.rings[v.rg]
    let tile (i : Nat) : Nat := r.base + i % (r.depth + 1) * ((r.tsz + 1) * 64)
    let runs := exec (.sgTransfer n g) s
    let aligned := v.base.toNat % 64 = 0 ∧ ∀ i : Fin 4, (v.lv[i]).stride.toNat % 64 = 0
    let inSlice := 0x40000000 ≤ ad ∧ ad + 64 ≤ 0x40000000 + (c.sliceMiB * 2 ^ 20 - 2 ^ 19)
    let off := ad - 0x40000000
    let l := off / 32
    let stops (cls : Nat) : Prop := ∃ t, runs = .next t ∧ stateWith t s.cells = s ∧
      (∀ m, m ≠ n → AMap.get? t.cells m = AMap.get? s.cells m) ∧
      Reports s n v.ctx v.slot
        { cls := cls, code := 0, opnd := BitVec.ofNat 32 ((v.lv[1]).idx.toNat * 2 ^ 16 + (v.lv[0]).idx.toNat), unit := g.val }
        { c with gens := vset c.gens g { v with active := false, fault := true } } (t.cell n)
    ((∀ j : Fin 4, j < k → (v.lv[j]).idx = (v.lv[j]).cntm1) → (v.lv[k]).idx ≠ (v.lv[k]).cntm1 →
      v.next = { v with lv := v.next.lv } ∧
        ∀ j : Fin 4, v.next.lv[j] = { v.lv[j] with idx := if j < k then 0 else if j = k then (v.lv[k]).idx + 1 else (v.lv[j]).idx }) ∧
    ((∀ j : Fin 4, (v.lv[j]).idx = (v.lv[j]).cntm1) → v.next = { v with active := false, done := true }) ∧
    (v.active = true → v.start ≤ c.cyc → (s.stage c.stage).stopping = false →
      (c.asyncRecs.length < 8 → (c.ctx v.ctx).status ≠ .halted →
        (¬ aligned → stops 4) ∧ (aligned → 0x40000 < ad + 64 → ¬ inSlice → stops 3)) ∧
      (aligned → v.rgen = true → inSlice → c.badSram = [] → l ∉ c.badLines → l + 1 ∉ c.badLines →
        ((if v.dir then 1 ≤ r.count ∧ 1 ≤ c.ringAt[v.rg] else r.count ≤ r.depth) → (∀ q ∈ c.port, q.user ≠ .gen g) →
          runs = .next (s.portAsk n (.gen g) [l, l + 1] v.dir)) ∧
        ((∀ x ∈ [l, l + 1], ∃ q ∈ c.port, q.user = .gen g ∧ q.line = x ∧ q.write = v.dir ∧ q.served = true) →
          (v.dir = false → r.count ≤ r.depth →
            ∃ t, runs = .next t ∧ t.firn = s.firn ∧ (t.cell n).gens = vset c.gens g v.next ∧
              (t.cell n).sram = c.sram.writeN (tile r.tail + r.part * 64) 64 (s.sliceRead n off 64) ∧
              (t.cell n).rings = vset c.rings v.rg (if r.part = r.tsz then
                { r with tail := (r.tail + 1) % (r.depth + 1), count := r.count + 1, marks := r.marks ++ [r.acc], part := 0, acc := false
                         bytes := 0, buf := [] }
                else { r with part := r.part + 1 }) ∧
              ∀ q ∈ (t.cell n).port, q.user ≠ .gen g) ∧
          (v.dir = true → 1 ≤ r.count → 1 ≤ c.ringAt[v.rg] →
            ∃ t, runs = .next t ∧ (t.cell n).gens = vset c.gens g v.next ∧ (t.cell n).sram = c.sram ∧
              t.firn = (s.sliceWrite n off 64 (c.sram.readN (tile r.head + r.drain * 64) 64)).firn ∧
              (t.cell n).rings = vset c.rings v.rg (if r.drain = r.tsz then
                { r with head := (r.head + 1) % (r.depth + 1), count := r.count - 1, marks := r.marks.tail, drain := 0 }
                else { r with drain := r.drain + 1 }) ∧
              ∀ q ∈ (t.cell n).port, q.user ≠ .gen g)))))

/-- R51, R52, R261: a descriptor word is replaced and the ring is emptied, where its producer is not a route and no command, sender or
generator works on it and the new descriptor is admitted. R53, R197, R262, R264: G.ADV pushes the tail tile of a software ring with a
free tile, or pops the head tile of one with a full tile, which for a read-out ring leaves its accumulator's count; a push on a ring of
another producer faults; TSEND gives the head tile to the tile sender. -/
def Obligations.RingDescriptorsAndTiles : Prop :=
  (∀ (s : State) (c : Cue) (g : Fin 8) (a : Src) (p : PAct),
    let r := s.cur.rings[g]
    let x := (s.src a).toNat
    let fresh (base tsz depth prod pidx : Nat) : Ring :=
      { base := base, tsz := tsz, depth := depth, prod := prod, pidx := pidx, head := 0, tail := 0, count := 0, part := 0, drain := 0
        acc := false, bytes := 0, buf := [], marks := [], told := [] }
    let ok (n : Ring) : Prop := n.base + (n.depth + 1) * ((n.tsz + 1) * 64) ≤ 0x40000 ∧ n.base % 64 = 0 ∧ n.prod < 4 ∧
      n.prod ≠ 1 ∧ (n.pidx = 0 ∨ 2 ≤ n.prod)
    let put (n : Ring) : CellState :=
      { s.cur with
        rings := vset s.cur.rings g n
        readCnt := if r.prod = 3 then vset s.cur.readCnt (Fin.ofNat 4 r.pidx) 0 else s.cur.readCnt }
    s.cur.mxq = [] → s.cur.mxRun = none → s.cur.tsend = none → r.prod ≠ 1 →
    (∀ i : Fin 4, (s.cur.gens[i]).active = true → (s.cur.gens[i]).rgen = true → (s.cur.gens[i]).rg ≠ g) →
    Ready s c ⟨[a], none, true, []⟩ →
    (let n := fresh (x % 2 ^ 18) r.tsz r.depth r.prod r.pidx;
      (ok n → ∃ t, exec (.gSetW0 c g a p) s = .next t ∧ Acts s t c (deqs [a]) p (put n)) ∧ (r.prod < 4 → ¬ ok n → ∃ t, exec (.gSetW0 c g a p) s = .next t ∧ Faults s t { cls := 2, code := 6, opnd := s.src a })) ∧
    (let n := fresh r.base (x % 2 ^ 12) (x / 2 ^ 12 % 2 ^ 8) (x / 2 ^ 20 % 2 ^ 3) (x / 2 ^ 23 % 2 ^ 2);
      ok n → ∃ t, exec (.gSetW1 c g a p) s = .next t ∧ Acts s t c (deqs [a]) p (put n))) ∧
  (∀ (s : State) (c : Cue) (g o : Fin 8) (p : PAct),
    let r := s.cur.rings[g]
    let put (n : Ring) : CellState := { s.cur with rings := vset s.cur.rings g n }
    let pushed : Ring :=
      { r with
        tail := (r.tail + 1) % (r.depth + 1), count := r.count + 1, marks := r.marks ++ [false], part := 0, acc := false, bytes := 0
        buf := [] }
    let popped : Ring :=
      { r with head := (r.head + 1) % (r.depth + 1), count := r.count - 1, marks := r.marks.tail, drain := 0 }
    let acc : Fin 4 := Fin.ofNat 4 r.pidx
    (Ready s c ⟨[], none, decide (r.count ≤ r.depth), []⟩ →
      (r.prod = 0 → ∃ t, exec (.gAdvPush c g p) s = .next t ∧ Acts s t c (fun _ => 0) p (put pushed)) ∧
      (r.prod ≠ 0 → ∃ t, exec (.gAdvPush c g p) s = .next t ∧ Faults s t { cls := 2, code := 7, opnd := 0 })) ∧
    (s.cur.mxq = [] → s.cur.mxRun = none → s.cur.tsend = none →
      (Ready s c ⟨[], none, decide (1 ≤ r.count), []⟩ →
        ∃ t, exec (.gAdvPop c g p) s = .next t ∧ Acts s t c (fun _ => 0) p
          { put popped with
            readCnt := if r.prod = 3 then vset s.cur.readCnt acc (s.cur.readCnt[acc] - 1) else s.cur.readCnt
            ringAt := vset s.cur.ringAt g (s.cur.ringAt[g] - 1) }) ∧
      (s.cur.oq[o] = [] → Ready s c ⟨[], some (.oq o), decide (1 ≤ r.count), []⟩ →
        ∃ t, exec (.tsend c g o p) s = .next t ∧
          Acts s t c (fun _ => 0) p { s.cur with tsend := some ⟨g, o, 0, r.tsz + 1, s.focus.ctx, s.focus.slot⟩ })))

/-! ## Copies -/

/-- R61, R62, R265 to R268, R270: CP.ARM checks its template and arms it with its initial count, or lets it fire where that is 0;
templates that fire in one cycle stand in the pending list by number; CP.FIRE lowers the count of an armed template; a direct copy joins
the pending list; CP.CANCEL disarms an armed template. R266, R268, R270, R283: CP.ARM waits while its template is pending or active; one
that breaks the rules of its registers faults with OPERAND 0x08, one whose bytes do not lie wholly in SRAM or in the slice with
PRIVATE_BOUNDS, and nothing changes. A direct copy checks its private address, its wafer address and its bounds, in this order.
CP.CANCEL takes a pending template off the list, with a completion of status 2 where NOTIFY is set, lets an active one end, and leaves
an idle one. -/
def Obligations.CopyInstructions : Prop :=
  (∀ (s : State) (c : Cue) (ct : Fin 16) (a b : Src) (wr : Fin 4) (len : BitVec 14) (nt : Bool) (p : PAct),
    let t0 := s.cur.cts[ct]
    let good (u : Template) : Prop := u.len % 32 = 0 ∧ 32 ≤ u.len ∧ u.pa.toNat % 32 = 0 ∧ u.wa.toNat % 32 = 0 ∧
      s.cur.inPrivate u.pa.toNat u.len = true
    let free := s.here.station.isNone && !s.here.acq
    let put (u : Template) : CellState := { s.cur with cts := vset s.cur.cts ct u }
    let since := s.cur.copyPend.length - s.cur.newPend
    let old := s.cur.copyPend.take since
    let new := s.cur.copyPend.drop since
    let before (y : Copy) : Bool := match y.tmpl with
      | some j => decide (j ≤ ct)
      | none => true
    let joined (x : Copy) : List Copy := old ++ new.takeWhile before ++ x :: new.dropWhile before
    let fires (u : Template) : CellState :=
      { put { u with armed := false, pending := true, count := 0 } with
        copyPend := joined { tmpl := some ct, put := u.put, pa := u.pa.toNat, wa := u.wa, len := u.len, ctx := u.ctx, slot := 0
                             notify := u.notify, left := List.range (u.len / 32), work := [], flight := [], cancelled := false
                             failed := none }
        newPend := s.cur.newPend + 1 }
    let armed (u : Template) : CellState := if u.pinit = 0 then fires u else put { u with armed := true, count := u.pinit }
    let addr := copyAddr s.here.w[wr] (s.src b)
    let set : Template := { t0 with pa := s.src a, wa := addr }
    (t0.pending = false → t0.active = false →
      (good t0 → Ready s c ⟨[], none, decide (t0.pinit ≠ 0) || free, []⟩ →
        ∃ t, exec (.cpArm c ct p) s = .next t ∧ Acts s t c (fun _ => 0) p (armed t0)) ∧
      (good set → Ready s c ⟨[a, b], none, decide (t0.pinit ≠ 0) || free, []⟩ →
        ∃ t, exec (.cpArmSet c ct a b wr p) s = .next t ∧ Acts s t c (deqs [a, b]) p (armed set))) ∧
    (Ready s c ⟨[], none, free, []⟩ →
      (t0.armed = true →
        (∃ t, exec (.cpFireNow c ct p) s = .next t ∧ Acts s t c (fun _ => 0) p (fires t0)) ∧
        (∃ t, exec (.cpFire c ct p) s = .next t ∧
          Acts s t c (fun _ => 0) p (if t0.count ≤ 1 then fires t0 else put { t0 with count := t0.count - 1 }))) ∧
      (t0.armed = false →
        (∃ t, exec (.cpFire c ct p) s = .next t ∧ Faults s t { cls := 2, code := 9, opnd := 0 }) ∧
        (∃ t, exec (.cpFireNow c ct p) s = .next t ∧ Faults s t { cls := 2, code := 9, opnd := 0 }))) ∧
    (Ready s c ⟨[a, b], none, decide (s.cur.directs < 4) && free, []⟩ →
      (s.src a).toNat % 32 = 0 → addr.toNat % 32 = 0 → s.cur.inPrivate (s.src a).toNat ((len.toNat + 1) * 32) = true →
      ∀ e ∈ [(Instr.cpGet c a b wr len nt p, false), (.cpPut c a b wr len nt p, true)],
        ∃ t, exec e.1 s = .next t ∧ Acts s t c (deqs [a, b]) p { s.cur with
          copyPend := s.cur.copyPend ++ [{ tmpl := none, put := e.2, pa := (s.src a).toNat, wa := addr, len := (len.toNat + 1) * 32
                                           ctx := s.focus.ctx, slot := s.focus.slot, notify := nt, left := List.range (len.toNat + 1)
                                           work := [], flight := [], cancelled := false, failed := none }]
          newPend := s.cur.newPend + 1 }) ∧
    (t0.armed = true → Ready s c ⟨[], none, true, []⟩ →
      ∃ t, exec (.cpCancel c ct p) s = .next t ∧ Acts s t c (fun _ => 0) p (put { t0 with armed := false, count := 0 }))) ∧
  (∀ (s : State) (c : Cue) (ct : Fin 16) (a b : Src) (wr : Fin 4) (len : BitVec 14) (nt : Bool) (p : PAct),
    let t0 := s.cur.cts[ct]
    let free := s.here.station.isNone && !s.here.acq
    let pa := s.src a
    let addr := copyAddr s.here.w[wr] (s.src b)
    let n := (len.toNat + 1) * 32
    let set : Template := { t0 with pa := pa, wa := addr }
    let bad (u : Template) : Prop := u.len % 32 ≠ 0 ∨ u.len < 32 ∨ u.pa.toNat % 32 ≠ 0 ∨ u.wa.toNat % 32 ≠ 0
    let outside (x : Nat) : FaultInfo := { cls := 3, code := 0, opnd := BitVec.ofNat 32 x }
    let off (x : Nat) : FaultInfo := { cls := 4, code := 0, opnd := BitVec.ofNat 32 x }
    let stops (i : Instr) (f : FaultInfo) : Prop := ∃ t, exec i s = .next t ∧ Faults s t f
    (∀ e ∈ [(Instr.cpArm c ct p, ([] : List Src), t0, (0 : Word)), (.cpArmSet c ct a b wr p, [a, b], set, pa)],
      (t0.pending = true ∨ t0.active = true → exec e.1 s = .next s) ∧
      (t0.pending = false → t0.active = false → Ready s c ⟨e.2.1, none, decide (t0.pinit ≠ 0) || free, []⟩ →
        (bad e.2.2.1 → stops e.1 { cls := 2, code := 8, opnd := e.2.2.2 }) ∧
        (¬ bad e.2.2.1 → s.cur.inPrivate e.2.2.1.pa.toNat e.2.2.1.len = false → stops e.1 (outside e.2.2.1.pa.toNat)))) ∧
    (∀ i ∈ [Instr.cpGet c a b wr len nt p, .cpPut c a b wr len nt p],
      Ready s c ⟨[a, b], none, decide (s.cur.directs < 4) && free, []⟩ →
        (pa.toNat % 32 ≠ 0 → stops i (off pa.toNat)) ∧
        (pa.toNat % 32 = 0 → addr.toNat % 32 ≠ 0 → stops i
          { cls := 4, code := 16 + addr.toNat % 4, opnd := BitVec.ofNat 32 (addr.toNat / 4), modNum := addr.toNat / 2 ^ 48 % 2 ^ 8
            ahi := addr.toNat / 2 ^ 34 % 2 ^ 14 }) ∧
        (pa.toNat % 32 = 0 → addr.toNat % 32 = 0 → s.cur.inPrivate pa.toNat n = false → stops i (outside pa.toNat))) ∧
    (Ready s c ⟨[], none, true, []⟩ → t0.armed = false →
      let gone : CellState := { s.cur with
        cts := vset s.cur.cts ct { t0 with pending := false }
        copyPend := s.cur.copyPend.filter fun y => decide (y.tmpl ≠ some ct) }
      (∀ x, t0.pending = true → s.cur.copyPend.find? (fun y => decide (y.tmpl = some ct)) = some x →
        ∃ t, exec (.cpCancel c ct p) s = .next t ∧ Acts s t c (fun _ => 0) p
          (if x.notify then mailed gone ⟨BitVec.ofNat 32 (ct.val + 2 * 32), BitVec.ofNat 8 (x.ctx.val * 64 + 1), false⟩ else gone)) ∧
      (t0.pending = false → ∃ t, exec (.cpCancel c ct p) s = .next t ∧ Acts s t c (fun _ => 0) p { s.cur with
        copyAct := s.cur.copyAct.map fun x => x.map fun y => if y.tmpl = some ct then { y with cancelled := true } else y })))

/-- R62, R217, R239, R268, R269: the oldest pending copy starts in the first free engine; a block below the frontier of 64 is issued and
translated; a PUT reads its 32 bytes of SRAM at once (single wrong bits mended: log 78); the block crosses the mesh to its home (log
26), where the strip port lets it in by the budget (R327; what a walk and a block count there is the model's choice, log 43) and each of
its eight words is read or applied by itself, in any order (log 41); its answer comes back; a GET then writes its 32 bytes of SRAM at
once, over uncorrectable words which stay so (log 65, the model's choice). A PUT whose eight words are written makes its line's check
hold again (log 45, the model's choice). A request whose check fails is not applied, and is answered INTEGRITY 0x03; an answer whose
check fails counts as INTEGRITY 0x01 (R351). A copy with no block left frees its engine (copies of a template let their successors
fire). R49, R62, R269, R270, R343: a copy of which no block is left or under way frees its engine. One without a fault or cancellation
lowers the count of its template's successors, which fire where they are armed and reach 0, in ascending order; its completion word has
status 0, status 2 after a cancellation, and after a fault, which makes one asynchronous record, 3 for UNREACHABLE and else 1; it is
posted where NOTIFY is set, and a copy that ends otherwise than well touches no successor (that a fault met before a cancellation stands
is the model's choice: log 19). -/
def Obligations.CopyEngineWorks : Prop :=
  (∀ (s : State) (n : Nat) (k : Fin 2) (x : Copy) (r : List Copy) (b : Nat) (w : Fin 8) (y : Block) (key : Nat),
    let c := s.cell n
    let st := s.stage c.stage
    let here (d : CellState) (u : Copy) : CellState := { d with copyAct := vset d.copyAct k (some u) }
    let sent (d : CellState) (u : Copy) : CellState := { here d u with lastAct := s.tick }
    let a := x.pa + 32 * b
    let h := key + 4 * w.val
    let put (z : Block) : Copy := { x with work := x.work.map fun v => if v.blk = b then z else v }
    let settled : Copy := { x with work := x.work.filter fun v => decide (v.blk ≠ b) }
    let all : BitVec 8 := 255
    let bit : BitVec 8 := 1#8 <<< w.val
    let word (d : BitVec 256) (i : Nat) : Nat := d.toNat / 2 ^ (32 * i) % 2 ^ 32
    let from' (m : Nat) : Hop := ⟨m % 320, m % 320, m / 320, [], s.strip⟩
    let back (z : Block) : Block := { z with phase := .back, hop := from' (y.hop.y * 320 + y.hop.x), res := none, good := true }
    let check (code : Nat) : FaultInfo :=
      let w := setOff x.wa (offOf x.wa + 32 * b)
      { cls := 10, code := code, opnd := BitVec.ofNat 32 (w.toNat / 4), modNum := modOf w, ahi := w.toNat / 2 ^ 34 % 2 ^ 14 }
    let port := s.leaving (.block n k (x.work.findIdx fun v => decide (v.blk = b)))
    let step := exec (.copyBlock n k (8 * b + w.val)) s
    (c.copyPend = x :: r → x.tmpl = none → c.copyAct[k] = none → (∀ j, j < k → c.copyAct[j] ≠ none) →
      exec (.copyStart n) s = .next (s.setCell n { c with copyPend := r, copyAct := vset c.copyAct k (some x) })) ∧
    (c.copyAct[k] = some x → x.flight = [] → x.work = [] → x.left = [] → x.failed = none → x.cancelled = false → x.notify = false →
      x.tmpl = none → exec (.copyComplete n k) s = .next (s.setCell n { c with copyAct := vset c.copyAct k none })) ∧
    (c.copyAct[k] = some x → b ∈ x.left → (∀ f ∈ x.flight, f.1 ≠ b) → (∀ v ∈ x.work, v.blk ≠ b) → x.cancelled = false → x.failed = none →
      b < x.frontier + 64 → st.stopping = false → modOf x.wa = s.host.modNum →
      let off := offOf (setOff x.wa (offOf x.wa + 32 * b))
      walkMay s (walkReads s (s.fieldOf n) c.stage none st.root off) (256 * 4096 + c.stage) st.qp = true →
      pageOf s (if x.put then .putBlock 0 else .getBlock) (s.fieldOf n) c.stage none st.root off = (.home key, s) →
      ∃ path, step = .next (s.setCell n (here c { x with
        left := x.left.erase b
        work := x.work ++ [⟨b, .home key, if x.put then .read else .out, path, 0, 0, 0, from' n, none, true⟩] }))) ∧
    (c.copyAct[k] = some x → (∀ f ∈ x.flight, f.1 ≠ b) → x.work.find? (fun v => decide (v.blk = b)) = some y → y.loc = .home key →
      (y.phase = .read → a + 32 ≤ 0x40000 → (∀ v ∈ c.badSram, v * 8 + 8 ≤ a ∨ a + 32 ≤ v * 8) →
        step = .next (s.setCell n (here (mended c a 32) (put { y with
          data := BitVec.ofNat 256 (c.sram.readN a 32), got := all, phase := .out, hop := from' n })))) ∧
      (y.phase = .out ∨ y.phase = .back → port = none → step = .next s) ∧
      (∀ f, port = some f → y.phase = .out →
        ∃ t, step = .next t ∧ t.firn = s.firn ∧
          (y.good = true → t.cell n = here c (put { y with phase := .there })) ∧
          (y.good = false → t.cell n = here c (put { back y with res := some (check 3) })) ∧
          t.servedBy (key / 2 ^ 27) 1 (256 * 4096 + c.stage) = s.servedBy (key / 2 ^ 27) 1 (256 * 4096 + c.stage) + 1) ∧
      (y.phase = .there → x.put = true → y.done.getLsbD w = false → (∀ v ∈ s.watches, h + 4 ≤ v.addr ∨ v.addr + v.size ≤ h) →
        let z : Block := { y with done := y.done ||| bit }
        (z.done ≠ all → step = .next { s.setCell n (here c (put z)) with firn := s.firn.writeN h 4 (word y.data w.val) }) ∧
        (z.done = all → step = .next { s.setCell n (here c (put (back z))) with
          firn := s.firn.writeN h 4 (word y.data w.val), badFirn := s.badFirn.filter fun l => decide (l ≠ key / 32) })) ∧
      (y.phase = .there → x.put = false → y.got.getLsbD w = false → key / 32 ∉ s.badFirn →
        ∃ d, (∀ i, i < 8 → word d i = if i = w.val then s.firn.readN h 4 else word y.data i) ∧
          let z : Block := { y with data := d, got := y.got ||| bit }
          step = .next (s.setCell n (here c (put (if z.got = all then back z else z))))) ∧
      (∀ f, port = some f → y.phase = .back →
        (∀ e, y.good = true → y.res = some e → ∃ t, step = .next t ∧ t.cell n = here c { settled with failed := x.failed.or (some e) }) ∧
        (y.good = false → ∃ t, step = .next t ∧ t.cell n = here c { settled with failed := x.failed.or (some (check 1)) }) ∧
        (y.good = true → y.res = none → x.put = true → ∃ t, step = .next t ∧ t.cell n = sent c settled) ∧
        (y.good = true → y.res = none → x.put = false → ∃ t, step = .next t ∧ t.cell n = here c (put { y with phase := .write }))) ∧
      (y.phase = .write → a + 32 ≤ 0x40000 → step = .next (s.setCell n (sent { c with sram := c.sram.writeN a 32 y.data.toNat } settled))))) ∧
  (∀ (s : State) (n : Nat) (k : Fin 2) (x : Copy),
    let c := s.cell n
    let step := exec (.copyComplete n k) s
    let ends (left : List Nat) : Prop := c.copyAct[k] = some x ∧ x.flight = [] ∧ x.work = [] ∧ x.left = left
    let freed : CellState := { c with
      copyAct := vset c.copyAct k none
      cts := match x.tmpl with
        | some i => vset c.cts i { c.cts[i] with active := false }
        | none => c.cts }
    let posted (d : CellState) (status : Nat) : CellState :=
      if x.notify then
        mailed d ⟨BitVec.ofNat 32 ((match x.tmpl with
          | some i => i.val
          | none => 16) + status * 32), BitVec.ofNat 8 (x.ctx.val * 64 + 1), false⟩
      else d
    let next (i : Fin 16) : List (Fin 16) := (c.cts[i]).s0.toList ++ (c.cts[i]).s1.toList
    let went (i : Fin 16) (d : CellState) : Prop :=
      (∀ j : Fin 16,
        let u := freed.cts[j]
        let left := u.count - (next i).count j
        d.cts[j] = if j ∈ next i ∧ u.armed = true ∧ left = 0 then { u with armed := false, pending := true, count := 0 }
          else { u with count := left }) ∧
      (∃ add, d.copyPend = c.copyPend ++ add ∧
        add.map (·.tmpl) = ((List.finRange 16).filter fun j =>
          decide (j ∈ next i) && (freed.cts[j]).armed && decide ((freed.cts[j]).count - (next i).count j = 0)).map some ∧
        ∀ y ∈ add, ∀ j, y.tmpl = some j →
          let u := freed.cts[j]
          y.put = u.put ∧ y.pa = u.pa.toNat ∧ y.wa = u.wa ∧ y.len = u.len ∧ y.ctx = u.ctx ∧ y.notify = u.notify ∧
          y.left = List.range (u.len / 32) ∧ y.work = [] ∧ y.flight = [] ∧ y.cancelled = false ∧ y.failed = none) ∧
      { d with cts := freed.cts, copyPend := c.copyPend, newPend := c.newPend } = freed
    (ends [] → x.failed = none → x.cancelled = false → x.tmpl = none → step = .next (s.setCell n (posted freed 0))) ∧
    (∀ i, ends [] → x.failed = none → x.cancelled = false → x.tmpl = some i → c.newPend = 0 →
      ∃ d, step = .next (s.setCell n (posted d 0)) ∧ went i d) ∧
    (∀ l, ends l → x.failed = none → x.cancelled = true → step = .next (s.setCell n (posted freed 2))) ∧
    (∀ l f, ends l → x.failed = some f → c.asyncRecs.length < 8 → (c.ctx x.ctx).status ≠ .halted →
      ∃ t, step = .next t ∧ stateWith t s.cells = s ∧ (∀ m, m ≠ n → AMap.get? t.cells m = AMap.get? s.cells m) ∧
        Reports s n x.ctx x.slot { f with unit := match x.tmpl with
          | some i => i.val
          | none => 16 } (posted freed (if f.cls = 8 then 3 else 1)) (t.cell n)) ∧
    (∀ l, ends l → l ≠ [] → x.failed = none → x.cancelled = false → step = .next s))

/-! ## Status and time -/

/-- R53, R54, R61, R260, R263, R271, R300, R312, R313, R339: each status instruction writes the value of what it names at the start of
its cycle; TIME.RD and CYC.RD latch the high half besides. -/
def Obligations.StatusReads : Prop :=
  ∀ (s : State) (c : Cue) (d : Dst) (p : PAct) (g lv : Fin 4) (rg : Fin 8) (ct bg : Fin 16), Ready s c ⟨[], some d, true, []⟩ →
    let c0 := s.cur
    let t0 := s.here
    let st := s.stage c0.stage
    let v := c0.gens[g]
    let r := c0.rings[rg]
    let tile (i : Nat) : Nat := r.base + i % (r.depth + 1) * ((r.tsz + 1) * 64)
    let u := c0.cts[ct]
    let b := c0.bars[bg]
    let copies := c0.copyPend ++ c0.copyAct.toList.filterMap id
    (∀ e ∈ [(Instr.sgStatCtl c g d p, v.dir.toNat + v.active.toNat * 2 + v.done.toNat * 4 + v.fault.toNat * 8 + v.rgen.toNat * 64 + v.rg.val * 128),
        (.sgStatIdx c g d lv p, (v.lv[lv]).idx.toNat), (.sgStatOcc c g d p, (c0.sq[g]).length + (c0.so[g]).length * 16),
        (.gStatCnt c rg d p, r.head + r.tail * 2 ^ 8 + r.count * 2 ^ 16), (.gStatHead c rg d p, tile r.head),
        (.gStatTail c rg d p, tile r.tail),
        (.cpStatDep c ct d p, u.pinit + u.s0.isSome.toNat * 2 ^ 5 + ((u.s0.getD u.s0f).val) * 2 ^ 6 + u.s1.isSome.toNat * 2 ^ 10
          + ((u.s1.getD u.s1f).val) * 2 ^ 11 + u.count * 2 ^ 15 + u.armed.toNat * 2 ^ 20 + u.pending.toNat * 2 ^ 21),
        (.cpStatEng c d p, (copies.filter (fun x => decide (x.ctx = s.focus.ctx))).length
          + (copies.filter (fun x => x.tmpl.isNone)).length * 2 ^ 5 + (c0.copyAct.toList.filterMap id).length * 2 ^ 8),
        (.barStat c bg d p, b.arr.toNat + b.done.toNat * 2 + b.relw.toNat * 4 + b.gen.toNat * 2 ^ 16),
        (.pwrRd c d 1 p, t0.undeclared), (.timeRdHi c d p, t0.timeLatch.toNat), (.cycRdHi c d p, t0.cycLatch.toNat),
        (.cycRdFired c d p, t0.fired.toNat), (.cycRdIdle c d p, c0.idle.toNat),
        (.idRd c d 0 p, c0.cx % 2 ^ 16 + c0.cy % 2 ^ 16 * 2 ^ 16), (.idRd c d 1 p, st.w % 2 ^ 16 + st.h % 2 ^ 16 * 2 ^ 16),
        (.idRd c d 2 p, c0.stage % 2 ^ 12 + st.scene % 2 ^ 16 * 2 ^ 16), (.idRd c d 3 p, s.host.modNum % 2 ^ 8),
        (.idRd c d 4 p, st.job % 2 ^ 16), (.idRd c d 5 p, c0.cy * st.w + c0.cx), (.idRd c d 6 p, s.focus.ctx.val)],
      ∃ t, exec e.1 s = .next t ∧ Results s t c [] d p (BitVec.ofNat 32 e.2) false 0) ∧
    (t0.phase = none → ∀ e ∈ [Instr.pwrRd c d 0 p, .pwrRd c d 3 p], ∃ t, exec e s = .next t ∧ Results s t c [] d p 0 false 0) ∧
    (∀ ph, t0.phase = some ph → ph.grant ≤ s.strip →
      (∃ t, exec (.pwrRd c d 0 p) s = .next t ∧ Results s t c [] d p
        (BitVec.ofNat 32 (2 + ph.gang.isSome.toNat * 4 + ph.int * 8 + ph.k * 128 + (ph.stop - s.strip) / 16 * 4096)) false 0) ∧
      ∃ t, exec (.pwrRd c d 3 p) s = .next t ∧ Results s t c [] d p (BitVec.ofNat 32 ph.budget) false 0) ∧
    (∀ ph, t0.phase = some ph → s.strip < ph.grant →
      (∃ t, exec (.pwrRd c d 0 p) s = .next t ∧ Results s t c [] d p
        (BitVec.ofNat 32 (1 + ph.gang.isSome.toNat * 4 + ph.int * 8 + ph.k * 128 + 64 * 2 ^ ph.k / 16 * 4096)) false 0) ∧
      ∃ t, exec (.pwrRd c d 3 p) s = .next t ∧ Results s t c [] d p 0 false 0) ∧
    (s.silent = [] → ∃ t, exec (.pwrRd c d 2 p) s = .next t ∧ Results s t c [] d p
      (BitVec.ofNat 32 (st.mask.isSome.toNat + (if st.mask.isSome then s.duty else 0) * 2 + (s.slowAt (s.clockKey (s.posKey s.focus.cell))).1.toNat * 64)) false 0) ∧
    (∃ t e, exec (.timeRd c d p) s = .next t ∧
      Settles (withHere s { t0 with timeLatch := BitVec.ofNat 32 (s.tick / 2 ^ 32) }) e s.focus.ctx d p (BitVec.ofNat 32 s.tick) false 0 ∧
      Fired s (s.setCur e) t c (fun _ => 0)) ∧
    (∃ t e, exec (.cycRd c d p) s = .next t ∧
      Settles (withHere s { t0 with cycLatch := BitVec.ofNat 32 (c0.cyc / 2 ^ 32) }) e s.focus.ctx d p (BitVec.ofNat 32 c0.cyc) false 0 ∧
      Fired s (s.setCur e) t c (fun _ => 0))

/-! ## Wafer space: what instructions issue -/

/-- R224, R228, R274, R276, R279: an aligned store, reduction or WPOKE leaves its cell as a request and is counted; with REL it waits in
the release station unless the counter is zero. A misaligned address is a precise ALIGN fault with the low address bits in its code. -/
def Obligations.WaferStoresIssue : Prop :=
  ∀ (s : State) (c : Cue) (rel dbl : Bool) (wr : Fin 4) (off : BitVec 12) (a b : Src) (v : Fin 8) (p : PAct),
    let x := s.src a
    let free := s.here.station.isNone && !s.here.acq && decide (s.here.uack < 255)
    let u := s.here.act p false
    let issues (i : Instr) (srcs : List Src) (size : Nat) (r : Bool) (kind : ReqKind) : Prop :=
      let ad := waferAddr s.here wr off size
      Ready s c ⟨srcs, none, free, []⟩ →
        (ad.toNat % size = 0 →
          ∃ t, exec i s = .next t ∧ Fired s (issued s u r (requestAt s kind ad)) t c (deqs srcs)) ∧
        (ad.toNat % size ≠ 0 →
          ∃ t, exec i s = .next t ∧ Faults s t
            { cls := 4, code := 16 + ad.toNat % 4, opnd := BitVec.ofNat 32 (ad.toNat / 4 % 2 ^ 32)
              modNum := ad.toNat / 2 ^ 48 % 2 ^ 8, ahi := ad.toNat / 2 ^ 34 % 2 ^ 14 })
    issues (.wstw c rel wr off a p) [a] 4 rel (.store4 x) ∧
    issues (.wstd c rel wr off a b p) [a, b] 8 rel (.store8 (s.src b ++ x)) ∧
    issues (.wstv c rel wr off v p) [] 64 rel (.store64 s.here.v[v]) ∧
    issues (.wpoke c dbl wr off p) [] (if dbl then 8 else 4) false (.wpoke dbl) ∧
    ∀ e ∈ [(Instr.redAddI32 c rel wr off a p, RedFn.addI32), (.redAddF32 c rel wr off a p, .addF32),
        (.redAddBf16x2 c rel wr off a p, .addBf16x2), (.redMaxF32 c rel wr off a p, .maxF32), (.redMinF32 c rel wr off a p, .minF32),
        (.redAnd c rel wr off a p, .and), (.redOr c rel wr off a p, .or), (.redXor c rel wr off a p, .xor)],
      issues e.1 [a] 4 rel (.red e.2 x)

/-- R229, R275, R277: a returning atomic reserves its destination registers, whose presence must be clear, and issues with its operands;
with acquire it holds its context's requests; WAITA records its watch with the deadline that its ticks give. -/
def Obligations.AtomicsAndWatchesIssue : Prop :=
  ∀ (s : State) (c : Cue) (ord : Ord) (wr : Fin 4) (off : BitVec 12) (d8 n : Fin 8) (d4 : Fin 4) (a tk : Src) (p : PAct),
    let free := s.here.station.isNone && !s.here.acq && decide (s.here.uack < 255)
    let acq := decide (ord = .acquire) || decide (ord = .acqRel)
    let rel := decide (ord = .release) || decide (ord = .acqRel)
    let open8 (d : Fin 8) : Bool := !s.here.pres.getLsbD d && !s.here.resv.getLsbD d
    let lo : Fin 8 := Fin.ofNat 8 (2 * d4.val)
    let hi : Fin 8 := Fin.ofNat 8 (2 * d4.val + 1)
    let pair (m : Fin 8) : DWord := s.here.getX (Fin.ofNat 16 (2 * m.val + 1)) ++ s.here.getX (Fin.ofNat 16 (2 * m.val))
    let one (i : Instr) (srcs : List Src) (fn : AmoFn) (opnd : DWord) : Prop :=
      let ad := waferAddr s.here wr off 4
      Ready s c ⟨srcs, none, free && open8 d8, []⟩ → ad.toNat % 4 = 0 →
        ∃ t, exec i s = .next t ∧
          Fired s (issued s { s.here with resv := setBit s.here.resv d8 true, acq := acq } rel
            (requestAt s (.amo fn false acq opnd ((s.here.getX (presReg d8)).setWidth 64) d8 p) ad)) t c (deqs srcs)
    let two (i : Instr) (fn : AmoFn) (opnd : DWord) : Prop :=
      let ad := waferAddr s.here wr off 8
      Ready s c ⟨[], none, free && (open8 lo && open8 hi), []⟩ → ad.toNat % 8 = 0 →
        ∃ t, exec i s = .next t ∧
          Fired s (issued s { s.here with resv := setBit (setBit s.here.resv lo true) hi true, acq := acq } rel
            (requestAt s (.amo fn true acq opnd (pair (Fin.ofNat 8 (4 + d4.val))) lo p) ad)) t c (fun _ => 0)
    let watches (cmp : WCmp) (srcs : List Src) (size : Nat) (v : DWord) : Prop :=
      let ad := waferAddr s.here wr off size
      let w := (s.src tk).toNat
      Ready s c ⟨tk :: srcs, none, free && !s.here.watchOut, []⟩ → ad.toNat % size = 0 →
        ∃ t, exec (.waita c wr off tk cmp p) s = .next t ∧
          Fired s (issued s { s.here.act p false with
            watchOut := true, watch := if w = 0 then none else some (s.tick + w), watchId := none
            watchNo := s.here.watchNo + 1 } false
            (requestAt s (.waita (decide (size = 8)) v true) ad)) t c (deqs (tk :: srcs))
    (∀ e ∈ [(Instr.amoAdd c ord wr off d8 a p, AmoFn.add), (.amoAnd c ord wr off d8 a p, .and), (.amoOr c ord wr off d8 a p, .or),
        (.amoXor c ord wr off d8 a p, .xor), (.amoMin c ord wr off d8 a p, .min), (.amoMax c ord wr off d8 a p, .max),
        (.amoMinn c ord wr off d8 a p, .minn), (.amoMaxn c ord wr off d8 a p, .maxn), (.amoSwap c ord wr off d8 a p, .swap),
        (.amoCas c ord wr off d8 a p, .cas)], one e.1 [a] e.2 ((s.src a).setWidth 64)) ∧
    one (.amoLd c ord wr off d8 p) [] .ld 0 ∧
    (∀ e ∈ [(Instr.amodAdd c ord wr off d4 n p, AmoFn.add), (.amodAnd c ord wr off d4 n p, .and), (.amodOr c ord wr off d4 n p, .or),
        (.amodXor c ord wr off d4 n p, .xor), (.amodMin c ord wr off d4 n p, .min), (.amodMax c ord wr off d4 n p, .max),
        (.amodMinn c ord wr off d4 n p, .minn), (.amodMaxn c ord wr off d4 n p, .maxn), (.amodSwap c ord wr off d4 n p, .swap),
        (.amodCas c ord wr off d4 n p, .cas)], two e.1 e.2 (pair n)) ∧
    two (.amodLd c ord wr off d4 p) .ld 0 ∧
    watches (.word a) [a] 4 ((s.src a).setWidth 64) ∧ watches (.pair n) [] 8 (pair n)

/-- R228, R230, R280, R281, R299: the three FENCE forms fire, with no effect of their own, once their context's counter is zero and no
copy of it is under way, as the form asks, and its station is empty; MARK and an arrival with REL go out on CTRL at once where the
counter is zero, else they take the station; BAR.ARR sets ARR, clears DONE and goes out at once. A swap of the stage's CTRL tables holds
what goes out at its source (R23). That both go to the stage's director and barrier logic at one router (log 72), and that the arrival
of each cell is an item of its own (log 22), is the model's choice, and so is that MARK and FENCE.C fire while the context awaits an
acquiring atomic: an occupied station holds them, and the atomic does not (log 87). -/
def Obligations.FencesMarksArrivals : Prop :=
  ∀ (s : State) (c : Cue) (a : Src) (g : Fin 16) (p : PAct),
    let noCopy := !s.cur.copyPend.any (fun x => decide (x.ctx = s.focus.ctx))
      && s.cur.copyAct.all (fun x => x.all fun y => decide (y.ctx ≠ s.focus.ctx))
    let idle := decide (s.here.uack = 0)
    let empty := s.here.station.isNone
    let num := (s.src a).toNat % 2 ^ 16
    let acted := s.here.act p false
    let k := s.ctrlOf s.cur.stage
    let way := (s.focus.cell, directorAt)
    let out (t : State) (w : CtrlWhat) : State :=
      { t with
        ctrl := if k.pending then t.ctrl else t.ctrl.put s.cur.stage { k with sent := if way ∈ k.sent then k.sent else k.sent ++ [way] }
        items := t.items ++ [⟨s.cur.stage, s.focus.cell, directorAt, w, k.pending,
          ⟨s.focus.cell % 320, s.focus.cell % 320, s.focus.cell / 320, [], s.strip⟩⟩] }
    let ports (w : Bool) : CellState := { s.cur with bars := vset s.cur.bars g { s.cur.bars[g] with arr := true, done := false, relw := w } }
    let sent (e : CellState) : State := out (s.setCur e) (.arrive g)
    (Ready s c ⟨[], none, empty && idle, []⟩ → ∃ t, exec (.fenceW c p) s = .next t ∧ Acts s t c (fun _ => 0) p s.cur) ∧
    (Ready s c ⟨[], none, empty && noCopy, []⟩ → ∃ t, exec (.fenceC c p) s = .next t ∧ Acts s t c (fun _ => 0) p s.cur) ∧
    (Ready s c ⟨[], none, empty && idle && noCopy, []⟩ → ∃ t, exec (.fenceAll c p) s = .next t ∧ Acts s t c (fun _ => 0) p s.cur) ∧
    (Ready s c ⟨[a], none, empty, []⟩ →
      ∃ t, exec (.mark c a p) s = .next t ∧
        Fired s (if s.here.uack = 0 then out (s.setCur (withHere s acted)) (.mark s.focus.ctx num)
          else s.setCur (withHere s { acted with station := some (.mark num) })) t c (deqs [a])) ∧
    (Ready s c ⟨[], none, !(s.cur.bars[g]).arr, []⟩ →
      ∃ t, exec (.barArr c g p) s = .next t ∧ Fired s (sent ((ports false).setCtx s.focus.ctx acted)) t c (fun _ => 0)) ∧
    (Ready s c ⟨[], none, !(s.cur.bars[g]).arr && empty, []⟩ →
      ∃ t, exec (.barArrRel c g p) s = .next t ∧
        Fired s (if s.here.uack = 0 then sent ((ports false).setCtx s.focus.ctx acted)
          else s.setCur ((ports true).setCtx s.focus.ctx { acted with station := some (.arrive g) })) t c (fun _ => 0))

/-! ## Power phases -/

/-- R305 to R309: a declaration that no context in question holds is granted at the requested start plus the stagger of the cell's
strip, for a gang in every member, where the positions of each field at full intensity stay within its limit; a context that has one is
refused with reason 1, a gang whose member or whose group holds one with reason 2, a gang form outside its group with reason 3; that
reason 1 comes before 3, and 3 before 2 where several hold, is the model's choice (log 24). Else the declaration takes the first of the
admission delays 0, 256, … 65,536 at which the load of each field stays within its limit through its windows, a cell counting at most
15, and is refused with reason 4 where none does. Of a gang the declaring context alone owns the declaration (R309). The end forms end
what was declared, that of a gang from any member. -/
def Obligations.PowerPhases : Prop :=
  ∀ (s : State) (c : Cue) (a : Src) (onset : BitVec 12) (int : Fin 16) (k : Fin 32) (p : PAct),
    let n := s.focus.cell
    let x := s.focus.ctx
    let grp : Fin 16 := Fin.ofNat 16 (s.src a).toNat
    let mem := (s.cells.filter fun e => decide (e.2.stage = s.cur.stage) && (e.2.bars[grp]).member).map fun e => e.1
    let grant (m : Nat) : Nat := max (s.strip + 16 * onset.toNat) (s.strip + 256) + 16 * ((3 * (m / 320 % 64) + s.physCol m % 48 / 16) % 16)
    let window (m : Nat) (gang : Option (Fin 16)) : Phase :=
      ⟨grant m, grant m + 64 * 2 ^ k.val, int.val, k.val, gang, int.val * 4 * 2 ^ k.val, false, decide (m = n)⟩
    let admits (m : Nat) : Prop :=
      ((s.cells.filter fun e => decide (s.fieldOf e.1 = s.fieldOf m)).map fun e => e.1).dedup.length * 15 ≤ s.fl[Fin.ofNat 64 (s.fieldOf m)]
    let len := 64 * 2 ^ k.val
    let load (mm : List Nat) (d f t : Nat) : Nat :=
      let covers (g e : Nat) : Bool := decide (g ≤ t ∧ t < e)
      let at' (m : Nat) : Nat :=
        ((s.cells.filter fun e => decide (e.1 = m)).flatMap fun e => e.2.ctxs.toList.flatMap fun u =>
          (u.phase.toList.filter fun ph => covers ph.grant ph.stop).map fun ph => ph.int).sum
          + if m ∈ mm ∧ covers (grant m + d) (grant m + d + len) = true then int.val else 0
      (((s.cells.map fun e => e.1).dedup.filter fun m => decide (s.fieldOf m = f)).map fun m => min 15 (at' m)).sum
    let fits (mm : List Nat) (d : Nat) : Prop := ∀ m ∈ mm, ∀ t, grant m + d ≤ t → t < grant m + d + len →
      load mm d (s.fieldOf m) t ≤ s.fl[Fin.ofNat 64 (s.fieldOf m)]
    let later (d m : Nat) (gang : Option (Fin 16)) : Phase := { window m gang with grant := grant m + d, stop := grant m + d + len }
    let first (mm : List Nat) (j : Nat) : Prop := j ≤ 256 ∧ fits mm (256 * j) ∧ ∀ i, i < j → ¬ fits mm (256 * i)
    let never (mm : List Nat) : Prop := ∀ j, j ≤ 256 → ¬ fits mm (256 * j)
    let acted := s.here.act p false
    let refusal (r : Nat) : CellState :=
      { withHere s acted with
        mail7 := s.cur.mail7 ++ [[⟨BitVec.ofNat 32 r, BitVec.ofNat 8 (x.val * 64 + 0x28), false⟩]] }
    let gone (u : Context) : Context := if u.phase.isSome then { u with phase := none, granted := false } else u
    let ofGang (u : Context) : Bool := u.phase.any fun ph => decide (ph.gang = some grp)
    let held (u : Context) : Bool := u.phase.any fun ph => decide (s.strip < ph.stop)
    (Ready s c ⟨[], none, true, []⟩ →
      (held s.here = false → admits n →
        ∃ t, exec (.phase c onset int k p) s = .next t ∧
          Fired s (s.setCur (withHere s { gone acted with phase := some (window n none) })) t c (fun _ => 0)) ∧
      (∀ j, held s.here = false → first [n] j →
        ∃ t, exec (.phase c onset int k p) s = .next t ∧
          Fired s (s.setCur (withHere s { gone acted with phase := some (later (256 * j) n none) })) t c (fun _ => 0)) ∧
      (held s.here = false → never [n] →
        ∃ t, exec (.phase c onset int k p) s = .next t ∧ Fired s (s.setCur (refusal 4)) t c (fun _ => 0)) ∧
      (held s.here = true → ∃ t, exec (.phase c onset int k p) s = .next t ∧ Fired s (s.setCur (refusal 1)) t c (fun _ => 0)) ∧
      ∃ t, exec (.phaseEnd c p) s = .next t ∧ Acts s t c (fun _ => 0) p (withHere s (gone s.here))) ∧
    (Ready s c ⟨[a], none, true, []⟩ →
      (held s.here = true → ∃ t, exec (.phaseGang c a onset int k p) s = .next t ∧ Fired s (s.setCur (refusal 1)) t c (deqs [a])) ∧
      (held s.here = false → (s.cur.bars[grp]).member = true → (∀ m ∈ mem, held ((s.cell m).ctx x) = false) →
        (∀ e ∈ s.cells, e.2.stage = s.cur.stage → ∀ i, held (e.2.ctx i) = true → ofGang (e.2.ctx i) = false) →
        (∀ j, first mem.dedup j →
          ∃ t s1, exec (.phaseGang c a onset int k p) s = .next t ∧
            CellsBecome (s.setCur (withHere s acted)) s1 (fun m e =>
              if m ∈ mem then e.setCtx x { gone (e.ctx x) with phase := some (later (256 * j) m (some grp)) } else e) ∧
            Fired s s1 t c (deqs [a])) ∧
        (never mem.dedup → ∃ t, exec (.phaseGang c a onset int k p) s = .next t ∧ Fired s (s.setCur (refusal 4)) t c (deqs [a]))) ∧
      (held s.here = false → (s.cur.bars[grp]).member = true → (∀ m ∈ mem, held ((s.cell m).ctx x) = false ∧ admits m) →
        (∀ e ∈ s.cells, e.2.stage = s.cur.stage → ∀ i, held (e.2.ctx i) = true → ofGang (e.2.ctx i) = false) →
        ∃ t s1, exec (.phaseGang c a onset int k p) s = .next t ∧
          CellsBecome (s.setCur (withHere s acted)) s1 (fun m e =>
            if m ∈ mem then e.setCtx x { gone (e.ctx x) with phase := some (window m (some grp)) } else e) ∧
          Fired s s1 t c (deqs [a])) ∧
      (held s.here = false → (s.cur.bars[grp]).member = true →
        ((∃ m ∈ mem, held ((s.cell m).ctx x) = true) ∨
          ∃ e ∈ s.cells, e.2.stage = s.cur.stage ∧ ∃ i, held (e.2.ctx i) = true ∧ ofGang (e.2.ctx i) = true) →
        ∃ t, exec (.phaseGang c a onset int k p) s = .next t ∧ Fired s (s.setCur (refusal 2)) t c (deqs [a])) ∧
      (held s.here = false → (s.cur.bars[grp]).member = false →
        ∃ t, exec (.phaseGang c a onset int k p) s = .next t ∧ Fired s (s.setCur (refusal 3)) t c (deqs [a])) ∧
      ((s.cur.bars[grp]).member = true →
        ∃ t s1, exec (.phaseEndGang c a p) s = .next t ∧
          CellsBecome (s.setCur (withHere s acted)) s1 (fun m e =>
            if m ∈ mem ∧ ofGang (e.ctx x) = true then e.setCtx x (gone (e.ctx x)) else e) ∧
          Fired s s1 t c (deqs [a])) ∧
      ((s.cur.bars[grp]).member = false →
        ∃ t, exec (.phaseEndGang c a p) s = .next t ∧ Acts s t c (deqs [a]) p s.cur))

/-! ## Contexts, traps, configuration -/

/-- R294, R347 to R349: HALT halts the named contexts, its own where it names none; a trap makes its record with the operand and,
parking, parks its context; BKPT does so for the host, and without debug enable has no effect of its own, though its sources are taken
and its predicate action happens (log 23). -/
def Obligations.HaltAndTraps : Prop :=
  ∀ (s : State) (c : Cue) (mask : BitVec 4) (a : Src) (code : Fin 32) (p : PAct),
    let named (k : Fin 4) : Bool := if mask = 0 then decide (k = s.focus.ctx) else mask.getLsbD k.val
    let dbg := (s.stage s.cur.stage).debug
    let free := s.here.record.isNone && s.here.beside.isEmpty
    let kept (r : Record) : Context := { s.here with record := some (r, s.tick) }
    let parked (r : Record) : Context := { kept r with pres := setBit s.here.pres 7 false, status := .parkTrap }
    (Ready s c ⟨[], none, true, []⟩ →
      ∃ t, exec (.halt c mask p) s = .next t ∧ Acts s t c (fun _ => 0) p { s.cur with
        ctxs := Vector.ofFn fun k => if named k then { s.cur.ctxs[k] with status := .halted, release := none } else s.cur.ctxs[k] }) ∧
    (Ready s c ⟨[a], none, free, []⟩ →
      (∃ t r, exec (.trap c a code p) s = .next t ∧ IsRecord s { cls := 13, code := code.val, opnd := s.src a } .trap r ∧
        Acts s t c (deqs [a]) p (withHere s (kept r))) ∧
      (∃ t r, exec (.trapPark c a code p) s = .next t ∧ IsRecord s { cls := 13, code := code.val, opnd := s.src a } .trap r ∧
        Acts s t c (deqs [a]) p (withHere s (parked r))) ∧
      (dbg = true →
        ∃ t r, exec (.bkpt c a code p) s = .next t ∧ IsRecord s { cls := 14, code := code.val, opnd := s.src a } .host r ∧
          Acts s t c (deqs [a]) p (withHere s (parked r)))) ∧
    (Ready s c ⟨[a], none, true, []⟩ → dbg = false →
      ∃ t, exec (.bkpt c a code p) s = .next t ∧ Acts s t c (deqs [a]) p s.cur)

/-- R37, R40, R61, R266, R334, R336, R337: words of the configuration map as CFG.RD reads them, and OPERAND code 0x0A outside the map;
CFG.WR of the two kinds of word that have RW fields; CUE.WR and CUE.EN write an entry that R40 admits and fault on any other. R334,
R336, R61: the other words of the configuration map as CFG.RD reads them, the gaps in its rows, and CFG.WR of the other template words,
of a template in use, of read-only words and outside the map. R338, R88 to R91: a SLOT.LD checks its address in its firing cycle, ALIGN
before PRIVATE_BOUNDS, and holds the arbiter for one cycle for each 64-byte block of its image. In the last of these cycles it writes
the slots of its range whose mask bit is set and empties the others, or, where a word of the range or beside it then fails the slot
checks, it faults with class INSTALL, the code of the check and the slot that fails first, and changes no slot. Words of the image with
one wrong bit count as corrected (R352, log 78). That the whole image is read in the last held cycle (log 21), which code a word with
several faults has (log 10), and which slot and word the record names (log 83), is the model's choice. -/
def Obligations.ConfigurationCuesSlots : Prop :=
  (∀ (s : State) (c i : Cue) (d : Dst) (v a : Src) (ca : BitVec 12) (en : Bool) (p : PAct) (rg : Fin 8) (g : Fin 4) (ct : Fin 16)
      (sl : Fin 128),
    let x := ((s.src a).toNat + ca.toNat) % 2 ^ 12
    let c0 := s.cur
    let r := c0.rings[rg]
    let u := c0.cts[ct]
    let new := s.src v
    let up (k : Fin 4) (n : Nat) : Nat := (c0.ctx k).uack % 256 * 2 ^ n
    let cue (e : DWord) : CellState :=
      { c0 with cues := vset c0.cues i e, badCues := c0.badCues.filter (fun b => decide (b ≠ i.val ∧ b ≠ i.val + 64)) }
    let flip : DWord := if en then c0.cues[i] ||| 0x1000000000000000 else c0.cues[i] &&& 0xEFFFFFFFFFFFFFFF
    (Ready s c ⟨[a], some d, true, []⟩ →
      (∀ e ∈ [((0 : Nat), c0.suuord.toNat), (1, up 0 0 + up 1 8 + up 2 16 + up 3 24), (0x10 + 3 * rg.val, r.base),
          (0x11 + 3 * rg.val, r.tsz + r.depth * 2 ^ 12 + r.prod * 2 ^ 20 + r.pidx * 2 ^ 23),
          (0x12 + 3 * rg.val, r.head + r.tail * 2 ^ 8 + r.count * 2 ^ 16), (0x40 + 16 * g.val, (c0.gens[g]).base.toNat),
          (0x80 + 8 * ct.val, u.pa.toNat), (0x110, c0.feeds.toNat), (0x11A, c0.sliceMiB), (0x180 + 2 * i.val, (c0.cues[i]).toNat),
          (0x181 + 2 * i.val, (c0.cues[i]).toNat / 2 ^ 32), (0x200 + sl.val, ((c0.slots[sl]).getD 0).toNat)],
        x = e.1 → ∃ t, exec (.cfgRd c d a ca p) s = .next t ∧ Results s t c [a] d p (BitVec.ofNat 32 e.2) (srcX c0 a) 0) ∧
      (2 ≤ x ∧ x < 0x10 ∨ 0x28 ≤ x ∧ x < 0x40 ∨ 0x11C ≤ x ∧ x < 0x180 ∨ 0x284 ≤ x →
        ∃ t, exec (.cfgRd c d a ca p) s = .next t ∧ Faults s t { cls := 2, code := 10, opnd := BitVec.ofNat 32 x })) ∧
    (Ready s c ⟨[v, a], none, true, []⟩ →
      (x = 0 → ∃ t, exec (.cfgWr c v a ca p) s = .next t ∧ Acts s t c (deqs [v, a]) p { c0 with suuord := new.getLsbD 0 }) ∧
      (x = 0x80 + 8 * ct.val → u.armed = false → u.pending = false → u.active = false →
        ∃ t, exec (.cfgWr c v a ca p) s = .next t ∧ Acts s t c (deqs [v, a]) p { c0 with cts := vset c0.cts ct { u with pa := new } }) ∧
      (x = 0x80 + 8 * ct.val → u.armed = true →
        ∃ t, exec (.cfgWr c v a ca p) s = .next t ∧ Faults s t { cls := 2, code := 8, opnd := BitVec.ofNat 32 x }) ∧
      (x = 1 ∨ 0x10 ≤ x ∧ x < 0x28 → ∃ t, exec (.cfgWr c v a ca p) s = .next t ∧ Acts s t c (deqs [v, a]) p c0) ∧
      let e : DWord := s.src v ++ s.src a
      (cueBad c0 e = false → ∃ t, exec (.cueWr c v a i.castSucc p) s = .next t ∧ Acts s t c (deqs [v, a]) p (cue e)) ∧
      (cueBad c0 e = true →
        ∃ t, exec (.cueWr c v a i.castSucc p) s = .next t ∧ Faults s t { cls := 1, code := 7, opnd := BitVec.ofNat 32 i.val }) ∧
      (e.getLsbD 60 = false → cueBad c0 e = false) ∧ (e.getLsbD 60 = true → e.getLsbD 63 = true → cueBad c0 e = true)) ∧
    (Ready s c ⟨[], none, true, []⟩ →
      (cueBad c0 flip = false →
        ∃ t, exec (.cueEn c i.castSucc en p) s = .next t ∧ Acts s t c (fun _ => 0) p { c0 with cues := vset c0.cues i flip }) ∧
      (cueBad c0 flip = true →
        ∃ t, exec (.cueEn c i.castSucc en p) s = .next t ∧ Faults s t { cls := 1, code := 7, opnd := BitVec.ofNat 32 i.val }))) ∧
  (∀ (s : State) (c : Cue) (d : Dst) (v a : Src) (ca : BitVec 12) (p : PAct) (rg : Fin 8) (g : Fin 4) (l : Fin 4) (ct : Fin 16) (q : Fin 4),
    let x := ((s.src a).toNat + ca.toNat) % 2 ^ 12
    let c0 := s.cur
    let b (t : Bool) (n : Nat) : Nat := if t then 2 ^ n else 0
    let w := c0.gens[g]
    let lv := w.lv[l]
    let u := c0.cts[ct]
    let port := c0.scan[rg]
    let route (k : Nat) : Nat := match c0.routes[rg] with
      | some r => (if k = 0 then r.w0 else r.w1).toNat
      | none => 0
    let trap : Nat := match c0.trap with
      | some t => t.1 % 2 ^ 16 + t.2 % 2 ^ 16 * 2 ^ 16
      | none => 0xFFFFFFFF
    let gap : Prop := 0x4A + 16 * g.val ≤ x ∧ x < 0x50 + 16 * g.val ∨ 0x85 + 8 * ct.val ≤ x ∧ x < 0x88 + 8 * ct.val ∨ x = 0x1FE ∨ x = 0x1FF
    let out : Prop := 2 ≤ x ∧ x < 0x10 ∨ 0x28 ≤ x ∧ x < 0x40 ∨ 0x11C ≤ x ∧ x < 0x180 ∨ 0x284 ≤ x ∨ gap
    let new := s.src v
    let n := new.toNat
    let here (k : Nat) : Prop := x = 0x80 + 8 * ct.val + k
    (Ready s c ⟨[a], some d, true, []⟩ →
      (∀ e ∈ [((0x41 : Nat) + 16 * g.val, b w.dir 0 + b w.active 1 + b w.done 2 + b w.fault 3 + b w.rgen 6 + w.rg.val * 2 ^ 7),
          (0x42 + 16 * g.val + 2 * l.val, lv.stride.toNat + lv.cntm1.toNat % 2 ^ 8 * 2 ^ 24),
          (0x43 + 16 * g.val + 2 * l.val, lv.cntm1.toNat / 2 ^ 8 + lv.idx.toNat * 2 ^ 8), (0x81 + 8 * ct.val, u.wa.toNat % 2 ^ 32),
          (0x82 + 8 * ct.val, u.wa.toNat / 2 ^ 32), (0x83 + 8 * ct.val, u.len + b u.put 24 + u.ctx.val * 2 ^ 25 + b u.notify 27),
          (0x84 + 8 * ct.val, u.pinit + b u.s0.isSome 5 + (u.s0.getD u.s0f).val * 2 ^ 6 + b u.s1.isSome 10 + (u.s1.getD u.s1f).val * 2 ^ 11
            + u.count * 2 ^ 15 + b u.armed 20 + b u.pending 21),
          (0x100 + 2 * rg.val, route 0), (0x101 + 2 * rg.val, route 1),
          (0x111, ((List.finRange 16).map fun i => b (c0.bars[i]).member i.val).sum),
          (0x112 + rg.val, b port.member 0 + b port.dir 1 + b port.epoch 2 + port.pos * 2 ^ 3 + b port.pmark 21), (0x11B, trap),
          (0x280 + q.val, ((List.range 32).map fun i => b (c0.slots[Fin.ofNat 128 (32 * q.val + i)]).isSome i).sum)],
        x = e.1 → ∃ t, exec (.cfgRd c d a ca p) s = .next t ∧ Results s t c [a] d p (BitVec.ofNat 32 e.2) (srcX c0 a) 0) ∧
      (gap → ∃ t, exec (.cfgRd c d a ca p) s = .next t ∧ Faults s t { cls := 2, code := 10, opnd := BitVec.ofNat 32 x })) ∧
    (Ready s c ⟨[v, a], none, true, []⟩ →
      (u.armed = false → u.pending = false → u.active = false →
        ∀ e ∈ [(1, { u with wa := BitVec.ofNat 64 (u.wa.toNat / 2 ^ 32 * 2 ^ 32 + n) }),
            (2, { u with wa := BitVec.ofNat 64 (n % 2 ^ 24 * 2 ^ 32 + u.wa.toNat % 2 ^ 32) }),
            (3, { u with len := n % 2 ^ 24, put := n.testBit 24, ctx := Fin.ofNat 4 (n / 2 ^ 25), notify := n.testBit 27 }),
            (4, { u with
              pinit := n % 2 ^ 5, s0 := if n.testBit 5 then some (Fin.ofNat 16 (n / 2 ^ 6)) else none
              s1 := if n.testBit 10 then some (Fin.ofNat 16 (n / 2 ^ 11)) else none, s0f := Fin.ofNat 16 (n / 2 ^ 6)
              s1f := Fin.ofNat 16 (n / 2 ^ 11) })],
          here e.1 → ∃ t, exec (.cfgWr c v a ca p) s = .next t ∧ Acts s t c (deqs [v, a]) p { c0 with cts := vset c0.cts ct e.2 }) ∧
      (∀ k, k < 5 → here k → u.armed = true ∨ u.pending = true ∨ u.active = true →
        ∃ t, exec (.cfgWr c v a ca p) s = .next t ∧ Faults s t { cls := 2, code := 8, opnd := BitVec.ofNat 32 x }) ∧
      (out → ∃ t, exec (.cfgWr c v a ca p) s = .next t ∧ Faults s t { cls := 2, code := 10, opnd := BitVec.ofNat 32 x }) ∧
      (x ≠ 0 → (x < 0x80 ∨ 0x100 ≤ x) → ¬ out → (∀ g' : Fin 4, ¬ (0x4A + 16 * g'.val ≤ x ∧ x < 0x50 + 16 * g'.val)) →
        ∃ t, exec (.cfgWr c v a ca p) s = .next t ∧ Acts s t c (deqs [v, a]) p c0))) ∧
  (∀ (s : State) (c : Cue) (a : Src) (first n1 : Fin 128) (p : PAct) (m slot left at0 : Nat) (x : Fin 4),
    let n := n1.val + 1
    let len := ((n + 31) / 32 + n) * 4
    let loaded (c0 : CellState) (i : Fin 128) : Option Word :=
      if (c0.sram.readN (at0 + (i.val - first.val) / 32 * 4) 4).testBit ((i.val - first.val) % 32) then
        some (BitVec.ofNat 32 (c0.sram.readN (at0 + ((n + 31) / 32 + (i.val - first.val)) * 4) 4))
      else none
    let kept (c0 : CellState) : CellState := { mended c0 at0 len with hold := .none }
    let new (c0 : CellState) : CellState :=
      { kept c0 with
        slots := Vector.ofFn fun i => if first ≤ i ∧ i.val < first.val + n then loaded c0 i else c0.slots[i]
        badSlots := c0.badSlots.filter (fun b => !(decide (first.val ≤ b) && decide (b < first.val + n))) }
    let ends (s1 : State) (o : Host.Outcome State Fault Refusal) : Prop :=
      (∀ w ∈ s1.cur.badSram, w * 8 + 8 ≤ at0 ∨ at0 + len ≤ w * 8) →
        ((∀ k, first.val - 1 ≤ k → k ≤ first.val + n → slotBadCode (new s1.cur) k = none) →
          ∃ t, o = .next t ∧ Acts s1 t c (deqs [a]) p (new s1.cur)) ∧
        ∀ k e, first.val - 1 ≤ k → k ≤ first.val + n → slotBadCode (new s1.cur) k = some e →
          (∀ j, first.val - 1 ≤ j → j < k → slotBadCode (new s1.cur) j = none) →
          ∃ t, o = .next t ∧ Faults { s1.setCur (kept s1.cur) with focus := ⟨s1.focus.cell, k, s1.focus.ctx⟩ } t
            { cls := 1, code := e, opnd := ((new s1.cur).slot k).getD 0 }
    let run := exec (.slotLd c a first n1 p) s
    (first.val + n ≤ 128 → at0 = (s.src a).toNat → Ready s c ⟨[a], none, true, []⟩ →
      let blocks := (at0 + len - 1) / 64 - at0 / 64 + 1
      (at0 % 4 ≠ 0 → ∃ t, run = .next t ∧ Faults s t { cls := 4, code := 0, opnd := s.src a }) ∧
      (at0 % 4 = 0 → 0x40000 < at0 + len → ∃ t, run = .next t ∧ Faults s t { cls := 3, code := 0, opnd := s.src a }) ∧
      (at0 % 4 = 0 → at0 + len ≤ 0x40000 → blocks = 1 → ends s run) ∧
      (at0 % 4 = 0 → at0 + len ≤ 0x40000 → blocks ≠ 1 →
        run = .next (s.setCur (holding s.cur (.slotLd (blocks - 1) s.focus.slot s.focus.ctx c a first.val n1.val at0 p))))) ∧
    ((s.cell m).hold = .slotLd left slot x c a first.val n1.val at0 p →
      (2 ≤ left → cycleWork s m = .next (s.setCell m (holding (s.cell m) (.slotLd (left - 1) slot x c a first.val n1.val at0 p)))) ∧
      (left ≤ 1 → ends { s with focus := ⟨m, slot, x⟩ } (cycleWork s m))))

/-- R32, R33, R232, R255, R256, R346: a remote write leaves its cell with credit for its register, behind earlier ones of its cell to
the target unless these are held there (log 26); in its turn it is delivered and sets its register and presence bit; into `x15` of a
parked context, with no record beside its place and no failed response that waits, it ends the park by its two low bits: resume, halt,
skip or halt all. -/
def Obligations.RemoteWritesRelease : Prop :=
  ∀ (s : State) (n m : Nat) (w : Put) (k : Fin 4),
    let c := s.cell m
    let u := c.ctx k
    let written (r : Fin 8) (v : Word) : Context :=
      { u with x := vset u.x (Fin.ofNat 16 (8 + r.val)) v, pres := setBit u.pres r true }
    w.ctx = k → u.pres.getLsbD w.r.val = false → u.resv.getLsbD w.r.val = false → u.was.getLsbD w.r.val = false →
    let parked := u.status = .parkFault ∨ u.status = .parkTrap
    let after : CellState := c.putWrite k w.r w.value
    (w.r ≠ 7 ∨ ¬ parked → after = c.setCtx k (written w.r w.value)) ∧
    (w.r = 7 → u.beside = [] → u.respFaults = 0 →
      (u.status = .parkTrap ∨ u.status = .parkFault ∧ w.value.toNat % 4 = 0 →
        after = c.setCtx k { written 7 w.value with status := .running, release := none }) ∧
      (u.status = .parkFault → w.value.toNat % 4 = 1 → after = c.setCtx k { written 7 w.value with status := .halted, release := none }) ∧
      (u.status = .parkFault → w.value.toNat % 4 = 2 →
        (after.ctx k).status = .running ∧ ∀ q : Fin 8, after.iq[q] = (c.iq[q]).drop (u.parkDeq.count q)) ∧
      (u.status = .parkFault → w.value.toNat % 4 = 3 → ∀ j, (after.ctx j).status = .halted)) ∧
    (∀ j, (s.cell n).putSend[j]? = some w → w.hop = none →
      let st := s.stage (s.cell n).stage
      let d := s.cell (st.cellNum w.num)
      let held (e : Put) : Prop := ∃ h ∈ d.putHeld, h.ctx = e.ctx ∧ h.r = e.r
      (putOpen s n j w = true ↔ w.early ≤ (s.cell n).cyc ∧ st.stopping = false ∧ ¬ held w ∧
        (∀ e ∈ s.puts, e.2.hop = none ∨ (s.cell e.1).stage ≠ (s.cell n).stage ∨ e.2.num ≠ w.num ∨ e.2.ctx ≠ w.ctx ∨ e.2.r ≠ w.r) ∧
        ∀ e ∈ (s.cell n).putSend.take j, e.hop = none → e.num = w.num →
          (e.ctx ≠ w.ctx ∨ e.r ≠ w.r) ∧ ((∃ h ∈ d.putHeld, h.src = n) ∨ held e)) ∧
      (TablesOk s → FlitRef.put n j ∈ s.flits.map (·.1) → putOpen s n j w = true)) ∧
    (∀ i j f, s.putAt i = some (n, j, w) → s.leaving (.put n j) = some f → s.putCell n w = m → (AMap.get? s.cells m).isSome = true →
      c.stage = (s.cell n).stage →
      let s1 := ({ s with rr := s.rr.put (arbKey 0 f.hop.router none) f.port } : State).setCell n
        { s.cell n with putSend := (s.cell n).putSend.eraseIdx j }
      exec (.putrDeliver (.mesh i)) s = .next (s1.setCell m ((s1.cell m).putWrite k w.r w.value))) ∧
    (c.putHeld = [w] →
      exec (.putrDeliver (.held m k w.r)) s = .next (s.setCell m (({ c with putHeld := [] } : CellState).putWrite k w.r w.value)))

/-! ## Events of the line cache and the network -/

/-- R43, R65, R248, R251, R407: an access that holds the arbiter is performed once its line is in the cache; a fill that has arrived
puts its line there, gives a parked load its value and lets its context run, and gives a store's line its bytes; FENCE.L ends once
nothing is dirty or under way, with the cache empty. R14, R407: a merge window closes when eight positions are in it or 64 strip cycles
after it opened; the fill of a lone requester then arrives 20 strip cycles later, its write-back is in its slice, and the access of an
engine is served (engines: log 43). -/
def Obligations.LineCacheAndMerges : Prop :=
  (∀ (s : State) (n : Nat) (a : Access) (e : Line) (t : Nat),
    let c := s.cell n
    let o := (a.addr - 0x40000000) % 32
    let l := (a.addr - 0x40000000) / 32
    let rest := c.cache.filter fun x => decide (x.line ≠ l)
    let d : BitVec 256 := BitVec.ofNat 256 (s.sliceRead n (l * 32) 32)
    let val (b : BitVec 256) : Word :=
      let m := b.toNat / 2 ^ (8 * o) % 2 ^ (8 * a.size)
      if a.signed ∧ 2 ^ (8 * a.size - 1) ≤ m then BitVec.ofInt 32 ((m : Int) - 2 ^ (8 * a.size)) else BitVec.ofNat 32 m
    let unres (x : CellState) : CellState := x.unreserve a.dst
    (c.hold = .slice a → (∀ f ∈ c.fills, f.line ≠ l) → c.cache.find? (fun x => decide (x.line = l)) = some e → e.line = l →
      (a.store = true →
        exec (.sliceAccessResume n) s = .next (s.setCell n { unres c with
          hold := .none, cache := { e with data := lineWrite e.data o a.size a.data.toNat, dirty := true } :: rest })) ∧
      (a.store = false →
        ∃ x, exec (.sliceAccessResume n) s = .next (s.setCell n x) ∧
          Settles { unres c with hold := .none, cache := e :: rest } x a.ctx a.dst a.p (val e.data) a.x 0)) ∧
    (c.hold = .slice a → (∃ f ∈ c.fills, f.line = l) ∨ (∀ x ∈ c.cache, x.line ≠ l) ∧ 4 ≤ c.fills.length →
      exec (.sliceAccessResume n) s = .next s) ∧
    (c.hold = .slice a → (∀ f ∈ c.fills, f.line ≠ l) → (∀ x ∈ c.cache, x.line ≠ l) → c.fills.length < 4 →
      (a.store = true →
        exec (.sliceAccessResume n) s = .next (s.setCell n { c with hold := .none, fills := c.fills ++ [⟨l, .store a, false, none⟩] })) ∧
      (a.store = false → (c.ctx a.ctx).status = .running →
        exec (.sliceAccessResume n) s = .next (s.setCell n { c.setCtx a.ctx { c.ctx a.ctx with status := .parkMiss } with
          hold := .none, fills := c.fills ++ [⟨l, .load a, false, none⟩] }))) ∧
    (∀ u b, c.fills = [⟨l, u, b, some t⟩] → s.strip < t → exec (.lineFillComplete n l) s = .next s) ∧
    (∀ u b, c.fills = [⟨l, u, b, some t⟩] → t ≤ s.strip → l ∉ c.badLines → c.wbs = [] →
      (c.cache.filter fun x => decide (x.line % 128 = l % 128)).length < 4 →
      (u = .beat → exec (.lineFillComplete n l) s = .next (s.setCell n { c with fills := [], cache := ⟨l, d, false, false⟩ :: rest })) ∧
      (u = .store a → exec (.lineFillComplete n l) s = .next (s.setCell n { c with
        fills := [], cache := ⟨l, lineWrite d o a.size a.data.toNat, true, false⟩ :: rest })) ∧
      (u = .load a → (c.ctx a.ctx).status = .parkMiss → (c.ctx a.ctx).respFaults = 0 →
        ∃ x, Settles { unres c with fills := [], cache := ⟨l, d, false, false⟩ :: rest } x a.ctx a.dst a.p (val d) a.x 0 ∧
          exec (.lineFillComplete n l) s = .next (s.setCell n (x.setCtx a.ctx { x.ctx a.ctx with status := .running })))) ∧
    (c.hold = .fenceL → c.fills = [] → c.wbs = [] → (∀ x ∈ c.cache, x.dirty = false) →
      exec (.fenceLComplete n) s = .next (s.setCell n { c with cache := [], hold := .none }))) ∧
  (∀ (s : State) (i : Nat) (m : Merge), s.merges[i]? = some m →
    (m.who.length = 8 ∨ m.opened + 64 ≤ s.strip →
      ∃ t, exec (.mergeWindowClose i) s = .next t ∧ t.merges = s.merges.eraseIdx i) ∧
    (m.who.length ≠ 8 → s.strip < m.opened + 64 → exec (.mergeWindowClose i) s = .next s) ∧
    ∀ n pos u d, m.who = [(n, pos, u, d)] → m.opened + 64 ≤ s.strip → MemOk s →
      let c := s.cell n
      let closed (e : CellState) : Host.Outcome State Fault Refusal := .next (({ s with merges := s.merges.eraseIdx i } : State).setCell n e)
      (u = .cache → m.write = false →
        exec (.mergeWindowClose i) s = closed { c with
          fills := c.fills.map fun f => if f.line = m.line ∧ f.asked = true ∧ f.arrive = none then { f with arrive := some (s.strip + 20) } else f }) ∧
      (u = .cache → m.write = true → ∃ t, exec (.mergeWindowClose i) s = .next t ∧
        (∀ j, j < 32 → t.firn.read (s.sliceKey n (m.line * 32 + j)) = d.extractLsb' (8 * j) 8) ∧
        (∀ key, (∀ j, j < 32 → key ≠ s.sliceKey n (m.line * 32 + j)) → t.firn.read key = s.firn.read key) ∧
        (t.cell n).wbs = c.wbs.eraseP fun w => decide (w.line = m.line ∧ w.data = d)) ∧
      (u ≠ .cache → exec (.mergeWindowClose i) s = closed { c with
        port := c.port.map fun r => if r.user = u ∧ r.line = m.line ∧ r.write = m.write then { r with served := true } else r }))

/-- R21, R22, R45, R50, R126, R264, R296, R316: a word with a route to a queue, which stood in its output queue at the start of the
cycle behind no tile, leaves as a packet once the target grants four bytes of credit, a tile unit once it grants 64 (single wrong bits
mended: log 78). A router forwards it in its turn over a free link into a free slot, by the turn rule, or on the way of the packet of
its route before it; the next router's stage check may discard it; a marked word is logged where it leaves its stage (credit, ways,
slots, turns: log 26; link capacity: log 72). R22, R50, R55, R217, R264: a word or tile unit of the cell's own stage that stands at its
target and has its turn at the local port, which it has behind nothing that came to its router buffer before it, enters its queue or the
tail tile of its ring: words as blocks of 64 bytes with the last of 16, in their order, a unit as one block. The tile is pushed with its
gathered mark when it is full; an uncorrectable word of the tile that it overwrites stays so (log 65, the model's choice). -/
def Obligations.MeshItems : Prop :=
  (∀ (s : State) (n : Nat) (q : Fin 8) (r : Route) (g : Fin 8) (dx dy : Int),
    let c := s.cell n
    let st := s.stage c.stage
    let m := (st.y0 + (c.cy + dy).toNat) * 320 + (st.x0 + (c.cx + dx).toNat)
    let out (x : CellState) : CellState := { x with routes := vset c.routes q (some { r with items := r.items + 1 }) }
    let pkt (tgt : PktTo) (d : PktData) : Packet :=
      { stage := c.stage, src := n, oq := q, target := tgt, data := d, hop := ⟨n % 320, n % 320, n / 320, [], s.strip⟩, goal := m
        item := r.items, good := true }
    (∀ w rest, c.oq[q] = w :: rest → c.routes[q] = some r → r.target = .queue g dx dy → st.stopping = false →
      c.oqAt[q] ≠ 0 → (∀ k, c.tsend = some k → k.q ≠ q) → ((s.cell m).iq[g]).length * 4 + s.flying (.queue m g) + 4 ≤ 32 →
      exec (.oqWordSend n q) s = .next { s.setCell n (out { c with oq := vset c.oq q rest, oqAt := vset c.oqAt q (c.oqAt[q] - 1) }) with
        packets := s.packets ++ [pkt (.queue m g) (.word w)] }) ∧
    (c.oqAt[q] = 0 ∨ (∃ k, c.tsend = some k ∧ k.q = q) → exec (.oqWordSend n q) s = .next s) ∧
    (∀ k, c.tsend = some k → k.q = q → c.routes[q] = some r → r.target = .ring g dx dy → st.stopping = false → c.badSram = [] →
      let ring := (s.cell m).rings[g]
      let own := c.rings[k.g]
      let at0 := own.base + own.head % (own.depth + 1) * ((own.tsz + 1) * 64) + k.sent * 64
      let data : VWord := BitVec.ofNat 512 (c.sram.readN at0 64)
      let sent (x : CellState) : State :=
        { s.setCell n { x with lastAct := s.tick } with packets := s.packets ++ [pkt (.ring m g) (.unit data ((own.marks.head?).getD false))] }
      ring.bytes + s.flying (.ring m g) + 64 ≤ (ring.depth + 1 - ring.count) * ((ring.tsz + 1) * 64) →
      (k.sent + 1 < k.units → exec (.tsendUnit n) s = .next (sent { mended c at0 64 with tsend := some { k with sent := k.sent + 1 } })) ∧
      (k.units ≤ k.sent + 1 → own.prod ≠ 3 → exec (.tsendUnit n) s = .next (sent (out { mended c at0 64 with
        tsend := none
        ringAt := vset c.ringAt k.g (c.ringAt[k.g] - 1)
        rings := vset c.rings k.g { own with
          head := (own.head + 1) % (own.depth + 1), count := own.count - 1, marks := own.marks.tail, drain := 0 } })))) ∧
    (∀ i k p f dir, s.packets[k]? = some p → s.flits[i]? = some (.packet k, f) →
      let a := p.hop.y * 320 + p.hop.x
      let x := if dir = .east then p.hop.x + 1 else if dir = .west then p.hop.x - 1 else p.hop.x
      let y := if dir = .south then p.hop.y + 1 else if dir = .north then p.hop.y - 1 else p.hop.y
      let b := y * 320 + x
      let far (x y : Nat) : Nat := ((x : Int) - p.goal % 320).natAbs + ((y : Int) - p.goal / 320).natAbs
      let ahead := (s.packets.take k).filter fun e => decide (e.src = p.src ∧ e.oq = p.oq)
      let link := linkKey a dir
      let size := match p.data with
        | .word _ => 1
        | .unit _ _ => 2
      let s1 : State := { s with
        rr := s.rr.put (arbKey 0 a (some dir)) (p.hop.trail.head?.elim 4 dirEntry), links := s.links.put link (AMap.getD s.links link 0 + size) }
      let moved (t : State) : Host.Outcome State Fault Refusal := .next { t with
        packets := s.packets.set k { p with hop := ⟨p.hop.sx, x, y, dir :: p.hop.trail, s.strip⟩ } }
      let free : Prop := portRoom s 0 b dir = true ∧ AMap.getD s.links link 0 + size ≤ (if s.strip % 8 = 7 then 1 else 2) ∧
        hasTurn s s.takes (.packet k) f (some dir) = true
      let foreign : Prop := ∃ e ∈ s.stages, e.2.owns b = true ∧ e.1 ≠ p.stage ∧ e.2.owns p.goal = true
      let run := exec (.meshFlitForward i dir) s
      (a = p.goal ∨ ¬ free → run = .next s) ∧
      (ahead = [] → dir ∈ f.ways → oddEven p.hop.sx p.hop.x p.hop.y (p.goal % 320) (p.goal / 320) dir = true ∧ far x y + 1 = far p.hop.x p.hop.y) ∧
      (∀ o l, ahead = l ++ [o] → (dir ∈ f.ways ↔ o.hop.trail.reverse[p.hop.trail.length]? = some dir)) ∧
      (a ≠ p.goal → free → foreign → (∀ h, p.target ≠ .egress h) →
        run = .next (({ s1 with packets := s.packets.eraseIdx k } : State).routerRecord b (dirEntry dir))) ∧
      (a ≠ p.goal → free → ¬ foreign ∨ (∃ h, p.target = .egress h) →
        let c := s.cell p.src
        let crosses : Prop := (s.stage c.stage).owns a = true ∧ (s.stage c.stage).owns b = false
        (∀ w, p.data = .word w → w.x = true → crosses → run = moved (s1.logMark c.stage c.cx c.cy p.oq p.item)) ∧
        ((∀ w, p.data = .word w → w.x = false) ∨ ¬ crosses → run = moved s1)))) ∧
  (∀ (s : State) (i n : Nat) (p : Packet) (c : CellState) (q : Fin 8) (f : Flit),
    s.packets[i]? = some p → AMap.get? s.cells n = some c → c.stage = p.stage → p.good = true → s.leaving (.packet i) = some f →
    let taken (x : CellState) : State := ({ s with
      rr := s.rr.put (arbKey 0 (p.hop.y * 320 + p.hop.x) none) (p.hop.trail.head?.elim 4 dirEntry), packets := s.packets.eraseIdx i } : State).setCell n x
    let r := c.rings[q]
    let tile := r.base + r.tail % (r.depth + 1) * ((r.tsz + 1) * 64)
    let ring (bytes : Nat) (buf : List Word) (x : Bool) : Ring :=
      if r.bytes + bytes = (r.tsz + 1) * 64 then
        { r with
          tail := (r.tail + 1) % (r.depth + 1), count := r.count + 1, marks := r.marks ++ [r.acc || x], part := 0, acc := false, bytes := 0
          buf := [] }
      else { r with bytes := r.bytes + bytes, buf := buf, acc := r.acc || x }
    (∀ j o, s.packets[j]? = some o → o.hop.x = p.hop.x → o.hop.y = p.hop.y → o.hop.trail.head? = p.hop.trail.head? →
      (j < i → p.hop.came < o.hop.came) ∧ (i < j → p.hop.came ≤ o.hop.came)) ∧
    (∀ w, p.target = .queue n q → p.data = .word w →
      exec (.wordDeliver i) s = .next (taken { c with iq := vset c.iq q (c.iq[q] ++ [w]) })) ∧
    (∀ w, p.target = .ring n q → p.data = .word w →
      (r.buf.length < 15 → exec (.wordDeliver i) s = .next (taken { c with rings := vset c.rings q (ring 4 (r.buf ++ [w.data]) w.x) })) ∧
      (r.buf.length = 15 →
        ∃ d, (∀ k v, (r.buf ++ [w.data])[k]? = some v → d / 2 ^ (32 * k) % 2 ^ 32 = v.toNat) ∧
          exec (.wordDeliver i) s = .next (taken { c with
            sram := c.sram.writeN (tile + (r.bytes + 4 - 64)) 64 d, rings := vset c.rings q (ring 4 [] w.x) }))) ∧
    (∀ d x, p.target = .ring n q → p.data = .unit d x → r.bytes + 64 ≤ (r.tsz + 1) * 64 → r.buf = [] →
      exec (.tileArrive i) s = .next (taken { c with
        sram := c.sram.writeN (tile + r.bytes) 64 d.toNat, rings := vset c.rings q (ring 64 [] x) })))

/-! ## Events of wafer space -/

/-- R22, R28, R228, R272, R281, R297, R320 to R323: a station with a zero counter issues its request; a request is translated to its
home, as the budgets let the walker read, or answered with the fault of its page, and the places of its table entries go with it (R325);
one for another module sets out for the edge and leaves there; an update unit that a request has reached on the mesh takes it in its
turn at the local port into its window of 64 as the budgets allow, which never hold a stage back that asks alone (R327, R328; log 43).
Where the traffic of a strip and of a peer module leaves the mesh is the model's choice (log 26). R320 to R323: without a cached entry,
the offset's bits 47 to 30 index the first-level table at the root frame, and, under a pointer, bits 29 to 21 the second-level table in
the frame that it names; an invalid entry gives WAFER_XLATE 1 or 2, one that breaks the layout 3 (TIX and LEAF of the second level too:
log 16), and a page gives WAFER_PROT 2 or 1, a host window, or the byte of its frame. A frame's bytes lie where R322 says. -/
def Obligations.RequestsReachTheirHome : Prop :=
  (∀ (s : State) (i n : Nat) (k : Fin 4) (r : Req) (key port : Nat),
    let c := s.cell n
    let u := c.ctx k
    let left : State := { s with reqs := s.reqs.eraseIdx i }
    let at' (m : Nat) (t : State) : Hop := ⟨m % 320, m % 320, m / 320, [], t.strip⟩
    let page := pageOf left r.kind (s.fieldOf r.cell) r.stage none (s.stage r.stage).root (offOf r.addr)
    (u.station = some (.req r) → u.uack = 0 → r.cell = n → r.ctx = k →
      exec (.releaseStationIssue n k) s = .next { s.setCell n (c.setCtx k { u with station := none, uack := 1 }) with
        reqs := s.reqs ++ [{ r with ordered := c.suuord }] }) ∧
    (s.reqs[i]? = some r → r.loc = .issued → modOf r.addr = s.host.modNum →
      let may := walkMay s (walkReads s (s.fieldOf r.cell) r.stage none (s.stage r.stage).root (offOf r.addr)) r.who r.qp
      (may = false → exec (.translationWalk (.own i)) s = .next s) ∧
      (may = true → ∀ t,
        (page = (.home key, t) →
          exec (.translationWalk (.own i)) s = .next { t with reqs := t.reqs ++ [{ r with
            loc := .homed (key / 2 ^ 27) key, path := t.pathOf (s.fieldOf r.cell) r.stage none (offOf r.addr)
            hop := { r.hop with came := t.strip } }] }) ∧
        (∀ cls code, page = (.fault cls code, t) → r.origin = none →
          exec (.translationWalk (.own i)) s = .next { t with acks := t.acks ++ [⟨r, .fault cls code, at' r.cell t, true⟩] }))) ∧
    (s.reqs[i]? = some r → modOf r.addr ≠ s.host.modNum →
      (r.loc = .issued → s.toward (modOf r.addr) = some port →
        exec (.translationWalk (.own i)) s = .next { s with reqs := s.reqs.set i { r with loc := .away, hop := { r.hop with came := s.strip } } }) ∧
      (r.loc = .issued → s.toward (modOf r.addr) = none → r.origin = none →
        exec (.translationWalk (.own i)) s = .next { left with acks := s.acks ++ [⟨r, .fault 8 1, at' r.cell s, true⟩] }) ∧
      (∀ f, r.loc = .away → s.leaving (.req i) = some f → s.toward (modOf r.addr) = some port →
        ∃ t, exec (.translationWalk (.own i)) s = .next t ∧ t.reqs = s.reqs.eraseIdx i ++ [{ r with loc := .edge s.edge.ids }] ∧
          (s.openTo (modOf r.addr) = true → (∀ w ∈ s.edge.waiting, w.to ≠ modOf r.addr) →
            t.edge.outbox = s.edge.outbox ++ [.request (modOf r.addr) s.edge.ids r]))) ∧
    (s.reqs[i]? = some r → r.loc = .homed (key / 2 ^ 27) key →
      let st := key / 2 ^ 27
      let full := 64 ≤ (s.reqs.filter fun x => match x.loc with
        | .window w _ => decide (w = st)
        | _ => false).length
      let there := r.hop.y * 320 + r.hop.x = s.overStrip st
      let counted := if r.kind.onPort then (s.serve st 0 r.who).serve st 1 r.who else s.serve st 0 r.who
      (∀ f, s.leaving (.req i) = some f → ¬ full ∧ there ∧ budgetsAllow s r st = true ∧
        exec (.suuAccept i) s = .next { s with
          rr := s.rr.put (arbKey 1 (s.overStrip st) none) f.port, served := counted.served
          reqs := s.reqs.eraseIdx i ++ [{ r with loc := .window st key }] }) ∧
      (s.leaving (.req i) = none → exec (.suuAccept i) s = .next s) ∧
      (¬ full → there → budgetsAllow s r st = true → (∀ e ∈ s.flits, e.1 ≠ .req i → e.2.hop.router ≠ s.overStrip st) →
        (s.leaving (.req i)).isSome = true) ∧
      ((∀ q ∈ s.reqs, q.before st = true → q.who = r.who) → blockDemand s st = [] → walkDemand s st = [] → budgetsAllow s r st = true))) ∧
  (∀ (s : State) (k : ReqKind) (field stage root off : Nat) (guest : Option Nat),
    let place (f o : Nat) : Nat := f % 24576 / 2 * 2 ^ 27 + f % 24576 % 2 * 2 ^ 26 + (64 * 2 ^ 20 - 2 * 2 ^ 20 * (f / 24576 + 1)) + o
    let fld (e : DWord) (lo n : Nat) : Nat := e.toNat / 2 ^ lo % 2 ^ n
    let entry (f o : Nat) : DWord := BitVec.ofNat 64 (s.firn.readN (place f o) 8)
    let e1 := entry root (off / 2 ^ 30 % 2 ^ 18 * 8)
    let e2 := entry (fld e1 12 20) (fld e1 32 9 * 4096 + off / 2 ^ 21 % 2 ^ 9 * 8)
    let stray (e : DWord) : Prop := fld e 6 6 ≠ 0 ∨ fld e 41 23 ≠ 0
    let broken1 : Prop := stray e1 ∨ (fld e1 1 1 = 0 ∧ fld e1 2 4 ≠ 0) ∨ (fld e1 1 1 = 1 ∧ fld e1 12 20 % 512 ≠ 0)
    let broken2 : Prop := stray e2 ∨ fld e2 1 1 = 0 ∨ fld e2 32 9 ≠ 0
    let page := (pageOf s k field stage guest (some root) off).1
    let put : Prop := ∃ d, k = .putBlock d
    let lacks (e : DWord) : Prop := match k with
      | .store4 _ | .store8 _ | .store64 _ | .putBlock _ => fld e 2 1 = 0
      | .amo .ld _ _ _ _ _ _ | .waita _ _ _ | .wpoke _ | .getBlock => fld e 3 1 = 0
      | .amo _ _ _ _ _ _ _ => fld e 3 1 = 0 ∨ fld e 2 1 = 0 ∨ fld e 4 1 = 0
      | .red _ _ => fld e 2 1 = 0 ∨ fld e 4 1 = 0
    let gives (e : DWord) (frame low size : Nat) : Prop :=
      (fld e 5 1 = 1 → ¬ put → page = .fault 7 2) ∧
      (fld e 5 1 = 0 ∨ put → lacks e → page = .fault 7 1) ∧
      (fld e 5 1 = 1 → put → ¬ lacks e → page = .window (fld e 12 20) (off % size)) ∧
      (fld e 5 1 = 0 → ¬ lacks e → frame < 786432 → page = .home (place frame low))
    (∀ e ∈ s.tlb, e.field = field → e.stage = stage → e.guest = guest → e.page ≠ pageNo e.huge off) → root < 786432 →
    ((pageOf s k field stage guest none off).1 = .fault 6 1) ∧ (fld e1 0 1 = 0 → page = .fault 6 1) ∧
    (fld e1 0 1 = 1 →
      (broken1 → page = .fault 6 3) ∧
      (¬ broken1 → fld e1 1 1 = 1 → gives e1 (fld e1 12 20 + off / 2 ^ 21 % 2 ^ 9) (off % 2 ^ 21) (2 ^ 30)) ∧
      (¬ broken1 → fld e1 1 1 = 0 → fld e1 12 20 < 786432 →
        (fld e2 0 1 = 0 → page = .fault 6 2) ∧
        (fld e2 0 1 = 1 → (broken2 → page = .fault 6 3) ∧ (¬ broken2 → gives e2 (fld e2 12 20) (off % 2 ^ 21) (2 ^ 21))))))

/-- R233, R274 to R279, R351: a request of this module in its window, which ordered mode does not hold, over sound DRAM, is applied:
memory and the answer are those of its kind, no other byte changes, and every watch that a written byte or a WPOKE overlaps leaves the
list and is told, in registration order; float reductions are those of O9 in RNE without flush. A registration whose word equals the
compare value enters the list, after the oldest watch of its stage, then of any, where its quota or the list of 128 is full, has gone
with code 1; any other ends at once with its event, evicting nothing (log 9); a cancelled one is answered alone, though its mailbox be
full (log 74, DEDUCED). A request whose check fails is not applied and is answered INTEGRITY 3. A 64-byte store is applied in halves and
answered with the second. Answers set out at the router of the strip (log 26). -/
def Obligations.RequestsAreApplied : Prop :=
  ∀ (s : State) (i st key : Nat) (half : Bool) (r : Req),
    s.reqs[i]? = some r → r.loc = .window st key → r.origin = none → suuFirst s i r st = true → s.badFirn = [] →
    let back (q : Req) (res : AckRes) : List Ack := s.acks ++ [⟨q, res, Hop.at (s.overStrip st) s.strip, true⟩]
    let old4 : Word := BitVec.ofNat 32 (s.firn.readN key 4)
    let old8 : DWord := BitVec.ofNat 64 (s.firn.readN key 8)
    let start (m : Nat) : CellState := if m = r.cell then { s.cell m with lastAct := s.tick } else s.cell m
    let woken (code : Nat) (x : CellState) (w : Watch) : CellState :=
      let y := x.setCtx w.ctx { x.ctx w.ctx with wake := true, watchOut := false, watch := none, watchId := none }
      let z : QWord := ⟨BitVec.ofNat 32 code, BitVec.ofNat 8 (w.ctx.val * 64 + 2), false⟩
      if x.mail6 = [] ∧ (x.iq[(6 : Fin 8)]).length < 8 then { y with iq := vset x.iq 6 (x.iq[(6 : Fin 8)] ++ [z]) }
      else { y with mail6 := x.mail6 ++ [z] }
    let near (w : Watch) : Prop := w.origin = none ∧ (s.stage w.stage).status ≠ .preempted
    let covers (from' n : Nat) (w : Watch) : Bool := decide (w.addr < from' + n ∧ from' < w.addr + w.size)
    let woke (t : State) (hit : Watch → Bool) (code : Nat) : Prop :=
      t.watches = s.watches.filter (fun w => !hit w) ∧
      ((∀ w ∈ s.watches, hit w = true → near w) →
        ∀ m, t.cell m = (s.watches.filter fun w => hit w && decide (w.cell = m)).foldl (woken code) (start m))
    let applied (f : Mem) (res : AckRes) (hit : Watch → Bool) (code : Nat) : Prop :=
      ∃ t, exec (.suuApply i half) s = .next t ∧ t.firn = f ∧ t.reqs = s.reqs.eraseIdx i ∧ t.acks = back r res ∧ woke t hit code
    let stored (n v : Nat) : Prop := applied (s.firn.writeN key n v) .done (covers key n) 0
    let halves (f : Nat → Nat → Nat) (x y : Word) : Nat :=
      f (x.toNat % 2 ^ 16) (y.toNat % 2 ^ 16) % 2 ^ 16 + f (x.toNat / 2 ^ 16) (y.toNat / 2 ^ 16) % 2 ^ 16 * 2 ^ 16
    (r.good = false → ∃ t, exec (.suuApply i half) s = .next t ∧ t.firn = s.firn ∧ t.reqs = s.reqs.eraseIdx i ∧
      t.acks = back r (.fault 10 3) ∧ t.watches = s.watches ∧ t.cells = s.cells) ∧
    (r.good = true →
    (∀ x, r.kind = .red .addF32 x → stored 4 (BitVec.ofNat 32 (fAdd .f32 Mode.rne old4.toNat x.toNat).1).toNat) ∧
    (∀ x, r.kind = .red .addBf16x2 x → stored 4 (BitVec.ofNat 32 (halves (fun m n => (fAdd .bf16 Mode.rne m n).1) old4 x)).toNat) ∧
    (∀ x, r.kind = .red .maxF32 x → stored 4 (BitVec.ofNat 32 (fMax .f32 Mode.rne old4.toNat x.toNat).1).toNat) ∧
    (∀ x, r.kind = .red .minF32 x → stored 4 (BitVec.ofNat 32 (fMin .f32 Mode.rne old4.toNat x.toNat).1).toNat) ∧
    (∀ a b, IsFin .f32 a → IsFin .f32 b → numOf .f32 a < numOf .f32 b →
      (fMax .f32 Mode.rne a b).1 = b ∧ (fMax .f32 Mode.rne b a).1 = b ∧ (fMin .f32 Mode.rne a b).1 = a ∧ (fMin .f32 Mode.rne b a).1 = a) ∧
    (∀ dbl cmp, r.kind = .waita dbl cmp true →
      let w : Watch := { strip := st, addr := key, size := if dbl then 8 else 4, cell := r.cell, ctx := r.ctx, stage := r.stage, origin := none }
      let here (v : Watch) : Bool := decide (v.strip = st)
      let mine (v : Watch) : Bool := decide (v.strip = st ∧ v.stage = r.stage ∧ v.origin = none)
      let listed (l : List Watch) (f : Nat → CellState) : Prop :=
        ∃ t, exec (.suuApply i half) s = .next t ∧ t.firn = s.firn ∧ t.acks = back r .done ∧ t.watches = l ∧ ∀ m, t.cell m = f m
      let told (v : Watch) (code m : Nat) : CellState := if m = v.cell then woken code (start m) v else start m
      let full := r.wq ≤ (s.watches.filter mine).length
      (s.firn.readN key (if dbl then 8 else 4) ≠ cmp.toNat → near w → listed s.watches (told w 0)) ∧
      (s.firn.readN key (if dbl then 8 else 4) = cmp.toNat →
        (¬ full → (s.watches.filter here).length < 128 → listed (s.watches ++ [w]) start) ∧
        ∀ a v b, s.watches = a ++ v :: b → near v →
          (full → mine v = true → (∀ z ∈ a, mine z = false) → listed (a ++ b ++ [w]) (told v 1)) ∧
          (¬ full → 128 ≤ (s.watches.filter here).length → here v = true → (∀ z ∈ a, here z = false) → listed (a ++ b ++ [w]) (told v 1)))) ∧
    (∀ dbl cmp, r.kind = .waita dbl cmp false → applied s.firn .done (fun _ => false) 0) ∧
    (∀ x, r.kind = .store4 x → stored 4 x.toNat) ∧
    (∀ x, r.kind = .store8 x → stored 8 x.toNat) ∧
    (∀ x, r.kind = .red .addI32 x → stored 4 (old4 + x).toNat) ∧
    (∀ x, r.kind = .red .and x → stored 4 (old4 &&& x).toNat) ∧
    (∀ x, r.kind = .red .or x → stored 4 (old4 ||| x).toNat) ∧
    (∀ x, r.kind = .red .xor x → stored 4 (old4 ^^^ x).toNat) ∧
    (∀ dbl, r.kind = .wpoke dbl → applied s.firn .done (covers key (if dbl then 8 else 4)) 1) ∧
    (∀ fn acq x y d p, r.kind = .amo fn false acq x y d p →
      let a : Word := x.setWidth 32
      ∀ e ∈ [(AmoFn.add, old4 + a), (.and, old4 &&& a), (.or, old4 ||| a), (.xor, old4 ^^^ a), (.min, if a.toInt < old4.toInt then a else old4),
          (.max, if old4.toInt < a.toInt then a else old4), (.minn, if a.toNat < old4.toNat then a else old4),
          (.maxn, if old4.toNat < a.toNat then a else old4), (.swap, a), (.cas, if old4 = a then y.setWidth 32 else old4), (.ld, old4)],
        fn = e.1 → MemOk s → applied (s.firn.writeN key 4 e.2.toNat) (.value (old4.setWidth 64))
          (fun w => decide (fn ≠ .ld ∧ (fn = .cas → old4 = a)) && covers key 4 w) 0) ∧
    (∀ fn acq a y d p, r.kind = .amo fn true acq a y d p →
      ∀ e ∈ [(AmoFn.add, old8 + a), (.and, old8 &&& a), (.or, old8 ||| a), (.xor, old8 ^^^ a), (.min, if a.toInt < old8.toInt then a else old8),
          (.max, if old8.toInt < a.toInt then a else old8), (.minn, if a.toNat < old8.toNat then a else old8),
          (.maxn, if old8.toNat < a.toNat then a else old8), (.swap, a), (.cas, if old8 = a then y else old8), (.ld, old8)],
        fn = e.1 → MemOk s → applied (s.firn.writeN key 8 e.2.toNat) (.value old8)
          (fun w => decide (fn ≠ .ld ∧ (fn = .cas → old8 = a)) && covers key 8 w) 0) ∧
    (∀ x : VWord, r.kind = .store64 x → (if half then r.hi else r.lo) = false →
      ∃ t, exec (.suuApply i half) s = .next t ∧ woke t (covers (if half then key + 32 else key) 32) 0 ∧
        t.firn = (if half then s.firn.writeN (key + 32) 32 (x.toNat / 2 ^ 256) else s.firn.writeN key 32 (x.toNat % 2 ^ 256)) ∧
        (if (if half then r.lo else r.hi) then t.reqs = s.reqs.eraseIdx i ∧ t.acks = back { r with lo := true, hi := true } .done
         else t.acks = s.acks ∧ t.reqs = s.reqs.set i (if half then { r with hi := true } else { r with lo := true }))))

/-- R21, R22, R49, R225, R275, R277, R281, R316: an acknowledgement that leaves the mesh at its cell in its turn lowers its context's
counter, one that matches no request outstanding there is discarded and reported; the response of a returning atomic also writes the old
value, sets the presence bit, clears the reservation and acts on the predicate, that of a pair in two registers; one that tells of a
fault clears the reservation, leaves registers, presence bits and predicate, makes its record, and parks the context, after its present
park if it is parked, and not if it has halted (R282); a registration that failed ends its watch, if that is still outstanding, with
code 3; a watch whose deadline has come ends with code 2 in the mailbox and the wake event, which do not wait for a full mailbox (log
74, DEDUCED); a marker that has come to the director is recorded and its completion posted (the director's router: log 72). -/
def Obligations.AnswersWatchesMarkers : Prop :=
  ∀ (s : State) (i n : Nat) (k : Fin 4) (r : Req),
    let c := s.cell n
    let u := c.ctx k
    let posted (x : CellState) (w : QWord) : CellState :=
      if x.mail6 = [] ∧ (x.iq[(6 : Fin 8)]).length < 8 then { x with iq := vset x.iq 6 (x.iq[(6 : Fin 8)] ++ [w]) }
      else { x with mail6 := x.mail6 ++ [w] }
    let tag (code : Nat) : Byte := BitVec.ofNat 8 (k.val * 64 + code)
    let taken (f : Flit) : State := { s with rr := s.rr.put (arbKey 2 f.hop.router none) f.port, acks := s.acks.eraseIdx i }
    let awaited : Prop := AMap.get? s.cells n = some c ∧ c.stage = r.stage ∧ 0 < u.uack
    r.cell = n → r.ctx = k → r.origin = none →
    (∀ h f, s.acks[i]? = some ⟨r, .done, h, true⟩ → s.leaving (.ack i) = some f → r.kind.isAmo = false →
      (awaited → exec (.ackReceive (.own i)) s = .next ((taken f).setCell n (c.setCtx k { u with uack := u.uack - 1 }))) ∧
      (¬ awaited → exec (.ackReceive (.own i)) s = .next ((taken f).routerRecord n 4))) ∧
    (∀ cls code h f dbl cmp, s.acks[i]? = some ⟨r, .fault cls code, h, true⟩ → s.leaving (.ack i) = some f → r.kind = .waita dbl cmp true → awaited →
      u.watchOut = true → u.watchId = none → (s.stage r.stage).status ≠ .preempted →
      ∃ t, exec (.ackReceive (.own i)) s = .next t ∧ ((t.cell n).ctx k).uack = u.uack - 1 ∧
        (r.serial + 1 = u.watchNo → ((t.cell n).ctx k).watchOut = false ∧ ((t.cell n).ctx k).wake = true ∧
          (t.cell n).iq[(6 : Fin 8)] ++ (t.cell n).mail6 = c.iq[(6 : Fin 8)] ++ c.mail6 ++ [⟨3, tag 2, false⟩] ∧
          t.watches = s.watches.filter (fun w => !(decide (w.stage = r.stage) && decide (w.cell = n) && decide (w.ctx = k) && w.origin.isNone))) ∧
        (r.serial + 1 ≠ u.watchNo → ((t.cell n).ctx k).watchOut = true ∧ t.watches = s.watches)) ∧
    (∀ a, s.acks[i]? = some a → a.req = r → (a.hop.router ≠ n → s.leaving (.ack i) = none) ∧ (s.leaving (.ack i) = none →
      exec (.ackReceive (.own i)) s = .next s ∧ exec (.responseReceive (.own i)) s = .next s)) ∧
    (∀ fn acq x y d p old h f, s.acks[i]? = some ⟨r, .value old, h, true⟩ → s.leaving (.ack i) = some f → r.kind = .amo fn false acq x y d p →
      awaited →
      let v : Context := { u with
        x := vset u.x (Fin.ofNat 16 (8 + d.val)) (old.setWidth 32), pres := setBit u.pres d true, resv := setBit u.resv d false
        uack := u.uack - 1, acq := u.acq && !acq }
      exec (.responseReceive (.own i)) s = .next ((taken f).setCell n (c.setCtx k (v.act p (decide (old ≠ 0)))))) ∧
    (∀ fn acq x y d p old h f, s.acks[i]? = some ⟨r, .value old, h, true⟩ → s.leaving (.ack i) = some f → r.kind = .amo fn true acq x y d p →
      d.val % 2 = 0 → awaited →
      let e : Fin 8 := d + 1
      let v : Context := { u with
        x := vset (vset u.x (Fin.ofNat 16 (8 + d.val)) (old.setWidth 32)) (Fin.ofNat 16 (8 + e.val)) (old.extractLsb' 32 32)
        pres := setBit (setBit u.pres d true) e true, resv := setBit (setBit u.resv d false) e false
        uack := u.uack - 1, acq := u.acq && !acq }
      exec (.responseReceive (.own i)) s = .next ((taken f).setCell n (c.setCtx k (v.act p (decide (old ≠ 0)))))) ∧
    (∀ fn dbl acq x y d p cls code h f, s.acks[i]? = some ⟨r, .fault cls code, h, true⟩ → s.leaving (.ack i) = some f →
      r.kind = .amo fn dbl acq x y d p → awaited →
      let v : Context := { u with
        resv := if dbl then setBit (setBit u.resv d false) (Fin.ofNat 8 (d.val + 1)) false else setBit u.resv d false
        uack := u.uack - 1, acq := u.acq && !acq }
      let kept (o : Record) : Context :=
        if u.record.isNone = true ∧ u.beside = [] then { v with record := some (o, s.tick) } else { v with beside := u.beside ++ [o] }
      ∃ o, IsRecord { s with focus := ⟨n, r.slot, k⟩ }
          { cls := cls, code := code, opnd := BitVec.ofNat 32 (r.addr.toNat / 4), modNum := modOf r.addr
            ahi := r.addr.toNat / 2 ^ 34 % 2 ^ 14 } .trap o ∧
        exec (.responseReceive (.own i)) s = .next (
          if u.status = .halted then ((taken f).setCell n (c.setCtx k v)).logFault c.stage o 1 true
          else if u.status = .running then (taken f).setCell n (c.setCtx k { kept o with
            status := .parkFault, pres := setBit u.pres 7 false, parkDeq := [], parkCue := none })
          else (taken f).setCell n (c.setCtx k { kept o with respFaults := u.respFaults + 1 }))) ∧
    (∀ due, AMap.get? s.cells n = some c → u.watchOut = true → u.watch = some due → due ≤ s.tick → u.watchId = none →
      (∀ e ∈ s.stages, e.2.status ≠ .preempted) → (s.stage c.stage).status ≠ .preempted →
      ∃ t, exec (.waitaTimeout n k) s = .next t ∧
        t.cell n = posted (c.setCtx k { u with wake := true, watchOut := false, watch := none, watchId := none }) ⟨2, tag 2, false⟩ ∧
        (∀ m, m ≠ n → AMap.get? t.cells m = AMap.get? s.cells m) ∧
        t.watches = s.watches.filter (fun w => !(decide (w.stage = c.stage) && decide (w.cell = n) && decide (w.ctx = k) && w.origin.isNone))) ∧
    (∀ st d num held h f, s.items[i]? = some ⟨st, n, d, .mark k num, held, h⟩ → s.leaving (.item i) = some f →
      exec (.markerRecorded i) s = .next ((({ s with
        rr := s.rr.put (arbKey 3 f.hop.router none) f.port, items := s.items.eraseIdx i } : State).setStage st
        { s.stage st with markers := (s.stage st).markers ++ [num] }).setCell n (posted c ⟨BitVec.ofNat 32 num, tag 3, false⟩)))

/-! ## Barriers, windows, masks, records -/

/-- R21, R23, R298, R299, R300, R304, R305, R307, R311, R316: a generation completes once each member has arrived, and its completion
goes to each on CTRL, held at the director while a swap holds its destination; an arrival reaches the barrier logic, a completion its
cell, a token its set in their turns; an item without an entry in a router's table is discarded and reported (tables, director's router:
log 72); a window opens after its grant cycle and ends with its last cycle; a placed stage whose undeclared count exceeds its limit gets
its clock mask, and its positions a throttle record and flag outside a clear poll. That arrivals and completions are one item for each
cell is the model's choice (log 22). -/
def Obligations.BarriersWindowsMasks : Prop :=
  ∀ (s : State) (st n : Nat) (k : Fin 4) (g : Fin 16),
    let u := s.stage st
    let c := s.cell n
    let mem := s.cells.filter fun e => decide (e.2.stage = st) && (e.2.bars[g]).member
    (u.status = .placed → mem ≠ [] → (∀ e ∈ mem, (g, e.2.cy * u.w + e.2.cx) ∈ u.arr) →
      ∃ t, exec (.barrierComplete st g) s = .next t ∧ t.cells = s.cells ∧ t.stage st = { u with arr := u.arr.filter fun a => decide (a.1 ≠ g) } ∧
        t.items = s.items ++ mem.map fun e => ⟨st, directorAt, e.1, .complete g, (s.ctrlOf st).pending || (s.ctrlOf (4096 + e.1 / 320)).pending,
          ⟨0, 0, 0, [], s.strip⟩⟩) ∧
    (∀ i j it f dir, s.flits[i]? = some (.item j, f) → s.items[j]? = some it →
      let off : State := { s with rr := s.rr.put (arbKey 3 f.hop.router none) f.port, items := s.items.eraseIdx j }
      let run := exec (.meshFlitForward i dir) s
      let b := (s.cell n).bars[g]
      let v := s.stage it.stage
      (s.leaving (.item j) = some f →
        (it.what = .arrive g → run = .next (off.setStage it.stage { v with
          arr := v.arr ++ [(g, (it.src / 320 - v.y0) * v.w + (it.src % 320 - v.x0))] })) ∧
        (it.what = .complete g → it.dest = n →
          run = .next (off.setCell n { c with bars := vset c.bars g { b with arr := false, done := true, gen := b.gen + 1 } })) ∧
        (it.what = .token → it.dest = directorAt → (it.src, it.dest) ∈ (s.ctrlOf it.stage).tokens →
          ∃ t, run = .next t ∧ t.items = off.items ∧ (t.ctrlOf it.stage).tokens = (s.ctrlOf it.stage).tokens.erase (it.src, it.dest))) ∧
      (f.hop.router ≠ endRouter it.dest → s.ctrlNext it.stage f.hop.router it.dest = none →
        run = .next (({ s with items := s.items.eraseIdx j } : State).routerRecord f.hop.router f.port)) ∧
      (f.hop.router ≠ endRouter it.dest → s.ctrlNext it.stage f.hop.router it.dest = some dir →
        portRoom s 3 ((dirMove dir f.hop.x f.hop.y).2 * 320 + (dirMove dir f.hop.x f.hop.y).1) dir = true → linkFree s f dir = true →
        hasTurn s s.takes (.item j) f (some dir) = true →
        ∃ t, run = .next t ∧ t.items = s.items.set j { it with hop := it.hop.go dir s.strip })) ∧
    (∀ ph, (c.ctx k).phase = some ph →
      (ph.grant < s.strip → ph.opened = false →
        exec (.phaseGrant n k) s = .next (s.setCell n (c.setCtx k { c.ctx k with phase := some { ph with opened := true }, granted := true }))) ∧
      (ph.stop ≤ s.strip →
        exec (.phaseWindowEnd n k) s = .next (s.setCell n (c.setCtx k { c.ctx k with phase := none, granted := false })))) ∧
    (u.status = .placed → u.upAt.isSome = true → u.ubl ≠ 65535 → u.ubl < u.stat.ubc → u.mask = none →
      ∃ t, exec (.clockMaskApply st) s = .next t ∧ t.cells = s.cells ∧
        t.stage st = { u with mask := some s.strip, stat := { u.stat with masked := true } } ∧
        ∀ key, let hit := s.cells.any (fun e => decide (e.2.stage = st ∧ s.posKey e.1 = key)) && !s.clearKey key
          t.slowAt key = ((s.slowAt key).1, (s.slowAt key).2 || hit) ∧ t.flagAt key = ((s.flagAt key).1 || hit, (s.flagAt key).2))

/-- R49, R343, R344, R408: the oldest record of a cell goes, with four words that carry its context, to the trap cell's mailbox; without
a trap route, while the host ends the stage (there too with the diverted bit: log 58, DEDUCED), or after 1,000 ticks in its place, to
the stage fault log with the diverted bit. Either way its place is free. -/
def Obligations.RecordsGoToTheirPlace : Prop :=
  ∀ (s : State) (n : Nat) (k : Fin 4) (r : Record) (since : Nat),
    let c := s.cell n
    let u := s.stage c.stage
    let freed : State := s.setCell n (c.setCtx k { c.ctx k with record := none })
    let entry : List Word := [r.w1, r.w2, r.w3, r.w4, BitVec.ofNat 32 (r.scene % 2 ^ 16 + 2 ^ 16), BitVec.ofNat 32 (r.made / 11),
      BitVec.ofNat 32 (r.made / 11 / 2 ^ 32), BitVec.ofNat 32 (c.stage % 4096 + 2 ^ 12)]
    let logged : State := freed.setStage c.stage { u with flog := u.flog ++ [entry], stat := { u.stat with flog := u.stat.flog + 1 } }
    (c.ctx k).record = some (r, since) → r.dest = .trap →
    ((∀ o ∈ c.records, r.made ≤ o.made) → c.trap = none ∨ u.ending = true → u.flog.length < 4096 → exec (.faultRecordDeliver n (.ctx k)) s = .next logged) ∧
    (∀ x y, (∀ o ∈ c.records, r.made ≤ o.made) → c.trap = some (x, y) → u.ending = false →
      let m := (u.y0 + y) * 320 + (u.x0 + x)
      let d := freed.cell m
      let w (v : Word) (j : Nat) : QWord := ⟨v, BitVec.ofNat 8 (r.w1.toNat / 2 ^ 9 % 4 * 64 + j), false⟩
      (d.iq[(7 : Fin 8)]).length ≤ 4 → d.mail7 = [] →
      exec (.faultRecordDeliver n (.ctx k)) s = .next (freed.setCell m { d with
        mail7 := [[w r.w1 0x20, w r.w2 0x21, w r.w3 0x22, w r.w4 0x23]] })) ∧
    (since + 1000 ≤ s.tick → u.flog.length < 4096 → exec (.recordDivert n (.ctx k)) s = .next logged)

/-! ## Launch, placement, scenes -/

/-- R285, R314, R370, R372, R373, R378: a launch whose record and image pass their checks is entered as a queued stage under a free ID
(the lowest, log 28), with LAUNCH.STAT in state 1; one that fails them leaves every stage as it was and its reason in state 2 (a field
out of range reason 1 before an image that breaks its form reason 2: log 28); without a free ID it is held, and accepted when one is
free; a module that is booting, in recovery, or failed its table takes none. R23, R286 to R288, R314: the one waiting request of a ready
module takes the first origin that fits, with blank cells and CTRL tables that wait for their swap: in row-major order the first whose
cells all exist, are free, are kept for no stage that a recast pre-empted (R357) and lie over half strips that can meet the slice size;
a request that has waited 50 ms is aged; a stage ordered to move that had no curtain for 200 ms is stopped by an order on CTRL, which no
swap holds and no router without an entry throws away (R23, R316; log 72); a withdrawn request ends. -/
def Obligations.LaunchAndPlacement : Prop :=
  (∀ (s : State) (off id : Nat) (rest : List Nat) (r : LaunchRec) (h : ImageHead) (img : List Word),
    let entered (t : State) : Prop :=
      let u := t.stage id
      u.status = .queued ∧ u.w = h.w ∧ u.h = h.h ∧ u.job = r.job ∧ u.prio = r.prio ∧ u.cqn = r.cqn ∧ u.image = img ∧ u.scene = 0 ∧
      u.ordinal = s.host.nextOrdinal ∧ t.cells = s.cells ∧ (∀ m, m ≠ id → AMap.get? t.stages m = AMap.get? s.stages m) ∧
      t.host.launchStat = BitVec.ofNat 32 (1 + 2 ^ 11 + id * 2 ^ 16)
    (s.host.modState = 1 ∨ s.host.modState = 2 →
      (launchCheck s off = .ok (r, h, img) → s.host.heldLaunch = [] → s.freeId = some id →
        ∃ t, exec (.launch off) s = .next t ∧ entered t) ∧
      (∀ reason code, launchCheck s off = .error (reason, code) →
        ∃ t, ∃ posted : Nat, posted ≤ 1 ∧ exec (.launch off) s = .next t ∧ t.stages = s.stages ∧ t.cells = s.cells ∧
          t.host.launchStat = BitVec.ofNat 32 (2 + reason * 2 ^ 2 + code * 2 ^ 6 + posted * 2 ^ 11)) ∧
      (launchCheck s off = .ok (r, h, img) → s.freeId = none →
        exec (.launch off) s = .next { s with host := { s.host with heldLaunch := s.host.heldLaunch ++ [off], launchStat := 3 } })) ∧
    (s.host.heldLaunch = off :: rest → s.freeId = some id →
      launchCheck { s with host := { s.host with heldLaunch := rest } } off = .ok (r, h, img) →
      ∃ t, exec .launchAccept s = .next t ∧ entered t ∧ t.host.heldLaunch = rest) ∧
    (s.host.modState ≠ 1 → s.host.modState ≠ 2 → exec (.launch off) s = .next s) ∧
    (let w := s.launchWord off
      let share (v hi : Nat) : Prop := v = 0 ∨ hi < v
      w 0 ≠ 0xA64C4C01 ∨ 8 ≤ w 1 ∨ 2 ^ 24 ≤ w 4 ∨ share (w 4 % 2 ^ 7) 64 ∨ share (w 4 / 2 ^ 8 % 2 ^ 7) 64 ∨ share (w 4 / 2 ^ 16 % 2 ^ 8) 128 ∨
        w 5 % 8 ≠ 0 ∨ 2 ^ 28 ≤ w 5 ∨ 4096 ≤ w 6 ∨ 131072 < w 7 ∨ 4096 < w 8 ∨ 4096 < w 9 ∨ (∃ i, i < 6 ∧ w (10 + i) ≠ 0) →
      launchCheck s off = .error (1, 0)) ∧
    (∀ f, launchRec s off = some r → imageHead (imageWords s.host.launchArea r.img) = .error f → launchCheck s off = .error (2, f.code))) ∧
  (∀ (s : State) (st x0 y0 : Nat),
    let u := s.stage st
    let taken (f : Nat) : Prop := AMap.get? s.frames f ≠ none ∨ ∃ m ∈ s.maps, f ∈ m.frames
    let fits (x y : Nat) : Prop := x + u.w ≤ 320 ∧ y + u.h ≤ 512 ∧ ∀ i j, i < u.w → j < u.h →
      let m := (y + j) * 320 + (x + i)
      m % 320 < (s.casting.cols (m / 320)).length ∧
      (∀ e ∈ s.stages, e.2.owns m = false ∧ ¬ (e.2.status = .preempted ∧ e.2.recast = true ∧ e.2.covers m = true)) ∧
      ∀ f, f < 32 → f + 4 * s.plOf (s.halfNum m) ≤ 31 → 31 < f + 4 * u.smax → ¬ taken (f * 24576 + s.halfNum m)
    (findOrigin s u = some (x0, y0) ↔ x0 < 320 ∧ y0 < 512 ∧ fits x0 y0 ∧
      ∀ x y, x < 320 → y < 512 → (y < y0 ∨ y = y0 ∧ x < x0) → ¬ fits x y) ∧
    (findOrigin s u = none ↔ ∀ x y, x < 320 → y < 512 → ¬ fits x y) ∧
    ((s.host.modState = 1 ∨ s.host.modState = 2) → waiting s = [(st, u)] → u.status = .queued → AMap.get? s.stages st = some u →
      (∀ e ∈ s.stages, e.2.status = .queued → e.1 = st) → TablesOk s → findOrigin s u = some (x0, y0) →
      ∃ t, exec .placement s = .next t ∧ t.stage st = { u with status := .placed, x0 := x0, y0 := y0, placedOnce := true, unplaceable := false } ∧
        (x0 + u.w ≤ 320 → ∀ x y, x < u.w → y < u.h → t.cell ((y0 + y) * 320 + (x0 + x)) = CellState.blank st x y) ∧
        (∀ m, m ≠ st → AMap.get? t.stages m = AMap.get? s.stages m) ∧ t.swapped st = false) ∧
    (findOrigin s u = none → waiting s = [(st, u)] → ∃ t, exec .placement s = .next t ∧ t.stages = s.stages ∧ t.cells = s.cells) ∧
    (u.status = .queued → AMap.get? s.stages st = some u → u.arrived + 5000000 ≤ s.tick →
      ∃ t, exec (.requestAged st) s = .next t ∧ (t.stage st).aged = true ∧ t.cells = s.cells) ∧
    (∀ r, u.regroup = some r → u.status = .placed → u.stopping = false → r + 20000000 ≤ s.tick →
      s.swapped st = true → s.rowsOpen u = true → s.stageGap st = none →
      ∃ t, exec (.forcedPreempt st) s = .next t ∧
        CellsBecome (s.setStage st { u with stopping := true }) t (fun _ e => if e.stage = st then { e with live := false } else e)) ∧
    (u.status = .queued → AMap.get? s.stages st = some u → ∃ t, exec (.stageWithdraw st) s = .next t ∧ (t.stage st).status = .ended))

/-- R66, R67, R100, R101, R285, R289 to R292, R316: an installable scene that passes its checks is installed with no curtain: every cell
is as its records give it, with queues emptied and data kept; a SLOTS, CUES, CONTEXT or SLICE record gives its items to the cells of the
last rectangle alone, a slot or cue that it does not list stays, and a slot given twice is refused with code 0x13, slots of two records
that differ are not (R90); a scene that fails ends its script, and no cell of the stage stays; the curtain goes up two ticks on; it
comes down when the scene is over, with its record, for the next scene, whose counts then begin, or the end of the script (logs 29, 68;
a stall report stands while nothing fired since, R301); an install waits for a swap and for what the stage still has on CTRL (R21, R23);
what the director does to a stage on CTRL is thrown away and reported where a router has no entry for it (R316; log 72). R289, R290:
when a scene is over: every context is halted, or no valid slot names an enabled cue that can select it; nothing that R290 names is
outstanding, queued or on its way; and no instruction holds the arbiter, but for an N-beat one that a generator which no longer runs
holds for good (log 82). -/
def Obligations.Scenes : Prop :=
  ((∀ (d e : Draft) (header : Word) (l : List Word) (q : Nat × Nat × Nat × Nat), d.rect = some q →
    let inside (c : CellState) : Prop := q.1 ≤ c.cx ∧ c.cx < q.1 + q.2.2.1 ∧ q.2.1 ≤ c.cy ∧ c.cy < q.2.1 + q.2.2.2
    let item (f : CellState → CellState → Prop) : Prop :=
      ∀ r c, AMap.get? d.cells r = some c → ∃ c', AMap.get? e.cells r = some c' ∧ (inside c → f c c') ∧ (¬ inside c → c' = c)
    let num (i : Nat) : Nat := ((l[i]?).getD 0).toNat
    let named (l : List Word) (i : Nat) : Prop := (((l[i / 32]?).getD 0).toNat).testBit (i % 32) = true
    (applyRecord d header 0x02 l = .ok e → item fun c c' => { c' with slots := c.slots } = c ∧
      ∀ i : Fin 128, c'.slots[i] = if named l i.val then l[4 + i.val]? else c.slots[i]) ∧
    (applyRecord d header 0x02 l = .ok e → ∀ h' l',
      ((∃ i, i < 128 ∧ named l i ∧ named l' i) → (∃ f ∈ d.cells, inside f.2) → applyRecord e h' 0x02 l' = .error ⟨0x13, 0, 0, 0, h'⟩) ∧
      (d.given = [] → (∀ i, i < 128 → ¬ (named l i ∧ named l' i)) → ∃ e', applyRecord e h' 0x02 l' = .ok e')) ∧
    (applyRecord d header 0x03 l = .ok e → item fun c c' => { c' with cues := c.cues } = c ∧
      ∀ i : Fin 63, (c'.cues[i]).toNat = if named l i.val then num (2 + 2 * i.val) + num (3 + 2 * i.val) * 2 ^ 32 else (c.cues[i]).toNat) ∧
    (applyRecord d header 0x04 l = .ok e → num 0 < 4 ∧ item fun c c' =>
      { c' with ctxs := c.ctxs } = c ∧ (∀ k : Fin 4, k.val ≠ num 0 → c'.ctx k = c.ctx k) ∧
      ∀ k : Fin 4, k.val = num 0 → (∀ r : Fin 16, r ≠ 0 → ((c'.ctx k).x[r]).toNat = num r.val) ∧
        (c'.ctx k).p.toNat = num 16 % 256 ∧ (c'.ctx k).pres.toNat = num 16 / 256 % 256 ∧ ((c'.ctx k).fcr).toNat = num 25 ∧
        ∀ i : Fin 4, ((c'.ctx k).w[i]).toNat = num (17 + 2 * i.val) + num (18 + 2 * i.val) * 2 ^ 32) ∧
    (applyRecord d header 0x0C l = .ok e → 1 ≤ num 0 ∧ num 0 ≤ 8 ∧ item fun c c' => c' = { c with sliceMiB := num 0 })) ∧
  ∀ (s : State) (st : Nat) (d : Draft) (f : InstallFail),
    let u := s.stage st
    let curtain (flags : Nat) : List Word := ceWords 1 [BitVec.ofNat 32 (st % 4096 + u.scene % 2 ^ 16 * 2 ^ 16), BitVec.ofNat 32 flags, BitVec.ofNat 32 s.tick,
      BitVec.ofNat 32 (s.tick / 2 ^ 32), BitVec.ofNat 32 u.stat.flog, BitVec.ofNat 32 u.elog.length,
      BitVec.ofNat 32 (min u.stat.ubc 0xFFFFFFFF),
      BitVec.ofNat 32 (u.stat.masked.toNat + (if u.stat.masked then s.duty else 0) * 2 + min u.stat.stalls 1023 * 2 ^ 6
        + u.stat.wdog.toNat * 2 ^ 16)]
    let plain : Prop := u.stat.portalLost = 0 ∧ u.stat.egressLost = [] ∧ (u.swd = 0 ∨ u.stat.wdog = true) ∧ (s.egress u.cqn).bound = some st
    let posted (t : State) (flags : Nat) : Prop := ∃ v, Posts s v u.cqn (curtain flags) ∧
      t.host.posted = v.host.posted ∧ t.host.heldCe = v.host.heldCe ∧ t.host.postNo = v.host.postNo
    (∀ r, s.stageGap st = some r →
      (installable s st u = true → exec (.sceneInstall st) s = .next (s.routerRecord r.1 r.2))) ∧
    ((∃ i ∈ s.items, i.stage = st ∧ i.what ≠ .token) ∨ s.swapped st = false ∨ s.rowsOpen u = false → exec (.sceneInstall st) s = .next s) ∧
    (installable s st u = true → s.stageGap st = none →
      (sceneFor s u u.scene = .ok d →
        ∃ t, exec (.sceneInstall st) s = .next t ∧ (t.stage st).installed = true ∧ (t.stage st).upAt = none ∧
          (t.stage st).stat = { SceneStat.blank with reportAt := u.stat.reportAt } ∧ (t.stage st).groups = d.groups ∧ (t.stage st).scene = u.scene ∧
          (u.x0 + u.w ≤ 320 → ∀ r, r < u.w * u.h →
            ∃ c, AMap.get? d.cells r = some c ∧ t.cell (u.cellNum r) = c ∧ Installed ((s.cell (u.cellNum r)).fresh s.tick) c)) ∧
      (sceneFor s u u.scene = .error f →
        ∃ t, exec (.sceneInstall st) s = .next t ∧ (t.stage st).status = .ended ∧ ∀ e ∈ t.cells, e.2.stage ≠ st)) ∧
    (u.status = .placed → u.installed = true → u.stopping = false → s.swapped st = true → s.rowsOpen u = true → s.stageGap st = none →
      (u.upAt = none →
        exec (.curtainUp st) s = .next (s.setStage st { u with
          upAt := some (s.tick + 2), startAt := s.tick + 2, stat := { u.stat with lastAct := s.tick + 2 } })) ∧
      (u.upAt.isSome = true → u.startAt ≤ s.tick → sceneOver s st u = true →
        (u.nsc ≤ u.scene + 1 →
          ∃ t, exec (.curtainDown st) s = .next t ∧ (t.stage st).status = .ended ∧ (∀ e ∈ t.cells, e.2.stage ≠ st) ∧ (plain → posted t 1)) ∧
        (u.scene + 1 < u.nsc → sceneFor s u (u.scene + 1) = .ok d → plain →
          ∃ t, exec (.curtainDown st) s = .next t ∧ (t.stage st).scene = u.scene + 1 ∧ (t.stage st).installed = false ∧
            (t.stage st).upAt = none ∧ (t.stage st).mask = none ∧ (∀ e ∈ t.cells, e.2.stage = st → e.2.live = false) ∧
            (t.stage st).stat = { SceneStat.blank with reportAt := (t.stage st).stat.reportAt } ∧
            (∀ r, (t.stage st).stat.reportAt = some r ↔ u.stat.reportAt = some r ∧
              ∀ e ∈ s.cells, e.2.stage = st → ∀ f, e.2.lastFired = some f → f.2 < r) ∧
            Posts s t u.cqn (curtain 0))))) ∧
  (∀ (s : State) (st : Nat),
    let u := s.stage st
    sceneOver s st u = true ↔
      (∀ e ∈ s.cellsOf st,
        let c := e.2
        (∀ k : Fin 4, (c.ctx k).status = .halted ∨ ∀ (i : Fin 128) (w : Word) (j : Fin 63), c.slots[i] = some w → w.toNat / 2 ^ 26 = j.val →
          let cue (lo n : Nat) : Nat := (c.cues[j]).toNat / 2 ^ lo % 2 ^ n
          cue 60 1 = 0 ∨ cue 32 2 ≠ 1 ∧ (cue 32 2 = 0 → cue 34 2 ≠ k.val)) ∧
        (∀ k : Fin 4, (c.ctx k).uack = 0 ∧ (c.ctx k).station = none ∧ (c.ctx k).acq = false ∧ (c.ctx k).watchOut = false ∧
          (c.ctx k).record = none ∧ (c.ctx k).beside = []) ∧
        c.copyPend = [] ∧ (∀ i : Fin 2, c.copyAct[i] = none) ∧ (∀ g : Fin 4, (c.gens[g]).active = false) ∧
        c.sf = none ∧ c.div = none ∧ (∀ f ∈ c.fills, ∀ x, f.uses ≠ .load x) ∧ c.mxq = [] ∧ c.mxRun = none ∧ c.tsend = none ∧
        (∀ q : Fin 8, c.oq[q] = []) ∧ c.putSend = [] ∧ c.putHeld = [] ∧ c.asyncRecs = [] ∧ (∀ g : Fin 8, (c.scan[g]).agg = none) ∧
        HoldOver c ∧ ∀ l ∈ c.mail7, ∀ w ∈ l, w.tag.toNat % 64 < 0x20 ∨ 0x23 < w.tag.toNat % 64) ∧
      (∀ p ∈ s.packets, ∀ e ∈ s.cellsOf st, p.src ≠ e.1) ∧ u.aggs = [] ∧ u.carries = [])

/-- R23, R301 to R304, R316, R357: a stalled stage gets its report: snapshots, a TYPE 4 completion entry that names the summary cell
(log 39) and a word for the trap cell; a scene past its watchdog gets one record and no more, in the fault log and as a TYPE 2
completion entry; a poll counts a missed answer unless a throttle record explains it, an answer takes the throttle flag of the time
since the last one, and the third missed one retires its position, as a failed self-test does, and ends every stage of the job that
holds it with a record of the position (R357); a clock that is stretched makes a throttle record of every position that runs from it but
in a clear poll (logs 55, 76); the next poll of a position comes 1,000 ticks behind the last (log 55); a poll whose way, or whose
answer's, lacks an entry is thrown away, reported and missed, and a recast of the row holds it (the rows' own CTRL tables, the
director's router, the place of a position without a number: log 72). R301: when a stage is stalled: it is placed, its curtain is up,
nothing in it has progressed for 1,000 ticks, something has fired since its last report, and one item at least is held. -/
def Obligations.DirectorWatches : Prop :=
  (∀ (s : State) (st row col up : Nat) (on : Bool),
    let u := s.stage st
    let key := row * 384 + col
    let slow := s.slow.getD key (false, false)
    let missed := (s.silent.getD key (0, false)).1 + if slow.2 then 0 else 1
    let due : Prop := ∀ t, AMap.get? s.polled key = some t → t + 1000 ≤ s.tick
    let place := (logicalAt s row col).getD (row * 320 + 319)
    let gap := (s.gapTo (4096 + row) place).or (s.ctrlGap (4096 + row) place 4 163840 831)
    let masked := ((logicalAt s row col).bind fun n => AMap.get? s.cells n).any fun c => (s.stage c.stage).mask.isSome
    let flag (l : Bool) : AMap (Bool × Bool) := s.flags.put key (l, (s.flagAt key).1)
    let retired (t : State) : Prop := (row, col, true) ∈ t.casting.dead ∧ t.casting.gen = s.casting.gen + 1 ∧ t.retiring = []
    let ended (n : Nat) (t : State) : Prop :=
      (∀ i v, AMap.get? s.stages i = some v → v.job = u.job → v.status ≠ .ended → (t.stage i).status = .ended ∧ ∀ e ∈ t.cells, e.2.stage ≠ i) ∧
      (u.flog.length < 4096 → (u.swd = 0 ∨ u.stat.wdog = true) → (∀ e ∈ s.cellsOf st, e.2.records = []) → u.saved = [] →
        u.stat.portalLost = 0 → u.stat.egressLost = [] →
        ∃ l, (t.stage st).flog = u.flog ++ [l] ∧ ((l[0]?).getD 0).toNat % 2 ^ 9 = 12 + 2 * 2 ^ 4 ∧
          ((l[1]?).getD 0).toNat % 2 ^ 18 = (n % 320 - u.x0) % 2 ^ 9 + (n / 320 - u.y0) % 2 ^ 9 * 2 ^ 9)
    let entry (k : Nat) : List Word := ceWords 4 [BitVec.ofNat 32 k]
    (stalled s st = true →
      ∃ t, exec (.stallReport st) s = .next t ∧
        t.stage st = { u with
          stallLog := (s.cellsOf st).map fun e => snapshot e.2
          stat := { u.stat with stalls := u.stat.stalls + 1, reportAt := some s.tick } } ∧
        ((s.egress u.cqn).bound = some st → Posts s t u.cqn (entry (summaryCell s st))) ∧
        (trapCell s st = none → t.cells = s.cells) ∧
        (∀ m, trapCell s st = some m →
          t.cells = s.cells.put m { s.cell m with mail7 := (s.cell m).mail7 ++ [[⟨BitVec.ofNat 32 (summaryCell s st), 0x29, false⟩]] })) ∧
    (stalled s st = false → exec (.stallReport st) s = .next s) ∧
    (u.upAt = some up → u.status = .placed → u.swd ≠ 0 → up + u.swd ≤ s.tick →
      (u.stat.wdog = false →
        ∃ t l, exec (.sceneWatchdog st) s = .next t ∧ (t.stage st).stat.wdog = true ∧ t.cells = s.cells ∧
          (u.flog.length < 4096 → (t.stage st).flog = u.flog ++ [l]) ∧
          ((s.egress u.cqn).bound = some st → Posts s t u.cqn (ceWords 2 l)) ∧
          ((l[0]?).getD 0).toNat % 2 ^ 9 = 12 + 1 * 2 ^ 4 ∧ (l[4]?).getD 0 = BitVec.ofNat 32 (u.scene % 2 ^ 16 + 2 ^ 16) ∧
          (l[7]?).getD 0 = BitVec.ofNat 32 (st % 4096)) ∧
      (u.stat.wdog = true → exec (.sceneWatchdog st) s = .next s)) ∧
    (inService s row col = true → 1 ≤ s.host.modState → s.host.modState < 14 →
      exec (.cellSelfTest row col true) s = .next s ∧
      (s.ctrlHeld (4096 + row) = true ∨ ¬ due → ∀ answer, exec (.heartbeatPoll row col answer) s = .next s) ∧
      (s.ctrlHeld (4096 + row) = false → due → gap = none →
        exec (.heartbeatPoll row col true) s =
          .next { s with
            silent := s.silent.put key (0, false), polled := s.polled.put key s.tick
            slow := s.slow.put key (slow.1, s.stretchedAt key || masked)
            flags := flag (s.stretchedAt key || masked) } ∧
        (missed < 3 → exec (.heartbeatPoll row col false) s =
          .next { s with
            silent := s.silent.put key (missed, true), polled := s.polled.put key s.tick, slow := s.slow.put key (slow.1, false) }) ∧
        (3 ≤ missed → s.stages = [] → s.cells = [] → s.retiring = [] →
          (s.casting.dead.any fun e => decide (e.1 = row ∧ e.2.1 = col)) = false →
          ∃ t, exec (.heartbeatPoll row col false) s = .next t ∧ retired t) ∧
        (∀ n, 3 ≤ missed → logicalAt s row col = some n → TablesOk s → AMap.get? s.stages st = some u → u.owns n = true →
          (∀ e ∈ s.stages, e.2.owns n = true → e.1 = st) → ∃ t, exec (.heartbeatPoll row col false) s = .next t ∧ ended n t)) ∧
      (∀ r, s.ctrlHeld (4096 + row) = false → due → gap = some r → missed < 3 →
        ∀ answer, exec (.heartbeatPoll row col answer) s =
          .next { s.routerRecord r.1 r.2 with
            silent := s.silent.put key (missed, true), polled := s.polled.put key s.tick, slow := s.slow.put key (slow.1, false) }) ∧
      (s.stages = [] → s.cells = [] → s.retiring = [] → (s.casting.dead.any fun e => decide (e.1 = row ∧ e.2.1 = col)) = false →
        ∃ t, exec (.cellSelfTest row col false) s = .next t ∧ retired t)) ∧
    (∃ m f : AMap (Bool × Bool), exec (.clockStretch key on) s = .next { s with slow := m, flags := f } ∧
      ∀ p, let hit := on && decide (s.clockKey p = key) && !s.clearKey p
        AMap.getD m p (false, false) = (if p = key then on else (s.slowAt p).1, (s.slowAt p).2 || hit) ∧
        AMap.getD f p (false, false) = ((s.flagAt p).1 || hit, (s.flagAt p).2))) ∧
  (∀ (s : State) (st : Nat),
    let u := s.stage st
    stalled s st = true ↔ u.status = .placed ∧ u.upAt ≠ none ∧ u.startAt ≤ s.tick ∧
      (∀ r, u.stat.reportAt = some r → ∃ e ∈ s.cellsOf st, ∃ f, e.2.lastFired = some f ∧ r ≤ f.2) ∧
      u.stat.lastAct + 1000 ≤ s.tick ∧ (∀ e ∈ s.cellsOf st, e.2.lastAct + 1000 ≤ s.tick) ∧
      (u.carries ≠ [] ∨ u.arr ≠ [] ∨ ∃ e ∈ s.cellsOf st,
        let c := e.2
        (∃ q : Fin 8, c.iq[q] ≠ []) ∨ (∃ q : Fin 8, c.oq[q] ≠ []) ∨ (∃ g : Fin 8, 0 < (c.rings[g]).count) ∨ c.putSend ≠ [] ∨ c.putHeld ≠ [] ∨
          (∃ k : Fin 4, (c.ctx k).station ≠ none) ∨ ∃ b : Fin 16, (c.bars[b]).arr = true))

/-- R23, R242, R287, R309, R310, R354 to R356, R408: a stopped stage that has settled is saved: its image holds every cell and the
reachable bytes of every slice, and the stage leaves the grid; it comes back where a restore may put it, with its cells and slices, and
starts two ticks on; the host's end has a curtain record with LAST and HOSTEND, stops a placed stage first, by an order on CTRL which a
swap holds and a router without an entry throws away and reports (R316; log 72), halts its generators once what they serve has ended
(log 67), ends it when it has settled, and ends a pre-empted one at once; CTRL tables swap once every drain token they wait for is in,
and the items held for them go (log 47). R215, R242, R354: when a stopped stage has settled: steps 1 to 4 of R354 of every cell, with no
packet of its cells, nothing of it on CTRL but drain tokens, and no scan quantity that could still be formed; what a generator that no
longer runs holds for good is not awaited (log 82). -/
def Obligations.StagesMoveAndEnd : Prop :=
  (∀ (s : State) (st x0 y0 : Nat),
    let u := s.stage st
    let k := s.ctrlOf st
    let here := (s.cellsOf st).map fun e => e.1
    let moved (r : Nat) : Nat := (y0 + r / u.w) * 320 + (x0 + r % u.w)
    let curtain (flags : Nat) : List Word := ceWords 1 [BitVec.ofNat 32 (st % 4096 + u.scene % 2 ^ 16 * 2 ^ 16), BitVec.ofNat 32 flags, BitVec.ofNat 32 s.tick,
      BitVec.ofNat 32 (s.tick / 2 ^ 32), BitVec.ofNat 32 u.stat.flog, BitVec.ofNat 32 u.elog.length,
      BitVec.ofNat 32 (min u.stat.ubc 0xFFFFFFFF),
      BitVec.ofNat 32 (u.stat.masked.toNat + (if u.stat.masked then s.duty else 0) * 2 + min u.stat.stalls 1023 * 2 ^ 6
        + u.stat.wdog.toNat * 2 ^ 16)]
    let plain : Prop := u.stat.portalLost = 0 ∧ u.stat.egressLost = [] ∧ (u.swd = 0 ∨ u.stat.wdog = true) ∧ (s.egress u.cqn).bound = some st
    let posted (t : State) (flags : Nat) : Prop := ∃ v, Posts s v u.cqn (curtain flags) ∧
      t.host.posted = v.host.posted ∧ t.host.heldCe = v.host.heldCe ∧ t.host.postNo = v.host.postNo
    (u.status = .placed → u.stopping = true → u.ending = false → settled s st = true → Rising s.cells →
      (∀ e ∈ s.cellsOf st, u.cellAt e.2.cx e.2.cy = e.1 ∧ e.2.cx < u.w) → u.x0 + u.w ≤ 320 →
      ∃ t, exec (.preempt st) s = .next t ∧ (t.stage st).status = .preempted ∧ (t.stage st).stopping = false ∧
        (∀ e ∈ t.cells, e.2.stage = st → False) ∧
        ∀ n c, AMap.get? s.cells n = some c → c.stage = st →
          ∃ m, AMap.get? (t.stage st).saved (c.cy * u.w + c.cx) = some ({ c with
              cache := [], wbs := [], live := false, ecc := 0
              ctxs := c.ctxs.map fun x => { x.endPhase with withdrawn := x.withdrawn || x.phase.any fun h => h.own && decide (s.strip < h.grant) }
              mxq := c.mxq.map fun q => { q with early := true }
              putSend := c.putSend.map fun w => { w with hop := none } }, m) ∧
            (MemOk s → Apart s here → c.sliceMiB ≤ 8 → ∀ o, o < c.sliceMiB * 2 ^ 20 - 2 ^ 19 → o < s.sliceLimit n →
              m.read o = (s.flush n).firn.read (s.sliceKey n o))) ∧
    (u.status = .placed → u.stopping = true → settled s st = false → exec (.preempt st) s = .next s) ∧
    (u.status = .preempted → restoreAt s u x0 y0 = true →
      ∃ t, exec (.restore st x0 y0) s = .next t ∧ (t.stage st).status = .placed ∧ (t.stage st).x0 = x0 ∧ (t.stage st).y0 = y0 ∧
        (t.stage st).startAt = s.tick + 2 ∧ (t.stage st).saved = [] ∧ (t.stage st).heldWakes = [] ∧
        (Rising u.saved → (∀ e ∈ u.saved, e.1 < u.w * u.h) → ∀ r c m, AMap.get? u.saved r = some (c, m) →
          let n := moved r
          ((∀ k : Fin 4, (c.ctx k).withdrawn = false) → (∀ w ∈ u.heldWakes, w.1 ≠ r) →
            (∀ e ∈ u.saved, ∀ k : Fin 4, watchDue s (e.2.1.ctx k) = none) →
            t.cell n = { c with
              names := [], nameWalk := [], mxStop := false, mxPark := false, putSend := c.putSend.map fun w => { w with src := n }
              putHeld := c.putHeld.map fun w =>
                if w.src = 163840 then w else { w with src := moved ((w.src / 320 - u.y0) * u.w + (w.src % 320 - u.x0)) } }) ∧
          (Apart t (u.saved.map fun e => moved e.1) → MemOk s →
            (∀ e ∈ u.saved, e.2.2.wf = true ∧ ∀ b ∈ e.2.2, b.1 < 2 ^ 23) → ∀ b ∈ m, t.firn.read (t.sliceKey n b.1) = b.2))) ∧
    (u.status = .preempted → ∃ t, exec (.hostEndStage st) s = .next t ∧ (t.stage st).status = .ended ∧
      (plain → (∀ e ∈ s.cellsOf st, e.2.records = []) → (∀ e ∈ u.saved, e.2.1.records = []) → posted t 5)) ∧
    (u.status = .placed → u.ending = false → s.swapped st = true → s.rowsOpen u = true →
      (∀ r, s.stageGap st = some r → exec (.hostEndStage st) s = .next (s.routerRecord r.1 r.2)) ∧ (s.stageGap st = none →
      ∃ t, exec (.hostEndStage st) s = .next t ∧ (t.stage st).status = .placed ∧ (t.stage st).ending = true ∧ (t.stage st).stopping = true ∧
        ∀ e ∈ t.cells, e.2.stage = st → e.2.live = false ∧ e.2.copyPend = [] ∧ (∀ i : Fin 2, ∀ y, e.2.copyAct[i] = some y → y.cancelled = true) ∧
          ∀ i : Fin 16, (e.2.cts[i]).armed = false ∧ (e.2.cts[i]).pending = false)) ∧
    (u.status = .placed → u.ending = false → s.swapped st = false ∨ s.rowsOpen u = false → exec (.hostEndStage st) s = .next s) ∧
    (u.status = .placed → u.ending = true → settled s st = false → ∀ n c, AMap.get? s.cells n = some c → c.stage = st →
      c.holdSettled = true → c.sfSettled = true → ∃ t, exec (.hostEndStage st) s = .next t ∧
        ((∀ e ∈ t.cells, e.2.stage ≠ st) ∨ ∃ d, AMap.get? t.cells n = some d ∧ ∀ g : Fin 4, (d.gens[g]).active = false)) ∧
    (u.status = .placed → u.ending = true → settled s st = true → (∀ e ∈ s.cellsOf st, ∀ i : Fin 2, e.2.copyAct[i] = none) →
      ∃ t, exec (.hostEndStage st) s = .next t ∧ (t.stage st).status = .ended ∧ (∀ e ∈ t.cells, e.2.stage ≠ st) ∧
        (plain → (∀ e ∈ s.cellsOf st, e.2.records = []) → u.saved = [] → posted t 5)) ∧
    (k.pending = true → k.tokens ≠ [] → exec (.drainAndSwap st) s = .next s) ∧
    (k.pending = true → k.tokens = [] →
      ∃ t, exec (.drainAndSwap st) s = .next t ∧ (t.ctrlOf st).use = 1 - k.use ∧ (t.ctrlOf st).pending = false ∧ (t.ctrlOf st).banks = k.banks ∧
        t.items = s.items.map (fun i => if s.heldFor st i = true then { i with held := false, hop := { i.hop with came := s.strip } } else i) ∧
        t.cells = s.cells ∧ (u.status = .placed → u.upAt.isSome = true → (t.stage st).startAt = s.tick + 2)) ∧
    (k.pending = false → exec (.drainAndSwap st) s = .next s)) ∧
  (∀ (s : State) (st : Nat),
    let u := s.stage st
    settled s st = true ↔
      (∀ e ∈ s.cellsOf st,
        let c := e.2
        HoldOver c ∧ c.fills = [] ∧ c.div = none ∧ c.mxRun = none ∧ c.port = [] ∧ (∀ g : Fin 8, (c.scan[g]).work = []) ∧
        (∀ j, c.sf = some j →
          (∃ r t f, c.hold = .beats r ∧ r.op = .sf t f ∧ j.joined = none) ∨ (∀ r t f, c.hold = .beats r → r.op ≠ .sf t f) ∧ StuckSo c j.dst) ∧
        (c.mxStop = true ∨ c.mxPark = true ∨ ∀ m, c.mxq.head? = some m → mxPresent c m = false) ∧
        (∀ k : Fin 4, (c.ctx k).uack = 0 ∧ (c.ctx k).station = none ∧ (c.ctx k).acq = false) ∧
        (∀ (i : Fin 2) (x : Copy), c.copyAct[i] = some x → x.flight = [] ∧ x.work = []) ∧ ∀ r ∈ c.records, r.dest = .trap ∧ c.trap ≠ none) ∧
      (∀ p ∈ s.packets, p.stage ≠ st ∧ ∀ e ∈ s.cellsOf st, p.src ≠ e.1) ∧ (∀ i ∈ s.items, i.stage = st → i.what = .token) ∧
      ∀ (grp : Fin 8) (g : ScanGroup) (r : Word), u.groups[grp] = some g →
        ((∃ a ∈ u.aggs, a.grp = grp ∧ a.round = r) ∨ ∃ k ∈ u.carries, k.grp = grp ∧ k.round = r) → ∀ q ∈ g.all, ∀ d, scanCan s u grp r q d = none)

/-- R15, R315, R320 to R322, R325, R346, R370: the director writes an entry of the first level over frames that it may map and take:
free ones of a half strip from the highest address downward, none that a change which is not complete has unmapped; a frame that no
table maps any more is free, and one that another job released is zeroed before it is taken; every cached copy that was read through the
old entry goes, and the change is complete once nothing that the old entry translated is on its way; a new table starts empty, and no
page is a frame that holds a table (log 40); the host's release is a remote write to `x15`, which waits while its stage stops (log 73).
-/
def Obligations.MappingsAndReleases : Prop :=
  ∀ (s : State) (st root idx : Nat) (entry : DWord) (k : Fin 4) (num : Nat),
    let u := s.stage st
    let s' := newTable s entry false
    let frames := entryFrames s' entry false
    let free (f : Nat) : Prop := mappable s f = true ∧ takeable s f = true
    let new (f : Nat) : Prop := f ∈ frames ∧ f ∉ s.allMapped
    let key := root % 24576 / 2 * 2 ^ 27 + root % 24576 % 2 * 2 ^ 26 + (2 ^ 26 - 2 ^ 21 * (root / 24576 + 1)) + idx % 2 ^ 18 * 8
    let leaves (f : Nat) : Prop := ∃ m ∈ s.maps, f ∈ m.frames
    (∀ f, takeable s f = true ↔ ¬ leaves f ∧ (AMap.get? s.frames f = none → ∀ i, i < f / 24576 →
      AMap.get? s.frames (i * 24576 + f % 24576) ≠ none ∨ leaves (i * 24576 + f % 24576))) ∧
    (1 ≤ s.host.modState → s.host.modState < 14 → MemOk s → AMap.get? s.stages st = some u → u.status ≠ .ended → u.root = some root →
      root < 786432 → root ∉ frames → (∀ f ∈ frames, free f) → keepsApart s' entry false = true →
      ∃ t, exec (.mappingUpdate (.stage st) false idx entry) s = .next t ∧ t.firn.readN key 8 = entry.toNat ∧
        (∀ f, new f → AMap.get? s.frames f = none → AMap.get? t.frames f = some u.job ∧ AMap.get? t.dirty f = none) ∧
        (∀ f ∈ entryFrames s (s.frameWord root (idx % 2 ^ 18 * 8)) false, f ∉ t.allMapped →
          AMap.get? t.frames f = none ∧ AMap.get? t.dirty f = some u.job) ∧
        (∀ f j, f ∈ frames → AMap.get? s.frames f = none → AMap.get? s.dirty f = some j → j ≠ u.job →
          ∀ b < 2 ^ 21, t.firn.read (frameKey f b) = 0) ∧
        t.tlb = s.tlb.filter (fun e => decide (key ∉ e.path)) ∧
        (s.maps = [] → (∃ r ∈ s.reqs, key ∈ r.path) → t.host.mapDone = s.host.mapDone ∧ t.maps ≠ []) ∧
        (s.maps = [] → (∀ r ∈ s.reqs, ∀ p ∈ r.path, p ≠ key ∧ p < 2 ^ 64) →
          (∀ e ∈ s.cells, ∀ i : Fin 2, ∀ x, e.2.copyAct[i] = some x → ∀ b ∈ x.work, ∀ p ∈ b.path, p ≠ key ∧ p < 2 ^ 64) →
          t.host.mapDone = s.host.mapDone ++ [s.mapNo] ∧ t.maps = [])) ∧
    (¬ (∀ f ∈ frames, free f) ∨ keepsApart s' entry false = false → exec (.mappingUpdate (.stage st) false idx entry) s = .next s) ∧
    (let w := (AMap.getD s.host.release st 0).toNat
      let n := (u.y0 + num / u.w) * 320 + (u.x0 + num % u.w)
      let x := (s.cell n).ctx k
      w = num + k.val * 2 ^ 18 → num < 2 ^ 18 → u.status = .placed → num < u.w * u.h → s.host.releases = [] →
      ∀ val : Word,
        (u.stopping = false → (∀ h ∈ (s.cell n).putHeld, h.ctx ≠ k ∨ h.r ≠ 7) →
          x.pres.getLsbD 7 = false → x.resv.getLsbD 7 = false → x.was.getLsbD 7 = false →
          exec (.hostRelease st val) s = .next (s.setCell n ((s.cell n).putWrite k 7 val))) ∧
        (u.stopping = true →
          exec (.hostRelease st val) s = .next { s with host := { s.host with releases := [(st, num, k, val)] } }))

/-! ## Hosts, ports, other modules -/

/-- R6, R236, R319, R351, R365 to R370, R374, R377, R378, R380, R403: a doorbell write of a ready module with a channel's token is taken
while the channel holds fewer than 16, else counted as a discard, and one whose check fails is not applied; a token enters its queue
once its stage is fed, the queue has room and nothing that its port carried before is on its way; a register write changes the RW bits
of its own word alone: aperture slots, egress descriptors (of a bound queue HEAD, and PORT while its port is down, R367), host windows
and their ports, domain words, collective descriptors without V, reshape words, mailbox, launch area, release words. -/
def Obligations.HostWritesArrive : Prop :=
  (∀ old new mask i : Nat, old < 2 ^ 32 → new < 2 ^ 32 → mask < 2 ^ 32 →
    (setBits old new mask).testBit i = if mask.testBit i then new.testBit i else old.testBit i) ∧
  (∀ (d : DWord) (v mask : Nat), v < 2 ^ 32 → mask < 2 ^ 32 →
    (setHalf d false v mask).toNat = setBits (d.toNat % 2 ^ 32) v mask + d.toNat / 2 ^ 32 * 2 ^ 32 ∧
    (setHalf d true v mask).toNat = d.toNat % 2 ^ 32 + setBits (d.toNat / 2 ^ 32) v mask * 2 ^ 32) ∧
  ∀ (s : State) (port : Fin 8) (k st cell off : Nat) (q : Fin 8) (v : DWord) (w : QWord) (no : Nat) (rest : List (QWord × Fin 8 × Nat)),
    let c := s.chan k
    let h := s.host
    let put (x : Channel) : AMap Channel := h.chans.put k x
    (h.modState ≠ 1 → h.modState ≠ 2 → exec (.ingressDoorbell port off v) s = .next s) ∧
    (h.modState = 1 ∨ h.modState = 2 → s.portUp port = true → k < 131072 → v.toNat < 2 ^ 40 →
      (h.badPayload[port] = false →
        (c.bound = some (st, cell, q) → c.tokens.length < 16 →
          exec (.ingressDoorbell port (16 * k) v) s = .next { s with host := { h with
            chans := put { c with tokens := c.tokens ++ [(⟨v.setWidth 32, v.extractLsb' 32 8, false⟩, port, h.tokenNo)] }
            tokenNo := h.tokenNo + 1 } }) ∧
        (c.bound = none ∨ 16 ≤ c.tokens.length →
          exec (.ingressDoorbell port (16 * k) v) s = .next { s with host := { h with
            chans := put { c with discards := min (c.discards + 1) 0xFFFF } } })) ∧
      (h.badPayload[port] = true →
        ∃ t, exec (.ingressDoorbell port (16 * k) v) s = .next t ∧ t.host.chans = h.chans ∧ t.host.badPayload[port] = false)) ∧
    (c.bound = some (st, cell, q) → c.tokens = (w, port, no) :: rest → s.fed st cell q = true →
      (∀ e ∈ h.chans, e.1 ≠ k → e.2.bound ≠ some (st, cell, q)) → (∀ x ∈ h.work, x.port = port → x.write = true → no ≤ x.no) →
      let n := (s.stage st).cellNum cell
      ((s.cell n).iq[q]).length * 4 + s.flying (.queue n q) + 4 ≤ 32 →
      exec (.tokenDeliver k) s = .next (({ s with host := { h with chans := put { c with tokens := rest } } } : State).setCell n
        { s.cell n with iq := vset (s.cell n).iq q ((s.cell n).iq[q] ++ [w]) })) ∧
    (∀ x : Word, h.modState ≠ 14 →
      let n := x.toNat
      let wr (a : Nat) : Host.Outcome State Fault Refusal := exec (.registerWrite a x) s
      let e := s.egress (off / 4)
      let j := off % 4
      let slot := s.coll (Fin.ofNat 64 (off / 16))
      let half (d : DWord) (m : Nat) : DWord := setHalf d (decide (off % 2 = 1)) n m
      (off < 1024 → wr (0x10000 + 4 * off) = .next { s with host := { h with
        aper := h.aper.put (off / 2) (half (AMap.getD h.aper (off / 2) 0) (if off % 2 = 1 then 0xFFFFFF else 0xC0001FFF)) } }) ∧
      (off < 16384 → e.bound = none → wr (0x100000 + 4 * off) = .next (s.setEgress (off / 4) (
        if j < 2 then { e with base := half e.base (if j = 0 then 0xFFFFF000 else 0xFFFFFFFF) }
        else if j = 2 then { e with
          log2n := n % 2 ^ 5, port := Fin.ofNat 8 (n / 2 ^ 5 % 2 ^ 3), cq := n.testBit 8, ien := n.testBit 9, vec := n / 2 ^ 10 % 2 ^ 11 }
        else { e with head := n % 2 ^ 21 }))) ∧
      (off < 16384 → e.bound.isSome = true → j < 2 ∨ j = 2 ∧ s.portUp e.port = true → wr (0x100000 + 4 * off) = .next s) ∧
      (off < 16384 → e.bound.isSome = true → j = 2 → s.portUp e.port = false →
        wr (0x100000 + 4 * off) = .next (s.setEgress (off / 4) { e with port := Fin.ofNat 8 (n / 2 ^ 5 % 2 ^ 3) })) ∧
      (off < 16384 → j = 3 → wr (0x100000 + 4 * off) = .next (s.setEgress (off / 4) { e with head := n % 2 ^ 21 })) ∧
      (off < 32768 → wr (0x400000 + 4 * off) = .next { s with host := { h with
        wins := h.wins.put (off / 2) (half (AMap.getD h.wins (off / 2) 0) (if off % 2 = 1 then 0xFFFFFFFF else 0xFFE00001)) } }) ∧
      (off < 4096 → ∃ t, wr (0x600000 + 4 * off) = .next t ∧ { t with host := { t.host with winPort := h.winPort } } = s ∧
        ∀ i, AMap.get? t.host.winPort i = if i / 4 = off then some (n / 2 ^ (8 * (i % 4)) % 8) else AMap.get? h.winPort i) ∧
      (x.getLsbD 8 = false → wr 0x1000000 = .next { s with edge := { s.edge with domNum := n % 2 ^ 8 } }) ∧
      (∀ p : Fin 128, wr (0x1000100 + 4 * p.val) =
        .next { s with edge := { s.edge with domPorts := vset s.edge.domPorts p (BitVec.ofNat 32 (n % 2 ^ 16)) } }) ∧
      (off < 1024 → slot.v = true → 1 ≤ off % 16 → wr (0x1001000 + 4 * off) = .next s) ∧
      (off < 1024 → slot.v = false → 1 ≤ off % 16 → off % 16 ≤ 9 → wr (0x1001000 + 4 * off) = .next (s.setColl (Fin.ofNat 64 (off / 16)) (
        let m := if off % 2 = 1 then 0xFFFFFF else 0xFFFFFFFF
        if off % 16 = 1 then { slot with expect := n % 2 ^ 21 }
        else if off % 16 < 4 then { slot with src := half slot.src m }
        else if off % 16 < 6 then { slot with dst := half slot.dst m }
        else if off % 16 < 8 then { slot with start := half slot.start m }
        else { slot with doneA := half slot.doneA m }))) ∧
      (1 ≤ off → off < 230 → (off = 1 → x.getLsbD 16 = false) →
        wr (0x1F00000 + 4 * off) = .next { s with edge := { s.edge with reshape := { s.edge.reshape with
          words := s.edge.reshape.words.put off (BitVec.ofNat 32 (setBits (AMap.getD s.edge.reshape.words off 0).toNat n (
            if off = 1 then 0xFFFF else if off < 6 then 0xFFFFFFFF else if off < 38 then 0xFFFF0FFF
            else if off < 166 then 0xFFFF else 0xFFFFFFFF))) } } }) ∧
      wr 0x2000000 = .next { s with host := { h with mbox := { h.mbox with ilen := n % 2 ^ 24 } } } ∧
      (off < 8 → ∃ y : BitVec 256, wr (0x2000040 + 4 * off) = .next { s with host := { h with mbox := { h.mbox with nonce := y } } } ∧
        ∀ i, i < 256 → y.getLsbD i = if i / 32 = off then x.getLsbD (i % 32) else h.mbox.nonce.getLsbD i) ∧
      (off < 2 ^ 21 → wr (0x2100000 + 4 * off) =
        .next { s with host := { h with mbox := { h.mbox with inbox := h.mbox.inbox.writeN (4 * off) 4 n } } }) ∧
      (off < 2 ^ 26 → wr (0x10000000 + 4 * off) = .next { s with host := { h with launchArea := h.launchArea.writeN (4 * off) 4 n } }) ∧
      (off < 4096 → wr (0x100000010 + 0x800000 * off) = .next { s with host := { h with release := h.release.put off x } }))

/-- R236, R239, R365, R369, R378: the words of a host access through an aperture slot are read or written one by one at their homes, in
any order, and a read returns when its last word is there, one word of it at a time until then (log 34); a module that is not ready
takes no write and a read returns ones; an access through a slot with V = 0 has no effect, reads ones and gives the stage of the slot
one record (log 33, DEDUCED: the stage that the slot still names); where no stage is there it gives none. -/
def Obligations.ApertureAccess : Prop :=
  ∀ (s : State) (port : Fin 8) (off key n st cls code : Nat) (a : DWord) (w : Word) (ws : List Word), off % 4 = 0 → s.portUp port = true →
    let ready := s.host.modState = 1 ∨ s.host.modState = 2
    let h := s.host
    let slot := (AMap.getD h.aper (port.val * 64 + off / 2 ^ 30) 0).toNat
    let working (l : List HostWork) : State := { s with host := { h with tokenNo := h.tokenNo + 1, work := l } }
    let read (t : State) (l : List Word) : State := { t with host := { t.host with hostReads := t.host.hostReads ++ [(port, l)] } }
    let lands (k : ReqKind) (o : Nat) : Prop := ∀ l, hostWord k port o (working l) = (.home key, working l)
    let refused (k : ReqKind) : Prop := ∀ l, hostWord k port off (working l) = (.refused st cls code a, working l)
    let recorded (t : State) : Prop := t.firn = s.firn ∧ t.cells = s.cells ∧
      ((s.stage st).flog.length < 4096 → (t.stage st).flog.length = (s.stage st).flog.length + 1)
    let i := Config.pick s.strip % ws.length
    let left : HostWork := ⟨port, off, true, ws, (List.range ws.length).erase i, [], h.tokenNo⟩
    let here (m : Nat) : Word := BitVec.ofNat 32 (s.firn.readN m 4)
    let first := Config.pick s.strip % n
    let under (ds : List Word) (l : List Nat) (no : Nat) : HostWork := ⟨port, off, false, ds, l, [], no⟩
    (ready → h.badPayload[port] = false → (∀ x ∈ h.work, x.port ≠ port) →
      (s.watches = [] → lands (.store4 w) off →
        exec (.apertureWrite port off [w]) s = .next { working h.work with firn := s.firn.writeN key 4 w.toNat }) ∧
      (s.watches = [] → 2 ≤ ws.length → lands (.store4 ((ws[i]?).getD 0)) (off + 4 * i) →
        exec (.apertureWrite port off ws) s =
          .next { working (h.work ++ [left]) with firn := s.firn.writeN key 4 ((ws[i]?).getD 0).toNat }) ∧
      (refused (.store4 w) → ∃ t, exec (.apertureWrite port off [w]) s = .next t ∧ recorded t) ∧
      (lands .getBlock off →
        exec (.apertureRead port off 1) s = .next (read (working h.work) [BitVec.ofNat 32 (s.firn.readN key 4)])) ∧
      (2 ≤ n → lands .getBlock (off + 4 * first) →
        exec (.apertureRead port off n) s = .next (working
          (h.work ++ [under ((List.replicate n 0).set first (here key)) ((List.range n).erase first) h.tokenNo]))) ∧
      (refused .getBlock →
        ∃ t, exec (.apertureRead port off 1) s = .next t ∧ t.host.hostReads = h.hostReads ++ [(port, [0xFFFFFFFF])] ∧ recorded t) ∧
      (AMap.get? s.stages (slot / 2 % 2 ^ 12) = none →
        exec (.apertureWrite port off [w]) s = .next (working h.work) ∧
        exec (.apertureRead port off 1) s = .next (read (working h.work) [0xFFFFFFFF]))) ∧
    (∀ (ds : List Word) (l : List Nat) (no j : Nat), h.work = [under ds l no] → l[Config.pick s.strip % l.length]? = some j →
      hostWord .getBlock port (off + 4 * j) s = (.home key, s) →
      (2 ≤ l.length → hostStep port s = .next { s with host := { h with work := [under (ds.set j (here key)) (l.erase j) no] } }) ∧
      (l = [j] → hostStep port s = .next { s with host := { h with
        work := [], hostReads := h.hostReads ++ [(port, ds.set j (here key))] } })) ∧
    (ready → h.badPayload[port] = true →
      ∃ t, exec (.apertureWrite port off ws) s = .next t ∧ t.firn = s.firn ∧ t.host.badPayload[port] = false) ∧
    (off < 2 ^ 36 → slot % 2 = 0 → (AMap.get? s.stages (slot / 2 % 2 ^ 12)).isSome = true → ∀ k : ReqKind,
      hostWord k port off s = (.refused (slot / 2 % 2 ^ 12) 6 1 (BitVec.ofNat 64 (slot / 2 ^ 30 % 2 ^ 26 * 2 ^ 30 + off % 2 ^ 30)), s)) ∧
    (¬ ready → exec (.apertureWrite port off ws) s = .next s ∧ exec (.apertureRead port off n) s = .next (read s (List.replicate n 0xFFFFFFFF)))

/-- R22, R125, R237, R241, R306, R311, R367, R369, R382: a word that has come to the port of its egress queue leaves the mesh in its
turn, a marked one into the stage exception log where it crosses its stage's edge here; while the ring has room and the port is up it is
written with its phase, its count and its interrupt (a queue of 64-byte entries has its phase in byte 63 too: log 27), with the port
down it is discarded and counted; without one the queue's oldest held completion entry is written, where its port is up and its ring has
room; what a port sends reaches the host in the order in which it was sent, at a time of its own, and a curtain record behind what every
port sent before it; a port goes down; it comes up, and the entries held for its queues are written in their order as far as their rings
have room; a write of PCAP in its range sets FL and D. -/
def Obligations.EgressPortsPower : Prop :=
  ∀ (s : State) (q i : Nat) (p : Packet) (f : Flit) (w : QWord) (port : Fin 8) (v : Word),
    let h := s.host
    let e := s.egress q
    let size := if e.cq then 64 else 8
    let slot (n : Nat) : Nat := (e.base.toNat + n % 2 ^ e.log2n * size) % 2 ^ 64
    let phase (n : Nat) : Nat := (decide (n / 2 ^ e.log2n % 2 = 0)).toNat
    let room : Prop := (e.count + 2 ^ 21 - e.head) % 2 ^ 21 < 2 ^ e.log2n
    let due (k : Nat) : Nat := s.strip + Config.linkDelay (h.postNo + k)
    let writes (data : Nat) (last : Bool) : HostSide := { h with
      posted := h.posted ++ ⟨e.port, slot e.count, size, data, none, due 0, last⟩ :: (if e.ien then [⟨e.port, 0, 0, 0, some e.vec, due 1, false⟩] else [])
      postNo := h.postNo + if e.ien then 2 else 1
      egress := h.egress.put q { e with count := (e.count + 1) % 2 ^ 21 } }
    let now (l : List Word) : List Word :=
      let o := s.stage ((l[8]?).getD 0).toNat
      if l.head? = some 5 then l.set 9 (if o.placedOnce then BitVec.ofNat 32 (o.x0 + o.y0 * 2 ^ 16) else 0xFFFFFFFF) else l
    let bytes (l : List Word) (n : Nat) : Nat := wordsNat (now l) % 2 ^ 511 + phase n * 2 ^ 511
    let leaves (j : Nat) : Prop := (s.leaving (.packet j)).isSome = true ∧ ∃ x, s.packets[j]? = some x ∧ x.target = .egress q
    let run := exec (.egressEntryWrite q) s
    let rises : State := { s with host := { h with pcieUp := vset h.pcieUp port true } }
    (∀ a b : Posted, h.posted = [a, b] → a.port = b.port → a.vec = none → b.due ≤ s.strip →
      (a.due ≤ s.strip → s.landPosted.host = { h with
        posted := []
        hostMem := match b.vec with
          | none => (h.hostMem.writeN a.addr a.size a.data).writeN b.addr b.size b.data
          | some _ => h.hostMem.writeN a.addr a.size a.data
        msix := match b.vec with
          | none => h.msix
          | some u => h.msix ++ [(b.port, u)] }) ∧
      (s.strip < a.due → s.landPosted = s)) ∧
    (∀ a b : Posted, h.posted = [a, b] → a.port ≠ b.port → b.wait = true → s.strip < a.due → s.landPosted = s) ∧
    (s.packets[i]? = some p → p.target = .egress q → s.leaving (.packet i) = some f → (∀ j, leaves j → j = i) → p.data = .word w →
      let u := s.stage p.stage
      let c := s.cell p.src
      let marked : State := if w.x = true ∧ u.owns p.hop.router = true then s.setStage p.stage (
          if u.elog.length < 1024 then { u with elog := u.elog ++
            [(BitVec.ofNat 32 (c.cx % 512 + c.cy % 512 * 2 ^ 9 + p.oq.val * 2 ^ 20), BitVec.ofNat 32 (u.scene % 2 ^ 16), BitVec.ofNat 32 p.item,
              BitVec.ofNat 32 s.tick)] }
          else { u with elogOvf := min (u.elogOvf + 1) 0xFFFFFFFF })
        else s
      let left : State := { marked with packets := s.packets.eraseIdx i, rr := s.rr.put (arbKey f.cls f.hop.router none) f.port }
      let y := marked.stage p.stage
      let lost := y.stat.egressLost
      (h.pcieUp[e.port] = true → run = .next { left with host := writes (w.data.toNat + w.tag.toNat * 2 ^ 32 + w.x.toNat * 2 ^ 40
        + phase e.count * 2 ^ 63 + if e.cq then phase e.count * 2 ^ 511 else 0) false }) ∧
      (h.pcieUp[e.port] = false → run = .next (left.setStage p.stage { y with stat := { y.stat with
        egressLost := if ∃ z ∈ lost, z.1 = q then lost.map fun z => if z.1 = q then (z.1, z.2.1, z.2.2 + 1) else z
          else lost ++ [(q, c.cy * u.w + c.cx, 1)] } }))) ∧
    ((∀ j, ¬ leaves j) →
      ((∀ x ∈ h.heldCe, x.1 ≠ q) → run = .next s) ∧
      ∀ a l b, h.heldCe = a ++ (q, l) :: b → (∀ x ∈ a, x.1 ≠ q) →
        (h.pcieUp[e.port] = true → room →
          run = .next { s with host := { writes (bytes l e.count) (l.head? == some 1) with heldCe := a ++ b } }) ∧
        (h.pcieUp[e.port] = false ∨ ¬ room → run = .next s)) ∧
    exec (.pciePortDown port) s = .next { s with host := { h with pcieUp := vset h.pcieUp port false } } ∧
    ((∀ x ∈ h.heldCe, (s.egress x.1).port ≠ port) → exec (.pciePortUp port) s = .next rises) ∧
    (∀ l, h.heldCe = [(q, l)] → e.port = port → room → exec (.pciePortUp port) s = .next { s with
      host := { writes (bytes l e.count) (l.head? == some 1) with heldCe := [], pcieUp := vset h.pcieUp port true } }) ∧
    (∃ t new, exec (.pciePortUp port) s = .next t ∧ t.host.pcieUp = vset h.pcieUp port true ∧ t.cells = s.cells ∧ t.stages = s.stages ∧
      t.host.posted = h.posted ++ new ∧ (e.count < 2 ^ 21 → e.head < 2 ^ 21 → e.log2n ≤ 20 →
        let mine := h.heldCe.filter fun x => decide (x.1 = q)
        let k := if e.port = port then min mine.length (2 ^ e.log2n - (e.count + 2 ^ 21 - e.head) % 2 ^ 21) else 0
        (t.host.heldCe.filter fun x => decide (x.1 = q)) = mine.drop k ∧ t.egress q = { e with count := (e.count + k) % 2 ^ 21 } ∧
        ∀ j l, j < k → mine[j]? = some (q, l) →
          let n := (e.count + j) % 2 ^ 21
          (∃ x ∈ new, x.port = port ∧ x.vec = none ∧ x.addr = slot n ∧ x.size = size ∧ x.data = bytes l n) ∧
          (e.ien = true → ∃ x ∈ new, x.port = port ∧ x.vec = some e.vec))) ∧
    (let n := v.toNat % 2 ^ 9;
      (s.host.modState ≠ 14 → 100 ≤ n → n ≤ 300 →
        ∃ t, exec (.pcapWrite v) s = .next t ∧ t.host.pcap = n ∧ t.duty = max 16 (24 * n / 300) ∧
          (∀ f : Fin 64, t.fl[f] = 46080 * (n - 60) / 240) ∧ t.cells = s.cells ∧ t.firn = s.firn) ∧
      (n < 100 ∨ 300 < n → exec (.pcapWrite v) s = .next s))

/-- R361, R363, R374, R375, R403: a commit adopts the table unless a stage is placed (in every state but recovery, as a GO is taken: log
80); a port trains with the peer that its table names and no other; a lost link retries, and after 10 ms is down: every stage with a
request out by it ends, with an entry for the request and one for its end, no collective waits for an answer by it, and a recast that no
stage holds up any more is made (R357); a reshape order starts with GO (log 60: a TMO of 1,001 to 1,023 too), goes dark when its drain
is complete, which a request relayed for others holds up until its own allowance is back (log 38), or fails at its timeout; a port that
was down counts as down until it relocks (R379); modules tell their neighbours which modules they do not reach (log 37); its ports
relock within 500 ms, or are declared down together and the order ends in STATE 6 (log 52). -/
def Obligations.EdgePortsAndReshapes : Prop :=
  ∀ (s : State) (v : Word) (p peer : Fin 128) (m : Byte),
    let e := s.edge.ports[p]
    let r := s.edge.reshape
    let port (x : EdgePort) : State := { s with edge := { s.edge with ports := vset s.edge.ports p x } }
    let tmo := bits (s.reshapeWord 1) 0 10 * 100000
    (s.host.modState ≠ 14 →
      (v.getLsbD 8 = true → r.state = 0 → s.host.inDom = false → (∀ x ∈ s.stages, x.2.status ≠ .placed) →
        ∃ t, exec (.domainCommit v false) s = .next t ∧ t.host.modNum = v.toNat % 2 ^ 8 ∧ t.host.inDom = true ∧
          t.edge.peers = s.edge.domPorts ∧ t.edge.domResult = 1) ∧
      (v.getLsbD 8 = true → (∃ x ∈ s.stages, x.2.status = .placed) →
        ∃ t, exec (.domainCommit v false) s = .next t ∧ t.host.modNum = s.host.modNum ∧ t.edge.peers = s.edge.peers ∧ t.edge.domResult = 2) ∧
      (v.getLsbD 16 = true → r.state = 0 → 1 ≤ v.toNat % 2 ^ 10 → v.toNat / 2 ^ 10 % 2 ^ 6 ≤ 32 →
        ∃ t, exec (.reshapeGo v) s = .next t ∧ t.edge.reshape.state = 1 ∧ t.edge.reshape.goAt = s.tick)) ∧
    (s.host.inDom = true → e.down = false → e.dark = false →
      (entryNames (s.edge.peers[p]).toNat m peer = true → exec (.portTraining p m peer) s = .next (port { e with trained := true, retry := none })) ∧
      (entryNames (s.edge.peers[p]).toNat m peer = false → exec (.portTraining p m peer) s = .next s)) ∧
    (e.trained = true → e.dark = false → e.down = false → e.retry = none →
      exec (.linkLoss p) s = .next (port { e with retry := some s.tick })) ∧
    (∀ since, e.retry = some since → since + 1000000 ≤ s.tick →
      let by' (id : Nat) : Prop := AMap.get? s.edge.via id = some p.val
      let out (st : Nat) : Prop := (∃ q ∈ s.reqs, q.stage = st ∧ ∃ id, q.loc = .edge id ∧ by' id) ∨
        (∃ x ∈ s.cells, x.2.stage = st ∧ ∃ i : Fin 2, ∃ y, x.2.copyAct[i] = some y ∧ ∃ f ∈ y.flight, by' f.2) ∨
        ∃ k : Fin 64, (s.coll k).stage = st ∧ ∃ o ∈ (s.coll k).out, by' o.1
      ∃ t, exec (.linkDeclaredDown p) s = .next t ∧ (t.edge.ports[p]).down = true ∧ (t.edge.ports[p]).trained = false ∧
        (t.edge.ports[p]).retry = none ∧ EdgeMsg.unreached 256 t.unreached ∈ t.edge.outbox ++ t.edge.waiting ∧ (∀ id, AMap.get? t.edge.via id ≠ some p.val) ∧
        (∀ k : Fin 64, (t.coll k).out = (s.coll k).out.filter fun o => decide (AMap.get? s.edge.via o.1 ≠ some p.val)) ∧
        ((∀ x ∈ t.stages, x.2.status = .placed → x.2.recast = false) → t.retiring = []) ∧
        (TablesOk s → ∀ st, let u := s.stage st
          (¬ out st → (t.stage st).status = u.status) ∧
          (out st → (t.stage st).status = .ended ∧ ∀ x ∈ t.cells, x.2.stage ≠ st) ∧
          ∀ n k slot unit a, outBy s p.val = [⟨st, some n, k, slot, unit, a⟩] → u.flog.length + 2 ≤ 4096 → u.swd = 0 ∨ u.stat.wdog = true →
            u.saved = [] → u.stat.portalLost = 0 → u.stat.egressLost = [] → (∀ x ∈ s.cells, x.2.stage = st → x.2.records = []) →
            ∃ x y, (t.stage st).flog = u.flog ++ [x, y] ∧ ((x[0]?).getD 0).toNat % 2 ^ 9 = 8 + 3 * 2 ^ 4 ∧
              (x[2]?).getD 0 = BitVec.ofNat 32 (a.toNat / 4) ∧ ((y[0]?).getD 0).toNat % 2 ^ 9 = 12 + 3 * 2 ^ 4)) ∧
    (r.state = 1 → r.goAt + tmo ≤ s.tick →
      exec .reshapeDrainTimeout s = .next { s with edge := { s.edge with reshape := { r with state := 5 } } }) ∧
    (r.state = 1 → s.tick < r.goAt + tmo → drained s = true → s.named p.val = true → (s.reshapeWord (38 + p.val)).testBit 15 = false →
      ∃ t, exec .reshapeDrainDone s = .next t ∧ t.edge.reshape.state = 2 ∧ t.edge.reshape.darkAt = s.tick ∧
        t.edge.ports[p] = { trained := false, dark := true, down := false, retry := none, was := s.edgeDown p } ∧ t.edgeDown p = s.edgeDown p) ∧
    (s.edgeDown p = true ↔ e.down = true ∨ e.trained = false ∧
      (e.dark = true ∧ e.was = true ∨ e.dark = false ∧ s.host.inDom = true ∧ (s.edge.peers[p]).getLsbD 15 = false)) ∧
    (r.state = 2 ∨ r.state = 3 → s.named p.val = true → e.dark = true → e.trained = false → e.down = false →
      (∀ o : Fin 128, o ≠ p → portSettled s o = true ∧ (s.edge.ports[o]).down = false) →
      entryNames (s.reshapeWord (38 + p.val)) m peer = true → s.tick < r.darkAt + 50000000 →
      ∃ t, exec (.portRelock p m peer) s = .next t ∧ t.edge.reshape.state = 4 ∧ (t.edge.ports[p]).dark = false ∧
        t.edge.peers[p] = BitVec.ofNat 32 (s.reshapeWord (38 + p.val) % 2 ^ 16)) ∧
    (∀ o : Fin 128, o ≠ p → s.named o.val = true → (s.edge.ports[o]).dark = true → (s.edge.ports[o]).trained = false →
      (s.edge.ports[o]).down = false → (s.reshapeWord (38 + o.val)).testBit 15 = false → r.state = 2 ∨ r.state = 3 →
      s.named p.val = true → e.dark = true → e.trained = false → e.down = false → s.tick < r.darkAt + 50000000 →
      entryNames (s.reshapeWord (38 + p.val)) m peer = true →
      ∃ t, exec (.portRelock p m peer) s = .next t ∧ (t.edge.ports[p]).trained = true ∧ t.edge.reshape.state = 3) ∧
    (r.state = 2 ∨ r.state = 3 → s.named p.val = true → e.dark = true → e.trained = false → e.down = false → r.darkAt + 50000000 ≤ s.tick →
      exec (.portRelock p m peer) s = .next s ∧
      ((s.reshapeWord (38 + p.val)).testBit 15 = false → (∀ o : Fin 128, o ≠ p → portSettled s o = true ∨ overdue s o = true) →
        ∃ t, exec (.portRelockTimeout p) s = .next t ∧ (t.edge.ports[p]).down = true ∧ t.edge.reshape.state = 6)) ∧
    (r.state = 1 → (∃ x ∈ s.edge.relays, s.named x.2.2.1 = true ∧ s.strip < x.2.2.2) → exec .reshapeDrainDone s = .next s) ∧
    (∀ i n l, s.edge.inbox[i]? = some (.unreached n l) →
      ∃ t, exec (.ackReceive (.guest i)) s = .next t ∧ (∀ x ∈ l, s.neighbour x = some n → t.toward x = none) ∧
        (t.unreached ≠ s.unreached → EdgeMsg.unreached 256 t.unreached ∈ t.edge.outbox ++ t.edge.waiting))

/-- R376, R377: a descriptor that passes its checks takes V = 1 and the domain hears of it, one that fails them is refused; a collective
of this module alone whose START has reached EXPECT takes EXPECT from it, reads SRC, stores it at DST and adds 1 to DONE; the lowest
participant folds the contributions in ascending module order, lane by lane, and sends the result, or a failed one where job or function
differ (a contribution that cannot be made has function 8: log 37); a failed round ends at a participant however far it is, one that a
participant is cut off from at every one that hears of it, and DONE takes 2^31 once: rounds are numbered between two modules, and a
result of one that is over is dropped (log 37); V = 0 takes effect after the round in progress, at once where there is none; ROUNDS
stays and ABORT stays set at a round that ends badly (log 53, DEDUCED); a descriptor is taken in every state but recovery (log 80). -/
def Obligations.Collectives : Prop :=
  ∀ (s : State) (k : Fin 64) (v : Word) (src srcHi dst start done : Nat),
    let c := s.coll k
    let d : Coll := { c with fn := v.toNat / 2 % 8, stage := v.toNat / 2 ^ 16 % 2 ^ 12 }
    let put (t : State) (x : Coll) : State := { t with edge := { t.edge with colls := vset t.edge.colls k x } }
    let told (t : State) (on : Bool) : State :=
      if t.openTo 256 = true ∧ ∀ w ∈ t.edge.waiting, w.to ≠ 256 then { t with edge := { t.edge with outbox := t.edge.outbox ++ [.member 256 k on] } }
      else { t with edge := { t.edge with waiting := t.edge.waiting ++ [.member 256 k on] } }
    let own := s.host.modNum
    let home (kind : ReqKind) (a : DWord) (key : Nat) : Prop := modOf a = own ∧ ∀ f : Mem, collHome { s with firn := f } c kind a = some key
    let adds (a : DWord) (key : Nat) : Prop := ∀ w : Word, home (.red .addI32 w) a key
    let quiet := s.watches = [] ∧ c.out = [] ∧ ∀ m ∈ s.edge.inbox, msgFor s k m = false
    (s.host.modState ≠ 14 →
      (c.v = false → v.getLsbD 0 = true → collOk s d = true →
        exec (.collectiveEnable k v) s = .next (told (put s { d with v := true, refused := false, closing := false }) true)) ∧
      (c.v = false → v.getLsbD 0 = true → collOk s d = false → exec (.collectiveEnable k v) s = .next (put s { d with refused := true })) ∧
      (c.v = true → v.getLsbD 0 = false → c.phase = .idle →
        exec (.collectiveEnable k v) s = .next (told (put s { c with v := false, closing := false, out := [] }) false)) ∧
      (c.v = true → v.getLsbD 0 = false → c.phase ≠ .idle →
        exec (.collectiveEnable k v) s = .next (put s { c with closing := true }))) ∧
    (quiet → c.v = true → c.closing = false → c.phase = .idle → home (.amo .ld false false 0 0 0 noAct) c.start start →
      (s.firn.readN start 4 < c.expect → exec (.collectiveRound k) s = .next s) ∧
      (c.expect ≤ s.firn.readN start 4 → c.members = [] → (∀ e ∈ s.edge.parts, e.src ≠ own ∨ e.coll ≠ k) → adds c.start start →
        home .getBlock c.src src → home .getBlock (setOff c.src (offOf c.src + 32)) srcHi → (∀ y, home (.store64 y) c.dst dst) →
        adds c.doneA done →
        let less := s.firn.writeN start 4 (BitVec.ofNat 32 (s.firn.readN start 4) - BitVec.ofNat 32 c.expect).toNat
        let stored := less.writeN dst 64 (less.readN src 32 + less.readN srcHi 32 * 2 ^ 256)
        ∃ t, exec (.collectiveRound k) s = .next t ∧ (t.coll k).phase = .idle ∧ (t.coll k).rounds = (c.rounds + 1) % 2 ^ 16 ∧
          (t.coll k).abort = c.abort ∧ t.edge.parts = s.edge.parts ∧
          t.firn = stored.writeN done 4 (BitVec.ofNat 32 (stored.readN done 4) + 1).toNat)) ∧
    (quiet → c.phase = .done → c.ok = false → c.closing = true → adds c.doneA done →
      ∃ t, exec (.collectiveRound k) s = .next t ∧ (t.coll k).v = false ∧ (t.coll k).rounds = c.rounds ∧
        (t.coll k).abort = (c.abort || c.lost) ∧ t.firn = s.firn.writeN done 4 (BitVec.ofNat 32 (s.firn.readN done 4) + 0x80000000).toNat) ∧
    (∀ m, quiet → c.phase = .wait → c.members = [m] → m ≠ own → s.toward m = none → c.closing = true → adds c.doneA done →
      ∃ t, exec (.collectiveRound k) s = .next t ∧ (t.coll k).v = false ∧ (t.coll k).rounds = c.rounds ∧ (t.coll k).abort = true ∧
        (t.coll k).turnOf m = c.turnOf m + 1 ∧
        t.firn = s.firn.writeN done 4 (BitVec.ofNat 32 (s.firn.readN done 4) + 0x80000000).toNat) ∧
    (∀ m turn good lost d, s.edge.inbox = [.result m k turn good lost d] → turn < c.turnOf m → c.v = false → c.phase = .idle →
      c.out = [] → exec (.collectiveRound k) s = .next { s with edge := { s.edge with inbox := [] } }) ∧
    (∀ m turn lost d, s.watches = [] → s.edge.inbox = [.result m k turn false lost d] → c.turnOf m ≤ turn → c.v = true → c.out = [] →
      c.phase ≠ .dst → c.phase ≠ .done → c.closing = true → adds c.doneA done →
      ∃ t, exec (.collectiveRound k) s = .next t ∧ (t.coll k).v = false ∧ (t.coll k).rounds = c.rounds ∧ (t.coll k).abort = (c.abort || lost) ∧
        t.firn = s.firn.writeN done 4 (BitVec.ofNat 32 (s.firn.readN done 4) + 0x80000000).toNat) ∧
    ∀ (m job fn : Nat) (x y : VWord), quiet → c.phase = .wait → c.members = [m] → own < m → (s.toward m).isSome = true →
      s.edge.parts = [⟨own, k, (s.stage c.stage).job, c.fn, c.turnOf own, x⟩, ⟨m, k, job, fn, c.turnOf m, y⟩] →
      ∃ t good z, exec (.collectiveRound k) s = .next t ∧ EdgeMsg.result m k (c.turnOf m) good (decide (fn = 8 ∨ c.fn = 8)) z ∈ t.edge.outbox ++ t.edge.waiting ∧
        (good = true ↔ job = (s.stage c.stage).job ∧ fn = c.fn) ∧
        (good = true → ∀ i, i < 16 →
          z.extractLsb' (32 * i) 32 = (redOf c.fn).new (x.extractLsb' (32 * i) 32) (y.extractLsb' (32 * i) 32))

/-- R25, R329 to R332, R357, R360, R378 to R380: boot verifies and measures firmware (log 20), gives a position without an oscillator
the clock of a neighbour, and takes the casting table if it is signed as its generation asks, with positions that do not work retired
(log 31); a GO write starts one check; an envelope is refused with the first reason that applies, in the order 5, 7, 2, 1, 3, 4, 5, 6
(the order, and reason 6 for a GEN above the current one: log 32), an accepted one ends in state 2; a failed self-test uses the sequence
number; the outbox serves the casting table, a quote over nonce and log (log 30), and the certificate, in every state but recovery (log
80). -/
def Obligations.SignedObjects : Prop :=
  (∀ (s : State) (l : List Byte) (k : Casting), tableOk s l = some k →
    let key := if k.gen = 0 then Config.rootKey else deviceKey
    l = l.take 40 ++ k.body ++ l.drop (40 + k.body.length) ∧ field l 0 4 = 0xA64C5A01 ∧ field l 4 1 = 2 ∧
    field l 16 8 = natOf ((digestBytes (Crypto.sha512 key)).take 8) ∧
    Crypto.verify key (Crypto.sha512 (l.take (l.length - 132))) (l.drop (l.length - 132)) = true ∧
    (l = s.host.mbox.table ∨ ∀ q, lastSeq s 2 = some q → q < field l 32 8) ∧
    ∀ r, r < 512 → 320 ≤ (({ k with dead := k.dead.filter fun d => decide ((d.1, d.2.1) ∉ s.casting.back) } : Casting).cols r).length) ∧
  ∀ (s : State) (f : BootFinds) (v : Word) (pass : Bool) (reason : Nat) (k : Casting),
    let m := s.host.mbox
    let obj := bytesOf m.ilen (m.inbox.readN 0 m.ilen)
    let s0 : State := { s with host := { s.host with serial := f.serial } }
    let table := if m.table = [] then f.table else m.table
    let state (a b : Nat) : State := { s with host := { s.host with mbox := { m with istat := a, ireason := b } } }
    let outbox (l : List Byte) : State := { s with host := { s.host with mbox := { m with outbox := l, olen := l.length, ostat := 2 } } }
    let works (p : Nat × Nat) : Prop := p ∉ f.osc ∧ p ∉ f.dead
    (s.host.modState = 0 →
      (imageOk s0 false = false →
        ∃ t, exec (.powerOnBoot f) s = .next t ∧ t.host.modState = 14 ∧ t.host.mbox.log.length = 1 ∧ t.cells = s.cells) ∧
      (imageOk s0 false = true → tableOk s0 table = none →
        ∃ t, exec (.powerOnBoot f) s = .next t ∧ t.host.modState = 3 ∧ t.host.mbox.log.length = 2) ∧
      (imageOk s0 false = true → tableOk s0 table = some k →
        ∃ t, exec (.powerOnBoot f) s = .next t ∧ t.host.serial = f.serial ∧ t.casting.deadFields = k.deadFields ∧
          t.host.modState = (if imageOk s0 true = false then 14 else if t.casting.sound then 1 else 2) ∧
          t.host.mbox.log.length = (if imageOk s0 true then 4 else 3) ∧
          (∀ p ∈ f.dead, t.casting.live p.2 p.1 = false) ∧
          (∀ p ∈ f.osc, (∀ d q, besideOf p.1 p.2 d = some q → ¬ works q) → t.casting.live p.2 p.1 = false) ∧
          ((∀ p ∈ f.osc, p.2 < 384) → ∀ p ∈ f.osc, (∃ d q, besideOf p.1 p.2 d = some q ∧ works q) →
            ∃ d q, AMap.get? t.clocks (p.1 * 384 + p.2) = some d ∧ besideOf p.1 p.2 d = some q ∧ works q) ∧
          (f.dead = [] → f.osc = [] → s.casting.back = [] → t.casting.gen = k.gen ∧ t.casting.dead = k.dead ∧ t.host.mbox.table = table))) ∧
    (s.host.modState ≠ 0 → exec (.powerOnBoot f) s = .next s) ∧
    (v.getLsbD 0 = true → m.istat ≠ 1 → exec (.sobSubmit v) s = .next (state 1 0)) ∧
    (m.istat = 1 → exec (.sobSubmit v) s = .next s) ∧
    (m.istat = 1 → sobReason s obj pass = some reason → (sobReason s obj true).isSome = true →
      exec (.sobCheckDone pass) s = .next (state 3 reason)) ∧
    (m.istat = 1 → sobReason s obj true = none → field obj 4 1 = 3 →
      (∃ t, exec (.sobCheckDone false) s = .next t ∧ t.host.mbox.istat = 3 ∧ t.host.mbox.ireason = 6 ∧ t.casting = s.casting ∧
        (3, field obj 32 8) ∈ t.host.mbox.seqs) ∧
      (∃ t, exec (.sobCheckDone true) s = .next t ∧ t.host.mbox.istat = 2 ∧ (3, field obj 32 8) ∈ t.host.mbox.seqs ∧
        t.casting.back = s.casting.back ++ [(field obj 40 4 / 2 ^ 9 % 2 ^ 9, field obj 40 4 % 2 ^ 9)])) ∧
    (m.istat = 1 → sobReason s obj pass = none →
      ∃ t, exec (.sobCheckDone pass) s = .next t ∧ t.host.mbox.istat = 2 ∧ t.host.mbox.ireason = 0 ∧ t.cells = s.cells ∧ t.firn = s.firn ∧
        (field obj 4 1 = 5 → t.host.mbox.owner = (obj.drop 40).take 133) ∧
        (field obj 4 1 = 1 → s.host.modState = 14 → t.host.modState = 0)) ∧
    (let ty := field obj 4 1
      let body := (obj.drop 40).take (obj.length - 172)
      let head : Prop := field obj 0 4 = 0xA64C5A01 ∧ field obj 4 4 / 2 ^ 8 = 1 ∧ field obj 8 4 % 4 = 0 ∧
        obj.length = 172 + field obj 8 4 ∧ field obj 12 4 = 0
      (¬ head → sobReason s obj pass = some 5) ∧
      (head → ty ≠ 1 → ty ≠ 3 → ty ≠ 5 → sobReason s obj pass = some 7) ∧
      (head → ty = 1 ∨ ty = 3 ∨ ty = 5 →
        let key := if ty = 1 then Config.rootKey else m.owner
        let signer : Prop := field obj 16 8 = natOf ((digestBytes (Crypto.sha512 key)).take 8)
        let signed : Prop := Crypto.verify key (Crypto.sha512 (obj.take (obj.length - 132))) (obj.drop (obj.length - 132)) = true
        let serial : Prop := field obj 24 8 = s.host.serial ∨ field obj 24 8 = 0 ∧ ty ≠ 3
        let new : Prop := ty = 1 ∨ ∀ q, lastSeq s ty = some q → q < field obj 32 8
        let at' := (field body 0 4 / 2 ^ 9 % 2 ^ 9, field body 0 4 % 2 ^ 9)
        let formed : Prop := ty = 1 ∨ ty = 5 ∧ body.length = 136 ∧ field body 133 3 = 0 ∨
          ty = 3 ∧ body.length = 16 ∧ field body 0 4 < 2 ^ 18 ∧ field body 8 4 < 256 ∧ field body 12 4 = 0
        let usable : Prop := ty ≠ 3 ∨
          (at'.1, at'.2, true) ∈ s.casting.dead ∧ at' ∉ s.casting.back ∧ field body 4 4 ≤ s.casting.gen ∧ pass = true
        (¬ signer → sobReason s obj pass = some 2) ∧
        (signer → ¬ signed → sobReason s obj pass = some 1) ∧
        (signer → signed → ¬ serial → sobReason s obj pass = some 3) ∧
        (signer → signed → serial → ¬ new → sobReason s obj pass = some 4) ∧
        (signer → signed → serial → new → ¬ formed → sobReason s obj pass = some 5) ∧
        (signer → signed → serial → new → formed → ¬ usable → sobReason s obj pass = some 6) ∧
        (signer → signed → serial → new → formed → usable → sobReason s obj pass = none))) ∧
    (s.host.modState ≠ 14 →
      exec .sobOreqCasting s = .next (outbox m.table) ∧
      exec .sobOreqQuote s = .next (outbox (sealed s 4 0 (bytesOf 32 m.nonce.toNat ++ logBytes m.log))) ∧
      exec .sobOreqCert s = .next (outbox Config.deviceCert)) ∧
    (s.host.modState = 14 → exec .sobOreqCasting s = .next s ∧ exec .sobOreqQuote s = .next s ∧ exec .sobOreqCert s = .next s)

/-! ## The encoding -/

/-- R68 to R85: every instruction that is no step of the machine has an encoding, and the decoder reads back every operand of every
well-formed one from its words; an instruction of one word does so whatever word follows. -/
def Obligations.DecodeOfEncode : Prop :=
  (∀ i : Instr, isEvent i = false ↔ (encode i).isSome = true) ∧
  ∀ (i : Instr) (w0 : Nat) (w1 next : Option Nat), i.wf = true → encode i = some (w0, w1) →
    decode w0 (w1.or next) = .ok i ∧ w0 < 2 ^ 32 ∧ (∀ x, w1 = some x → x < 2 ^ 32)

/-- R69, R70, R74 to R85, R90: words written out field by field from the layouts stand for their instructions, one and more of each
family of the opcode tables, and words that no row gives are refused with the code of R90. -/
def Obligations.DecodedWords : Prop :=
  let r (cue op d a b pm px : Nat) : Nat := cue * 2 ^ 26 + op * 2 ^ 20 + d * 2 ^ 15 + a * 2 ^ 10 + b * 2 ^ 5 + pm * 2 ^ 3 + px
  let m (cue op d a imm : Nat) : Nat := cue * 2 ^ 26 + op * 2 ^ 20 + d * 2 ^ 15 + a * 2 ^ 10 + imm
  let long (cue lop la : Nat) : Nat := cue * 2 ^ 26 + 0x3F * 2 ^ 20 + lop * 2 ^ 12 + la
  let more (lb : Nat) : Option Nat := some (63 * 2 ^ 26 + lb)
  (∀ e ∈ [(r 0 0x00 0 0 0 0 0, Instr.add 0 (.reg 0) (.reg 0) (.reg 0) ⟨0, 0⟩), (r 5 0x01 3 17 30 3 2, .sub 5 (.reg 3) (.deq 1) (.peek 6) ⟨3, 2⟩),
      (r 62 0x13 18 1 2 0 7, .sel 62 (.oq 2) (.reg 1) (.reg 2) 7), (m 1 0x18 4 5 0x3FF, .addi 1 (.reg 4) (.reg 5) 0x3FF),
      (1 * 2 ^ 26 + 0x22 * 2 ^ 20 + 6 * 2 ^ 15 + 0x4001, .li 1 (.reg 6) 0x4001), (r 2 0x26 7 8 9 1 3, .fma 2 7 (.reg 8) (.reg 9) ⟨1, 3⟩),
      (r 2 0x2D 7 8 15 0 0, .cvtFi 2 (.reg 7) (.reg 8) ⟨0, 0⟩), (r 3 0x2E 23 1 2 2 1, .send 3 7 (.reg 1) (.reg 2) ⟨2, 1⟩),
      (r 3 0x32 (2 * 8 + 7) 1 2 0 0, .putr 3 2 7 (.reg 1) (.reg 2) ⟨0, 0⟩), (m 4 0x33 9 10 0x200, .ldw 4 (.reg 9) (.reg 10) 0x200),
      (m 4 0x3A 9 10 1, .stb 4 (.reg 9) (.reg 10) 1), (r 5 0x3B 1 2 0 0 3, .pand 5 1 2 3), (r 5 0x3C 0 0 1 0 0, .fenceL 5)],
    decode e.1 none = .ok e.2) ∧
  (∀ e ∈ [(long 6 0x00 (9 * 2 ^ 8 + 8 * 2 ^ 4 + 2), 1 * 2 ^ 23 + 2 * 2 ^ 17 + 3 * 2 ^ 3 + 1, Instr.vadd ⟨6, .bf16, 2, ⟨3, 1⟩⟩ (.so 1) (.sq 0) (.v 2)),
      (long 6 0x24 (3 * 2 ^ 8 + 4 * 2 ^ 4), 0, .sfSqrt ⟨6, .f32, 0, ⟨0, 0⟩⟩ (.v 3) (.v 4)),
      (long 7 0x30 (2 * 2 ^ 10 + 3 * 2 ^ 7 + 4 * 2 ^ 4 + 5), 1 * 2 ^ 25 + 15 * 2 ^ 21 + 7 * 2 ^ 17 + 1 * 2 ^ 16,
        .mxMma 7 2 3 4 .i8 true 15 7 true false false ⟨0, 0⟩),
      (long 7 0x42 (2 * 2 ^ 8 + 3 * 2 ^ 5 + 9), 1 * 2 ^ 15, .scAggRel 7 .maxF32 3 (.sq 1) ⟨0, 0⟩),
      (long 8 0x57 (6 * 2 ^ 8 + 20 * 2 ^ 3), 0, .tsend 8 6 4 ⟨0, 0⟩),
      (long 8 0x62 (5 * 2 ^ 3), 6 * 2 ^ 21 + 3 * 2 ^ 19 + 100 * 2 ^ 5, .cpGet 8 (.reg 5) (.reg 6) 3 100 false ⟨0, 0⟩),
      (long 9 0x73 (1 * 2 ^ 10 + 7 * 2 ^ 5 + 12), 0xFFF * 2 ^ 14 + 9 * 2 ^ 9 + 3 * 2 ^ 7, .amoCas 9 .acqRel 1 0xFFF 4 (.reg 7) ⟨0, 0⟩),
      (long 9 0x78 0, 2 * 2 ^ 9, .fenceAll 9 ⟨0, 0⟩), (long 10 0x91 (17 * 2 ^ 7), 11 * 2 ^ 5, .barStat 10 11 (.oq 1) ⟨0, 0⟩),
      (long 10 0x92 0, (0x123 + 9 * 2 ^ 12 + 5 * 2 ^ 16) * 2 ^ 5, .phase 10 0x123 9 5 ⟨0, 0⟩), (long 11 0xA0 (1 * 2 ^ 2), 21 * 2 ^ 5, .trap 11 (.reg 1) 21 ⟨0, 0⟩),
      (long 12 0xC0 (3 * 2 ^ 7 + 0x6D), 0x155AA33, .liw 12 (.reg 3) (0x6D * 2 ^ 25 + 0x155AA33)),
      (long 13 0xCC (3 * 2 ^ 7 + 4 * 2 ^ 2), 0x8000 * 2 ^ 5 + 1 * 2 ^ 3 + 6, .ldwp 13 (.reg 3) (.reg 4) 0x8000 ⟨1, 6⟩)],
    decode e.1 (more e.2.1) = .ok e.2.2) ∧
  decode (r 0 0x3D 0 0 0 0 0) none = .error .op ∧ decode (long 0 0x29 0) (more 0) = .error .op ∧ decode (r 0 0x2D 0 0 31 0 0) none = .error .fn ∧
  decode (long 0 0x30 6) (more 0) = .error .ty ∧ decode (r 0 0x00 24 0 0 0 0) none = .error .spec ∧ decode (r 0 0x3C 1 0 0 0 0) none = .error .field ∧
  decode (r 63 0x00 0 0 0 0 0) none = .error .cont ∧ decode (long 0 0xC0 0) (some 0) = .error .cont

/-! ## The machine -/

/-- R371, R306, R311, R367, R375: after module reset the module state is boot, PCAP is 300 W, FL 46,080 in every field and D 24; no
stage is placed and no channel or egress queue is bound; every edge port is unused; memories list nothing (a byte that nothing has
written reads as zero: log 3). -/
def Obligations.ResetValues : Prop :=
  let s := State.reset
  s.host.modState = 0 ∧ s.host.pcap = 300 ∧ (∀ f : Fin 64, s.fl[f] = 46080) ∧ s.duty = 24 ∧ s.stages = [] ∧ s.cells = [] ∧
  s.frames = [] ∧ s.packets = [] ∧ s.reqs = [] ∧ s.maps = [] ∧ s.host.posted = [] ∧ s.host.work = [] ∧
  (∀ k, (s.chan k).bound = none) ∧ (∀ q, s.egress q = Egress.blank) ∧
  (∀ p : Fin 128, s.edge.domPorts[p] = 0x8000 ∧ (s.edge.ports[p]).trained = false) ∧ s.host.inDom = false ∧ s.tick = 0 ∧
  MemOk s ∧ TablesOk s

/-- One step with an empty agenda gives the next cell its cycle: with its clock running and nothing in its arbiter, the instruction in
the lowest slot that fires is the one that its words decode to, run at the context that its cue selects; then what is due late in the
cycle is written, and the cycle ends. An event of the agenda runs as it stands (log 1, 2), but what has its cycle by a rule, as a beat
has (R164, R180), and an instruction are passed over there (log 1: the model's choice); one that moves a block in or out of SRAM in its
turn at a port that is left in the cycle (R64; the order of turns: log 88, the model's choice). -/
def Obligations.StepRunsDecoded : Prop :=
  (∀ (s : State) (i : Instr) (rest : List Instr), s.agenda = i :: rest → isEvent i = false ∨ ownTime i = true →
    step s = .next { s with agenda := rest }) ∧
  (∀ (n : Nat) (q : Fin 8) (d : DWord) (a b : Nat), isEvent (.vectorBeat n) = true ∧ ownTime (.vectorBeat n) = true ∧ ownTime (.sfResultWrite n) = true ∧
    isEvent (.ingressDoorbell q a d) = true ∧ ownTime (.ingressDoorbell q a d) = false ∧ isEvent (.launch b) = true ∧ ownTime (.launch b) = false ∧
    ∀ c, isEvent (.nop c) = false) ∧
  (∀ (s : State) (i : Instr) (rest : List Instr), s.agenda = i :: rest → isEvent i = true → ownTime i = false →
    let s0 : State := { s with agenda := rest }
    (portOf i s0 = none → step s = exec i s0) ∧
    ∀ n k, portOf i s0 = some (n, k) →
      let m := matrixTurn s0 n
      let left := (m.cell n).sramTook.length + (if (m.cell n).sramA then 1 else 0) < 2
      (left → nextPort m n = some k → step s = exec i (m.setCell n { m.cell n with sramTook := (m.cell n).sramTook ++ [k], sramLast := k })) ∧
      (¬ left ∨ nextPort m n ≠ some k → step s = .next m)) ∧
  ∀ (s s1 t u : State) (n k : Nat) (c : CellState) (w : Word) (i : Instr) (x : Fin 4),
    let s0 : State := { s with turn := s.turn + 1 }
    let s2 := s1.setCell n (s1.cell n).snap
    s.agenda = [] → s.cells[s.turn]? = some (n, c) → clockRuns s0 n (s0.cell n) = true →
    runAll (dueSteps n) (askPort (cycleStart s0 n) n) = .next s1 →
    (s1.cell n).live = true → (s1.cell n).hold = .none → (s1.cell n).badCues = [] →
    k < 128 → (∀ j, j < k → trySlot s2 n j = none) →
    (s2.cell n).slot k = some w → isContinuation w.toNat = false →
    decode w.toNat (((s2.cell n).slot (k + 1)).map BitVec.toNat) = .ok i → slotCtx (s2.cell n) k = some x →
    exec i { s2 with focus := ⟨n, k, x⟩ } = .next t → hasFired s2 t n x = true → (AMap.get? t.cells n).isSome = true →
    runAll (lateSteps n (t.cell n)) t = .next u →
    step s = .next (cycleEnd u n (s1.cell n).suuord (wantedNames s2 n) (usesPortA s2 t n))

/-- Every step keeps the DRAM wafer and the hosts' memory in canonical form: addresses rise and no listed byte is zero (log 3). Every
step keeps the tables of cells and stages in order, each number once: how the model lists them is its own choice (log 3), that a number
names one cell or one stage is the spec's (R8, R17, R314). -/
def Obligations.StepKeepsInvariants : Prop :=
  (∀ s t : State, MemOk s → step s = .next t → MemOk t) ∧
  (∀ s t : State, TablesOk s → step s = .next t → TablesOk t)
end

