-- ==== Sys2Proof/Laws/Assoc.lean ====
section
/-! SUPPORT. Assoc.lean: laws of tables and memories: a read after a write, everywhere else unchanged, canonical form kept. -/

namespace Sys2Proof.Machine

/-! ## Tables -/

@[simp] theorem AMap.get?_put_same {α : Type} (m : AMap α) (k : Nat) (a : α) : AMap.get? (m.put k a) k = some a := by
  induction m with
  | nil => simp [AMap.put, AMap.get?]
  | cons e r ih =>
    obtain ⟨j, b⟩ := e
    simp only [AMap.put]
    split_ifs with h h'
    · simp [AMap.get?]
    · simp [AMap.get?]
    · simp [AMap.get?, h, ih]

theorem AMap.get?_put_ne {α : Type} (m : AMap α) {k j : Nat} (a : α) (h : j ≠ k) :
    AMap.get? (m.put k a) j = AMap.get? m j := by
  induction m with
  | nil => simp [AMap.put, AMap.get?, h]
  | cons e r ih =>
    obtain ⟨i, b⟩ := e
    simp only [AMap.put]
    split_ifs with h1 h2
    · subst h1; simp [AMap.get?, h]
    · simp [AMap.get?, h]
    · simp only [AMap.get?, ih]

@[simp] theorem AMap.getD_put_same {α : Type} (m : AMap α) (k : Nat) (a d : α) : (m.put k a).getD k d = a := by
  simp [AMap.getD]

theorem AMap.getD_put_ne {α : Type} (m : AMap α) {k j : Nat} (a d : α) (h : j ≠ k) :
    (m.put k a).getD j d = m.getD j d := by
  simp [AMap.getD, AMap.get?_put_ne m a h]

/-! ## Memories -/

/-- A memory whose addresses begin above one reads zero below. -/
theorem Mem.read_below {lo : Nat} {m : Mem} (h : Mem.wfFrom lo m = true) {a : Nat} (ha : a < lo) : m.read a = 0 := by
  induction m generalizing lo with
  | nil => rfl
  | cons e r ih =>
    obtain ⟨j, b⟩ := e
    simp only [Mem.wfFrom, Bool.and_eq_true, decide_eq_true_eq] at h
    have hj : a ≠ j := by omega
    simp only [Mem.read, if_neg hj]
    exact ih h.2 (by omega)

theorem Mem.wfFrom_mono {lo lo' : Nat} {m : Mem} (h : Mem.wfFrom lo m = true) (hl : lo' ≤ lo) : Mem.wfFrom lo' m = true := by
  cases m with
  | nil => rfl
  | cons e r =>
    obtain ⟨j, b⟩ := e
    simp only [Mem.wfFrom, Bool.and_eq_true, decide_eq_true_eq] at h ⊢
    exact ⟨⟨by omega, h.1.2⟩, h.2⟩

theorem Mem.wfFrom_write {lo : Nat} {m : Mem} (h : Mem.wfFrom lo m = true) {a : Nat} (ha : lo ≤ a) (v : Byte) :
    Mem.wfFrom lo (m.write a v) = true := by
  induction m generalizing lo with
  | nil =>
    simp only [Mem.write]
    split_ifs with hv
    · rfl
    · simpa [Mem.wfFrom, ha] using hv
  | cons e r ih =>
    obtain ⟨j, b⟩ := e
    simp only [Mem.wfFrom, Bool.and_eq_true, decide_eq_true_eq] at h
    obtain ⟨⟨hl, hb⟩, hr⟩ := h
    simp only [Mem.write]
    split_ifs with h1 h2 h3 h4
    · exact Mem.wfFrom_mono hr (by omega)
    · subst h1; simpa [Mem.wfFrom, ha, hr] using h2
    · simpa [Mem.wfFrom, hl, hr] using hb
    · simp only [Mem.wfFrom, Bool.and_eq_true, decide_eq_true_eq]
      exact ⟨⟨ha, h4⟩, ⟨by omega, hb⟩, hr⟩
    · simp only [Mem.wfFrom, Bool.and_eq_true, decide_eq_true_eq]
      exact ⟨⟨hl, hb⟩, ih hr (by omega)⟩

/-- A write keeps the canonical form. -/
theorem Mem.wf_write {m : Mem} (h : m.wf = true) (a : Nat) (v : Byte) : (m.write a v).wf = true :=
  Mem.wfFrom_write h (Nat.zero_le a) v

theorem Mem.read_write_same {lo : Nat} {m : Mem} (h : Mem.wfFrom lo m = true) (a : Nat) (v : Byte) :
    (m.write a v).read a = v := by
  induction m generalizing lo with
  | nil =>
    simp only [Mem.write]
    split_ifs with hv
    · exact hv.symm
    · simp [Mem.read]
  | cons e r ih =>
    obtain ⟨j, b⟩ := e
    simp only [Mem.wfFrom, Bool.and_eq_true, decide_eq_true_eq] at h
    simp only [Mem.write]
    split_ifs with h1 h2 h3 h4
    · subst h1; rw [h2]; exact Mem.read_below h.2 (by omega)
    · simp [Mem.read]
    · have := Mem.read_below h.2 (a := a) (by omega)
      simp [Mem.read, h1, this, h4]
    · simp [Mem.read]
    · simp [Mem.read, h1, ih h.2]

theorem Mem.read_write_ne (m : Mem) {a b : Nat} (v : Byte) (h : b ≠ a) : (m.write a v).read b = m.read b := by
  induction m with
  | nil =>
    simp only [Mem.write]
    split_ifs with hv
    · rfl
    · simp [Mem.read, h]
  | cons e r ih =>
    obtain ⟨j, c⟩ := e
    simp only [Mem.write]
    split_ifs with h1 h2 h3 h4
    · subst h1; simp [Mem.read, h]
    · subst h1; simp [Mem.read, h]
    · rfl
    · simp [Mem.read, h]
    · simp only [Mem.read, ih]

/-- A store of several bytes keeps the canonical form. -/
theorem Mem.wf_writeN {m : Mem} (h : m.wf = true) (a n v : Nat) : (m.writeN a n v).wf = true := by
  induction n generalizing m a v with
  | zero => exact h
  | succ k ih => exact ih (Mem.wf_write h a _) (a + 1) (v / 256)

/-- A store leaves every byte outside its range alone. -/
theorem Mem.read_writeN_out (m : Mem) (a n v : Nat) {b : Nat} (h : b < a ∨ a + n ≤ b) :
    (m.writeN a n v).read b = m.read b := by
  induction n generalizing m a v with
  | zero => rfl
  | succ k ih =>
    simp only [Mem.writeN]
    rw [ih _ _ _ (by omega), Mem.read_write_ne m _ (by omega)]

/-- A read of bytes that a store did not touch. -/
theorem Mem.readN_writeN_out (m : Mem) (a n v b k : Nat) (h : b + k ≤ a ∨ a + n ≤ b) :
    (m.writeN a n v).readN b k = m.readN b k := by
  induction k generalizing b with
  | zero => rfl
  | succ j ih =>
    simp only [Mem.readN]
    rw [Mem.read_writeN_out m a n v (by omega), ih _ (by omega)]

/-- A read after a write to the same place gives the value written. -/
theorem Mem.readN_writeN_same {m : Mem} (h : m.wf = true) (a n v : Nat) : (m.writeN a n v).readN a n = v % 256 ^ n := by
  induction n generalizing m a v with
  | zero => simp [Mem.readN, Nat.mod_one]
  | succ k ih =>
    simp only [Mem.writeN, Mem.readN]
    have hw := Mem.wf_write h a (BitVec.ofNat 8 v)
    rw [Mem.read_writeN_out _ _ _ _ (by omega), Mem.read_write_same h, ih hw, BitVec.toNat_ofNat]
    have e : (256 : Nat) ^ (k + 1) = 256 * 256 ^ k := pow_succ' 256 k
    rw [e, Nat.mod_mul]

/-- Dropping bytes keeps the canonical form. -/
theorem Mem.wfFrom_filter {lo : Nat} {m : Mem} (h : Mem.wfFrom lo m = true) (p : Nat × BitVec 8 → Bool) :
    Mem.wfFrom lo (m.filter p) = true := by
  induction m generalizing lo with
  | nil => rfl
  | cons e r ih =>
    obtain ⟨j, b⟩ := e
    simp only [Mem.wfFrom, Bool.and_eq_true, decide_eq_true_eq] at h
    rw [List.filter_cons]
    split_ifs with hp
    · simp only [Mem.wfFrom, Bool.and_eq_true, decide_eq_true_eq]
      exact ⟨h.1, ih h.2⟩
    · exact Mem.wfFrom_mono (ih h.2) (by omega)

theorem Mem.wf_filter {m : Mem} (h : m.wf = true) (p : Nat × BitVec 8 → Bool) : Mem.wf (m.filter p) = true :=
  Mem.wfFrom_filter h p

end Sys2Proof.Machine
end

