-- ==== Sys2Proof/Laws/State.lean ====
section
/-! SUPPORT. State.lean: one lemma for each field that a named update leaves alone, and what the updates give back. -/

namespace Sys2Proof.Machine

/-! ## Cells and stages of the module -/

@[simp] theorem State.setCell_agenda (s : State) (n : Nat) (c : CellState) : (s.setCell n c).agenda = s.agenda := rfl
@[simp] theorem State.setCell_turn (s : State) (n : Nat) (c : CellState) : (s.setCell n c).turn = s.turn := rfl
@[simp] theorem State.setCell_focus (s : State) (n : Nat) (c : CellState) : (s.setCell n c).focus = s.focus := rfl
@[simp] theorem State.setCell_strip (s : State) (n : Nat) (c : CellState) : (s.setCell n c).strip = s.strip := rfl
@[simp] theorem State.setCell_firn (s : State) (n : Nat) (c : CellState) : (s.setCell n c).firn = s.firn := rfl
@[simp] theorem State.setCell_badFirn (s : State) (n : Nat) (c : CellState) : (s.setCell n c).badFirn = s.badFirn := rfl
@[simp] theorem State.setCell_pl (s : State) (n : Nat) (c : CellState) : (s.setCell n c).pl = s.pl := rfl
@[simp] theorem State.setCell_casting (s : State) (n : Nat) (c : CellState) : (s.setCell n c).casting = s.casting := rfl
@[simp] theorem State.setCell_merges (s : State) (n : Nat) (c : CellState) : (s.setCell n c).merges = s.merges := rfl
@[simp] theorem State.setCell_packets (s : State) (n : Nat) (c : CellState) : (s.setCell n c).packets = s.packets := rfl
@[simp] theorem State.setCell_reqs (s : State) (n : Nat) (c : CellState) : (s.setCell n c).reqs = s.reqs := rfl
@[simp] theorem State.setCell_acks (s : State) (n : Nat) (c : CellState) : (s.setCell n c).acks = s.acks := rfl
@[simp] theorem State.setCell_watches (s : State) (n : Nat) (c : CellState) : (s.setCell n c).watches = s.watches := rfl
@[simp] theorem State.setCell_items (s : State) (n : Nat) (c : CellState) : (s.setCell n c).items = s.items := rfl
@[simp] theorem State.setCell_links (s : State) (n : Nat) (c : CellState) : (s.setCell n c).links = s.links := rfl
@[simp] theorem State.setCell_tlb (s : State) (n : Nat) (c : CellState) : (s.setCell n c).tlb = s.tlb := rfl
@[simp] theorem State.setCell_guests (s : State) (n : Nat) (c : CellState) : (s.setCell n c).guests = s.guests := rfl
@[simp] theorem State.setCell_stages (s : State) (n : Nat) (c : CellState) : (s.setCell n c).stages = s.stages := rfl
@[simp] theorem State.setCell_frames (s : State) (n : Nat) (c : CellState) : (s.setCell n c).frames = s.frames := rfl
@[simp] theorem State.setCell_dirty (s : State) (n : Nat) (c : CellState) : (s.setCell n c).dirty = s.dirty := rfl
@[simp] theorem State.setCell_fl (s : State) (n : Nat) (c : CellState) : (s.setCell n c).fl = s.fl := rfl
@[simp] theorem State.setCell_duty (s : State) (n : Nat) (c : CellState) : (s.setCell n c).duty = s.duty := rfl
@[simp] theorem State.setCell_ctrl (s : State) (n : Nat) (c : CellState) : (s.setCell n c).ctrl = s.ctrl := rfl
@[simp] theorem State.setCell_retiring (s : State) (n : Nat) (c : CellState) : (s.setCell n c).retiring = s.retiring := rfl
@[simp] theorem State.setCell_silent (s : State) (n : Nat) (c : CellState) : (s.setCell n c).silent = s.silent := rfl
@[simp] theorem State.setCell_slow (s : State) (n : Nat) (c : CellState) : (s.setCell n c).slow = s.slow := rfl
@[simp] theorem State.setCell_flags (s : State) (n : Nat) (c : CellState) : (s.setCell n c).flags = s.flags := rfl
@[simp] theorem State.setCell_polled (s : State) (n : Nat) (c : CellState) : (s.setCell n c).polled = s.polled := rfl
@[simp] theorem State.setCell_clocks (s : State) (n : Nat) (c : CellState) : (s.setCell n c).clocks = s.clocks := rfl
@[simp] theorem State.setCell_router (s : State) (n : Nat) (c : CellState) : (s.setCell n c).router = s.router := rfl
@[simp] theorem State.setCell_served (s : State) (n : Nat) (c : CellState) : (s.setCell n c).served = s.served := rfl
@[simp] theorem State.setCell_rr (s : State) (n : Nat) (c : CellState) : (s.setCell n c).rr = s.rr := rfl
@[simp] theorem State.setCell_maps (s : State) (n : Nat) (c : CellState) : (s.setCell n c).maps = s.maps := rfl
@[simp] theorem State.setCell_mapNo (s : State) (n : Nat) (c : CellState) : (s.setCell n c).mapNo = s.mapNo := rfl
@[simp] theorem State.setCell_host (s : State) (n : Nat) (c : CellState) : (s.setCell n c).host = s.host := rfl
@[simp] theorem State.setCell_edge (s : State) (n : Nat) (c : CellState) : (s.setCell n c).edge = s.edge := rfl
@[simp] theorem State.setCur_agenda (s : State) (c : CellState) : (s.setCur c).agenda = s.agenda := rfl
@[simp] theorem State.setCur_turn (s : State) (c : CellState) : (s.setCur c).turn = s.turn := rfl
@[simp] theorem State.setCur_focus (s : State) (c : CellState) : (s.setCur c).focus = s.focus := rfl
@[simp] theorem State.setCur_strip (s : State) (c : CellState) : (s.setCur c).strip = s.strip := rfl
@[simp] theorem State.setCur_firn (s : State) (c : CellState) : (s.setCur c).firn = s.firn := rfl
@[simp] theorem State.setCur_badFirn (s : State) (c : CellState) : (s.setCur c).badFirn = s.badFirn := rfl
@[simp] theorem State.setCur_pl (s : State) (c : CellState) : (s.setCur c).pl = s.pl := rfl
@[simp] theorem State.setCur_casting (s : State) (c : CellState) : (s.setCur c).casting = s.casting := rfl
@[simp] theorem State.setCur_merges (s : State) (c : CellState) : (s.setCur c).merges = s.merges := rfl
@[simp] theorem State.setCur_packets (s : State) (c : CellState) : (s.setCur c).packets = s.packets := rfl
@[simp] theorem State.setCur_reqs (s : State) (c : CellState) : (s.setCur c).reqs = s.reqs := rfl
@[simp] theorem State.setCur_acks (s : State) (c : CellState) : (s.setCur c).acks = s.acks := rfl
@[simp] theorem State.setCur_watches (s : State) (c : CellState) : (s.setCur c).watches = s.watches := rfl
@[simp] theorem State.setCur_items (s : State) (c : CellState) : (s.setCur c).items = s.items := rfl
@[simp] theorem State.setCur_links (s : State) (c : CellState) : (s.setCur c).links = s.links := rfl
@[simp] theorem State.setCur_tlb (s : State) (c : CellState) : (s.setCur c).tlb = s.tlb := rfl
@[simp] theorem State.setCur_guests (s : State) (c : CellState) : (s.setCur c).guests = s.guests := rfl
@[simp] theorem State.setCur_stages (s : State) (c : CellState) : (s.setCur c).stages = s.stages := rfl
@[simp] theorem State.setCur_frames (s : State) (c : CellState) : (s.setCur c).frames = s.frames := rfl
@[simp] theorem State.setCur_dirty (s : State) (c : CellState) : (s.setCur c).dirty = s.dirty := rfl
@[simp] theorem State.setCur_fl (s : State) (c : CellState) : (s.setCur c).fl = s.fl := rfl
@[simp] theorem State.setCur_duty (s : State) (c : CellState) : (s.setCur c).duty = s.duty := rfl
@[simp] theorem State.setCur_ctrl (s : State) (c : CellState) : (s.setCur c).ctrl = s.ctrl := rfl
@[simp] theorem State.setCur_retiring (s : State) (c : CellState) : (s.setCur c).retiring = s.retiring := rfl
@[simp] theorem State.setCur_silent (s : State) (c : CellState) : (s.setCur c).silent = s.silent := rfl
@[simp] theorem State.setCur_slow (s : State) (c : CellState) : (s.setCur c).slow = s.slow := rfl
@[simp] theorem State.setCur_flags (s : State) (c : CellState) : (s.setCur c).flags = s.flags := rfl
@[simp] theorem State.setCur_polled (s : State) (c : CellState) : (s.setCur c).polled = s.polled := rfl
@[simp] theorem State.setCur_clocks (s : State) (c : CellState) : (s.setCur c).clocks = s.clocks := rfl
@[simp] theorem State.setCur_router (s : State) (c : CellState) : (s.setCur c).router = s.router := rfl
@[simp] theorem State.setCur_served (s : State) (c : CellState) : (s.setCur c).served = s.served := rfl
@[simp] theorem State.setCur_rr (s : State) (c : CellState) : (s.setCur c).rr = s.rr := rfl
@[simp] theorem State.setCur_maps (s : State) (c : CellState) : (s.setCur c).maps = s.maps := rfl
@[simp] theorem State.setCur_mapNo (s : State) (c : CellState) : (s.setCur c).mapNo = s.mapNo := rfl
@[simp] theorem State.setCur_host (s : State) (c : CellState) : (s.setCur c).host = s.host := rfl
@[simp] theorem State.setCur_edge (s : State) (c : CellState) : (s.setCur c).edge = s.edge := rfl
@[simp] theorem State.setStage_agenda (s : State) (i : Nat) (t : Stage) : (s.setStage i t).agenda = s.agenda := rfl
@[simp] theorem State.setStage_turn (s : State) (i : Nat) (t : Stage) : (s.setStage i t).turn = s.turn := rfl
@[simp] theorem State.setStage_focus (s : State) (i : Nat) (t : Stage) : (s.setStage i t).focus = s.focus := rfl
@[simp] theorem State.setStage_strip (s : State) (i : Nat) (t : Stage) : (s.setStage i t).strip = s.strip := rfl
@[simp] theorem State.setStage_cells (s : State) (i : Nat) (t : Stage) : (s.setStage i t).cells = s.cells := rfl
@[simp] theorem State.setStage_firn (s : State) (i : Nat) (t : Stage) : (s.setStage i t).firn = s.firn := rfl
@[simp] theorem State.setStage_badFirn (s : State) (i : Nat) (t : Stage) : (s.setStage i t).badFirn = s.badFirn := rfl
@[simp] theorem State.setStage_pl (s : State) (i : Nat) (t : Stage) : (s.setStage i t).pl = s.pl := rfl
@[simp] theorem State.setStage_casting (s : State) (i : Nat) (t : Stage) : (s.setStage i t).casting = s.casting := rfl
@[simp] theorem State.setStage_merges (s : State) (i : Nat) (t : Stage) : (s.setStage i t).merges = s.merges := rfl
@[simp] theorem State.setStage_packets (s : State) (i : Nat) (t : Stage) : (s.setStage i t).packets = s.packets := rfl
@[simp] theorem State.setStage_reqs (s : State) (i : Nat) (t : Stage) : (s.setStage i t).reqs = s.reqs := rfl
@[simp] theorem State.setStage_acks (s : State) (i : Nat) (t : Stage) : (s.setStage i t).acks = s.acks := rfl
@[simp] theorem State.setStage_watches (s : State) (i : Nat) (t : Stage) : (s.setStage i t).watches = s.watches := rfl
@[simp] theorem State.setStage_items (s : State) (i : Nat) (t : Stage) : (s.setStage i t).items = s.items := rfl
@[simp] theorem State.setStage_links (s : State) (i : Nat) (t : Stage) : (s.setStage i t).links = s.links := rfl
@[simp] theorem State.setStage_tlb (s : State) (i : Nat) (t : Stage) : (s.setStage i t).tlb = s.tlb := rfl
@[simp] theorem State.setStage_guests (s : State) (i : Nat) (t : Stage) : (s.setStage i t).guests = s.guests := rfl
@[simp] theorem State.setStage_frames (s : State) (i : Nat) (t : Stage) : (s.setStage i t).frames = s.frames := rfl
@[simp] theorem State.setStage_dirty (s : State) (i : Nat) (t : Stage) : (s.setStage i t).dirty = s.dirty := rfl
@[simp] theorem State.setStage_fl (s : State) (i : Nat) (t : Stage) : (s.setStage i t).fl = s.fl := rfl
@[simp] theorem State.setStage_duty (s : State) (i : Nat) (t : Stage) : (s.setStage i t).duty = s.duty := rfl
@[simp] theorem State.setStage_ctrl (s : State) (i : Nat) (t : Stage) : (s.setStage i t).ctrl = s.ctrl := rfl
@[simp] theorem State.setStage_retiring (s : State) (i : Nat) (t : Stage) : (s.setStage i t).retiring = s.retiring := rfl
@[simp] theorem State.setStage_silent (s : State) (i : Nat) (t : Stage) : (s.setStage i t).silent = s.silent := rfl
@[simp] theorem State.setStage_slow (s : State) (i : Nat) (t : Stage) : (s.setStage i t).slow = s.slow := rfl
@[simp] theorem State.setStage_flags (s : State) (i : Nat) (t : Stage) : (s.setStage i t).flags = s.flags := rfl
@[simp] theorem State.setStage_polled (s : State) (i : Nat) (t : Stage) : (s.setStage i t).polled = s.polled := rfl
@[simp] theorem State.setStage_clocks (s : State) (i : Nat) (t : Stage) : (s.setStage i t).clocks = s.clocks := rfl
@[simp] theorem State.setStage_router (s : State) (i : Nat) (t : Stage) : (s.setStage i t).router = s.router := rfl
@[simp] theorem State.setStage_served (s : State) (i : Nat) (t : Stage) : (s.setStage i t).served = s.served := rfl
@[simp] theorem State.setStage_rr (s : State) (i : Nat) (t : Stage) : (s.setStage i t).rr = s.rr := rfl
@[simp] theorem State.setStage_maps (s : State) (i : Nat) (t : Stage) : (s.setStage i t).maps = s.maps := rfl
@[simp] theorem State.setStage_mapNo (s : State) (i : Nat) (t : Stage) : (s.setStage i t).mapNo = s.mapNo := rfl
@[simp] theorem State.setStage_host (s : State) (i : Nat) (t : Stage) : (s.setStage i t).host = s.host := rfl
@[simp] theorem State.setStage_edge (s : State) (i : Nat) (t : Stage) : (s.setStage i t).edge = s.edge := rfl
@[simp] theorem State.setEgress_agenda (s : State) (q : Nat) (e : Egress) : (s.setEgress q e).agenda = s.agenda := rfl
@[simp] theorem State.setEgress_turn (s : State) (q : Nat) (e : Egress) : (s.setEgress q e).turn = s.turn := rfl
@[simp] theorem State.setEgress_focus (s : State) (q : Nat) (e : Egress) : (s.setEgress q e).focus = s.focus := rfl
@[simp] theorem State.setEgress_strip (s : State) (q : Nat) (e : Egress) : (s.setEgress q e).strip = s.strip := rfl
@[simp] theorem State.setEgress_cells (s : State) (q : Nat) (e : Egress) : (s.setEgress q e).cells = s.cells := rfl
@[simp] theorem State.setEgress_firn (s : State) (q : Nat) (e : Egress) : (s.setEgress q e).firn = s.firn := rfl
@[simp] theorem State.setEgress_badFirn (s : State) (q : Nat) (e : Egress) : (s.setEgress q e).badFirn = s.badFirn := rfl
@[simp] theorem State.setEgress_pl (s : State) (q : Nat) (e : Egress) : (s.setEgress q e).pl = s.pl := rfl
@[simp] theorem State.setEgress_casting (s : State) (q : Nat) (e : Egress) : (s.setEgress q e).casting = s.casting := rfl
@[simp] theorem State.setEgress_merges (s : State) (q : Nat) (e : Egress) : (s.setEgress q e).merges = s.merges := rfl
@[simp] theorem State.setEgress_packets (s : State) (q : Nat) (e : Egress) : (s.setEgress q e).packets = s.packets := rfl
@[simp] theorem State.setEgress_reqs (s : State) (q : Nat) (e : Egress) : (s.setEgress q e).reqs = s.reqs := rfl
@[simp] theorem State.setEgress_acks (s : State) (q : Nat) (e : Egress) : (s.setEgress q e).acks = s.acks := rfl
@[simp] theorem State.setEgress_watches (s : State) (q : Nat) (e : Egress) : (s.setEgress q e).watches = s.watches := rfl
@[simp] theorem State.setEgress_items (s : State) (q : Nat) (e : Egress) : (s.setEgress q e).items = s.items := rfl
@[simp] theorem State.setEgress_links (s : State) (q : Nat) (e : Egress) : (s.setEgress q e).links = s.links := rfl
@[simp] theorem State.setEgress_tlb (s : State) (q : Nat) (e : Egress) : (s.setEgress q e).tlb = s.tlb := rfl
@[simp] theorem State.setEgress_guests (s : State) (q : Nat) (e : Egress) : (s.setEgress q e).guests = s.guests := rfl
@[simp] theorem State.setEgress_stages (s : State) (q : Nat) (e : Egress) : (s.setEgress q e).stages = s.stages := rfl
@[simp] theorem State.setEgress_frames (s : State) (q : Nat) (e : Egress) : (s.setEgress q e).frames = s.frames := rfl
@[simp] theorem State.setEgress_dirty (s : State) (q : Nat) (e : Egress) : (s.setEgress q e).dirty = s.dirty := rfl
@[simp] theorem State.setEgress_fl (s : State) (q : Nat) (e : Egress) : (s.setEgress q e).fl = s.fl := rfl
@[simp] theorem State.setEgress_duty (s : State) (q : Nat) (e : Egress) : (s.setEgress q e).duty = s.duty := rfl
@[simp] theorem State.setEgress_ctrl (s : State) (q : Nat) (e : Egress) : (s.setEgress q e).ctrl = s.ctrl := rfl
@[simp] theorem State.setEgress_retiring (s : State) (q : Nat) (e : Egress) : (s.setEgress q e).retiring = s.retiring := rfl
@[simp] theorem State.setEgress_silent (s : State) (q : Nat) (e : Egress) : (s.setEgress q e).silent = s.silent := rfl
@[simp] theorem State.setEgress_slow (s : State) (q : Nat) (e : Egress) : (s.setEgress q e).slow = s.slow := rfl
@[simp] theorem State.setEgress_flags (s : State) (q : Nat) (e : Egress) : (s.setEgress q e).flags = s.flags := rfl
@[simp] theorem State.setEgress_polled (s : State) (q : Nat) (e : Egress) : (s.setEgress q e).polled = s.polled := rfl
@[simp] theorem State.setEgress_clocks (s : State) (q : Nat) (e : Egress) : (s.setEgress q e).clocks = s.clocks := rfl
@[simp] theorem State.setEgress_router (s : State) (q : Nat) (e : Egress) : (s.setEgress q e).router = s.router := rfl
@[simp] theorem State.setEgress_served (s : State) (q : Nat) (e : Egress) : (s.setEgress q e).served = s.served := rfl
@[simp] theorem State.setEgress_rr (s : State) (q : Nat) (e : Egress) : (s.setEgress q e).rr = s.rr := rfl
@[simp] theorem State.setEgress_maps (s : State) (q : Nat) (e : Egress) : (s.setEgress q e).maps = s.maps := rfl
@[simp] theorem State.setEgress_mapNo (s : State) (q : Nat) (e : Egress) : (s.setEgress q e).mapNo = s.mapNo := rfl
@[simp] theorem State.setEgress_edge (s : State) (q : Nat) (e : Egress) : (s.setEgress q e).edge = s.edge := rfl
@[simp] theorem State.send_agenda (s : State) (m : EdgeMsg) : (s.send m).agenda = s.agenda := by
  unfold State.send; split_ifs <;> rfl
@[simp] theorem State.send_turn (s : State) (m : EdgeMsg) : (s.send m).turn = s.turn := by
  unfold State.send; split_ifs <;> rfl
@[simp] theorem State.send_focus (s : State) (m : EdgeMsg) : (s.send m).focus = s.focus := by
  unfold State.send; split_ifs <;> rfl
@[simp] theorem State.send_strip (s : State) (m : EdgeMsg) : (s.send m).strip = s.strip := by
  unfold State.send; split_ifs <;> rfl
@[simp] theorem State.send_cells (s : State) (m : EdgeMsg) : (s.send m).cells = s.cells := by
  unfold State.send; split_ifs <;> rfl
@[simp] theorem State.send_firn (s : State) (m : EdgeMsg) : (s.send m).firn = s.firn := by
  unfold State.send; split_ifs <;> rfl
@[simp] theorem State.send_badFirn (s : State) (m : EdgeMsg) : (s.send m).badFirn = s.badFirn := by
  unfold State.send; split_ifs <;> rfl
@[simp] theorem State.send_pl (s : State) (m : EdgeMsg) : (s.send m).pl = s.pl := by
  unfold State.send; split_ifs <;> rfl
@[simp] theorem State.send_casting (s : State) (m : EdgeMsg) : (s.send m).casting = s.casting := by
  unfold State.send; split_ifs <;> rfl
@[simp] theorem State.send_merges (s : State) (m : EdgeMsg) : (s.send m).merges = s.merges := by
  unfold State.send; split_ifs <;> rfl
@[simp] theorem State.send_packets (s : State) (m : EdgeMsg) : (s.send m).packets = s.packets := by
  unfold State.send; split_ifs <;> rfl
@[simp] theorem State.send_reqs (s : State) (m : EdgeMsg) : (s.send m).reqs = s.reqs := by
  unfold State.send; split_ifs <;> rfl
@[simp] theorem State.send_acks (s : State) (m : EdgeMsg) : (s.send m).acks = s.acks := by
  unfold State.send; split_ifs <;> rfl
@[simp] theorem State.send_watches (s : State) (m : EdgeMsg) : (s.send m).watches = s.watches := by
  unfold State.send; split_ifs <;> rfl
@[simp] theorem State.send_items (s : State) (m : EdgeMsg) : (s.send m).items = s.items := by
  unfold State.send; split_ifs <;> rfl
@[simp] theorem State.send_links (s : State) (m : EdgeMsg) : (s.send m).links = s.links := by
  unfold State.send; split_ifs <;> rfl
@[simp] theorem State.send_tlb (s : State) (m : EdgeMsg) : (s.send m).tlb = s.tlb := by
  unfold State.send; split_ifs <;> rfl
@[simp] theorem State.send_guests (s : State) (m : EdgeMsg) : (s.send m).guests = s.guests := by
  unfold State.send; split_ifs <;> rfl
@[simp] theorem State.send_stages (s : State) (m : EdgeMsg) : (s.send m).stages = s.stages := by
  unfold State.send; split_ifs <;> rfl
@[simp] theorem State.send_frames (s : State) (m : EdgeMsg) : (s.send m).frames = s.frames := by
  unfold State.send; split_ifs <;> rfl
@[simp] theorem State.send_dirty (s : State) (m : EdgeMsg) : (s.send m).dirty = s.dirty := by
  unfold State.send; split_ifs <;> rfl
@[simp] theorem State.send_fl (s : State) (m : EdgeMsg) : (s.send m).fl = s.fl := by
  unfold State.send; split_ifs <;> rfl
@[simp] theorem State.send_duty (s : State) (m : EdgeMsg) : (s.send m).duty = s.duty := by
  unfold State.send; split_ifs <;> rfl
@[simp] theorem State.send_ctrl (s : State) (m : EdgeMsg) : (s.send m).ctrl = s.ctrl := by
  unfold State.send; split_ifs <;> rfl
@[simp] theorem State.send_retiring (s : State) (m : EdgeMsg) : (s.send m).retiring = s.retiring := by
  unfold State.send; split_ifs <;> rfl
@[simp] theorem State.send_silent (s : State) (m : EdgeMsg) : (s.send m).silent = s.silent := by
  unfold State.send; split_ifs <;> rfl
@[simp] theorem State.send_slow (s : State) (m : EdgeMsg) : (s.send m).slow = s.slow := by
  unfold State.send; split_ifs <;> rfl
@[simp] theorem State.send_flags (s : State) (m : EdgeMsg) : (s.send m).flags = s.flags := by
  unfold State.send; split_ifs <;> rfl
@[simp] theorem State.send_polled (s : State) (m : EdgeMsg) : (s.send m).polled = s.polled := by
  unfold State.send; split_ifs <;> rfl
@[simp] theorem State.send_clocks (s : State) (m : EdgeMsg) : (s.send m).clocks = s.clocks := by
  unfold State.send; split_ifs <;> rfl
@[simp] theorem State.send_router (s : State) (m : EdgeMsg) : (s.send m).router = s.router := by
  unfold State.send; split_ifs <;> rfl
@[simp] theorem State.send_served (s : State) (m : EdgeMsg) : (s.send m).served = s.served := by
  unfold State.send; split_ifs <;> rfl
@[simp] theorem State.send_rr (s : State) (m : EdgeMsg) : (s.send m).rr = s.rr := by
  unfold State.send; split_ifs <;> rfl
@[simp] theorem State.send_maps (s : State) (m : EdgeMsg) : (s.send m).maps = s.maps := by
  unfold State.send; split_ifs <;> rfl
@[simp] theorem State.send_mapNo (s : State) (m : EdgeMsg) : (s.send m).mapNo = s.mapNo := by
  unfold State.send; split_ifs <;> rfl
@[simp] theorem State.send_host (s : State) (m : EdgeMsg) : (s.send m).host = s.host := by
  unfold State.send; split_ifs <;> rfl
@[simp] theorem State.moveFlit_agenda (s : State) (r : FlitRef) (d : Dir) : (s.moveFlit r d).agenda = s.agenda := by
  cases r <;> rfl
@[simp] theorem State.moveFlit_turn (s : State) (r : FlitRef) (d : Dir) : (s.moveFlit r d).turn = s.turn := by
  cases r <;> rfl
@[simp] theorem State.moveFlit_focus (s : State) (r : FlitRef) (d : Dir) : (s.moveFlit r d).focus = s.focus := by
  cases r <;> rfl
@[simp] theorem State.moveFlit_strip (s : State) (r : FlitRef) (d : Dir) : (s.moveFlit r d).strip = s.strip := by
  cases r <;> rfl
@[simp] theorem State.moveFlit_firn (s : State) (r : FlitRef) (d : Dir) : (s.moveFlit r d).firn = s.firn := by
  cases r <;> rfl
@[simp] theorem State.moveFlit_badFirn (s : State) (r : FlitRef) (d : Dir) : (s.moveFlit r d).badFirn = s.badFirn := by
  cases r <;> rfl
@[simp] theorem State.moveFlit_pl (s : State) (r : FlitRef) (d : Dir) : (s.moveFlit r d).pl = s.pl := by
  cases r <;> rfl
@[simp] theorem State.moveFlit_casting (s : State) (r : FlitRef) (d : Dir) : (s.moveFlit r d).casting = s.casting := by
  cases r <;> rfl
@[simp] theorem State.moveFlit_merges (s : State) (r : FlitRef) (d : Dir) : (s.moveFlit r d).merges = s.merges := by
  cases r <;> rfl
@[simp] theorem State.moveFlit_watches (s : State) (r : FlitRef) (d : Dir) : (s.moveFlit r d).watches = s.watches := by
  cases r <;> rfl
@[simp] theorem State.moveFlit_links (s : State) (r : FlitRef) (d : Dir) : (s.moveFlit r d).links = s.links := by
  cases r <;> rfl
@[simp] theorem State.moveFlit_tlb (s : State) (r : FlitRef) (d : Dir) : (s.moveFlit r d).tlb = s.tlb := by
  cases r <;> rfl
@[simp] theorem State.moveFlit_guests (s : State) (r : FlitRef) (d : Dir) : (s.moveFlit r d).guests = s.guests := by
  cases r <;> rfl
@[simp] theorem State.moveFlit_stages (s : State) (r : FlitRef) (d : Dir) : (s.moveFlit r d).stages = s.stages := by
  cases r <;> rfl
@[simp] theorem State.moveFlit_frames (s : State) (r : FlitRef) (d : Dir) : (s.moveFlit r d).frames = s.frames := by
  cases r <;> rfl
@[simp] theorem State.moveFlit_dirty (s : State) (r : FlitRef) (d : Dir) : (s.moveFlit r d).dirty = s.dirty := by
  cases r <;> rfl
@[simp] theorem State.moveFlit_fl (s : State) (r : FlitRef) (d : Dir) : (s.moveFlit r d).fl = s.fl := by
  cases r <;> rfl
@[simp] theorem State.moveFlit_duty (s : State) (r : FlitRef) (d : Dir) : (s.moveFlit r d).duty = s.duty := by
  cases r <;> rfl
@[simp] theorem State.moveFlit_ctrl (s : State) (r : FlitRef) (d : Dir) : (s.moveFlit r d).ctrl = s.ctrl := by
  cases r <;> rfl
@[simp] theorem State.moveFlit_retiring (s : State) (r : FlitRef) (d : Dir) : (s.moveFlit r d).retiring = s.retiring := by
  cases r <;> rfl
@[simp] theorem State.moveFlit_silent (s : State) (r : FlitRef) (d : Dir) : (s.moveFlit r d).silent = s.silent := by
  cases r <;> rfl
@[simp] theorem State.moveFlit_slow (s : State) (r : FlitRef) (d : Dir) : (s.moveFlit r d).slow = s.slow := by
  cases r <;> rfl
@[simp] theorem State.moveFlit_flags (s : State) (r : FlitRef) (d : Dir) : (s.moveFlit r d).flags = s.flags := by
  cases r <;> rfl
@[simp] theorem State.moveFlit_polled (s : State) (r : FlitRef) (d : Dir) : (s.moveFlit r d).polled = s.polled := by
  cases r <;> rfl
@[simp] theorem State.moveFlit_clocks (s : State) (r : FlitRef) (d : Dir) : (s.moveFlit r d).clocks = s.clocks := by
  cases r <;> rfl
@[simp] theorem State.moveFlit_router (s : State) (r : FlitRef) (d : Dir) : (s.moveFlit r d).router = s.router := by
  cases r <;> rfl
@[simp] theorem State.moveFlit_served (s : State) (r : FlitRef) (d : Dir) : (s.moveFlit r d).served = s.served := by
  cases r <;> rfl
@[simp] theorem State.moveFlit_rr (s : State) (r : FlitRef) (d : Dir) : (s.moveFlit r d).rr = s.rr := by
  cases r <;> rfl
@[simp] theorem State.moveFlit_maps (s : State) (r : FlitRef) (d : Dir) : (s.moveFlit r d).maps = s.maps := by
  cases r <;> rfl
@[simp] theorem State.moveFlit_mapNo (s : State) (r : FlitRef) (d : Dir) : (s.moveFlit r d).mapNo = s.mapNo := by
  cases r <;> rfl
@[simp] theorem State.moveFlit_host (s : State) (r : FlitRef) (d : Dir) : (s.moveFlit r d).host = s.host := by
  cases r <;> rfl
@[simp] theorem State.moveFlit_edge (s : State) (r : FlitRef) (d : Dir) : (s.moveFlit r d).edge = s.edge := by
  cases r <;> rfl
@[simp] theorem State.turned_agenda (s : State) (f : Flit) (o : Option Dir) : (s.turned f o).agenda = s.agenda := rfl
@[simp] theorem State.turned_turn (s : State) (f : Flit) (o : Option Dir) : (s.turned f o).turn = s.turn := rfl
@[simp] theorem State.turned_focus (s : State) (f : Flit) (o : Option Dir) : (s.turned f o).focus = s.focus := rfl
@[simp] theorem State.turned_strip (s : State) (f : Flit) (o : Option Dir) : (s.turned f o).strip = s.strip := rfl
@[simp] theorem State.turned_cells (s : State) (f : Flit) (o : Option Dir) : (s.turned f o).cells = s.cells := rfl
@[simp] theorem State.turned_firn (s : State) (f : Flit) (o : Option Dir) : (s.turned f o).firn = s.firn := rfl
@[simp] theorem State.turned_badFirn (s : State) (f : Flit) (o : Option Dir) : (s.turned f o).badFirn = s.badFirn := rfl
@[simp] theorem State.turned_pl (s : State) (f : Flit) (o : Option Dir) : (s.turned f o).pl = s.pl := rfl
@[simp] theorem State.turned_casting (s : State) (f : Flit) (o : Option Dir) : (s.turned f o).casting = s.casting := rfl
@[simp] theorem State.turned_merges (s : State) (f : Flit) (o : Option Dir) : (s.turned f o).merges = s.merges := rfl
@[simp] theorem State.turned_packets (s : State) (f : Flit) (o : Option Dir) : (s.turned f o).packets = s.packets := rfl
@[simp] theorem State.turned_reqs (s : State) (f : Flit) (o : Option Dir) : (s.turned f o).reqs = s.reqs := rfl
@[simp] theorem State.turned_acks (s : State) (f : Flit) (o : Option Dir) : (s.turned f o).acks = s.acks := rfl
@[simp] theorem State.turned_watches (s : State) (f : Flit) (o : Option Dir) : (s.turned f o).watches = s.watches := rfl
@[simp] theorem State.turned_items (s : State) (f : Flit) (o : Option Dir) : (s.turned f o).items = s.items := rfl
@[simp] theorem State.turned_links (s : State) (f : Flit) (o : Option Dir) : (s.turned f o).links = s.links := rfl
@[simp] theorem State.turned_tlb (s : State) (f : Flit) (o : Option Dir) : (s.turned f o).tlb = s.tlb := rfl
@[simp] theorem State.turned_guests (s : State) (f : Flit) (o : Option Dir) : (s.turned f o).guests = s.guests := rfl
@[simp] theorem State.turned_stages (s : State) (f : Flit) (o : Option Dir) : (s.turned f o).stages = s.stages := rfl
@[simp] theorem State.turned_frames (s : State) (f : Flit) (o : Option Dir) : (s.turned f o).frames = s.frames := rfl
@[simp] theorem State.turned_dirty (s : State) (f : Flit) (o : Option Dir) : (s.turned f o).dirty = s.dirty := rfl
@[simp] theorem State.turned_fl (s : State) (f : Flit) (o : Option Dir) : (s.turned f o).fl = s.fl := rfl
@[simp] theorem State.turned_duty (s : State) (f : Flit) (o : Option Dir) : (s.turned f o).duty = s.duty := rfl
@[simp] theorem State.turned_ctrl (s : State) (f : Flit) (o : Option Dir) : (s.turned f o).ctrl = s.ctrl := rfl
@[simp] theorem State.turned_retiring (s : State) (f : Flit) (o : Option Dir) : (s.turned f o).retiring = s.retiring := rfl
@[simp] theorem State.turned_silent (s : State) (f : Flit) (o : Option Dir) : (s.turned f o).silent = s.silent := rfl
@[simp] theorem State.turned_slow (s : State) (f : Flit) (o : Option Dir) : (s.turned f o).slow = s.slow := rfl
@[simp] theorem State.turned_flags (s : State) (f : Flit) (o : Option Dir) : (s.turned f o).flags = s.flags := rfl
@[simp] theorem State.turned_polled (s : State) (f : Flit) (o : Option Dir) : (s.turned f o).polled = s.polled := rfl
@[simp] theorem State.turned_clocks (s : State) (f : Flit) (o : Option Dir) : (s.turned f o).clocks = s.clocks := rfl
@[simp] theorem State.turned_router (s : State) (f : Flit) (o : Option Dir) : (s.turned f o).router = s.router := rfl
@[simp] theorem State.turned_served (s : State) (f : Flit) (o : Option Dir) : (s.turned f o).served = s.served := rfl
@[simp] theorem State.turned_maps (s : State) (f : Flit) (o : Option Dir) : (s.turned f o).maps = s.maps := rfl
@[simp] theorem State.turned_mapNo (s : State) (f : Flit) (o : Option Dir) : (s.turned f o).mapNo = s.mapNo := rfl
@[simp] theorem State.turned_host (s : State) (f : Flit) (o : Option Dir) : (s.turned f o).host = s.host := rfl
@[simp] theorem State.turned_edge (s : State) (f : Flit) (o : Option Dir) : (s.turned f o).edge = s.edge := rfl
@[simp] theorem State.noteSent_agenda (s : State) (st : Nat) (p : Nat × Nat) : (s.noteSent st p).agenda = s.agenda := rfl
@[simp] theorem State.noteSent_turn (s : State) (st : Nat) (p : Nat × Nat) : (s.noteSent st p).turn = s.turn := rfl
@[simp] theorem State.noteSent_focus (s : State) (st : Nat) (p : Nat × Nat) : (s.noteSent st p).focus = s.focus := rfl
@[simp] theorem State.noteSent_strip (s : State) (st : Nat) (p : Nat × Nat) : (s.noteSent st p).strip = s.strip := rfl
@[simp] theorem State.noteSent_cells (s : State) (st : Nat) (p : Nat × Nat) : (s.noteSent st p).cells = s.cells := rfl
@[simp] theorem State.noteSent_firn (s : State) (st : Nat) (p : Nat × Nat) : (s.noteSent st p).firn = s.firn := rfl
@[simp] theorem State.noteSent_badFirn (s : State) (st : Nat) (p : Nat × Nat) : (s.noteSent st p).badFirn = s.badFirn := rfl
@[simp] theorem State.noteSent_pl (s : State) (st : Nat) (p : Nat × Nat) : (s.noteSent st p).pl = s.pl := rfl
@[simp] theorem State.noteSent_casting (s : State) (st : Nat) (p : Nat × Nat) : (s.noteSent st p).casting = s.casting := rfl
@[simp] theorem State.noteSent_merges (s : State) (st : Nat) (p : Nat × Nat) : (s.noteSent st p).merges = s.merges := rfl
@[simp] theorem State.noteSent_packets (s : State) (st : Nat) (p : Nat × Nat) : (s.noteSent st p).packets = s.packets := rfl
@[simp] theorem State.noteSent_reqs (s : State) (st : Nat) (p : Nat × Nat) : (s.noteSent st p).reqs = s.reqs := rfl
@[simp] theorem State.noteSent_acks (s : State) (st : Nat) (p : Nat × Nat) : (s.noteSent st p).acks = s.acks := rfl
@[simp] theorem State.noteSent_watches (s : State) (st : Nat) (p : Nat × Nat) : (s.noteSent st p).watches = s.watches := rfl
@[simp] theorem State.noteSent_items (s : State) (st : Nat) (p : Nat × Nat) : (s.noteSent st p).items = s.items := rfl
@[simp] theorem State.noteSent_links (s : State) (st : Nat) (p : Nat × Nat) : (s.noteSent st p).links = s.links := rfl
@[simp] theorem State.noteSent_tlb (s : State) (st : Nat) (p : Nat × Nat) : (s.noteSent st p).tlb = s.tlb := rfl
@[simp] theorem State.noteSent_guests (s : State) (st : Nat) (p : Nat × Nat) : (s.noteSent st p).guests = s.guests := rfl
@[simp] theorem State.noteSent_stages (s : State) (st : Nat) (p : Nat × Nat) : (s.noteSent st p).stages = s.stages := rfl
@[simp] theorem State.noteSent_frames (s : State) (st : Nat) (p : Nat × Nat) : (s.noteSent st p).frames = s.frames := rfl
@[simp] theorem State.noteSent_dirty (s : State) (st : Nat) (p : Nat × Nat) : (s.noteSent st p).dirty = s.dirty := rfl
@[simp] theorem State.noteSent_fl (s : State) (st : Nat) (p : Nat × Nat) : (s.noteSent st p).fl = s.fl := rfl
@[simp] theorem State.noteSent_duty (s : State) (st : Nat) (p : Nat × Nat) : (s.noteSent st p).duty = s.duty := rfl
@[simp] theorem State.noteSent_retiring (s : State) (st : Nat) (p : Nat × Nat) : (s.noteSent st p).retiring = s.retiring := rfl
@[simp] theorem State.noteSent_silent (s : State) (st : Nat) (p : Nat × Nat) : (s.noteSent st p).silent = s.silent := rfl
@[simp] theorem State.noteSent_slow (s : State) (st : Nat) (p : Nat × Nat) : (s.noteSent st p).slow = s.slow := rfl
@[simp] theorem State.noteSent_flags (s : State) (st : Nat) (p : Nat × Nat) : (s.noteSent st p).flags = s.flags := rfl
@[simp] theorem State.noteSent_polled (s : State) (st : Nat) (p : Nat × Nat) : (s.noteSent st p).polled = s.polled := rfl
@[simp] theorem State.noteSent_clocks (s : State) (st : Nat) (p : Nat × Nat) : (s.noteSent st p).clocks = s.clocks := rfl
@[simp] theorem State.noteSent_router (s : State) (st : Nat) (p : Nat × Nat) : (s.noteSent st p).router = s.router := rfl
@[simp] theorem State.noteSent_served (s : State) (st : Nat) (p : Nat × Nat) : (s.noteSent st p).served = s.served := rfl
@[simp] theorem State.noteSent_rr (s : State) (st : Nat) (p : Nat × Nat) : (s.noteSent st p).rr = s.rr := rfl
@[simp] theorem State.noteSent_maps (s : State) (st : Nat) (p : Nat × Nat) : (s.noteSent st p).maps = s.maps := rfl
@[simp] theorem State.noteSent_mapNo (s : State) (st : Nat) (p : Nat × Nat) : (s.noteSent st p).mapNo = s.mapNo := rfl
@[simp] theorem State.noteSent_host (s : State) (st : Nat) (p : Nat × Nat) : (s.noteSent st p).host = s.host := rfl
@[simp] theorem State.noteSent_edge (s : State) (st : Nat) (p : Nat × Nat) : (s.noteSent st p).edge = s.edge := rfl
@[simp] theorem State.startSwap_agenda (s : State) (st : Nat) (b : CtrlBank) : (s.startSwap st b).agenda = s.agenda := rfl
@[simp] theorem State.startSwap_turn (s : State) (st : Nat) (b : CtrlBank) : (s.startSwap st b).turn = s.turn := rfl
@[simp] theorem State.startSwap_focus (s : State) (st : Nat) (b : CtrlBank) : (s.startSwap st b).focus = s.focus := rfl
@[simp] theorem State.startSwap_strip (s : State) (st : Nat) (b : CtrlBank) : (s.startSwap st b).strip = s.strip := rfl
@[simp] theorem State.startSwap_cells (s : State) (st : Nat) (b : CtrlBank) : (s.startSwap st b).cells = s.cells := rfl
@[simp] theorem State.startSwap_firn (s : State) (st : Nat) (b : CtrlBank) : (s.startSwap st b).firn = s.firn := rfl
@[simp] theorem State.startSwap_badFirn (s : State) (st : Nat) (b : CtrlBank) : (s.startSwap st b).badFirn = s.badFirn := rfl
@[simp] theorem State.startSwap_pl (s : State) (st : Nat) (b : CtrlBank) : (s.startSwap st b).pl = s.pl := rfl
@[simp] theorem State.startSwap_casting (s : State) (st : Nat) (b : CtrlBank) : (s.startSwap st b).casting = s.casting := rfl
@[simp] theorem State.startSwap_merges (s : State) (st : Nat) (b : CtrlBank) : (s.startSwap st b).merges = s.merges := rfl
@[simp] theorem State.startSwap_packets (s : State) (st : Nat) (b : CtrlBank) : (s.startSwap st b).packets = s.packets := rfl
@[simp] theorem State.startSwap_reqs (s : State) (st : Nat) (b : CtrlBank) : (s.startSwap st b).reqs = s.reqs := rfl
@[simp] theorem State.startSwap_acks (s : State) (st : Nat) (b : CtrlBank) : (s.startSwap st b).acks = s.acks := rfl
@[simp] theorem State.startSwap_watches (s : State) (st : Nat) (b : CtrlBank) : (s.startSwap st b).watches = s.watches := rfl
@[simp] theorem State.startSwap_links (s : State) (st : Nat) (b : CtrlBank) : (s.startSwap st b).links = s.links := rfl
@[simp] theorem State.startSwap_tlb (s : State) (st : Nat) (b : CtrlBank) : (s.startSwap st b).tlb = s.tlb := rfl
@[simp] theorem State.startSwap_guests (s : State) (st : Nat) (b : CtrlBank) : (s.startSwap st b).guests = s.guests := rfl
@[simp] theorem State.startSwap_stages (s : State) (st : Nat) (b : CtrlBank) : (s.startSwap st b).stages = s.stages := rfl
@[simp] theorem State.startSwap_frames (s : State) (st : Nat) (b : CtrlBank) : (s.startSwap st b).frames = s.frames := rfl
@[simp] theorem State.startSwap_dirty (s : State) (st : Nat) (b : CtrlBank) : (s.startSwap st b).dirty = s.dirty := rfl
@[simp] theorem State.startSwap_fl (s : State) (st : Nat) (b : CtrlBank) : (s.startSwap st b).fl = s.fl := rfl
@[simp] theorem State.startSwap_duty (s : State) (st : Nat) (b : CtrlBank) : (s.startSwap st b).duty = s.duty := rfl
@[simp] theorem State.startSwap_retiring (s : State) (st : Nat) (b : CtrlBank) : (s.startSwap st b).retiring = s.retiring := rfl
@[simp] theorem State.startSwap_silent (s : State) (st : Nat) (b : CtrlBank) : (s.startSwap st b).silent = s.silent := rfl
@[simp] theorem State.startSwap_slow (s : State) (st : Nat) (b : CtrlBank) : (s.startSwap st b).slow = s.slow := rfl
@[simp] theorem State.startSwap_flags (s : State) (st : Nat) (b : CtrlBank) : (s.startSwap st b).flags = s.flags := rfl
@[simp] theorem State.startSwap_polled (s : State) (st : Nat) (b : CtrlBank) : (s.startSwap st b).polled = s.polled := rfl
@[simp] theorem State.startSwap_clocks (s : State) (st : Nat) (b : CtrlBank) : (s.startSwap st b).clocks = s.clocks := rfl
@[simp] theorem State.startSwap_router (s : State) (st : Nat) (b : CtrlBank) : (s.startSwap st b).router = s.router := rfl
@[simp] theorem State.startSwap_served (s : State) (st : Nat) (b : CtrlBank) : (s.startSwap st b).served = s.served := rfl
@[simp] theorem State.startSwap_rr (s : State) (st : Nat) (b : CtrlBank) : (s.startSwap st b).rr = s.rr := rfl
@[simp] theorem State.startSwap_maps (s : State) (st : Nat) (b : CtrlBank) : (s.startSwap st b).maps = s.maps := rfl
@[simp] theorem State.startSwap_mapNo (s : State) (st : Nat) (b : CtrlBank) : (s.startSwap st b).mapNo = s.mapNo := rfl
@[simp] theorem State.startSwap_host (s : State) (st : Nat) (b : CtrlBank) : (s.startSwap st b).host = s.host := rfl
@[simp] theorem State.startSwap_edge (s : State) (st : Nat) (b : CtrlBank) : (s.startSwap st b).edge = s.edge := rfl
@[simp] theorem State.setChan_agenda (s : State) (k : Nat) (c : Channel) : (s.setChan k c).agenda = s.agenda := rfl
@[simp] theorem State.setChan_turn (s : State) (k : Nat) (c : Channel) : (s.setChan k c).turn = s.turn := rfl
@[simp] theorem State.setChan_focus (s : State) (k : Nat) (c : Channel) : (s.setChan k c).focus = s.focus := rfl
@[simp] theorem State.setChan_strip (s : State) (k : Nat) (c : Channel) : (s.setChan k c).strip = s.strip := rfl
@[simp] theorem State.setChan_cells (s : State) (k : Nat) (c : Channel) : (s.setChan k c).cells = s.cells := rfl
@[simp] theorem State.setChan_firn (s : State) (k : Nat) (c : Channel) : (s.setChan k c).firn = s.firn := rfl
@[simp] theorem State.setChan_badFirn (s : State) (k : Nat) (c : Channel) : (s.setChan k c).badFirn = s.badFirn := rfl
@[simp] theorem State.setChan_pl (s : State) (k : Nat) (c : Channel) : (s.setChan k c).pl = s.pl := rfl
@[simp] theorem State.setChan_casting (s : State) (k : Nat) (c : Channel) : (s.setChan k c).casting = s.casting := rfl
@[simp] theorem State.setChan_merges (s : State) (k : Nat) (c : Channel) : (s.setChan k c).merges = s.merges := rfl
@[simp] theorem State.setChan_packets (s : State) (k : Nat) (c : Channel) : (s.setChan k c).packets = s.packets := rfl
@[simp] theorem State.setChan_reqs (s : State) (k : Nat) (c : Channel) : (s.setChan k c).reqs = s.reqs := rfl
@[simp] theorem State.setChan_acks (s : State) (k : Nat) (c : Channel) : (s.setChan k c).acks = s.acks := rfl
@[simp] theorem State.setChan_watches (s : State) (k : Nat) (c : Channel) : (s.setChan k c).watches = s.watches := rfl
@[simp] theorem State.setChan_items (s : State) (k : Nat) (c : Channel) : (s.setChan k c).items = s.items := rfl
@[simp] theorem State.setChan_links (s : State) (k : Nat) (c : Channel) : (s.setChan k c).links = s.links := rfl
@[simp] theorem State.setChan_tlb (s : State) (k : Nat) (c : Channel) : (s.setChan k c).tlb = s.tlb := rfl
@[simp] theorem State.setChan_guests (s : State) (k : Nat) (c : Channel) : (s.setChan k c).guests = s.guests := rfl
@[simp] theorem State.setChan_stages (s : State) (k : Nat) (c : Channel) : (s.setChan k c).stages = s.stages := rfl
@[simp] theorem State.setChan_frames (s : State) (k : Nat) (c : Channel) : (s.setChan k c).frames = s.frames := rfl
@[simp] theorem State.setChan_dirty (s : State) (k : Nat) (c : Channel) : (s.setChan k c).dirty = s.dirty := rfl
@[simp] theorem State.setChan_fl (s : State) (k : Nat) (c : Channel) : (s.setChan k c).fl = s.fl := rfl
@[simp] theorem State.setChan_duty (s : State) (k : Nat) (c : Channel) : (s.setChan k c).duty = s.duty := rfl
@[simp] theorem State.setChan_ctrl (s : State) (k : Nat) (c : Channel) : (s.setChan k c).ctrl = s.ctrl := rfl
@[simp] theorem State.setChan_retiring (s : State) (k : Nat) (c : Channel) : (s.setChan k c).retiring = s.retiring := rfl
@[simp] theorem State.setChan_silent (s : State) (k : Nat) (c : Channel) : (s.setChan k c).silent = s.silent := rfl
@[simp] theorem State.setChan_slow (s : State) (k : Nat) (c : Channel) : (s.setChan k c).slow = s.slow := rfl
@[simp] theorem State.setChan_flags (s : State) (k : Nat) (c : Channel) : (s.setChan k c).flags = s.flags := rfl
@[simp] theorem State.setChan_polled (s : State) (k : Nat) (c : Channel) : (s.setChan k c).polled = s.polled := rfl
@[simp] theorem State.setChan_clocks (s : State) (k : Nat) (c : Channel) : (s.setChan k c).clocks = s.clocks := rfl
@[simp] theorem State.setChan_router (s : State) (k : Nat) (c : Channel) : (s.setChan k c).router = s.router := rfl
@[simp] theorem State.setChan_served (s : State) (k : Nat) (c : Channel) : (s.setChan k c).served = s.served := rfl
@[simp] theorem State.setChan_rr (s : State) (k : Nat) (c : Channel) : (s.setChan k c).rr = s.rr := rfl
@[simp] theorem State.setChan_maps (s : State) (k : Nat) (c : Channel) : (s.setChan k c).maps = s.maps := rfl
@[simp] theorem State.setChan_mapNo (s : State) (k : Nat) (c : Channel) : (s.setChan k c).mapNo = s.mapNo := rfl
@[simp] theorem State.setChan_edge (s : State) (k : Nat) (c : Channel) : (s.setChan k c).edge = s.edge := rfl

@[simp] theorem State.cell_setCell_same (s : State) (n : Nat) (c : CellState) : (s.setCell n c).cell n = c := by
  simp [State.cell, State.setCell]

theorem State.cell_setCell_ne (s : State) {n m : Nat} (c : CellState) (h : m ≠ n) : (s.setCell n c).cell m = s.cell m := by
  simp [State.cell, State.setCell, AMap.getD_put_ne _ _ _ h]

@[simp] theorem State.cell_setStage (s : State) (i : Nat) (t : Stage) (n : Nat) : (s.setStage i t).cell n = s.cell n := rfl

@[simp] theorem State.stage_setStage_same (s : State) (i : Nat) (t : Stage) : (s.setStage i t).stage i = t := by
  simp [State.stage, State.setStage]

theorem State.stage_setStage_ne (s : State) {i j : Nat} (t : Stage) (h : j ≠ i) : (s.setStage i t).stage j = s.stage j := by
  simp [State.stage, State.setStage, AMap.getD_put_ne _ _ _ h]

@[simp] theorem State.stage_setCell (s : State) (n : Nat) (c : CellState) (i : Nat) : (s.setCell n c).stage i = s.stage i := rfl

@[simp] theorem State.cur_setCur (s : State) (c : CellState) : (s.setCur c).cur = c := by
  simp [State.cur, State.setCur]

@[simp] theorem State.stage_setCur (s : State) (c : CellState) (i : Nat) : (s.setCur c).stage i = s.stage i := rfl

theorem State.cell_setCur_ne (s : State) (c : CellState) {m : Nat} (h : m ≠ s.focus.cell) :
    (s.setCur c).cell m = s.cell m := State.cell_setCell_ne s c h

/-! ## Contexts and engines of a cell -/

@[simp] theorem CellState.setCtx_stage (c : CellState) (k : Fin 4) (t : Context) : (c.setCtx k t).stage = c.stage := rfl
@[simp] theorem CellState.setCtx_cx (c : CellState) (k : Fin 4) (t : Context) : (c.setCtx k t).cx = c.cx := rfl
@[simp] theorem CellState.setCtx_cy (c : CellState) (k : Fin 4) (t : Context) : (c.setCtx k t).cy = c.cy := rfl
@[simp] theorem CellState.setCtx_live (c : CellState) (k : Fin 4) (t : Context) : (c.setCtx k t).live = c.live := rfl
@[simp] theorem CellState.setCtx_slots (c : CellState) (k : Fin 4) (t : Context) : (c.setCtx k t).slots = c.slots := rfl
@[simp] theorem CellState.setCtx_cues (c : CellState) (k : Fin 4) (t : Context) : (c.setCtx k t).cues = c.cues := rfl
@[simp] theorem CellState.setCtx_iq (c : CellState) (k : Fin 4) (t : Context) : (c.setCtx k t).iq = c.iq := rfl
@[simp] theorem CellState.setCtx_oq (c : CellState) (k : Fin 4) (t : Context) : (c.setCtx k t).oq = c.oq := rfl
@[simp] theorem CellState.setCtx_oqResv (c : CellState) (k : Fin 4) (t : Context) : (c.setCtx k t).oqResv = c.oqResv := rfl
@[simp] theorem CellState.setCtx_mail6 (c : CellState) (k : Fin 4) (t : Context) : (c.setCtx k t).mail6 = c.mail6 := rfl
@[simp] theorem CellState.setCtx_mail7 (c : CellState) (k : Fin 4) (t : Context) : (c.setCtx k t).mail7 = c.mail7 := rfl
@[simp] theorem CellState.setCtx_rings (c : CellState) (k : Fin 4) (t : Context) : (c.setCtx k t).rings = c.rings := rfl
@[simp] theorem CellState.setCtx_gens (c : CellState) (k : Fin 4) (t : Context) : (c.setCtx k t).gens = c.gens := rfl
@[simp] theorem CellState.setCtx_sq (c : CellState) (k : Fin 4) (t : Context) : (c.setCtx k t).sq = c.sq := rfl
@[simp] theorem CellState.setCtx_so (c : CellState) (k : Fin 4) (t : Context) : (c.setCtx k t).so = c.so := rfl
@[simp] theorem CellState.setCtx_accs (c : CellState) (k : Fin 4) (t : Context) : (c.setCtx k t).accs = c.accs := rfl
@[simp] theorem CellState.setCtx_accMark (c : CellState) (k : Fin 4) (t : Context) : (c.setCtx k t).accMark = c.accMark := rfl
@[simp] theorem CellState.setCtx_readCnt (c : CellState) (k : Fin 4) (t : Context) : (c.setCtx k t).readCnt = c.readCnt := rfl
@[simp] theorem CellState.setCtx_mxq (c : CellState) (k : Fin 4) (t : Context) : (c.setCtx k t).mxq = c.mxq := rfl
@[simp] theorem CellState.setCtx_mxRun (c : CellState) (k : Fin 4) (t : Context) : (c.setCtx k t).mxRun = c.mxRun := rfl
@[simp] theorem CellState.setCtx_mxStop (c : CellState) (k : Fin 4) (t : Context) : (c.setCtx k t).mxStop = c.mxStop := rfl
@[simp] theorem CellState.setCtx_mxPark (c : CellState) (k : Fin 4) (t : Context) : (c.setCtx k t).mxPark = c.mxPark := rfl
@[simp] theorem CellState.setCtx_sramTook (c : CellState) (k : Fin 4) (t : Context) : (c.setCtx k t).sramTook = c.sramTook := rfl
@[simp] theorem CellState.setCtx_sramA (c : CellState) (k : Fin 4) (t : Context) : (c.setCtx k t).sramA = c.sramA := rfl
@[simp] theorem CellState.setCtx_sramLast (c : CellState) (k : Fin 4) (t : Context) : (c.setCtx k t).sramLast = c.sramLast := rfl
@[simp] theorem CellState.setCtx_cts (c : CellState) (k : Fin 4) (t : Context) : (c.setCtx k t).cts = c.cts := rfl
@[simp] theorem CellState.setCtx_copyPend (c : CellState) (k : Fin 4) (t : Context) : (c.setCtx k t).copyPend = c.copyPend := rfl
@[simp] theorem CellState.setCtx_copyAct (c : CellState) (k : Fin 4) (t : Context) : (c.setCtx k t).copyAct = c.copyAct := rfl
@[simp] theorem CellState.setCtx_scan (c : CellState) (k : Fin 4) (t : Context) : (c.setCtx k t).scan = c.scan := rfl
@[simp] theorem CellState.setCtx_sram (c : CellState) (k : Fin 4) (t : Context) : (c.setCtx k t).sram = c.sram := rfl
@[simp] theorem CellState.setCtx_cache (c : CellState) (k : Fin 4) (t : Context) : (c.setCtx k t).cache = c.cache := rfl
@[simp] theorem CellState.setCtx_fills (c : CellState) (k : Fin 4) (t : Context) : (c.setCtx k t).fills = c.fills := rfl
@[simp] theorem CellState.setCtx_wbs (c : CellState) (k : Fin 4) (t : Context) : (c.setCtx k t).wbs = c.wbs := rfl
@[simp] theorem CellState.setCtx_hold (c : CellState) (k : Fin 4) (t : Context) : (c.setCtx k t).hold = c.hold := rfl
@[simp] theorem CellState.setCtx_div (c : CellState) (k : Fin 4) (t : Context) : (c.setCtx k t).div = c.div := rfl
@[simp] theorem CellState.setCtx_sf (c : CellState) (k : Fin 4) (t : Context) : (c.setCtx k t).sf = c.sf := rfl
@[simp] theorem CellState.setCtx_tsend (c : CellState) (k : Fin 4) (t : Context) : (c.setCtx k t).tsend = c.tsend := rfl
@[simp] theorem CellState.setCtx_putSend (c : CellState) (k : Fin 4) (t : Context) : (c.setCtx k t).putSend = c.putSend := rfl
@[simp] theorem CellState.setCtx_putHeld (c : CellState) (k : Fin 4) (t : Context) : (c.setCtx k t).putHeld = c.putHeld := rfl
@[simp] theorem CellState.setCtx_names (c : CellState) (k : Fin 4) (t : Context) : (c.setCtx k t).names = c.names := rfl
@[simp] theorem CellState.setCtx_nameWalk (c : CellState) (k : Fin 4) (t : Context) : (c.setCtx k t).nameWalk = c.nameWalk := rfl
@[simp] theorem CellState.setCtx_port (c : CellState) (k : Fin 4) (t : Context) : (c.setCtx k t).port = c.port := rfl
@[simp] theorem CellState.setCtx_oqAt (c : CellState) (k : Fin 4) (t : Context) : (c.setCtx k t).oqAt = c.oqAt := rfl
@[simp] theorem CellState.setCtx_soAt (c : CellState) (k : Fin 4) (t : Context) : (c.setCtx k t).soAt = c.soAt := rfl
@[simp] theorem CellState.setCtx_ringAt (c : CellState) (k : Fin 4) (t : Context) : (c.setCtx k t).ringAt = c.ringAt := rfl
@[simp] theorem CellState.setCtx_newPend (c : CellState) (k : Fin 4) (t : Context) : (c.setCtx k t).newPend = c.newPend := rfl
@[simp] theorem CellState.setCtx_bars (c : CellState) (k : Fin 4) (t : Context) : (c.setCtx k t).bars = c.bars := rfl
@[simp] theorem CellState.setCtx_routes (c : CellState) (k : Fin 4) (t : Context) : (c.setCtx k t).routes = c.routes := rfl
@[simp] theorem CellState.setCtx_feeds (c : CellState) (k : Fin 4) (t : Context) : (c.setCtx k t).feeds = c.feeds := rfl
@[simp] theorem CellState.setCtx_sliceMiB (c : CellState) (k : Fin 4) (t : Context) : (c.setCtx k t).sliceMiB = c.sliceMiB := rfl
@[simp] theorem CellState.setCtx_trap (c : CellState) (k : Fin 4) (t : Context) : (c.setCtx k t).trap = c.trap := rfl
@[simp] theorem CellState.setCtx_suuord (c : CellState) (k : Fin 4) (t : Context) : (c.setCtx k t).suuord = c.suuord := rfl
@[simp] theorem CellState.setCtx_asyncRecs (c : CellState) (k : Fin 4) (t : Context) : (c.setCtx k t).asyncRecs = c.asyncRecs := rfl
@[simp] theorem CellState.setCtx_cyc (c : CellState) (k : Fin 4) (t : Context) : (c.setCtx k t).cyc = c.cyc := rfl
@[simp] theorem CellState.setCtx_idle (c : CellState) (k : Fin 4) (t : Context) : (c.setCtx k t).idle = c.idle := rfl
@[simp] theorem CellState.setCtx_lastFired (c : CellState) (k : Fin 4) (t : Context) : (c.setCtx k t).lastFired = c.lastFired := rfl
@[simp] theorem CellState.setCtx_lastAct (c : CellState) (k : Fin 4) (t : Context) : (c.setCtx k t).lastAct = c.lastAct := rfl
@[simp] theorem CellState.setCtx_ecc (c : CellState) (k : Fin 4) (t : Context) : (c.setCtx k t).ecc = c.ecc := rfl
@[simp] theorem CellState.setCtx_flipSram (c : CellState) (k : Fin 4) (t : Context) : (c.setCtx k t).flipSram = c.flipSram := rfl
@[simp] theorem CellState.setCtx_flipSlots (c : CellState) (k : Fin 4) (t : Context) : (c.setCtx k t).flipSlots = c.flipSlots := rfl
@[simp] theorem CellState.setCtx_flipCues (c : CellState) (k : Fin 4) (t : Context) : (c.setCtx k t).flipCues = c.flipCues := rfl
@[simp] theorem CellState.setCtx_badSram (c : CellState) (k : Fin 4) (t : Context) : (c.setCtx k t).badSram = c.badSram := rfl
@[simp] theorem CellState.setCtx_badSlots (c : CellState) (k : Fin 4) (t : Context) : (c.setCtx k t).badSlots = c.badSlots := rfl
@[simp] theorem CellState.setCtx_badCues (c : CellState) (k : Fin 4) (t : Context) : (c.setCtx k t).badCues = c.badCues := rfl
@[simp] theorem CellState.setCtx_badLines (c : CellState) (k : Fin 4) (t : Context) : (c.setCtx k t).badLines = c.badLines := rfl
@[simp] theorem CellState.setRing_stage (c : CellState) (g : Fin 8) (r : Ring) : (c.setRing g r).stage = c.stage := rfl
@[simp] theorem CellState.setRing_cx (c : CellState) (g : Fin 8) (r : Ring) : (c.setRing g r).cx = c.cx := rfl
@[simp] theorem CellState.setRing_cy (c : CellState) (g : Fin 8) (r : Ring) : (c.setRing g r).cy = c.cy := rfl
@[simp] theorem CellState.setRing_live (c : CellState) (g : Fin 8) (r : Ring) : (c.setRing g r).live = c.live := rfl
@[simp] theorem CellState.setRing_slots (c : CellState) (g : Fin 8) (r : Ring) : (c.setRing g r).slots = c.slots := rfl
@[simp] theorem CellState.setRing_cues (c : CellState) (g : Fin 8) (r : Ring) : (c.setRing g r).cues = c.cues := rfl
@[simp] theorem CellState.setRing_ctxs (c : CellState) (g : Fin 8) (r : Ring) : (c.setRing g r).ctxs = c.ctxs := rfl
@[simp] theorem CellState.setRing_iq (c : CellState) (g : Fin 8) (r : Ring) : (c.setRing g r).iq = c.iq := rfl
@[simp] theorem CellState.setRing_oq (c : CellState) (g : Fin 8) (r : Ring) : (c.setRing g r).oq = c.oq := rfl
@[simp] theorem CellState.setRing_oqResv (c : CellState) (g : Fin 8) (r : Ring) : (c.setRing g r).oqResv = c.oqResv := rfl
@[simp] theorem CellState.setRing_mail6 (c : CellState) (g : Fin 8) (r : Ring) : (c.setRing g r).mail6 = c.mail6 := rfl
@[simp] theorem CellState.setRing_mail7 (c : CellState) (g : Fin 8) (r : Ring) : (c.setRing g r).mail7 = c.mail7 := rfl
@[simp] theorem CellState.setRing_gens (c : CellState) (g : Fin 8) (r : Ring) : (c.setRing g r).gens = c.gens := rfl
@[simp] theorem CellState.setRing_sq (c : CellState) (g : Fin 8) (r : Ring) : (c.setRing g r).sq = c.sq := rfl
@[simp] theorem CellState.setRing_so (c : CellState) (g : Fin 8) (r : Ring) : (c.setRing g r).so = c.so := rfl
@[simp] theorem CellState.setRing_accs (c : CellState) (g : Fin 8) (r : Ring) : (c.setRing g r).accs = c.accs := rfl
@[simp] theorem CellState.setRing_accMark (c : CellState) (g : Fin 8) (r : Ring) : (c.setRing g r).accMark = c.accMark := rfl
@[simp] theorem CellState.setRing_readCnt (c : CellState) (g : Fin 8) (r : Ring) : (c.setRing g r).readCnt = c.readCnt := rfl
@[simp] theorem CellState.setRing_mxq (c : CellState) (g : Fin 8) (r : Ring) : (c.setRing g r).mxq = c.mxq := rfl
@[simp] theorem CellState.setRing_mxRun (c : CellState) (g : Fin 8) (r : Ring) : (c.setRing g r).mxRun = c.mxRun := rfl
@[simp] theorem CellState.setRing_mxStop (c : CellState) (g : Fin 8) (r : Ring) : (c.setRing g r).mxStop = c.mxStop := rfl
@[simp] theorem CellState.setRing_mxPark (c : CellState) (g : Fin 8) (r : Ring) : (c.setRing g r).mxPark = c.mxPark := rfl
@[simp] theorem CellState.setRing_sramTook (c : CellState) (g : Fin 8) (r : Ring) : (c.setRing g r).sramTook = c.sramTook := rfl
@[simp] theorem CellState.setRing_sramA (c : CellState) (g : Fin 8) (r : Ring) : (c.setRing g r).sramA = c.sramA := rfl
@[simp] theorem CellState.setRing_sramLast (c : CellState) (g : Fin 8) (r : Ring) : (c.setRing g r).sramLast = c.sramLast := rfl
@[simp] theorem CellState.setRing_cts (c : CellState) (g : Fin 8) (r : Ring) : (c.setRing g r).cts = c.cts := rfl
@[simp] theorem CellState.setRing_copyPend (c : CellState) (g : Fin 8) (r : Ring) : (c.setRing g r).copyPend = c.copyPend := rfl
@[simp] theorem CellState.setRing_copyAct (c : CellState) (g : Fin 8) (r : Ring) : (c.setRing g r).copyAct = c.copyAct := rfl
@[simp] theorem CellState.setRing_scan (c : CellState) (g : Fin 8) (r : Ring) : (c.setRing g r).scan = c.scan := rfl
@[simp] theorem CellState.setRing_sram (c : CellState) (g : Fin 8) (r : Ring) : (c.setRing g r).sram = c.sram := rfl
@[simp] theorem CellState.setRing_cache (c : CellState) (g : Fin 8) (r : Ring) : (c.setRing g r).cache = c.cache := rfl
@[simp] theorem CellState.setRing_fills (c : CellState) (g : Fin 8) (r : Ring) : (c.setRing g r).fills = c.fills := rfl
@[simp] theorem CellState.setRing_wbs (c : CellState) (g : Fin 8) (r : Ring) : (c.setRing g r).wbs = c.wbs := rfl
@[simp] theorem CellState.setRing_hold (c : CellState) (g : Fin 8) (r : Ring) : (c.setRing g r).hold = c.hold := rfl
@[simp] theorem CellState.setRing_div (c : CellState) (g : Fin 8) (r : Ring) : (c.setRing g r).div = c.div := rfl
@[simp] theorem CellState.setRing_sf (c : CellState) (g : Fin 8) (r : Ring) : (c.setRing g r).sf = c.sf := rfl
@[simp] theorem CellState.setRing_tsend (c : CellState) (g : Fin 8) (r : Ring) : (c.setRing g r).tsend = c.tsend := rfl
@[simp] theorem CellState.setRing_putSend (c : CellState) (g : Fin 8) (r : Ring) : (c.setRing g r).putSend = c.putSend := rfl
@[simp] theorem CellState.setRing_putHeld (c : CellState) (g : Fin 8) (r : Ring) : (c.setRing g r).putHeld = c.putHeld := rfl
@[simp] theorem CellState.setRing_names (c : CellState) (g : Fin 8) (r : Ring) : (c.setRing g r).names = c.names := rfl
@[simp] theorem CellState.setRing_nameWalk (c : CellState) (g : Fin 8) (r : Ring) : (c.setRing g r).nameWalk = c.nameWalk := rfl
@[simp] theorem CellState.setRing_port (c : CellState) (g : Fin 8) (r : Ring) : (c.setRing g r).port = c.port := rfl
@[simp] theorem CellState.setRing_oqAt (c : CellState) (g : Fin 8) (r : Ring) : (c.setRing g r).oqAt = c.oqAt := rfl
@[simp] theorem CellState.setRing_soAt (c : CellState) (g : Fin 8) (r : Ring) : (c.setRing g r).soAt = c.soAt := rfl
@[simp] theorem CellState.setRing_ringAt (c : CellState) (g : Fin 8) (r : Ring) : (c.setRing g r).ringAt = c.ringAt := rfl
@[simp] theorem CellState.setRing_newPend (c : CellState) (g : Fin 8) (r : Ring) : (c.setRing g r).newPend = c.newPend := rfl
@[simp] theorem CellState.setRing_bars (c : CellState) (g : Fin 8) (r : Ring) : (c.setRing g r).bars = c.bars := rfl
@[simp] theorem CellState.setRing_routes (c : CellState) (g : Fin 8) (r : Ring) : (c.setRing g r).routes = c.routes := rfl
@[simp] theorem CellState.setRing_feeds (c : CellState) (g : Fin 8) (r : Ring) : (c.setRing g r).feeds = c.feeds := rfl
@[simp] theorem CellState.setRing_sliceMiB (c : CellState) (g : Fin 8) (r : Ring) : (c.setRing g r).sliceMiB = c.sliceMiB := rfl
@[simp] theorem CellState.setRing_trap (c : CellState) (g : Fin 8) (r : Ring) : (c.setRing g r).trap = c.trap := rfl
@[simp] theorem CellState.setRing_suuord (c : CellState) (g : Fin 8) (r : Ring) : (c.setRing g r).suuord = c.suuord := rfl
@[simp] theorem CellState.setRing_asyncRecs (c : CellState) (g : Fin 8) (r : Ring) : (c.setRing g r).asyncRecs = c.asyncRecs := rfl
@[simp] theorem CellState.setRing_cyc (c : CellState) (g : Fin 8) (r : Ring) : (c.setRing g r).cyc = c.cyc := rfl
@[simp] theorem CellState.setRing_idle (c : CellState) (g : Fin 8) (r : Ring) : (c.setRing g r).idle = c.idle := rfl
@[simp] theorem CellState.setRing_lastFired (c : CellState) (g : Fin 8) (r : Ring) : (c.setRing g r).lastFired = c.lastFired := rfl
@[simp] theorem CellState.setRing_lastAct (c : CellState) (g : Fin 8) (r : Ring) : (c.setRing g r).lastAct = c.lastAct := rfl
@[simp] theorem CellState.setRing_ecc (c : CellState) (g : Fin 8) (r : Ring) : (c.setRing g r).ecc = c.ecc := rfl
@[simp] theorem CellState.setRing_flipSram (c : CellState) (g : Fin 8) (r : Ring) : (c.setRing g r).flipSram = c.flipSram := rfl
@[simp] theorem CellState.setRing_flipSlots (c : CellState) (g : Fin 8) (r : Ring) : (c.setRing g r).flipSlots = c.flipSlots := rfl
@[simp] theorem CellState.setRing_flipCues (c : CellState) (g : Fin 8) (r : Ring) : (c.setRing g r).flipCues = c.flipCues := rfl
@[simp] theorem CellState.setRing_badSram (c : CellState) (g : Fin 8) (r : Ring) : (c.setRing g r).badSram = c.badSram := rfl
@[simp] theorem CellState.setRing_badSlots (c : CellState) (g : Fin 8) (r : Ring) : (c.setRing g r).badSlots = c.badSlots := rfl
@[simp] theorem CellState.setRing_badCues (c : CellState) (g : Fin 8) (r : Ring) : (c.setRing g r).badCues = c.badCues := rfl
@[simp] theorem CellState.setRing_badLines (c : CellState) (g : Fin 8) (r : Ring) : (c.setRing g r).badLines = c.badLines := rfl
@[simp] theorem CellState.setGen_stage (c : CellState) (g : Fin 4) (v : Gen) : (c.setGen g v).stage = c.stage := rfl
@[simp] theorem CellState.setGen_cx (c : CellState) (g : Fin 4) (v : Gen) : (c.setGen g v).cx = c.cx := rfl
@[simp] theorem CellState.setGen_cy (c : CellState) (g : Fin 4) (v : Gen) : (c.setGen g v).cy = c.cy := rfl
@[simp] theorem CellState.setGen_live (c : CellState) (g : Fin 4) (v : Gen) : (c.setGen g v).live = c.live := rfl
@[simp] theorem CellState.setGen_slots (c : CellState) (g : Fin 4) (v : Gen) : (c.setGen g v).slots = c.slots := rfl
@[simp] theorem CellState.setGen_cues (c : CellState) (g : Fin 4) (v : Gen) : (c.setGen g v).cues = c.cues := rfl
@[simp] theorem CellState.setGen_ctxs (c : CellState) (g : Fin 4) (v : Gen) : (c.setGen g v).ctxs = c.ctxs := rfl
@[simp] theorem CellState.setGen_iq (c : CellState) (g : Fin 4) (v : Gen) : (c.setGen g v).iq = c.iq := rfl
@[simp] theorem CellState.setGen_oq (c : CellState) (g : Fin 4) (v : Gen) : (c.setGen g v).oq = c.oq := rfl
@[simp] theorem CellState.setGen_oqResv (c : CellState) (g : Fin 4) (v : Gen) : (c.setGen g v).oqResv = c.oqResv := rfl
@[simp] theorem CellState.setGen_mail6 (c : CellState) (g : Fin 4) (v : Gen) : (c.setGen g v).mail6 = c.mail6 := rfl
@[simp] theorem CellState.setGen_mail7 (c : CellState) (g : Fin 4) (v : Gen) : (c.setGen g v).mail7 = c.mail7 := rfl
@[simp] theorem CellState.setGen_rings (c : CellState) (g : Fin 4) (v : Gen) : (c.setGen g v).rings = c.rings := rfl
@[simp] theorem CellState.setGen_sq (c : CellState) (g : Fin 4) (v : Gen) : (c.setGen g v).sq = c.sq := rfl
@[simp] theorem CellState.setGen_so (c : CellState) (g : Fin 4) (v : Gen) : (c.setGen g v).so = c.so := rfl
@[simp] theorem CellState.setGen_accs (c : CellState) (g : Fin 4) (v : Gen) : (c.setGen g v).accs = c.accs := rfl
@[simp] theorem CellState.setGen_accMark (c : CellState) (g : Fin 4) (v : Gen) : (c.setGen g v).accMark = c.accMark := rfl
@[simp] theorem CellState.setGen_readCnt (c : CellState) (g : Fin 4) (v : Gen) : (c.setGen g v).readCnt = c.readCnt := rfl
@[simp] theorem CellState.setGen_mxq (c : CellState) (g : Fin 4) (v : Gen) : (c.setGen g v).mxq = c.mxq := rfl
@[simp] theorem CellState.setGen_mxRun (c : CellState) (g : Fin 4) (v : Gen) : (c.setGen g v).mxRun = c.mxRun := rfl
@[simp] theorem CellState.setGen_mxStop (c : CellState) (g : Fin 4) (v : Gen) : (c.setGen g v).mxStop = c.mxStop := rfl
@[simp] theorem CellState.setGen_mxPark (c : CellState) (g : Fin 4) (v : Gen) : (c.setGen g v).mxPark = c.mxPark := rfl
@[simp] theorem CellState.setGen_sramTook (c : CellState) (g : Fin 4) (v : Gen) : (c.setGen g v).sramTook = c.sramTook := rfl
@[simp] theorem CellState.setGen_sramA (c : CellState) (g : Fin 4) (v : Gen) : (c.setGen g v).sramA = c.sramA := rfl
@[simp] theorem CellState.setGen_sramLast (c : CellState) (g : Fin 4) (v : Gen) : (c.setGen g v).sramLast = c.sramLast := rfl
@[simp] theorem CellState.setGen_cts (c : CellState) (g : Fin 4) (v : Gen) : (c.setGen g v).cts = c.cts := rfl
@[simp] theorem CellState.setGen_copyPend (c : CellState) (g : Fin 4) (v : Gen) : (c.setGen g v).copyPend = c.copyPend := rfl
@[simp] theorem CellState.setGen_copyAct (c : CellState) (g : Fin 4) (v : Gen) : (c.setGen g v).copyAct = c.copyAct := rfl
@[simp] theorem CellState.setGen_scan (c : CellState) (g : Fin 4) (v : Gen) : (c.setGen g v).scan = c.scan := rfl
@[simp] theorem CellState.setGen_sram (c : CellState) (g : Fin 4) (v : Gen) : (c.setGen g v).sram = c.sram := rfl
@[simp] theorem CellState.setGen_cache (c : CellState) (g : Fin 4) (v : Gen) : (c.setGen g v).cache = c.cache := rfl
@[simp] theorem CellState.setGen_fills (c : CellState) (g : Fin 4) (v : Gen) : (c.setGen g v).fills = c.fills := rfl
@[simp] theorem CellState.setGen_wbs (c : CellState) (g : Fin 4) (v : Gen) : (c.setGen g v).wbs = c.wbs := rfl
@[simp] theorem CellState.setGen_hold (c : CellState) (g : Fin 4) (v : Gen) : (c.setGen g v).hold = c.hold := rfl
@[simp] theorem CellState.setGen_div (c : CellState) (g : Fin 4) (v : Gen) : (c.setGen g v).div = c.div := rfl
@[simp] theorem CellState.setGen_sf (c : CellState) (g : Fin 4) (v : Gen) : (c.setGen g v).sf = c.sf := rfl
@[simp] theorem CellState.setGen_tsend (c : CellState) (g : Fin 4) (v : Gen) : (c.setGen g v).tsend = c.tsend := rfl
@[simp] theorem CellState.setGen_putSend (c : CellState) (g : Fin 4) (v : Gen) : (c.setGen g v).putSend = c.putSend := rfl
@[simp] theorem CellState.setGen_putHeld (c : CellState) (g : Fin 4) (v : Gen) : (c.setGen g v).putHeld = c.putHeld := rfl
@[simp] theorem CellState.setGen_names (c : CellState) (g : Fin 4) (v : Gen) : (c.setGen g v).names = c.names := rfl
@[simp] theorem CellState.setGen_nameWalk (c : CellState) (g : Fin 4) (v : Gen) : (c.setGen g v).nameWalk = c.nameWalk := rfl
@[simp] theorem CellState.setGen_port (c : CellState) (g : Fin 4) (v : Gen) : (c.setGen g v).port = c.port := rfl
@[simp] theorem CellState.setGen_oqAt (c : CellState) (g : Fin 4) (v : Gen) : (c.setGen g v).oqAt = c.oqAt := rfl
@[simp] theorem CellState.setGen_soAt (c : CellState) (g : Fin 4) (v : Gen) : (c.setGen g v).soAt = c.soAt := rfl
@[simp] theorem CellState.setGen_ringAt (c : CellState) (g : Fin 4) (v : Gen) : (c.setGen g v).ringAt = c.ringAt := rfl
@[simp] theorem CellState.setGen_newPend (c : CellState) (g : Fin 4) (v : Gen) : (c.setGen g v).newPend = c.newPend := rfl
@[simp] theorem CellState.setGen_bars (c : CellState) (g : Fin 4) (v : Gen) : (c.setGen g v).bars = c.bars := rfl
@[simp] theorem CellState.setGen_routes (c : CellState) (g : Fin 4) (v : Gen) : (c.setGen g v).routes = c.routes := rfl
@[simp] theorem CellState.setGen_feeds (c : CellState) (g : Fin 4) (v : Gen) : (c.setGen g v).feeds = c.feeds := rfl
@[simp] theorem CellState.setGen_sliceMiB (c : CellState) (g : Fin 4) (v : Gen) : (c.setGen g v).sliceMiB = c.sliceMiB := rfl
@[simp] theorem CellState.setGen_trap (c : CellState) (g : Fin 4) (v : Gen) : (c.setGen g v).trap = c.trap := rfl
@[simp] theorem CellState.setGen_suuord (c : CellState) (g : Fin 4) (v : Gen) : (c.setGen g v).suuord = c.suuord := rfl
@[simp] theorem CellState.setGen_asyncRecs (c : CellState) (g : Fin 4) (v : Gen) : (c.setGen g v).asyncRecs = c.asyncRecs := rfl
@[simp] theorem CellState.setGen_cyc (c : CellState) (g : Fin 4) (v : Gen) : (c.setGen g v).cyc = c.cyc := rfl
@[simp] theorem CellState.setGen_idle (c : CellState) (g : Fin 4) (v : Gen) : (c.setGen g v).idle = c.idle := rfl
@[simp] theorem CellState.setGen_lastFired (c : CellState) (g : Fin 4) (v : Gen) : (c.setGen g v).lastFired = c.lastFired := rfl
@[simp] theorem CellState.setGen_lastAct (c : CellState) (g : Fin 4) (v : Gen) : (c.setGen g v).lastAct = c.lastAct := rfl
@[simp] theorem CellState.setGen_ecc (c : CellState) (g : Fin 4) (v : Gen) : (c.setGen g v).ecc = c.ecc := rfl
@[simp] theorem CellState.setGen_flipSram (c : CellState) (g : Fin 4) (v : Gen) : (c.setGen g v).flipSram = c.flipSram := rfl
@[simp] theorem CellState.setGen_flipSlots (c : CellState) (g : Fin 4) (v : Gen) : (c.setGen g v).flipSlots = c.flipSlots := rfl
@[simp] theorem CellState.setGen_flipCues (c : CellState) (g : Fin 4) (v : Gen) : (c.setGen g v).flipCues = c.flipCues := rfl
@[simp] theorem CellState.setGen_badSram (c : CellState) (g : Fin 4) (v : Gen) : (c.setGen g v).badSram = c.badSram := rfl
@[simp] theorem CellState.setGen_badSlots (c : CellState) (g : Fin 4) (v : Gen) : (c.setGen g v).badSlots = c.badSlots := rfl
@[simp] theorem CellState.setGen_badCues (c : CellState) (g : Fin 4) (v : Gen) : (c.setGen g v).badCues = c.badCues := rfl
@[simp] theorem CellState.setGen_badLines (c : CellState) (g : Fin 4) (v : Gen) : (c.setGen g v).badLines = c.badLines := rfl
@[simp] theorem CellState.setTemplate_stage (c : CellState) (i : Fin 16) (v : Template) : (c.setTemplate i v).stage = c.stage := rfl
@[simp] theorem CellState.setTemplate_cx (c : CellState) (i : Fin 16) (v : Template) : (c.setTemplate i v).cx = c.cx := rfl
@[simp] theorem CellState.setTemplate_cy (c : CellState) (i : Fin 16) (v : Template) : (c.setTemplate i v).cy = c.cy := rfl
@[simp] theorem CellState.setTemplate_live (c : CellState) (i : Fin 16) (v : Template) : (c.setTemplate i v).live = c.live := rfl
@[simp] theorem CellState.setTemplate_slots (c : CellState) (i : Fin 16) (v : Template) : (c.setTemplate i v).slots = c.slots := rfl
@[simp] theorem CellState.setTemplate_cues (c : CellState) (i : Fin 16) (v : Template) : (c.setTemplate i v).cues = c.cues := rfl
@[simp] theorem CellState.setTemplate_ctxs (c : CellState) (i : Fin 16) (v : Template) : (c.setTemplate i v).ctxs = c.ctxs := rfl
@[simp] theorem CellState.setTemplate_iq (c : CellState) (i : Fin 16) (v : Template) : (c.setTemplate i v).iq = c.iq := rfl
@[simp] theorem CellState.setTemplate_oq (c : CellState) (i : Fin 16) (v : Template) : (c.setTemplate i v).oq = c.oq := rfl
@[simp] theorem CellState.setTemplate_oqResv (c : CellState) (i : Fin 16) (v : Template) : (c.setTemplate i v).oqResv = c.oqResv := rfl
@[simp] theorem CellState.setTemplate_mail6 (c : CellState) (i : Fin 16) (v : Template) : (c.setTemplate i v).mail6 = c.mail6 := rfl
@[simp] theorem CellState.setTemplate_mail7 (c : CellState) (i : Fin 16) (v : Template) : (c.setTemplate i v).mail7 = c.mail7 := rfl
@[simp] theorem CellState.setTemplate_rings (c : CellState) (i : Fin 16) (v : Template) : (c.setTemplate i v).rings = c.rings := rfl
@[simp] theorem CellState.setTemplate_gens (c : CellState) (i : Fin 16) (v : Template) : (c.setTemplate i v).gens = c.gens := rfl
@[simp] theorem CellState.setTemplate_sq (c : CellState) (i : Fin 16) (v : Template) : (c.setTemplate i v).sq = c.sq := rfl
@[simp] theorem CellState.setTemplate_so (c : CellState) (i : Fin 16) (v : Template) : (c.setTemplate i v).so = c.so := rfl
@[simp] theorem CellState.setTemplate_accs (c : CellState) (i : Fin 16) (v : Template) : (c.setTemplate i v).accs = c.accs := rfl
@[simp] theorem CellState.setTemplate_accMark (c : CellState) (i : Fin 16) (v : Template) : (c.setTemplate i v).accMark = c.accMark := rfl
@[simp] theorem CellState.setTemplate_readCnt (c : CellState) (i : Fin 16) (v : Template) : (c.setTemplate i v).readCnt = c.readCnt := rfl
@[simp] theorem CellState.setTemplate_mxq (c : CellState) (i : Fin 16) (v : Template) : (c.setTemplate i v).mxq = c.mxq := rfl
@[simp] theorem CellState.setTemplate_mxRun (c : CellState) (i : Fin 16) (v : Template) : (c.setTemplate i v).mxRun = c.mxRun := rfl
@[simp] theorem CellState.setTemplate_mxStop (c : CellState) (i : Fin 16) (v : Template) : (c.setTemplate i v).mxStop = c.mxStop := rfl
@[simp] theorem CellState.setTemplate_mxPark (c : CellState) (i : Fin 16) (v : Template) : (c.setTemplate i v).mxPark = c.mxPark := rfl
@[simp] theorem CellState.setTemplate_sramTook (c : CellState) (i : Fin 16) (v : Template) : (c.setTemplate i v).sramTook = c.sramTook := rfl
@[simp] theorem CellState.setTemplate_sramA (c : CellState) (i : Fin 16) (v : Template) : (c.setTemplate i v).sramA = c.sramA := rfl
@[simp] theorem CellState.setTemplate_sramLast (c : CellState) (i : Fin 16) (v : Template) : (c.setTemplate i v).sramLast = c.sramLast := rfl
@[simp] theorem CellState.setTemplate_copyPend (c : CellState) (i : Fin 16) (v : Template) : (c.setTemplate i v).copyPend = c.copyPend := rfl
@[simp] theorem CellState.setTemplate_copyAct (c : CellState) (i : Fin 16) (v : Template) : (c.setTemplate i v).copyAct = c.copyAct := rfl
@[simp] theorem CellState.setTemplate_scan (c : CellState) (i : Fin 16) (v : Template) : (c.setTemplate i v).scan = c.scan := rfl
@[simp] theorem CellState.setTemplate_sram (c : CellState) (i : Fin 16) (v : Template) : (c.setTemplate i v).sram = c.sram := rfl
@[simp] theorem CellState.setTemplate_cache (c : CellState) (i : Fin 16) (v : Template) : (c.setTemplate i v).cache = c.cache := rfl
@[simp] theorem CellState.setTemplate_fills (c : CellState) (i : Fin 16) (v : Template) : (c.setTemplate i v).fills = c.fills := rfl
@[simp] theorem CellState.setTemplate_wbs (c : CellState) (i : Fin 16) (v : Template) : (c.setTemplate i v).wbs = c.wbs := rfl
@[simp] theorem CellState.setTemplate_hold (c : CellState) (i : Fin 16) (v : Template) : (c.setTemplate i v).hold = c.hold := rfl
@[simp] theorem CellState.setTemplate_div (c : CellState) (i : Fin 16) (v : Template) : (c.setTemplate i v).div = c.div := rfl
@[simp] theorem CellState.setTemplate_sf (c : CellState) (i : Fin 16) (v : Template) : (c.setTemplate i v).sf = c.sf := rfl
@[simp] theorem CellState.setTemplate_tsend (c : CellState) (i : Fin 16) (v : Template) : (c.setTemplate i v).tsend = c.tsend := rfl
@[simp] theorem CellState.setTemplate_putSend (c : CellState) (i : Fin 16) (v : Template) : (c.setTemplate i v).putSend = c.putSend := rfl
@[simp] theorem CellState.setTemplate_putHeld (c : CellState) (i : Fin 16) (v : Template) : (c.setTemplate i v).putHeld = c.putHeld := rfl
@[simp] theorem CellState.setTemplate_names (c : CellState) (i : Fin 16) (v : Template) : (c.setTemplate i v).names = c.names := rfl
@[simp] theorem CellState.setTemplate_nameWalk (c : CellState) (i : Fin 16) (v : Template) : (c.setTemplate i v).nameWalk = c.nameWalk := rfl
@[simp] theorem CellState.setTemplate_port (c : CellState) (i : Fin 16) (v : Template) : (c.setTemplate i v).port = c.port := rfl
@[simp] theorem CellState.setTemplate_oqAt (c : CellState) (i : Fin 16) (v : Template) : (c.setTemplate i v).oqAt = c.oqAt := rfl
@[simp] theorem CellState.setTemplate_soAt (c : CellState) (i : Fin 16) (v : Template) : (c.setTemplate i v).soAt = c.soAt := rfl
@[simp] theorem CellState.setTemplate_ringAt (c : CellState) (i : Fin 16) (v : Template) : (c.setTemplate i v).ringAt = c.ringAt := rfl
@[simp] theorem CellState.setTemplate_newPend (c : CellState) (i : Fin 16) (v : Template) : (c.setTemplate i v).newPend = c.newPend := rfl
@[simp] theorem CellState.setTemplate_bars (c : CellState) (i : Fin 16) (v : Template) : (c.setTemplate i v).bars = c.bars := rfl
@[simp] theorem CellState.setTemplate_routes (c : CellState) (i : Fin 16) (v : Template) : (c.setTemplate i v).routes = c.routes := rfl
@[simp] theorem CellState.setTemplate_feeds (c : CellState) (i : Fin 16) (v : Template) : (c.setTemplate i v).feeds = c.feeds := rfl
@[simp] theorem CellState.setTemplate_sliceMiB (c : CellState) (i : Fin 16) (v : Template) : (c.setTemplate i v).sliceMiB = c.sliceMiB := rfl
@[simp] theorem CellState.setTemplate_trap (c : CellState) (i : Fin 16) (v : Template) : (c.setTemplate i v).trap = c.trap := rfl
@[simp] theorem CellState.setTemplate_suuord (c : CellState) (i : Fin 16) (v : Template) : (c.setTemplate i v).suuord = c.suuord := rfl
@[simp] theorem CellState.setTemplate_asyncRecs (c : CellState) (i : Fin 16) (v : Template) : (c.setTemplate i v).asyncRecs = c.asyncRecs := rfl
@[simp] theorem CellState.setTemplate_cyc (c : CellState) (i : Fin 16) (v : Template) : (c.setTemplate i v).cyc = c.cyc := rfl
@[simp] theorem CellState.setTemplate_idle (c : CellState) (i : Fin 16) (v : Template) : (c.setTemplate i v).idle = c.idle := rfl
@[simp] theorem CellState.setTemplate_lastFired (c : CellState) (i : Fin 16) (v : Template) : (c.setTemplate i v).lastFired = c.lastFired := rfl
@[simp] theorem CellState.setTemplate_lastAct (c : CellState) (i : Fin 16) (v : Template) : (c.setTemplate i v).lastAct = c.lastAct := rfl
@[simp] theorem CellState.setTemplate_ecc (c : CellState) (i : Fin 16) (v : Template) : (c.setTemplate i v).ecc = c.ecc := rfl
@[simp] theorem CellState.setTemplate_flipSram (c : CellState) (i : Fin 16) (v : Template) : (c.setTemplate i v).flipSram = c.flipSram := rfl
@[simp] theorem CellState.setTemplate_flipSlots (c : CellState) (i : Fin 16) (v : Template) : (c.setTemplate i v).flipSlots = c.flipSlots := rfl
@[simp] theorem CellState.setTemplate_flipCues (c : CellState) (i : Fin 16) (v : Template) : (c.setTemplate i v).flipCues = c.flipCues := rfl
@[simp] theorem CellState.setTemplate_badSram (c : CellState) (i : Fin 16) (v : Template) : (c.setTemplate i v).badSram = c.badSram := rfl
@[simp] theorem CellState.setTemplate_badSlots (c : CellState) (i : Fin 16) (v : Template) : (c.setTemplate i v).badSlots = c.badSlots := rfl
@[simp] theorem CellState.setTemplate_badCues (c : CellState) (i : Fin 16) (v : Template) : (c.setTemplate i v).badCues = c.badCues := rfl
@[simp] theorem CellState.setTemplate_badLines (c : CellState) (i : Fin 16) (v : Template) : (c.setTemplate i v).badLines = c.badLines := rfl
@[simp] theorem CellState.setBar_stage (c : CellState) (g : Fin 16) (b : Bar) : (c.setBar g b).stage = c.stage := rfl
@[simp] theorem CellState.setBar_cx (c : CellState) (g : Fin 16) (b : Bar) : (c.setBar g b).cx = c.cx := rfl
@[simp] theorem CellState.setBar_cy (c : CellState) (g : Fin 16) (b : Bar) : (c.setBar g b).cy = c.cy := rfl
@[simp] theorem CellState.setBar_live (c : CellState) (g : Fin 16) (b : Bar) : (c.setBar g b).live = c.live := rfl
@[simp] theorem CellState.setBar_slots (c : CellState) (g : Fin 16) (b : Bar) : (c.setBar g b).slots = c.slots := rfl
@[simp] theorem CellState.setBar_cues (c : CellState) (g : Fin 16) (b : Bar) : (c.setBar g b).cues = c.cues := rfl
@[simp] theorem CellState.setBar_ctxs (c : CellState) (g : Fin 16) (b : Bar) : (c.setBar g b).ctxs = c.ctxs := rfl
@[simp] theorem CellState.setBar_iq (c : CellState) (g : Fin 16) (b : Bar) : (c.setBar g b).iq = c.iq := rfl
@[simp] theorem CellState.setBar_oq (c : CellState) (g : Fin 16) (b : Bar) : (c.setBar g b).oq = c.oq := rfl
@[simp] theorem CellState.setBar_oqResv (c : CellState) (g : Fin 16) (b : Bar) : (c.setBar g b).oqResv = c.oqResv := rfl
@[simp] theorem CellState.setBar_mail6 (c : CellState) (g : Fin 16) (b : Bar) : (c.setBar g b).mail6 = c.mail6 := rfl
@[simp] theorem CellState.setBar_mail7 (c : CellState) (g : Fin 16) (b : Bar) : (c.setBar g b).mail7 = c.mail7 := rfl
@[simp] theorem CellState.setBar_rings (c : CellState) (g : Fin 16) (b : Bar) : (c.setBar g b).rings = c.rings := rfl
@[simp] theorem CellState.setBar_gens (c : CellState) (g : Fin 16) (b : Bar) : (c.setBar g b).gens = c.gens := rfl
@[simp] theorem CellState.setBar_sq (c : CellState) (g : Fin 16) (b : Bar) : (c.setBar g b).sq = c.sq := rfl
@[simp] theorem CellState.setBar_so (c : CellState) (g : Fin 16) (b : Bar) : (c.setBar g b).so = c.so := rfl
@[simp] theorem CellState.setBar_accs (c : CellState) (g : Fin 16) (b : Bar) : (c.setBar g b).accs = c.accs := rfl
@[simp] theorem CellState.setBar_accMark (c : CellState) (g : Fin 16) (b : Bar) : (c.setBar g b).accMark = c.accMark := rfl
@[simp] theorem CellState.setBar_readCnt (c : CellState) (g : Fin 16) (b : Bar) : (c.setBar g b).readCnt = c.readCnt := rfl
@[simp] theorem CellState.setBar_mxq (c : CellState) (g : Fin 16) (b : Bar) : (c.setBar g b).mxq = c.mxq := rfl
@[simp] theorem CellState.setBar_mxRun (c : CellState) (g : Fin 16) (b : Bar) : (c.setBar g b).mxRun = c.mxRun := rfl
@[simp] theorem CellState.setBar_mxStop (c : CellState) (g : Fin 16) (b : Bar) : (c.setBar g b).mxStop = c.mxStop := rfl
@[simp] theorem CellState.setBar_mxPark (c : CellState) (g : Fin 16) (b : Bar) : (c.setBar g b).mxPark = c.mxPark := rfl
@[simp] theorem CellState.setBar_sramTook (c : CellState) (g : Fin 16) (b : Bar) : (c.setBar g b).sramTook = c.sramTook := rfl
@[simp] theorem CellState.setBar_sramA (c : CellState) (g : Fin 16) (b : Bar) : (c.setBar g b).sramA = c.sramA := rfl
@[simp] theorem CellState.setBar_sramLast (c : CellState) (g : Fin 16) (b : Bar) : (c.setBar g b).sramLast = c.sramLast := rfl
@[simp] theorem CellState.setBar_cts (c : CellState) (g : Fin 16) (b : Bar) : (c.setBar g b).cts = c.cts := rfl
@[simp] theorem CellState.setBar_copyPend (c : CellState) (g : Fin 16) (b : Bar) : (c.setBar g b).copyPend = c.copyPend := rfl
@[simp] theorem CellState.setBar_copyAct (c : CellState) (g : Fin 16) (b : Bar) : (c.setBar g b).copyAct = c.copyAct := rfl
@[simp] theorem CellState.setBar_scan (c : CellState) (g : Fin 16) (b : Bar) : (c.setBar g b).scan = c.scan := rfl
@[simp] theorem CellState.setBar_sram (c : CellState) (g : Fin 16) (b : Bar) : (c.setBar g b).sram = c.sram := rfl
@[simp] theorem CellState.setBar_cache (c : CellState) (g : Fin 16) (b : Bar) : (c.setBar g b).cache = c.cache := rfl
@[simp] theorem CellState.setBar_fills (c : CellState) (g : Fin 16) (b : Bar) : (c.setBar g b).fills = c.fills := rfl
@[simp] theorem CellState.setBar_wbs (c : CellState) (g : Fin 16) (b : Bar) : (c.setBar g b).wbs = c.wbs := rfl
@[simp] theorem CellState.setBar_hold (c : CellState) (g : Fin 16) (b : Bar) : (c.setBar g b).hold = c.hold := rfl
@[simp] theorem CellState.setBar_div (c : CellState) (g : Fin 16) (b : Bar) : (c.setBar g b).div = c.div := rfl
@[simp] theorem CellState.setBar_sf (c : CellState) (g : Fin 16) (b : Bar) : (c.setBar g b).sf = c.sf := rfl
@[simp] theorem CellState.setBar_tsend (c : CellState) (g : Fin 16) (b : Bar) : (c.setBar g b).tsend = c.tsend := rfl
@[simp] theorem CellState.setBar_putSend (c : CellState) (g : Fin 16) (b : Bar) : (c.setBar g b).putSend = c.putSend := rfl
@[simp] theorem CellState.setBar_putHeld (c : CellState) (g : Fin 16) (b : Bar) : (c.setBar g b).putHeld = c.putHeld := rfl
@[simp] theorem CellState.setBar_names (c : CellState) (g : Fin 16) (b : Bar) : (c.setBar g b).names = c.names := rfl
@[simp] theorem CellState.setBar_nameWalk (c : CellState) (g : Fin 16) (b : Bar) : (c.setBar g b).nameWalk = c.nameWalk := rfl
@[simp] theorem CellState.setBar_port (c : CellState) (g : Fin 16) (b : Bar) : (c.setBar g b).port = c.port := rfl
@[simp] theorem CellState.setBar_oqAt (c : CellState) (g : Fin 16) (b : Bar) : (c.setBar g b).oqAt = c.oqAt := rfl
@[simp] theorem CellState.setBar_soAt (c : CellState) (g : Fin 16) (b : Bar) : (c.setBar g b).soAt = c.soAt := rfl
@[simp] theorem CellState.setBar_ringAt (c : CellState) (g : Fin 16) (b : Bar) : (c.setBar g b).ringAt = c.ringAt := rfl
@[simp] theorem CellState.setBar_newPend (c : CellState) (g : Fin 16) (b : Bar) : (c.setBar g b).newPend = c.newPend := rfl
@[simp] theorem CellState.setBar_routes (c : CellState) (g : Fin 16) (b : Bar) : (c.setBar g b).routes = c.routes := rfl
@[simp] theorem CellState.setBar_feeds (c : CellState) (g : Fin 16) (b : Bar) : (c.setBar g b).feeds = c.feeds := rfl
@[simp] theorem CellState.setBar_sliceMiB (c : CellState) (g : Fin 16) (b : Bar) : (c.setBar g b).sliceMiB = c.sliceMiB := rfl
@[simp] theorem CellState.setBar_trap (c : CellState) (g : Fin 16) (b : Bar) : (c.setBar g b).trap = c.trap := rfl
@[simp] theorem CellState.setBar_suuord (c : CellState) (g : Fin 16) (b : Bar) : (c.setBar g b).suuord = c.suuord := rfl
@[simp] theorem CellState.setBar_asyncRecs (c : CellState) (g : Fin 16) (b : Bar) : (c.setBar g b).asyncRecs = c.asyncRecs := rfl
@[simp] theorem CellState.setBar_cyc (c : CellState) (g : Fin 16) (b : Bar) : (c.setBar g b).cyc = c.cyc := rfl
@[simp] theorem CellState.setBar_idle (c : CellState) (g : Fin 16) (b : Bar) : (c.setBar g b).idle = c.idle := rfl
@[simp] theorem CellState.setBar_lastFired (c : CellState) (g : Fin 16) (b : Bar) : (c.setBar g b).lastFired = c.lastFired := rfl
@[simp] theorem CellState.setBar_lastAct (c : CellState) (g : Fin 16) (b : Bar) : (c.setBar g b).lastAct = c.lastAct := rfl
@[simp] theorem CellState.setBar_ecc (c : CellState) (g : Fin 16) (b : Bar) : (c.setBar g b).ecc = c.ecc := rfl
@[simp] theorem CellState.setBar_flipSram (c : CellState) (g : Fin 16) (b : Bar) : (c.setBar g b).flipSram = c.flipSram := rfl
@[simp] theorem CellState.setBar_flipSlots (c : CellState) (g : Fin 16) (b : Bar) : (c.setBar g b).flipSlots = c.flipSlots := rfl
@[simp] theorem CellState.setBar_flipCues (c : CellState) (g : Fin 16) (b : Bar) : (c.setBar g b).flipCues = c.flipCues := rfl
@[simp] theorem CellState.setBar_badSram (c : CellState) (g : Fin 16) (b : Bar) : (c.setBar g b).badSram = c.badSram := rfl
@[simp] theorem CellState.setBar_badSlots (c : CellState) (g : Fin 16) (b : Bar) : (c.setBar g b).badSlots = c.badSlots := rfl
@[simp] theorem CellState.setBar_badCues (c : CellState) (g : Fin 16) (b : Bar) : (c.setBar g b).badCues = c.badCues := rfl
@[simp] theorem CellState.setBar_badLines (c : CellState) (g : Fin 16) (b : Bar) : (c.setBar g b).badLines = c.badLines := rfl
@[simp] theorem CellState.popIq_stage (c : CellState) (q : Fin 8) : (c.popIq q).stage = c.stage := rfl
@[simp] theorem CellState.popIq_cx (c : CellState) (q : Fin 8) : (c.popIq q).cx = c.cx := rfl
@[simp] theorem CellState.popIq_cy (c : CellState) (q : Fin 8) : (c.popIq q).cy = c.cy := rfl
@[simp] theorem CellState.popIq_live (c : CellState) (q : Fin 8) : (c.popIq q).live = c.live := rfl
@[simp] theorem CellState.popIq_slots (c : CellState) (q : Fin 8) : (c.popIq q).slots = c.slots := rfl
@[simp] theorem CellState.popIq_cues (c : CellState) (q : Fin 8) : (c.popIq q).cues = c.cues := rfl
@[simp] theorem CellState.popIq_ctxs (c : CellState) (q : Fin 8) : (c.popIq q).ctxs = c.ctxs := rfl
@[simp] theorem CellState.popIq_oq (c : CellState) (q : Fin 8) : (c.popIq q).oq = c.oq := rfl
@[simp] theorem CellState.popIq_oqResv (c : CellState) (q : Fin 8) : (c.popIq q).oqResv = c.oqResv := rfl
@[simp] theorem CellState.popIq_mail6 (c : CellState) (q : Fin 8) : (c.popIq q).mail6 = c.mail6 := rfl
@[simp] theorem CellState.popIq_mail7 (c : CellState) (q : Fin 8) : (c.popIq q).mail7 = c.mail7 := rfl
@[simp] theorem CellState.popIq_rings (c : CellState) (q : Fin 8) : (c.popIq q).rings = c.rings := rfl
@[simp] theorem CellState.popIq_gens (c : CellState) (q : Fin 8) : (c.popIq q).gens = c.gens := rfl
@[simp] theorem CellState.popIq_sq (c : CellState) (q : Fin 8) : (c.popIq q).sq = c.sq := rfl
@[simp] theorem CellState.popIq_so (c : CellState) (q : Fin 8) : (c.popIq q).so = c.so := rfl
@[simp] theorem CellState.popIq_accs (c : CellState) (q : Fin 8) : (c.popIq q).accs = c.accs := rfl
@[simp] theorem CellState.popIq_accMark (c : CellState) (q : Fin 8) : (c.popIq q).accMark = c.accMark := rfl
@[simp] theorem CellState.popIq_readCnt (c : CellState) (q : Fin 8) : (c.popIq q).readCnt = c.readCnt := rfl
@[simp] theorem CellState.popIq_mxq (c : CellState) (q : Fin 8) : (c.popIq q).mxq = c.mxq := rfl
@[simp] theorem CellState.popIq_mxRun (c : CellState) (q : Fin 8) : (c.popIq q).mxRun = c.mxRun := rfl
@[simp] theorem CellState.popIq_mxStop (c : CellState) (q : Fin 8) : (c.popIq q).mxStop = c.mxStop := rfl
@[simp] theorem CellState.popIq_mxPark (c : CellState) (q : Fin 8) : (c.popIq q).mxPark = c.mxPark := rfl
@[simp] theorem CellState.popIq_sramTook (c : CellState) (q : Fin 8) : (c.popIq q).sramTook = c.sramTook := rfl
@[simp] theorem CellState.popIq_sramA (c : CellState) (q : Fin 8) : (c.popIq q).sramA = c.sramA := rfl
@[simp] theorem CellState.popIq_sramLast (c : CellState) (q : Fin 8) : (c.popIq q).sramLast = c.sramLast := rfl
@[simp] theorem CellState.popIq_cts (c : CellState) (q : Fin 8) : (c.popIq q).cts = c.cts := rfl
@[simp] theorem CellState.popIq_copyPend (c : CellState) (q : Fin 8) : (c.popIq q).copyPend = c.copyPend := rfl
@[simp] theorem CellState.popIq_copyAct (c : CellState) (q : Fin 8) : (c.popIq q).copyAct = c.copyAct := rfl
@[simp] theorem CellState.popIq_scan (c : CellState) (q : Fin 8) : (c.popIq q).scan = c.scan := rfl
@[simp] theorem CellState.popIq_sram (c : CellState) (q : Fin 8) : (c.popIq q).sram = c.sram := rfl
@[simp] theorem CellState.popIq_cache (c : CellState) (q : Fin 8) : (c.popIq q).cache = c.cache := rfl
@[simp] theorem CellState.popIq_fills (c : CellState) (q : Fin 8) : (c.popIq q).fills = c.fills := rfl
@[simp] theorem CellState.popIq_wbs (c : CellState) (q : Fin 8) : (c.popIq q).wbs = c.wbs := rfl
@[simp] theorem CellState.popIq_hold (c : CellState) (q : Fin 8) : (c.popIq q).hold = c.hold := rfl
@[simp] theorem CellState.popIq_div (c : CellState) (q : Fin 8) : (c.popIq q).div = c.div := rfl
@[simp] theorem CellState.popIq_sf (c : CellState) (q : Fin 8) : (c.popIq q).sf = c.sf := rfl
@[simp] theorem CellState.popIq_tsend (c : CellState) (q : Fin 8) : (c.popIq q).tsend = c.tsend := rfl
@[simp] theorem CellState.popIq_putSend (c : CellState) (q : Fin 8) : (c.popIq q).putSend = c.putSend := rfl
@[simp] theorem CellState.popIq_putHeld (c : CellState) (q : Fin 8) : (c.popIq q).putHeld = c.putHeld := rfl
@[simp] theorem CellState.popIq_names (c : CellState) (q : Fin 8) : (c.popIq q).names = c.names := rfl
@[simp] theorem CellState.popIq_nameWalk (c : CellState) (q : Fin 8) : (c.popIq q).nameWalk = c.nameWalk := rfl
@[simp] theorem CellState.popIq_port (c : CellState) (q : Fin 8) : (c.popIq q).port = c.port := rfl
@[simp] theorem CellState.popIq_oqAt (c : CellState) (q : Fin 8) : (c.popIq q).oqAt = c.oqAt := rfl
@[simp] theorem CellState.popIq_soAt (c : CellState) (q : Fin 8) : (c.popIq q).soAt = c.soAt := rfl
@[simp] theorem CellState.popIq_ringAt (c : CellState) (q : Fin 8) : (c.popIq q).ringAt = c.ringAt := rfl
@[simp] theorem CellState.popIq_newPend (c : CellState) (q : Fin 8) : (c.popIq q).newPend = c.newPend := rfl
@[simp] theorem CellState.popIq_bars (c : CellState) (q : Fin 8) : (c.popIq q).bars = c.bars := rfl
@[simp] theorem CellState.popIq_routes (c : CellState) (q : Fin 8) : (c.popIq q).routes = c.routes := rfl
@[simp] theorem CellState.popIq_feeds (c : CellState) (q : Fin 8) : (c.popIq q).feeds = c.feeds := rfl
@[simp] theorem CellState.popIq_sliceMiB (c : CellState) (q : Fin 8) : (c.popIq q).sliceMiB = c.sliceMiB := rfl
@[simp] theorem CellState.popIq_trap (c : CellState) (q : Fin 8) : (c.popIq q).trap = c.trap := rfl
@[simp] theorem CellState.popIq_suuord (c : CellState) (q : Fin 8) : (c.popIq q).suuord = c.suuord := rfl
@[simp] theorem CellState.popIq_asyncRecs (c : CellState) (q : Fin 8) : (c.popIq q).asyncRecs = c.asyncRecs := rfl
@[simp] theorem CellState.popIq_cyc (c : CellState) (q : Fin 8) : (c.popIq q).cyc = c.cyc := rfl
@[simp] theorem CellState.popIq_idle (c : CellState) (q : Fin 8) : (c.popIq q).idle = c.idle := rfl
@[simp] theorem CellState.popIq_lastFired (c : CellState) (q : Fin 8) : (c.popIq q).lastFired = c.lastFired := rfl
@[simp] theorem CellState.popIq_lastAct (c : CellState) (q : Fin 8) : (c.popIq q).lastAct = c.lastAct := rfl
@[simp] theorem CellState.popIq_ecc (c : CellState) (q : Fin 8) : (c.popIq q).ecc = c.ecc := rfl
@[simp] theorem CellState.popIq_flipSram (c : CellState) (q : Fin 8) : (c.popIq q).flipSram = c.flipSram := rfl
@[simp] theorem CellState.popIq_flipSlots (c : CellState) (q : Fin 8) : (c.popIq q).flipSlots = c.flipSlots := rfl
@[simp] theorem CellState.popIq_flipCues (c : CellState) (q : Fin 8) : (c.popIq q).flipCues = c.flipCues := rfl
@[simp] theorem CellState.popIq_badSram (c : CellState) (q : Fin 8) : (c.popIq q).badSram = c.badSram := rfl
@[simp] theorem CellState.popIq_badSlots (c : CellState) (q : Fin 8) : (c.popIq q).badSlots = c.badSlots := rfl
@[simp] theorem CellState.popIq_badCues (c : CellState) (q : Fin 8) : (c.popIq q).badCues = c.badCues := rfl
@[simp] theorem CellState.popIq_badLines (c : CellState) (q : Fin 8) : (c.popIq q).badLines = c.badLines := rfl
@[simp] theorem CellState.pushOq_stage (c : CellState) (q : Fin 8) (w : QWord) : (c.pushOq q w).stage = c.stage := rfl
@[simp] theorem CellState.pushOq_cx (c : CellState) (q : Fin 8) (w : QWord) : (c.pushOq q w).cx = c.cx := rfl
@[simp] theorem CellState.pushOq_cy (c : CellState) (q : Fin 8) (w : QWord) : (c.pushOq q w).cy = c.cy := rfl
@[simp] theorem CellState.pushOq_live (c : CellState) (q : Fin 8) (w : QWord) : (c.pushOq q w).live = c.live := rfl
@[simp] theorem CellState.pushOq_slots (c : CellState) (q : Fin 8) (w : QWord) : (c.pushOq q w).slots = c.slots := rfl
@[simp] theorem CellState.pushOq_cues (c : CellState) (q : Fin 8) (w : QWord) : (c.pushOq q w).cues = c.cues := rfl
@[simp] theorem CellState.pushOq_ctxs (c : CellState) (q : Fin 8) (w : QWord) : (c.pushOq q w).ctxs = c.ctxs := rfl
@[simp] theorem CellState.pushOq_iq (c : CellState) (q : Fin 8) (w : QWord) : (c.pushOq q w).iq = c.iq := rfl
@[simp] theorem CellState.pushOq_oqResv (c : CellState) (q : Fin 8) (w : QWord) : (c.pushOq q w).oqResv = c.oqResv := rfl
@[simp] theorem CellState.pushOq_mail6 (c : CellState) (q : Fin 8) (w : QWord) : (c.pushOq q w).mail6 = c.mail6 := rfl
@[simp] theorem CellState.pushOq_mail7 (c : CellState) (q : Fin 8) (w : QWord) : (c.pushOq q w).mail7 = c.mail7 := rfl
@[simp] theorem CellState.pushOq_rings (c : CellState) (q : Fin 8) (w : QWord) : (c.pushOq q w).rings = c.rings := rfl
@[simp] theorem CellState.pushOq_gens (c : CellState) (q : Fin 8) (w : QWord) : (c.pushOq q w).gens = c.gens := rfl
@[simp] theorem CellState.pushOq_sq (c : CellState) (q : Fin 8) (w : QWord) : (c.pushOq q w).sq = c.sq := rfl
@[simp] theorem CellState.pushOq_so (c : CellState) (q : Fin 8) (w : QWord) : (c.pushOq q w).so = c.so := rfl
@[simp] theorem CellState.pushOq_accs (c : CellState) (q : Fin 8) (w : QWord) : (c.pushOq q w).accs = c.accs := rfl
@[simp] theorem CellState.pushOq_accMark (c : CellState) (q : Fin 8) (w : QWord) : (c.pushOq q w).accMark = c.accMark := rfl
@[simp] theorem CellState.pushOq_readCnt (c : CellState) (q : Fin 8) (w : QWord) : (c.pushOq q w).readCnt = c.readCnt := rfl
@[simp] theorem CellState.pushOq_mxq (c : CellState) (q : Fin 8) (w : QWord) : (c.pushOq q w).mxq = c.mxq := rfl
@[simp] theorem CellState.pushOq_mxRun (c : CellState) (q : Fin 8) (w : QWord) : (c.pushOq q w).mxRun = c.mxRun := rfl
@[simp] theorem CellState.pushOq_mxStop (c : CellState) (q : Fin 8) (w : QWord) : (c.pushOq q w).mxStop = c.mxStop := rfl
@[simp] theorem CellState.pushOq_mxPark (c : CellState) (q : Fin 8) (w : QWord) : (c.pushOq q w).mxPark = c.mxPark := rfl
@[simp] theorem CellState.pushOq_sramTook (c : CellState) (q : Fin 8) (w : QWord) : (c.pushOq q w).sramTook = c.sramTook := rfl
@[simp] theorem CellState.pushOq_sramA (c : CellState) (q : Fin 8) (w : QWord) : (c.pushOq q w).sramA = c.sramA := rfl
@[simp] theorem CellState.pushOq_sramLast (c : CellState) (q : Fin 8) (w : QWord) : (c.pushOq q w).sramLast = c.sramLast := rfl
@[simp] theorem CellState.pushOq_cts (c : CellState) (q : Fin 8) (w : QWord) : (c.pushOq q w).cts = c.cts := rfl
@[simp] theorem CellState.pushOq_copyPend (c : CellState) (q : Fin 8) (w : QWord) : (c.pushOq q w).copyPend = c.copyPend := rfl
@[simp] theorem CellState.pushOq_copyAct (c : CellState) (q : Fin 8) (w : QWord) : (c.pushOq q w).copyAct = c.copyAct := rfl
@[simp] theorem CellState.pushOq_scan (c : CellState) (q : Fin 8) (w : QWord) : (c.pushOq q w).scan = c.scan := rfl
@[simp] theorem CellState.pushOq_sram (c : CellState) (q : Fin 8) (w : QWord) : (c.pushOq q w).sram = c.sram := rfl
@[simp] theorem CellState.pushOq_cache (c : CellState) (q : Fin 8) (w : QWord) : (c.pushOq q w).cache = c.cache := rfl
@[simp] theorem CellState.pushOq_fills (c : CellState) (q : Fin 8) (w : QWord) : (c.pushOq q w).fills = c.fills := rfl
@[simp] theorem CellState.pushOq_wbs (c : CellState) (q : Fin 8) (w : QWord) : (c.pushOq q w).wbs = c.wbs := rfl
@[simp] theorem CellState.pushOq_hold (c : CellState) (q : Fin 8) (w : QWord) : (c.pushOq q w).hold = c.hold := rfl
@[simp] theorem CellState.pushOq_div (c : CellState) (q : Fin 8) (w : QWord) : (c.pushOq q w).div = c.div := rfl
@[simp] theorem CellState.pushOq_sf (c : CellState) (q : Fin 8) (w : QWord) : (c.pushOq q w).sf = c.sf := rfl
@[simp] theorem CellState.pushOq_tsend (c : CellState) (q : Fin 8) (w : QWord) : (c.pushOq q w).tsend = c.tsend := rfl
@[simp] theorem CellState.pushOq_putSend (c : CellState) (q : Fin 8) (w : QWord) : (c.pushOq q w).putSend = c.putSend := rfl
@[simp] theorem CellState.pushOq_putHeld (c : CellState) (q : Fin 8) (w : QWord) : (c.pushOq q w).putHeld = c.putHeld := rfl
@[simp] theorem CellState.pushOq_names (c : CellState) (q : Fin 8) (w : QWord) : (c.pushOq q w).names = c.names := rfl
@[simp] theorem CellState.pushOq_nameWalk (c : CellState) (q : Fin 8) (w : QWord) : (c.pushOq q w).nameWalk = c.nameWalk := rfl
@[simp] theorem CellState.pushOq_port (c : CellState) (q : Fin 8) (w : QWord) : (c.pushOq q w).port = c.port := rfl
@[simp] theorem CellState.pushOq_oqAt (c : CellState) (q : Fin 8) (w : QWord) : (c.pushOq q w).oqAt = c.oqAt := rfl
@[simp] theorem CellState.pushOq_soAt (c : CellState) (q : Fin 8) (w : QWord) : (c.pushOq q w).soAt = c.soAt := rfl
@[simp] theorem CellState.pushOq_ringAt (c : CellState) (q : Fin 8) (w : QWord) : (c.pushOq q w).ringAt = c.ringAt := rfl
@[simp] theorem CellState.pushOq_newPend (c : CellState) (q : Fin 8) (w : QWord) : (c.pushOq q w).newPend = c.newPend := rfl
@[simp] theorem CellState.pushOq_bars (c : CellState) (q : Fin 8) (w : QWord) : (c.pushOq q w).bars = c.bars := rfl
@[simp] theorem CellState.pushOq_routes (c : CellState) (q : Fin 8) (w : QWord) : (c.pushOq q w).routes = c.routes := rfl
@[simp] theorem CellState.pushOq_feeds (c : CellState) (q : Fin 8) (w : QWord) : (c.pushOq q w).feeds = c.feeds := rfl
@[simp] theorem CellState.pushOq_sliceMiB (c : CellState) (q : Fin 8) (w : QWord) : (c.pushOq q w).sliceMiB = c.sliceMiB := rfl
@[simp] theorem CellState.pushOq_trap (c : CellState) (q : Fin 8) (w : QWord) : (c.pushOq q w).trap = c.trap := rfl
@[simp] theorem CellState.pushOq_suuord (c : CellState) (q : Fin 8) (w : QWord) : (c.pushOq q w).suuord = c.suuord := rfl
@[simp] theorem CellState.pushOq_asyncRecs (c : CellState) (q : Fin 8) (w : QWord) : (c.pushOq q w).asyncRecs = c.asyncRecs := rfl
@[simp] theorem CellState.pushOq_cyc (c : CellState) (q : Fin 8) (w : QWord) : (c.pushOq q w).cyc = c.cyc := rfl
@[simp] theorem CellState.pushOq_idle (c : CellState) (q : Fin 8) (w : QWord) : (c.pushOq q w).idle = c.idle := rfl
@[simp] theorem CellState.pushOq_lastFired (c : CellState) (q : Fin 8) (w : QWord) : (c.pushOq q w).lastFired = c.lastFired := rfl
@[simp] theorem CellState.pushOq_lastAct (c : CellState) (q : Fin 8) (w : QWord) : (c.pushOq q w).lastAct = c.lastAct := rfl
@[simp] theorem CellState.pushOq_ecc (c : CellState) (q : Fin 8) (w : QWord) : (c.pushOq q w).ecc = c.ecc := rfl
@[simp] theorem CellState.pushOq_flipSram (c : CellState) (q : Fin 8) (w : QWord) : (c.pushOq q w).flipSram = c.flipSram := rfl
@[simp] theorem CellState.pushOq_flipSlots (c : CellState) (q : Fin 8) (w : QWord) : (c.pushOq q w).flipSlots = c.flipSlots := rfl
@[simp] theorem CellState.pushOq_flipCues (c : CellState) (q : Fin 8) (w : QWord) : (c.pushOq q w).flipCues = c.flipCues := rfl
@[simp] theorem CellState.pushOq_badSram (c : CellState) (q : Fin 8) (w : QWord) : (c.pushOq q w).badSram = c.badSram := rfl
@[simp] theorem CellState.pushOq_badSlots (c : CellState) (q : Fin 8) (w : QWord) : (c.pushOq q w).badSlots = c.badSlots := rfl
@[simp] theorem CellState.pushOq_badCues (c : CellState) (q : Fin 8) (w : QWord) : (c.pushOq q w).badCues = c.badCues := rfl
@[simp] theorem CellState.pushOq_badLines (c : CellState) (q : Fin 8) (w : QWord) : (c.pushOq q w).badLines = c.badLines := rfl
@[simp] theorem CellState.mend_stage (c : CellState) (a n : Nat) : (c.mend a n).stage = c.stage := rfl
@[simp] theorem CellState.mend_cx (c : CellState) (a n : Nat) : (c.mend a n).cx = c.cx := rfl
@[simp] theorem CellState.mend_cy (c : CellState) (a n : Nat) : (c.mend a n).cy = c.cy := rfl
@[simp] theorem CellState.mend_live (c : CellState) (a n : Nat) : (c.mend a n).live = c.live := rfl
@[simp] theorem CellState.mend_slots (c : CellState) (a n : Nat) : (c.mend a n).slots = c.slots := rfl
@[simp] theorem CellState.mend_cues (c : CellState) (a n : Nat) : (c.mend a n).cues = c.cues := rfl
@[simp] theorem CellState.mend_ctxs (c : CellState) (a n : Nat) : (c.mend a n).ctxs = c.ctxs := rfl
@[simp] theorem CellState.mend_iq (c : CellState) (a n : Nat) : (c.mend a n).iq = c.iq := rfl
@[simp] theorem CellState.mend_oq (c : CellState) (a n : Nat) : (c.mend a n).oq = c.oq := rfl
@[simp] theorem CellState.mend_oqResv (c : CellState) (a n : Nat) : (c.mend a n).oqResv = c.oqResv := rfl
@[simp] theorem CellState.mend_mail6 (c : CellState) (a n : Nat) : (c.mend a n).mail6 = c.mail6 := rfl
@[simp] theorem CellState.mend_mail7 (c : CellState) (a n : Nat) : (c.mend a n).mail7 = c.mail7 := rfl
@[simp] theorem CellState.mend_rings (c : CellState) (a n : Nat) : (c.mend a n).rings = c.rings := rfl
@[simp] theorem CellState.mend_gens (c : CellState) (a n : Nat) : (c.mend a n).gens = c.gens := rfl
@[simp] theorem CellState.mend_sq (c : CellState) (a n : Nat) : (c.mend a n).sq = c.sq := rfl
@[simp] theorem CellState.mend_so (c : CellState) (a n : Nat) : (c.mend a n).so = c.so := rfl
@[simp] theorem CellState.mend_accs (c : CellState) (a n : Nat) : (c.mend a n).accs = c.accs := rfl
@[simp] theorem CellState.mend_accMark (c : CellState) (a n : Nat) : (c.mend a n).accMark = c.accMark := rfl
@[simp] theorem CellState.mend_readCnt (c : CellState) (a n : Nat) : (c.mend a n).readCnt = c.readCnt := rfl
@[simp] theorem CellState.mend_mxq (c : CellState) (a n : Nat) : (c.mend a n).mxq = c.mxq := rfl
@[simp] theorem CellState.mend_mxRun (c : CellState) (a n : Nat) : (c.mend a n).mxRun = c.mxRun := rfl
@[simp] theorem CellState.mend_mxStop (c : CellState) (a n : Nat) : (c.mend a n).mxStop = c.mxStop := rfl
@[simp] theorem CellState.mend_mxPark (c : CellState) (a n : Nat) : (c.mend a n).mxPark = c.mxPark := rfl
@[simp] theorem CellState.mend_sramTook (c : CellState) (a n : Nat) : (c.mend a n).sramTook = c.sramTook := rfl
@[simp] theorem CellState.mend_sramA (c : CellState) (a n : Nat) : (c.mend a n).sramA = c.sramA := rfl
@[simp] theorem CellState.mend_sramLast (c : CellState) (a n : Nat) : (c.mend a n).sramLast = c.sramLast := rfl
@[simp] theorem CellState.mend_cts (c : CellState) (a n : Nat) : (c.mend a n).cts = c.cts := rfl
@[simp] theorem CellState.mend_copyPend (c : CellState) (a n : Nat) : (c.mend a n).copyPend = c.copyPend := rfl
@[simp] theorem CellState.mend_copyAct (c : CellState) (a n : Nat) : (c.mend a n).copyAct = c.copyAct := rfl
@[simp] theorem CellState.mend_scan (c : CellState) (a n : Nat) : (c.mend a n).scan = c.scan := rfl
@[simp] theorem CellState.mend_sram (c : CellState) (a n : Nat) : (c.mend a n).sram = c.sram := rfl
@[simp] theorem CellState.mend_cache (c : CellState) (a n : Nat) : (c.mend a n).cache = c.cache := rfl
@[simp] theorem CellState.mend_fills (c : CellState) (a n : Nat) : (c.mend a n).fills = c.fills := rfl
@[simp] theorem CellState.mend_wbs (c : CellState) (a n : Nat) : (c.mend a n).wbs = c.wbs := rfl
@[simp] theorem CellState.mend_hold (c : CellState) (a n : Nat) : (c.mend a n).hold = c.hold := rfl
@[simp] theorem CellState.mend_div (c : CellState) (a n : Nat) : (c.mend a n).div = c.div := rfl
@[simp] theorem CellState.mend_sf (c : CellState) (a n : Nat) : (c.mend a n).sf = c.sf := rfl
@[simp] theorem CellState.mend_tsend (c : CellState) (a n : Nat) : (c.mend a n).tsend = c.tsend := rfl
@[simp] theorem CellState.mend_putSend (c : CellState) (a n : Nat) : (c.mend a n).putSend = c.putSend := rfl
@[simp] theorem CellState.mend_putHeld (c : CellState) (a n : Nat) : (c.mend a n).putHeld = c.putHeld := rfl
@[simp] theorem CellState.mend_names (c : CellState) (a n : Nat) : (c.mend a n).names = c.names := rfl
@[simp] theorem CellState.mend_nameWalk (c : CellState) (a n : Nat) : (c.mend a n).nameWalk = c.nameWalk := rfl
@[simp] theorem CellState.mend_port (c : CellState) (a n : Nat) : (c.mend a n).port = c.port := rfl
@[simp] theorem CellState.mend_oqAt (c : CellState) (a n : Nat) : (c.mend a n).oqAt = c.oqAt := rfl
@[simp] theorem CellState.mend_soAt (c : CellState) (a n : Nat) : (c.mend a n).soAt = c.soAt := rfl
@[simp] theorem CellState.mend_ringAt (c : CellState) (a n : Nat) : (c.mend a n).ringAt = c.ringAt := rfl
@[simp] theorem CellState.mend_newPend (c : CellState) (a n : Nat) : (c.mend a n).newPend = c.newPend := rfl
@[simp] theorem CellState.mend_bars (c : CellState) (a n : Nat) : (c.mend a n).bars = c.bars := rfl
@[simp] theorem CellState.mend_routes (c : CellState) (a n : Nat) : (c.mend a n).routes = c.routes := rfl
@[simp] theorem CellState.mend_feeds (c : CellState) (a n : Nat) : (c.mend a n).feeds = c.feeds := rfl
@[simp] theorem CellState.mend_sliceMiB (c : CellState) (a n : Nat) : (c.mend a n).sliceMiB = c.sliceMiB := rfl
@[simp] theorem CellState.mend_trap (c : CellState) (a n : Nat) : (c.mend a n).trap = c.trap := rfl
@[simp] theorem CellState.mend_suuord (c : CellState) (a n : Nat) : (c.mend a n).suuord = c.suuord := rfl
@[simp] theorem CellState.mend_asyncRecs (c : CellState) (a n : Nat) : (c.mend a n).asyncRecs = c.asyncRecs := rfl
@[simp] theorem CellState.mend_cyc (c : CellState) (a n : Nat) : (c.mend a n).cyc = c.cyc := rfl
@[simp] theorem CellState.mend_idle (c : CellState) (a n : Nat) : (c.mend a n).idle = c.idle := rfl
@[simp] theorem CellState.mend_lastFired (c : CellState) (a n : Nat) : (c.mend a n).lastFired = c.lastFired := rfl
@[simp] theorem CellState.mend_lastAct (c : CellState) (a n : Nat) : (c.mend a n).lastAct = c.lastAct := rfl
@[simp] theorem CellState.mend_flipSlots (c : CellState) (a n : Nat) : (c.mend a n).flipSlots = c.flipSlots := rfl
@[simp] theorem CellState.mend_flipCues (c : CellState) (a n : Nat) : (c.mend a n).flipCues = c.flipCues := rfl
@[simp] theorem CellState.mend_badSram (c : CellState) (a n : Nat) : (c.mend a n).badSram = c.badSram := rfl
@[simp] theorem CellState.mend_badSlots (c : CellState) (a n : Nat) : (c.mend a n).badSlots = c.badSlots := rfl
@[simp] theorem CellState.mend_badCues (c : CellState) (a n : Nat) : (c.mend a n).badCues = c.badCues := rfl
@[simp] theorem CellState.mend_badLines (c : CellState) (a n : Nat) : (c.mend a n).badLines = c.badLines := rfl
@[simp] theorem CellState.mendStore_stage (c : CellState)  : (c.mendStore).stage = c.stage := rfl
@[simp] theorem CellState.mendStore_cx (c : CellState)  : (c.mendStore).cx = c.cx := rfl
@[simp] theorem CellState.mendStore_cy (c : CellState)  : (c.mendStore).cy = c.cy := rfl
@[simp] theorem CellState.mendStore_live (c : CellState)  : (c.mendStore).live = c.live := rfl
@[simp] theorem CellState.mendStore_slots (c : CellState)  : (c.mendStore).slots = c.slots := rfl
@[simp] theorem CellState.mendStore_cues (c : CellState)  : (c.mendStore).cues = c.cues := rfl
@[simp] theorem CellState.mendStore_ctxs (c : CellState)  : (c.mendStore).ctxs = c.ctxs := rfl
@[simp] theorem CellState.mendStore_iq (c : CellState)  : (c.mendStore).iq = c.iq := rfl
@[simp] theorem CellState.mendStore_oq (c : CellState)  : (c.mendStore).oq = c.oq := rfl
@[simp] theorem CellState.mendStore_oqResv (c : CellState)  : (c.mendStore).oqResv = c.oqResv := rfl
@[simp] theorem CellState.mendStore_mail6 (c : CellState)  : (c.mendStore).mail6 = c.mail6 := rfl
@[simp] theorem CellState.mendStore_mail7 (c : CellState)  : (c.mendStore).mail7 = c.mail7 := rfl
@[simp] theorem CellState.mendStore_rings (c : CellState)  : (c.mendStore).rings = c.rings := rfl
@[simp] theorem CellState.mendStore_gens (c : CellState)  : (c.mendStore).gens = c.gens := rfl
@[simp] theorem CellState.mendStore_sq (c : CellState)  : (c.mendStore).sq = c.sq := rfl
@[simp] theorem CellState.mendStore_so (c : CellState)  : (c.mendStore).so = c.so := rfl
@[simp] theorem CellState.mendStore_accs (c : CellState)  : (c.mendStore).accs = c.accs := rfl
@[simp] theorem CellState.mendStore_accMark (c : CellState)  : (c.mendStore).accMark = c.accMark := rfl
@[simp] theorem CellState.mendStore_readCnt (c : CellState)  : (c.mendStore).readCnt = c.readCnt := rfl
@[simp] theorem CellState.mendStore_mxq (c : CellState)  : (c.mendStore).mxq = c.mxq := rfl
@[simp] theorem CellState.mendStore_mxRun (c : CellState)  : (c.mendStore).mxRun = c.mxRun := rfl
@[simp] theorem CellState.mendStore_mxStop (c : CellState)  : (c.mendStore).mxStop = c.mxStop := rfl
@[simp] theorem CellState.mendStore_mxPark (c : CellState)  : (c.mendStore).mxPark = c.mxPark := rfl
@[simp] theorem CellState.mendStore_sramTook (c : CellState)  : (c.mendStore).sramTook = c.sramTook := rfl
@[simp] theorem CellState.mendStore_sramA (c : CellState)  : (c.mendStore).sramA = c.sramA := rfl
@[simp] theorem CellState.mendStore_sramLast (c : CellState)  : (c.mendStore).sramLast = c.sramLast := rfl
@[simp] theorem CellState.mendStore_cts (c : CellState)  : (c.mendStore).cts = c.cts := rfl
@[simp] theorem CellState.mendStore_copyPend (c : CellState)  : (c.mendStore).copyPend = c.copyPend := rfl
@[simp] theorem CellState.mendStore_copyAct (c : CellState)  : (c.mendStore).copyAct = c.copyAct := rfl
@[simp] theorem CellState.mendStore_scan (c : CellState)  : (c.mendStore).scan = c.scan := rfl
@[simp] theorem CellState.mendStore_sram (c : CellState)  : (c.mendStore).sram = c.sram := rfl
@[simp] theorem CellState.mendStore_cache (c : CellState)  : (c.mendStore).cache = c.cache := rfl
@[simp] theorem CellState.mendStore_fills (c : CellState)  : (c.mendStore).fills = c.fills := rfl
@[simp] theorem CellState.mendStore_wbs (c : CellState)  : (c.mendStore).wbs = c.wbs := rfl
@[simp] theorem CellState.mendStore_hold (c : CellState)  : (c.mendStore).hold = c.hold := rfl
@[simp] theorem CellState.mendStore_div (c : CellState)  : (c.mendStore).div = c.div := rfl
@[simp] theorem CellState.mendStore_sf (c : CellState)  : (c.mendStore).sf = c.sf := rfl
@[simp] theorem CellState.mendStore_tsend (c : CellState)  : (c.mendStore).tsend = c.tsend := rfl
@[simp] theorem CellState.mendStore_putSend (c : CellState)  : (c.mendStore).putSend = c.putSend := rfl
@[simp] theorem CellState.mendStore_putHeld (c : CellState)  : (c.mendStore).putHeld = c.putHeld := rfl
@[simp] theorem CellState.mendStore_names (c : CellState)  : (c.mendStore).names = c.names := rfl
@[simp] theorem CellState.mendStore_nameWalk (c : CellState)  : (c.mendStore).nameWalk = c.nameWalk := rfl
@[simp] theorem CellState.mendStore_port (c : CellState)  : (c.mendStore).port = c.port := rfl
@[simp] theorem CellState.mendStore_oqAt (c : CellState)  : (c.mendStore).oqAt = c.oqAt := rfl
@[simp] theorem CellState.mendStore_soAt (c : CellState)  : (c.mendStore).soAt = c.soAt := rfl
@[simp] theorem CellState.mendStore_ringAt (c : CellState)  : (c.mendStore).ringAt = c.ringAt := rfl
@[simp] theorem CellState.mendStore_newPend (c : CellState)  : (c.mendStore).newPend = c.newPend := rfl
@[simp] theorem CellState.mendStore_bars (c : CellState)  : (c.mendStore).bars = c.bars := rfl
@[simp] theorem CellState.mendStore_routes (c : CellState)  : (c.mendStore).routes = c.routes := rfl
@[simp] theorem CellState.mendStore_feeds (c : CellState)  : (c.mendStore).feeds = c.feeds := rfl
@[simp] theorem CellState.mendStore_sliceMiB (c : CellState)  : (c.mendStore).sliceMiB = c.sliceMiB := rfl
@[simp] theorem CellState.mendStore_trap (c : CellState)  : (c.mendStore).trap = c.trap := rfl
@[simp] theorem CellState.mendStore_suuord (c : CellState)  : (c.mendStore).suuord = c.suuord := rfl
@[simp] theorem CellState.mendStore_asyncRecs (c : CellState)  : (c.mendStore).asyncRecs = c.asyncRecs := rfl
@[simp] theorem CellState.mendStore_cyc (c : CellState)  : (c.mendStore).cyc = c.cyc := rfl
@[simp] theorem CellState.mendStore_idle (c : CellState)  : (c.mendStore).idle = c.idle := rfl
@[simp] theorem CellState.mendStore_lastFired (c : CellState)  : (c.mendStore).lastFired = c.lastFired := rfl
@[simp] theorem CellState.mendStore_lastAct (c : CellState)  : (c.mendStore).lastAct = c.lastAct := rfl
@[simp] theorem CellState.mendStore_flipSram (c : CellState)  : (c.mendStore).flipSram = c.flipSram := rfl
@[simp] theorem CellState.mendStore_badSram (c : CellState)  : (c.mendStore).badSram = c.badSram := rfl
@[simp] theorem CellState.mendStore_badSlots (c : CellState)  : (c.mendStore).badSlots = c.badSlots := rfl
@[simp] theorem CellState.mendStore_badCues (c : CellState)  : (c.mendStore).badCues = c.badCues := rfl
@[simp] theorem CellState.mendStore_badLines (c : CellState)  : (c.mendStore).badLines = c.badLines := rfl

@[simp] theorem vset_same {α : Type} {n : Nat} (v : Vector α n) (i : Fin n) (a : α) : (vset v i a)[i] = a := by
  simp [vset]

@[simp] theorem vset_val_same {α : Type} {n : Nat} (v : Vector α n) (i : Fin n) (a : α) : (vset v i a)[i.val] = a := by
  simp [vset]

theorem vset_ne {α : Type} {n : Nat} (v : Vector α n) {i j : Fin n} (a : α) (h : j ≠ i) : (vset v i a)[j] = v[j] := by
  have h' : i.val ≠ j.val := fun e => h (Fin.ext e.symm)
  simp [vset, Vector.getElem_set_ne, h']

@[simp] theorem CellState.ctx_setCtx_same (c : CellState) (k : Fin 4) (t : Context) : (c.setCtx k t).ctx k = t :=
  vset_same c.ctxs k t

theorem CellState.ctx_setCtx_ne (c : CellState) {k j : Fin 4} (t : Context) (h : j ≠ k) : (c.setCtx k t).ctx j = c.ctx j :=
  vset_ne c.ctxs t h

@[simp] theorem CellState.ctx_popIq (c : CellState) (q : Fin 8) (k : Fin 4) : (c.popIq q).ctx k = c.ctx k := rfl
@[simp] theorem CellState.ctx_pushOq (c : CellState) (q : Fin 8) (w : QWord) (k : Fin 4) : (c.pushOq q w).ctx k = c.ctx k := rfl
@[simp] theorem CellState.ctx_setRing (c : CellState) (g : Fin 8) (r : Ring) (k : Fin 4) : (c.setRing g r).ctx k = c.ctx k := rfl
@[simp] theorem CellState.ctx_mend (c : CellState) (a n : Nat) (k : Fin 4) : (c.mend a n).ctx k = c.ctx k := rfl

/-! ## Registers of a context -/

@[simp] theorem Context.setX_pres (t : Context) (r : Fin 16) (v : Word) : (t.setX r v).pres = t.pres := by
  unfold Context.setX; split <;> rfl
@[simp] theorem Context.setX_p (t : Context) (r : Fin 16) (v : Word) : (t.setX r v).p = t.p := by
  unfold Context.setX; split <;> rfl
@[simp] theorem Context.setX_v (t : Context) (r : Fin 16) (v : Word) : (t.setX r v).v = t.v := by
  unfold Context.setX; split <;> rfl
@[simp] theorem Context.setX_w (t : Context) (r : Fin 16) (v : Word) : (t.setX r v).w = t.w := by
  unfold Context.setX; split <;> rfl
@[simp] theorem Context.setX_fcr (t : Context) (r : Fin 16) (v : Word) : (t.setX r v).fcr = t.fcr := by
  unfold Context.setX; split <;> rfl
@[simp] theorem Context.setX_status (t : Context) (r : Fin 16) (v : Word) : (t.setX r v).status = t.status := by
  unfold Context.setX; split <;> rfl
@[simp] theorem Context.setX_wake (t : Context) (r : Fin 16) (v : Word) : (t.setX r v).wake = t.wake := by
  unfold Context.setX; split <;> rfl
@[simp] theorem Context.setX_granted (t : Context) (r : Fin 16) (v : Word) : (t.setX r v).granted = t.granted := by
  unfold Context.setX; split <;> rfl
@[simp] theorem Context.setX_uack (t : Context) (r : Fin 16) (v : Word) : (t.setX r v).uack = t.uack := by
  unfold Context.setX; split <;> rfl
@[simp] theorem Context.setX_station (t : Context) (r : Fin 16) (v : Word) : (t.setX r v).station = t.station := by
  unfold Context.setX; split <;> rfl
@[simp] theorem Context.setX_acq (t : Context) (r : Fin 16) (v : Word) : (t.setX r v).acq = t.acq := by
  unfold Context.setX; split <;> rfl
@[simp] theorem Context.setX_resv (t : Context) (r : Fin 16) (v : Word) : (t.setX r v).resv = t.resv := by
  unfold Context.setX; split <;> rfl
@[simp] theorem Context.setX_was (t : Context) (r : Fin 16) (v : Word) : (t.setX r v).was = t.was := by
  unfold Context.setX; split <;> rfl
@[simp] theorem Context.setX_watch (t : Context) (r : Fin 16) (v : Word) : (t.setX r v).watch = t.watch := by
  unfold Context.setX; split <;> rfl
@[simp] theorem Context.setX_watchOut (t : Context) (r : Fin 16) (v : Word) : (t.setX r v).watchOut = t.watchOut := by
  unfold Context.setX; split <;> rfl
@[simp] theorem Context.setX_watchId (t : Context) (r : Fin 16) (v : Word) : (t.setX r v).watchId = t.watchId := by
  unfold Context.setX; split <;> rfl
@[simp] theorem Context.setX_watchNo (t : Context) (r : Fin 16) (v : Word) : (t.setX r v).watchNo = t.watchNo := by
  unfold Context.setX; split <;> rfl
@[simp] theorem Context.setX_record (t : Context) (r : Fin 16) (v : Word) : (t.setX r v).record = t.record := by
  unfold Context.setX; split <;> rfl
@[simp] theorem Context.setX_beside (t : Context) (r : Fin 16) (v : Word) : (t.setX r v).beside = t.beside := by
  unfold Context.setX; split <;> rfl
@[simp] theorem Context.setX_release (t : Context) (r : Fin 16) (v : Word) : (t.setX r v).release = t.release := by
  unfold Context.setX; split <;> rfl
@[simp] theorem Context.setX_respFaults (t : Context) (r : Fin 16) (v : Word) : (t.setX r v).respFaults = t.respFaults := by
  unfold Context.setX; split <;> rfl
@[simp] theorem Context.setX_parkDeq (t : Context) (r : Fin 16) (v : Word) : (t.setX r v).parkDeq = t.parkDeq := by
  unfold Context.setX; split <;> rfl
@[simp] theorem Context.setX_parkCue (t : Context) (r : Fin 16) (v : Word) : (t.setX r v).parkCue = t.parkCue := by
  unfold Context.setX; split <;> rfl
@[simp] theorem Context.setX_fired (t : Context) (r : Fin 16) (v : Word) : (t.setX r v).fired = t.fired := by
  unfold Context.setX; split <;> rfl
@[simp] theorem Context.setX_undeclared (t : Context) (r : Fin 16) (v : Word) : (t.setX r v).undeclared = t.undeclared := by
  unfold Context.setX; split <;> rfl
@[simp] theorem Context.setX_timeLatch (t : Context) (r : Fin 16) (v : Word) : (t.setX r v).timeLatch = t.timeLatch := by
  unfold Context.setX; split <;> rfl
@[simp] theorem Context.setX_cycLatch (t : Context) (r : Fin 16) (v : Word) : (t.setX r v).cycLatch = t.cycLatch := by
  unfold Context.setX; split <;> rfl
@[simp] theorem Context.setX_phase (t : Context) (r : Fin 16) (v : Word) : (t.setX r v).phase = t.phase := by
  unfold Context.setX; split <;> rfl
@[simp] theorem Context.setX_withdrawn (t : Context) (r : Fin 16) (v : Word) : (t.setX r v).withdrawn = t.withdrawn := by
  unfold Context.setX; split <;> rfl
@[simp] theorem Context.setPred_x (t : Context) (i : Fin 8) (b : Bool) : (t.setPred i b).x = t.x := rfl
@[simp] theorem Context.setPred_pres (t : Context) (i : Fin 8) (b : Bool) : (t.setPred i b).pres = t.pres := rfl
@[simp] theorem Context.setPred_v (t : Context) (i : Fin 8) (b : Bool) : (t.setPred i b).v = t.v := rfl
@[simp] theorem Context.setPred_w (t : Context) (i : Fin 8) (b : Bool) : (t.setPred i b).w = t.w := rfl
@[simp] theorem Context.setPred_fcr (t : Context) (i : Fin 8) (b : Bool) : (t.setPred i b).fcr = t.fcr := rfl
@[simp] theorem Context.setPred_status (t : Context) (i : Fin 8) (b : Bool) : (t.setPred i b).status = t.status := rfl
@[simp] theorem Context.setPred_wake (t : Context) (i : Fin 8) (b : Bool) : (t.setPred i b).wake = t.wake := rfl
@[simp] theorem Context.setPred_granted (t : Context) (i : Fin 8) (b : Bool) : (t.setPred i b).granted = t.granted := rfl
@[simp] theorem Context.setPred_uack (t : Context) (i : Fin 8) (b : Bool) : (t.setPred i b).uack = t.uack := rfl
@[simp] theorem Context.setPred_station (t : Context) (i : Fin 8) (b : Bool) : (t.setPred i b).station = t.station := rfl
@[simp] theorem Context.setPred_acq (t : Context) (i : Fin 8) (b : Bool) : (t.setPred i b).acq = t.acq := rfl
@[simp] theorem Context.setPred_resv (t : Context) (i : Fin 8) (b : Bool) : (t.setPred i b).resv = t.resv := rfl
@[simp] theorem Context.setPred_was (t : Context) (i : Fin 8) (b : Bool) : (t.setPred i b).was = t.was := rfl
@[simp] theorem Context.setPred_watch (t : Context) (i : Fin 8) (b : Bool) : (t.setPred i b).watch = t.watch := rfl
@[simp] theorem Context.setPred_watchOut (t : Context) (i : Fin 8) (b : Bool) : (t.setPred i b).watchOut = t.watchOut := rfl
@[simp] theorem Context.setPred_watchId (t : Context) (i : Fin 8) (b : Bool) : (t.setPred i b).watchId = t.watchId := rfl
@[simp] theorem Context.setPred_watchNo (t : Context) (i : Fin 8) (b : Bool) : (t.setPred i b).watchNo = t.watchNo := rfl
@[simp] theorem Context.setPred_record (t : Context) (i : Fin 8) (b : Bool) : (t.setPred i b).record = t.record := rfl
@[simp] theorem Context.setPred_beside (t : Context) (i : Fin 8) (b : Bool) : (t.setPred i b).beside = t.beside := rfl
@[simp] theorem Context.setPred_release (t : Context) (i : Fin 8) (b : Bool) : (t.setPred i b).release = t.release := rfl
@[simp] theorem Context.setPred_respFaults (t : Context) (i : Fin 8) (b : Bool) : (t.setPred i b).respFaults = t.respFaults := rfl
@[simp] theorem Context.setPred_parkDeq (t : Context) (i : Fin 8) (b : Bool) : (t.setPred i b).parkDeq = t.parkDeq := rfl
@[simp] theorem Context.setPred_parkCue (t : Context) (i : Fin 8) (b : Bool) : (t.setPred i b).parkCue = t.parkCue := rfl
@[simp] theorem Context.setPred_fired (t : Context) (i : Fin 8) (b : Bool) : (t.setPred i b).fired = t.fired := rfl
@[simp] theorem Context.setPred_undeclared (t : Context) (i : Fin 8) (b : Bool) : (t.setPred i b).undeclared = t.undeclared := rfl
@[simp] theorem Context.setPred_timeLatch (t : Context) (i : Fin 8) (b : Bool) : (t.setPred i b).timeLatch = t.timeLatch := rfl
@[simp] theorem Context.setPred_cycLatch (t : Context) (i : Fin 8) (b : Bool) : (t.setPred i b).cycLatch = t.cycLatch := rfl
@[simp] theorem Context.setPred_phase (t : Context) (i : Fin 8) (b : Bool) : (t.setPred i b).phase = t.phase := rfl
@[simp] theorem Context.setPred_withdrawn (t : Context) (i : Fin 8) (b : Bool) : (t.setPred i b).withdrawn = t.withdrawn := rfl
@[simp] theorem Context.setPres_x (t : Context) (r : Fin 8) (b : Bool) : (t.setPres r b).x = t.x := rfl
@[simp] theorem Context.setPres_p (t : Context) (r : Fin 8) (b : Bool) : (t.setPres r b).p = t.p := rfl
@[simp] theorem Context.setPres_v (t : Context) (r : Fin 8) (b : Bool) : (t.setPres r b).v = t.v := rfl
@[simp] theorem Context.setPres_w (t : Context) (r : Fin 8) (b : Bool) : (t.setPres r b).w = t.w := rfl
@[simp] theorem Context.setPres_fcr (t : Context) (r : Fin 8) (b : Bool) : (t.setPres r b).fcr = t.fcr := rfl
@[simp] theorem Context.setPres_status (t : Context) (r : Fin 8) (b : Bool) : (t.setPres r b).status = t.status := rfl
@[simp] theorem Context.setPres_wake (t : Context) (r : Fin 8) (b : Bool) : (t.setPres r b).wake = t.wake := rfl
@[simp] theorem Context.setPres_granted (t : Context) (r : Fin 8) (b : Bool) : (t.setPres r b).granted = t.granted := rfl
@[simp] theorem Context.setPres_uack (t : Context) (r : Fin 8) (b : Bool) : (t.setPres r b).uack = t.uack := rfl
@[simp] theorem Context.setPres_station (t : Context) (r : Fin 8) (b : Bool) : (t.setPres r b).station = t.station := rfl
@[simp] theorem Context.setPres_acq (t : Context) (r : Fin 8) (b : Bool) : (t.setPres r b).acq = t.acq := rfl
@[simp] theorem Context.setPres_resv (t : Context) (r : Fin 8) (b : Bool) : (t.setPres r b).resv = t.resv := rfl
@[simp] theorem Context.setPres_was (t : Context) (r : Fin 8) (b : Bool) : (t.setPres r b).was = t.was := rfl
@[simp] theorem Context.setPres_watch (t : Context) (r : Fin 8) (b : Bool) : (t.setPres r b).watch = t.watch := rfl
@[simp] theorem Context.setPres_watchOut (t : Context) (r : Fin 8) (b : Bool) : (t.setPres r b).watchOut = t.watchOut := rfl
@[simp] theorem Context.setPres_watchId (t : Context) (r : Fin 8) (b : Bool) : (t.setPres r b).watchId = t.watchId := rfl
@[simp] theorem Context.setPres_watchNo (t : Context) (r : Fin 8) (b : Bool) : (t.setPres r b).watchNo = t.watchNo := rfl
@[simp] theorem Context.setPres_record (t : Context) (r : Fin 8) (b : Bool) : (t.setPres r b).record = t.record := rfl
@[simp] theorem Context.setPres_beside (t : Context) (r : Fin 8) (b : Bool) : (t.setPres r b).beside = t.beside := rfl
@[simp] theorem Context.setPres_release (t : Context) (r : Fin 8) (b : Bool) : (t.setPres r b).release = t.release := rfl
@[simp] theorem Context.setPres_respFaults (t : Context) (r : Fin 8) (b : Bool) : (t.setPres r b).respFaults = t.respFaults := rfl
@[simp] theorem Context.setPres_parkDeq (t : Context) (r : Fin 8) (b : Bool) : (t.setPres r b).parkDeq = t.parkDeq := rfl
@[simp] theorem Context.setPres_parkCue (t : Context) (r : Fin 8) (b : Bool) : (t.setPres r b).parkCue = t.parkCue := rfl
@[simp] theorem Context.setPres_fired (t : Context) (r : Fin 8) (b : Bool) : (t.setPres r b).fired = t.fired := rfl
@[simp] theorem Context.setPres_undeclared (t : Context) (r : Fin 8) (b : Bool) : (t.setPres r b).undeclared = t.undeclared := rfl
@[simp] theorem Context.setPres_timeLatch (t : Context) (r : Fin 8) (b : Bool) : (t.setPres r b).timeLatch = t.timeLatch := rfl
@[simp] theorem Context.setPres_cycLatch (t : Context) (r : Fin 8) (b : Bool) : (t.setPres r b).cycLatch = t.cycLatch := rfl
@[simp] theorem Context.setPres_phase (t : Context) (r : Fin 8) (b : Bool) : (t.setPres r b).phase = t.phase := rfl
@[simp] theorem Context.setPres_withdrawn (t : Context) (r : Fin 8) (b : Bool) : (t.setPres r b).withdrawn = t.withdrawn := rfl
@[simp] theorem Context.raise_x (t : Context) (f : Flags) : (t.raise f).x = t.x := rfl
@[simp] theorem Context.raise_pres (t : Context) (f : Flags) : (t.raise f).pres = t.pres := rfl
@[simp] theorem Context.raise_p (t : Context) (f : Flags) : (t.raise f).p = t.p := rfl
@[simp] theorem Context.raise_v (t : Context) (f : Flags) : (t.raise f).v = t.v := rfl
@[simp] theorem Context.raise_w (t : Context) (f : Flags) : (t.raise f).w = t.w := rfl
@[simp] theorem Context.raise_status (t : Context) (f : Flags) : (t.raise f).status = t.status := rfl
@[simp] theorem Context.raise_wake (t : Context) (f : Flags) : (t.raise f).wake = t.wake := rfl
@[simp] theorem Context.raise_granted (t : Context) (f : Flags) : (t.raise f).granted = t.granted := rfl
@[simp] theorem Context.raise_uack (t : Context) (f : Flags) : (t.raise f).uack = t.uack := rfl
@[simp] theorem Context.raise_station (t : Context) (f : Flags) : (t.raise f).station = t.station := rfl
@[simp] theorem Context.raise_acq (t : Context) (f : Flags) : (t.raise f).acq = t.acq := rfl
@[simp] theorem Context.raise_resv (t : Context) (f : Flags) : (t.raise f).resv = t.resv := rfl
@[simp] theorem Context.raise_was (t : Context) (f : Flags) : (t.raise f).was = t.was := rfl
@[simp] theorem Context.raise_watch (t : Context) (f : Flags) : (t.raise f).watch = t.watch := rfl
@[simp] theorem Context.raise_watchOut (t : Context) (f : Flags) : (t.raise f).watchOut = t.watchOut := rfl
@[simp] theorem Context.raise_watchId (t : Context) (f : Flags) : (t.raise f).watchId = t.watchId := rfl
@[simp] theorem Context.raise_watchNo (t : Context) (f : Flags) : (t.raise f).watchNo = t.watchNo := rfl
@[simp] theorem Context.raise_record (t : Context) (f : Flags) : (t.raise f).record = t.record := rfl
@[simp] theorem Context.raise_beside (t : Context) (f : Flags) : (t.raise f).beside = t.beside := rfl
@[simp] theorem Context.raise_release (t : Context) (f : Flags) : (t.raise f).release = t.release := rfl
@[simp] theorem Context.raise_respFaults (t : Context) (f : Flags) : (t.raise f).respFaults = t.respFaults := rfl
@[simp] theorem Context.raise_parkDeq (t : Context) (f : Flags) : (t.raise f).parkDeq = t.parkDeq := rfl
@[simp] theorem Context.raise_parkCue (t : Context) (f : Flags) : (t.raise f).parkCue = t.parkCue := rfl
@[simp] theorem Context.raise_fired (t : Context) (f : Flags) : (t.raise f).fired = t.fired := rfl
@[simp] theorem Context.raise_undeclared (t : Context) (f : Flags) : (t.raise f).undeclared = t.undeclared := rfl
@[simp] theorem Context.raise_timeLatch (t : Context) (f : Flags) : (t.raise f).timeLatch = t.timeLatch := rfl
@[simp] theorem Context.raise_cycLatch (t : Context) (f : Flags) : (t.raise f).cycLatch = t.cycLatch := rfl
@[simp] theorem Context.raise_phase (t : Context) (f : Flags) : (t.raise f).phase = t.phase := rfl
@[simp] theorem Context.raise_withdrawn (t : Context) (f : Flags) : (t.raise f).withdrawn = t.withdrawn := rfl
@[simp] theorem Context.act_x (t : Context) (p : PAct) (b : Bool) : (t.act p b).x = t.x := by
  unfold Context.act; split_ifs <;> rfl
@[simp] theorem Context.act_pres (t : Context) (p : PAct) (b : Bool) : (t.act p b).pres = t.pres := by
  unfold Context.act; split_ifs <;> rfl
@[simp] theorem Context.act_v (t : Context) (p : PAct) (b : Bool) : (t.act p b).v = t.v := by
  unfold Context.act; split_ifs <;> rfl
@[simp] theorem Context.act_w (t : Context) (p : PAct) (b : Bool) : (t.act p b).w = t.w := by
  unfold Context.act; split_ifs <;> rfl
@[simp] theorem Context.act_fcr (t : Context) (p : PAct) (b : Bool) : (t.act p b).fcr = t.fcr := by
  unfold Context.act; split_ifs <;> rfl
@[simp] theorem Context.act_status (t : Context) (p : PAct) (b : Bool) : (t.act p b).status = t.status := by
  unfold Context.act; split_ifs <;> rfl
@[simp] theorem Context.act_wake (t : Context) (p : PAct) (b : Bool) : (t.act p b).wake = t.wake := by
  unfold Context.act; split_ifs <;> rfl
@[simp] theorem Context.act_granted (t : Context) (p : PAct) (b : Bool) : (t.act p b).granted = t.granted := by
  unfold Context.act; split_ifs <;> rfl
@[simp] theorem Context.act_uack (t : Context) (p : PAct) (b : Bool) : (t.act p b).uack = t.uack := by
  unfold Context.act; split_ifs <;> rfl
@[simp] theorem Context.act_station (t : Context) (p : PAct) (b : Bool) : (t.act p b).station = t.station := by
  unfold Context.act; split_ifs <;> rfl
@[simp] theorem Context.act_acq (t : Context) (p : PAct) (b : Bool) : (t.act p b).acq = t.acq := by
  unfold Context.act; split_ifs <;> rfl
@[simp] theorem Context.act_resv (t : Context) (p : PAct) (b : Bool) : (t.act p b).resv = t.resv := by
  unfold Context.act; split_ifs <;> rfl
@[simp] theorem Context.act_was (t : Context) (p : PAct) (b : Bool) : (t.act p b).was = t.was := by
  unfold Context.act; split_ifs <;> rfl
@[simp] theorem Context.act_watch (t : Context) (p : PAct) (b : Bool) : (t.act p b).watch = t.watch := by
  unfold Context.act; split_ifs <;> rfl
@[simp] theorem Context.act_watchOut (t : Context) (p : PAct) (b : Bool) : (t.act p b).watchOut = t.watchOut := by
  unfold Context.act; split_ifs <;> rfl
@[simp] theorem Context.act_watchId (t : Context) (p : PAct) (b : Bool) : (t.act p b).watchId = t.watchId := by
  unfold Context.act; split_ifs <;> rfl
@[simp] theorem Context.act_watchNo (t : Context) (p : PAct) (b : Bool) : (t.act p b).watchNo = t.watchNo := by
  unfold Context.act; split_ifs <;> rfl
@[simp] theorem Context.act_record (t : Context) (p : PAct) (b : Bool) : (t.act p b).record = t.record := by
  unfold Context.act; split_ifs <;> rfl
@[simp] theorem Context.act_beside (t : Context) (p : PAct) (b : Bool) : (t.act p b).beside = t.beside := by
  unfold Context.act; split_ifs <;> rfl
@[simp] theorem Context.act_release (t : Context) (p : PAct) (b : Bool) : (t.act p b).release = t.release := by
  unfold Context.act; split_ifs <;> rfl
@[simp] theorem Context.act_respFaults (t : Context) (p : PAct) (b : Bool) : (t.act p b).respFaults = t.respFaults := by
  unfold Context.act; split_ifs <;> rfl
@[simp] theorem Context.act_parkDeq (t : Context) (p : PAct) (b : Bool) : (t.act p b).parkDeq = t.parkDeq := by
  unfold Context.act; split_ifs <;> rfl
@[simp] theorem Context.act_parkCue (t : Context) (p : PAct) (b : Bool) : (t.act p b).parkCue = t.parkCue := by
  unfold Context.act; split_ifs <;> rfl
@[simp] theorem Context.act_fired (t : Context) (p : PAct) (b : Bool) : (t.act p b).fired = t.fired := by
  unfold Context.act; split_ifs <;> rfl
@[simp] theorem Context.act_undeclared (t : Context) (p : PAct) (b : Bool) : (t.act p b).undeclared = t.undeclared := by
  unfold Context.act; split_ifs <;> rfl
@[simp] theorem Context.act_timeLatch (t : Context) (p : PAct) (b : Bool) : (t.act p b).timeLatch = t.timeLatch := by
  unfold Context.act; split_ifs <;> rfl
@[simp] theorem Context.act_cycLatch (t : Context) (p : PAct) (b : Bool) : (t.act p b).cycLatch = t.cycLatch := by
  unfold Context.act; split_ifs <;> rfl
@[simp] theorem Context.act_phase (t : Context) (p : PAct) (b : Bool) : (t.act p b).phase = t.phase := by
  unfold Context.act; split_ifs <;> rfl
@[simp] theorem Context.act_withdrawn (t : Context) (p : PAct) (b : Bool) : (t.act p b).withdrawn = t.withdrawn := by
  unfold Context.act; split_ifs <;> rfl
@[simp] theorem Context.park_x (t : Context) (st : CtxStatus) : (t.park st).x = t.x := rfl
@[simp] theorem Context.park_p (t : Context) (st : CtxStatus) : (t.park st).p = t.p := rfl
@[simp] theorem Context.park_v (t : Context) (st : CtxStatus) : (t.park st).v = t.v := rfl
@[simp] theorem Context.park_w (t : Context) (st : CtxStatus) : (t.park st).w = t.w := rfl
@[simp] theorem Context.park_fcr (t : Context) (st : CtxStatus) : (t.park st).fcr = t.fcr := rfl
@[simp] theorem Context.park_wake (t : Context) (st : CtxStatus) : (t.park st).wake = t.wake := rfl
@[simp] theorem Context.park_granted (t : Context) (st : CtxStatus) : (t.park st).granted = t.granted := rfl
@[simp] theorem Context.park_uack (t : Context) (st : CtxStatus) : (t.park st).uack = t.uack := rfl
@[simp] theorem Context.park_station (t : Context) (st : CtxStatus) : (t.park st).station = t.station := rfl
@[simp] theorem Context.park_acq (t : Context) (st : CtxStatus) : (t.park st).acq = t.acq := rfl
@[simp] theorem Context.park_resv (t : Context) (st : CtxStatus) : (t.park st).resv = t.resv := rfl
@[simp] theorem Context.park_was (t : Context) (st : CtxStatus) : (t.park st).was = t.was := rfl
@[simp] theorem Context.park_watch (t : Context) (st : CtxStatus) : (t.park st).watch = t.watch := rfl
@[simp] theorem Context.park_watchOut (t : Context) (st : CtxStatus) : (t.park st).watchOut = t.watchOut := rfl
@[simp] theorem Context.park_watchId (t : Context) (st : CtxStatus) : (t.park st).watchId = t.watchId := rfl
@[simp] theorem Context.park_watchNo (t : Context) (st : CtxStatus) : (t.park st).watchNo = t.watchNo := rfl
@[simp] theorem Context.park_record (t : Context) (st : CtxStatus) : (t.park st).record = t.record := rfl
@[simp] theorem Context.park_beside (t : Context) (st : CtxStatus) : (t.park st).beside = t.beside := rfl
@[simp] theorem Context.park_release (t : Context) (st : CtxStatus) : (t.park st).release = t.release := rfl
@[simp] theorem Context.park_respFaults (t : Context) (st : CtxStatus) : (t.park st).respFaults = t.respFaults := rfl
@[simp] theorem Context.park_parkDeq (t : Context) (st : CtxStatus) : (t.park st).parkDeq = t.parkDeq := rfl
@[simp] theorem Context.park_parkCue (t : Context) (st : CtxStatus) : (t.park st).parkCue = t.parkCue := rfl
@[simp] theorem Context.park_fired (t : Context) (st : CtxStatus) : (t.park st).fired = t.fired := rfl
@[simp] theorem Context.park_undeclared (t : Context) (st : CtxStatus) : (t.park st).undeclared = t.undeclared := rfl
@[simp] theorem Context.park_timeLatch (t : Context) (st : CtxStatus) : (t.park st).timeLatch = t.timeLatch := rfl
@[simp] theorem Context.park_cycLatch (t : Context) (st : CtxStatus) : (t.park st).cycLatch = t.cycLatch := rfl
@[simp] theorem Context.park_phase (t : Context) (st : CtxStatus) : (t.park st).phase = t.phase := rfl
@[simp] theorem Context.park_withdrawn (t : Context) (st : CtxStatus) : (t.park st).withdrawn = t.withdrawn := rfl
@[simp] theorem Context.consume_x (t : Context) (e : DWord) : (t.consume e).x = t.x := by
  unfold Context.consume; split_ifs <;> rfl
@[simp] theorem Context.consume_p (t : Context) (e : DWord) : (t.consume e).p = t.p := by
  unfold Context.consume; split_ifs <;> rfl
@[simp] theorem Context.consume_v (t : Context) (e : DWord) : (t.consume e).v = t.v := by
  unfold Context.consume; split_ifs <;> rfl
@[simp] theorem Context.consume_w (t : Context) (e : DWord) : (t.consume e).w = t.w := by
  unfold Context.consume; split_ifs <;> rfl
@[simp] theorem Context.consume_fcr (t : Context) (e : DWord) : (t.consume e).fcr = t.fcr := by
  unfold Context.consume; split_ifs <;> rfl
@[simp] theorem Context.consume_status (t : Context) (e : DWord) : (t.consume e).status = t.status := by
  unfold Context.consume; split_ifs <;> rfl
@[simp] theorem Context.consume_uack (t : Context) (e : DWord) : (t.consume e).uack = t.uack := by
  unfold Context.consume; split_ifs <;> rfl
@[simp] theorem Context.consume_station (t : Context) (e : DWord) : (t.consume e).station = t.station := by
  unfold Context.consume; split_ifs <;> rfl
@[simp] theorem Context.consume_acq (t : Context) (e : DWord) : (t.consume e).acq = t.acq := by
  unfold Context.consume; split_ifs <;> rfl
@[simp] theorem Context.consume_resv (t : Context) (e : DWord) : (t.consume e).resv = t.resv := by
  unfold Context.consume; split_ifs <;> rfl
@[simp] theorem Context.consume_was (t : Context) (e : DWord) : (t.consume e).was = t.was := by
  unfold Context.consume; split_ifs <;> rfl
@[simp] theorem Context.consume_watch (t : Context) (e : DWord) : (t.consume e).watch = t.watch := by
  unfold Context.consume; split_ifs <;> rfl
@[simp] theorem Context.consume_watchOut (t : Context) (e : DWord) : (t.consume e).watchOut = t.watchOut := by
  unfold Context.consume; split_ifs <;> rfl
@[simp] theorem Context.consume_watchId (t : Context) (e : DWord) : (t.consume e).watchId = t.watchId := by
  unfold Context.consume; split_ifs <;> rfl
@[simp] theorem Context.consume_watchNo (t : Context) (e : DWord) : (t.consume e).watchNo = t.watchNo := by
  unfold Context.consume; split_ifs <;> rfl
@[simp] theorem Context.consume_record (t : Context) (e : DWord) : (t.consume e).record = t.record := by
  unfold Context.consume; split_ifs <;> rfl
@[simp] theorem Context.consume_beside (t : Context) (e : DWord) : (t.consume e).beside = t.beside := by
  unfold Context.consume; split_ifs <;> rfl
@[simp] theorem Context.consume_release (t : Context) (e : DWord) : (t.consume e).release = t.release := by
  unfold Context.consume; split_ifs <;> rfl
@[simp] theorem Context.consume_respFaults (t : Context) (e : DWord) : (t.consume e).respFaults = t.respFaults := by
  unfold Context.consume; split_ifs <;> rfl
@[simp] theorem Context.consume_parkDeq (t : Context) (e : DWord) : (t.consume e).parkDeq = t.parkDeq := by
  unfold Context.consume; split_ifs <;> rfl
@[simp] theorem Context.consume_parkCue (t : Context) (e : DWord) : (t.consume e).parkCue = t.parkCue := by
  unfold Context.consume; split_ifs <;> rfl
@[simp] theorem Context.consume_fired (t : Context) (e : DWord) : (t.consume e).fired = t.fired := by
  unfold Context.consume; split_ifs <;> rfl
@[simp] theorem Context.consume_undeclared (t : Context) (e : DWord) : (t.consume e).undeclared = t.undeclared := by
  unfold Context.consume; split_ifs <;> rfl
@[simp] theorem Context.consume_timeLatch (t : Context) (e : DWord) : (t.consume e).timeLatch = t.timeLatch := by
  unfold Context.consume; split_ifs <;> rfl
@[simp] theorem Context.consume_cycLatch (t : Context) (e : DWord) : (t.consume e).cycLatch = t.cycLatch := by
  unfold Context.consume; split_ifs <;> rfl
@[simp] theorem Context.consume_phase (t : Context) (e : DWord) : (t.consume e).phase = t.phase := by
  unfold Context.consume; split_ifs <;> rfl
@[simp] theorem Context.consume_withdrawn (t : Context) (e : DWord) : (t.consume e).withdrawn = t.withdrawn := by
  unfold Context.consume; split_ifs <;> rfl

/-- `x0` reads zero (R31). -/
@[simp] theorem Context.getX_zero (t : Context) : t.getX 0 = 0 := rfl

/-- A write to `x0` is discarded (R31). -/
@[simp] theorem Context.setX_zero (t : Context) (v : Word) : t.setX 0 v = t := rfl

theorem Context.getX_setX_same (t : Context) {r : Fin 16} (v : Word) (h : r ≠ 0) : (t.setX r v).getX r = v := by
  unfold Context.getX Context.setX
  rw [if_neg h, if_neg h]
  exact vset_same t.x r v

theorem Context.getX_setX_ne (t : Context) {r q : Fin 16} (v : Word) (h : q ≠ r) : (t.setX r v).getX q = t.getX q := by
  unfold Context.getX Context.setX
  split_ifs with h1 h2 <;> first | rfl | exact vset_ne t.x v h

end Sys2Proof.Machine
end

