-- ==== Sys2Proof/Laws/Ops.lean ====
section
/-! SUPPORT. Ops.lean: what each shared operation can do, said once: firing, taking a fault, what every firing does, reads and
writes of slices and of DRAM, the stores of a home, turns of the machine. -/

namespace Sys2Proof.Machine

/-! ## Firing -/

/-- A firing waits, faults or has its effect, and nothing else. -/
theorem fireState_cases (s : State) (cue : Cue) (n : Needs) (eff : State → Effect) :
    (canFire s cue n = false ∧ fireState s cue n eff = s) ∨
    (canFire s cue n = true ∧ slotBad s.cur s.focus.slot = true ∧
      fireState s cue n eff = takeFault s cue n { cls := 11, code := 3, opnd := s.cur.slotWord s.focus.slot }) ∨
    (canFire s cue n = true ∧ slotBad s.cur s.focus.slot = false ∧ ∃ f, eff s = .fault f ∧
      fireState s cue n eff = takeFault s cue n f) ∨
    (canFire s cue n = true ∧ slotBad s.cur s.focus.slot = false ∧ ∃ t, eff s = .done t ∧
      fireState s cue n eff = finish t s.cur.cues[cue] n) := by
  unfold fireState
  cases hc : canFire s cue n
  · exact .inl ⟨rfl, by simp⟩
  · cases hb : slotBad s.cur s.focus.slot
    · cases he : eff s with
      | fault f => exact .inr (.inr (.inl ⟨rfl, rfl, f, rfl, by simp⟩))
      | done t => exact .inr (.inr (.inr ⟨rfl, rfl, t, rfl, by simp⟩))
    · exact .inr (.inl ⟨rfl, rfl, by simp⟩)

/-- A ready instruction whose words are sound and whose effect is no fault fires. -/
theorem fire_done {s : State} {cue : Cue} {n : Needs} {eff : State → Effect} {t : State} (hc : canFire s cue n = true)
    (hb : slotBad s.cur s.focus.slot = false) (he : eff s = .done t) : fire s cue n eff = .next (finish t s.cur.cues[cue] n) := by
  simp [fire, fireState, hc, hb, he]

/-- A ready instruction whose effect is a fault takes it. -/
theorem fire_fault {s : State} {cue : Cue} {n : Needs} {eff : State → Effect} {f : FaultInfo} (hc : canFire s cue n = true)
    (hb : slotBad s.cur s.focus.slot = false) (he : eff s = .fault f) : fire s cue n eff = .next (takeFault s cue n f) := by
  simp [fire, fireState, hc, hb, he]

/-- An instruction that is not ready changes nothing. -/
theorem fire_waits {s : State} {cue : Cue} {n : Needs} {eff : State → Effect} (hc : canFire s cue n = false) :
    fire s cue n eff = .next s := by
  simp [fire, fireState, hc]

/-! ## What every firing does, and a fault -/

@[simp] theorem finish_strip (s : State) (e : DWord) (n : Needs) : (finish s e n).strip = s.strip := rfl
@[simp] theorem finish_focus (s : State) (e : DWord) (n : Needs) : (finish s e n).focus = s.focus := rfl
@[simp] theorem finish_firn (s : State) (e : DWord) (n : Needs) : (finish s e n).firn = s.firn := rfl
@[simp] theorem finish_host (s : State) (e : DWord) (n : Needs) : (finish s e n).host = s.host := rfl
@[simp] theorem finish_stages (s : State) (e : DWord) (n : Needs) : (finish s e n).stages = s.stages := rfl
@[simp] theorem finish_reqs (s : State) (e : DWord) (n : Needs) : (finish s e n).reqs = s.reqs := rfl
@[simp] theorem takeFault_strip (s : State) (cue : Cue) (n : Needs) (f : FaultInfo) : (takeFault s cue n f).strip = s.strip := rfl
@[simp] theorem takeFault_focus (s : State) (cue : Cue) (n : Needs) (f : FaultInfo) : (takeFault s cue n f).focus = s.focus := rfl
@[simp] theorem takeFault_firn (s : State) (cue : Cue) (n : Needs) (f : FaultInfo) : (takeFault s cue n f).firn = s.firn := rfl
@[simp] theorem takeFault_host (s : State) (cue : Cue) (n : Needs) (f : FaultInfo) : (takeFault s cue n f).host = s.host := rfl
@[simp] theorem takeFault_stages (s : State) (cue : Cue) (n : Needs) (f : FaultInfo) : (takeFault s cue n f).stages = s.stages := rfl

/-- A fault changes no other cell. -/
theorem takeFault_cell_ne (s : State) (cue : Cue) (n : Needs) (f : FaultInfo) {m : Nat} (h : m ≠ s.focus.cell) :
    (takeFault s cue n f).cell m = s.cell m := State.cell_setCur_ne s _ h

/-- What every firing does changes no other cell. -/
theorem finish_cell_ne (s : State) (e : DWord) (n : Needs) {m : Nat} (h : m ≠ s.focus.cell) :
    (finish s e n).cell m = s.cell m := State.cell_setCur_ne s _ h

theorem CellState.dequeue_ctxs (c : CellState) (l : List (Fin 8)) : (c.dequeue l).ctxs = c.ctxs := by
  induction l generalizing c with
  | nil => rfl
  | cons q r ih => simpa [CellState.dequeue] using ih (c.popIq q)

@[simp] theorem CellState.dequeue_ctx (c : CellState) (l : List (Fin 8)) (k : Fin 4) : (c.dequeue l).ctx k = c.ctx k := by
  simp only [CellState.ctx, CellState.dequeue_ctxs]

/-- The count of firings of the context rises by one. -/
theorem finish_fired (s : State) (e : DWord) (n : Needs) :
    (finish s e n).here.fired = s.here.fired + 1 := by
  have h : (finish s e n).here = { (s.here.consume e) with
      fired := (s.here.consume e).fired + 1 } := by
    simp only [finish, State.here, State.setCur, State.cur, State.setCell_focus, State.cell_setCell_same]
    exact (vset_same _ _ _).trans (by rw [CellState.dequeue_ctx])
  rw [h]
  simp

/-- A register that consuming the cue's event and a fault's park leave alone. -/
theorem finish_getX (s : State) (e : DWord) (n : Needs) (r : Fin 16) : (finish s e n).here.getX r = s.here.getX r := by
  simp only [finish, State.here, State.setCur, State.cur, State.setCell_focus, State.cell_setCell_same]
  unfold CellState.setCtx CellState.ctx
  simp only [vset_same]
  simp [Context.getX, CellState.dequeue_ctxs]

/-! ## DRAM (R13, R274) -/

theorem State.sliceWrite_wf (s : State) (h : s.firn.wf = true) (cell o n v : Nat) : (s.sliceWrite cell o n v).firn.wf = true := by
  induction n generalizing s o v with
  | zero => exact h
  | succ k ih => exact ih _ (Mem.wf_write h _ _) _ _

theorem State.send_firn_wf (s : State) (h : s.firn.wf = true) (m : EdgeMsg) : (s.send m).firn.wf = true := by
  rw [State.send_firn]; exact h

/-- A wake changes no byte of DRAM. -/
@[simp] theorem State.wakeCell_firn (s : State) (st n : Nat) (k : Fin 4) (code : Nat) : (s.wakeCell st n k code).firn = s.firn := by
  unfold State.wakeCell
  dsimp only
  split_ifs <;> rfl

@[simp] theorem State.wakeWatch_firn (s : State) (w : Watch) (code : Nat) : (s.wakeWatch w code).firn = s.firn := by
  unfold State.wakeWatch
  split
  · exact State.send_firn s _
  · exact State.wakeCell_firn s _ _ _ _

theorem State.foldl_wake_firn (l : List Watch) (s : State) (code : Nat) :
    (l.foldl (fun s w => s.wakeWatch w code) s).firn = s.firn := by
  induction l generalizing s with
  | nil => rfl
  | cons w r ih => simpa using ih (s.wakeWatch w code)

@[simp] theorem State.wakes_firn (s : State) (a n code : Nat) : (s.wakes a n code).firn = s.firn := by
  unfold State.wakes
  rw [State.foldl_wake_firn]

/-- A store at a home writes its bytes and changes no other byte of DRAM. -/
@[simp] theorem State.homeWrite_firn (s : State) (a n v : Nat) : (s.homeWrite a n v).firn = s.firn.writeN a n v := by
  simp [State.homeWrite]

theorem State.homeWrite_wf (s : State) (h : s.firn.wf = true) (a n v : Nat) : (s.homeWrite a n v).firn.wf = true := by
  rw [State.homeWrite_firn]
  exact Mem.wf_writeN h a n v

end Sys2Proof.Machine
end

