-- ==== Sys2Proof/Laws/Fire.lean ====
section
/-! SUPPORT. Fire.lean: the lemmas that turn a firing, a result and a fault of the model into the terms of Safety.lean. -/

namespace Sys2Proof.Machine

open Sys2Proof.Safety

/-- A read of a vector after one entry was set. -/
theorem vset_get {α : Type} {n : Nat} (v : Vector α n) (i j : Fin n) (a : α) : (vset v i a)[j] = if i = j then a else v[j] := by
  simp [vset, Vector.getElem_set, Fin.ext_iff]

theorem getLsbD_setBit (p : BitVec 8) (i j : Fin 8) (b : Bool) :
    (setBit p i b).getLsbD j.val = if i = j then b else p.getLsbD j.val := by
  have h : (1#8 <<< i.val).getLsbD j.val = decide (i = j) := by revert i j; decide
  unfold setBit
  generalize 1#8 <<< i.val = m at h ⊢
  cases b <;> by_cases e : i = j <;> simp [e] at h ⊢ <;> simp [h]

/-! ## Dequeuing -/

theorem dequeue_iq (c : CellState) (l : List (Fin 8)) (q : Fin 8) : (c.dequeue l).iq[q] = (c.iq[q]).drop (l.count q) := by
  induction l generalizing c with
  | nil => simp [CellState.dequeue]
  | cons a r ih =>
    have h := ih (c.popIq a)
    simp only [CellState.dequeue, List.foldl_cons] at h ⊢
    rw [h]
    by_cases e : a = q
    · subst e
      have : (c.popIq a).iq[a] = (c.iq[a]).tail := by simp only [CellState.popIq, vset_get, if_true]
      rw [this]
      simp [List.drop_tail]
    · have : (c.popIq a).iq[q] = c.iq[q] := by simp only [CellState.popIq, vset_get, if_neg e]
      rw [this, List.count_cons_of_ne e]

theorem dequeue_rest (c : CellState) (l : List (Fin 8)) : { c.dequeue l with iq := c.iq } = c := by
  induction l generalizing c with
  | nil => rfl
  | cons a r ih =>
    have h := ih (c.popIq a)
    have : ({ (c.popIq a).dequeue r with iq := (c.popIq a).iq } : CellState) = c.popIq a := h
    have h2 := congrArg (fun x : CellState => { x with iq := c.iq }) this
    exact h2

theorem takes_count (n : Needs) (q : Fin 8) : n.takes.count q = deqs n.srcs q + n.more.count q := by
  unfold Needs.takes deqs
  rw [List.count_append]
  congr 1
  have hn : ((List.finRange 8).filter fun q => n.srcs.contains (Src.deq q)).Nodup := (List.nodup_finRange 8).filter _
  by_cases h : Src.deq q ∈ n.srcs
  · rw [if_pos h]
    exact List.count_eq_one_of_mem hn (by simp [h])
  · rw [if_neg h]
    exact List.count_eq_zero_of_not_mem (by simp [h])

/-! ## Firing -/

theorem finish_fired_as (s s1 : State) (cue : Cue) (n : Needs) (hf : s1.focus = s.focus) (hs : s1.strip = s.strip) :
    Fired s s1 (finish s1 s.cur.cues[cue] n) cue (fun q => n.takes.count q) := by
  obtain ⟨e, he⟩ : ∃ e, e = s.cur.cues[cue] := ⟨_, rfl⟩
  have ht : s1.tick = s.tick := by simp only [State.tick, hs]
  have hcell : (finish s1 e n).cell s.focus.cell =
      { ((s1.cell s.focus.cell).dequeue n.takes).setCtx s.focus.ctx
          { ((s1.cell s.focus.cell).ctx s.focus.ctx).consume e with
            fired := (((s1.cell s.focus.cell).ctx s.focus.ctx).consume e).fired + 1 } with
        lastFired := some (s.focus.slot, s.tick), lastAct := s.tick } := by
    simp only [finish, State.setCur, State.cur, hf, ht, State.cell_setCell_same, CellState.dequeue_ctx]
  have hc1 (t : Context) : (t.consume e).fired = t.fired := by unfold Context.consume; dsimp only; split_ifs <;> rfl
  have hc2 (t : Context) : (t.consume e).wake = (t.wake && decide (cueEv e ≠ 2)) := by
    unfold Context.consume; dsimp only; split_ifs <;> simp_all [Context.setPres]
  have hc3 (t : Context) : (t.consume e).granted = (t.granted && decide (cueEv e ≠ 4)) := by
    unfold Context.consume; dsimp only; split_ifs <;> simp_all [Context.setPres]
  have hc4 (t : Context) (r : Fin 8) : (t.consume e).pres.getLsbD r.val =
      (t.pres.getLsbD r.val && !(decide (cueF e 51 1 = 1) && decide (cueF e 46 4 % 8 = r.val))) := by
    unfold Context.consume; dsimp only
    by_cases h : cueF e 51 1 = 1
    · have h8 : ∀ u : Context, (u.setPres (Fin.ofNat 8 (cueF e 46 4)) false).pres.getLsbD r.val =
          (u.pres.getLsbD r.val && !decide (cueF e 46 4 % 8 = r.val)) := by
        intro u
        unfold Context.setPres
        rw [getLsbD_setBit]
        by_cases h9 : cueF e 46 4 % 8 = r.val <;> simp [h9, Fin.ext_iff, Fin.ofNat]
      simp only [h, if_true, decide_true, Bool.true_and]
      rw [h8]
      split_ifs <;> rfl
    · simp only [h, if_false, decide_false, Bool.false_and, Bool.not_false, Bool.and_true]
      split_ifs <;> rfl
  have hc5 (t : Context) : { t.consume e with pres := t.pres, wake := t.wake, granted := t.granted, fired := t.fired } = t := by
    unfold Context.consume; dsimp only; split_ifs <;> rfl
  have hd := dequeue_rest (s1.cell s.focus.cell) n.takes
  have hi := fun q => dequeue_iq (s1.cell s.focus.cell) n.takes q
  have hx := CellState.dequeue_ctxs (s1.cell s.focus.cell) n.takes
  rw [← he]
  unfold Fired
  dsimp only
  rw [hcell, ← he]
  generalize (s1.cell s.focus.cell).dequeue n.takes = d at hd hi hx ⊢
  refine ⟨rfl, ?_, ?_, ?_, ?_, hi, rfl, rfl, ?_, ?_, ?_, ?_⟩
  · intro m hm
    simp only [finish, State.setCur, State.setCell, hf]
    exact AMap.get?_put_ne _ _ hm
  · have h := congrArg (fun x => cellWith x (s1.cell s.focus.cell).ctxs (s1.cell s.focus.cell).iq (s1.cell s.focus.cell).lastFired
      (s1.cell s.focus.cell).lastAct) hd
    exact h
  · intro j hj
    have h1 : ∀ t : Context, (d.setCtx s.focus.ctx t).ctx j = d.ctx j := fun t => CellState.ctx_setCtx_ne d t hj
    exact (h1 _).trans (by simp only [CellState.ctx, hx])
  all_goals
    have h1 : ∀ t : Context, (d.setCtx s.focus.ctx t).ctx s.focus.ctx = t := fun t => by simp [CellState.ctx, CellState.setCtx]
    have h2 : ∀ (t : Context) (l : Option (Nat × Nat)) (a : Nat),
        ({ d.setCtx s.focus.ctx t with lastFired := l, lastAct := a } : CellState).ctx s.focus.ctx = t := fun t l a => h1 t
    rw [h2]
  · exact hc5 _
  · exact congrArg (· + 1) (hc1 _)
  · exact hc2 _
  · exact hc3 _
  · exact fun r => hc4 _ r

/-- A ready instruction whose effect leaves `s1` fires. -/
theorem fire_fired {s s1 : State} {cue : Cue} {n : Needs} {eff : State → Effect} (hr : Ready s cue n) (he : eff s = .done s1)
    (hf : s1.focus = s.focus) (hs : s1.strip = s.strip) :
    ∃ t, fire s cue n eff = .next t ∧ Fired s s1 t cue (fun q => n.takes.count q) :=
  ⟨_, fire_done hr.1 hr.2 he, finish_fired_as s s1 cue n hf hs⟩

/-! ## Results -/

theorem act_pred (t : Context) (p : PAct) (nz : Bool) (i : Fin 8) : (t.act p nz).pred i =
    if p.px = i ∧ p.pm ≠ 0 then (if p.pm = 1 then true else if p.pm = 2 then false else nz) else t.pred i := by
  have h (j : Fin 8) (b : Bool) : (t.setPred j b).pred i = if j = i then b else t.pred i := getLsbD_setBit t.p j i b
  unfold Context.act
  by_cases h0 : p.pm = 0 <;> by_cases h1 : p.pm = 1 <;> by_cases h2 : p.pm = 2 <;> by_cases e : p.px = i <;>
    simp [h0, h1, h2, h, e]

theorem setX_getX (t : Context) (r q : Fin 16) (v : Word) : (t.setX r v).getX q = if r = q ∧ q ≠ 0 then v else t.getX q := by
  by_cases h : r = 0
  · subst h
    by_cases e : q = 0 <;> simp [Context.setX, Context.getX, e, eq_comm]
  · by_cases e : r = q
    · subst e; simp [Context.getX_setX_same t v h, h]
    · simp [Context.getX_setX_ne t v (Ne.symm e), e]

/-- What `settle` leaves is what a result changes. -/
theorem settle_settles (c : CellState) (k : Fin 4) (d : Dst) (p : PAct) (v : Word) (x : Bool) (f : Flags) :
    Settles c (settle c k d p v x f) k d p v x f := by
  have hs : ∀ (c : CellState) (t : Context), (c.setCtx k t).ctx k = t := fun c t => by simp [CellState.ctx, CellState.setCtx]
  have ha : ∀ t : Context, ((t.act p (decide (v ≠ 0))).raise f).getX = t.getX := fun t => by
    unfold Context.act Context.raise; split_ifs <;> rfl
  have hp : ∀ (t : Context) (i : Fin 8), ((t.act p (decide (v ≠ 0))).raise f).pred i = (t.act p (decide (v ≠ 0))).pred i := fun t i => rfl
  have hf : ∀ t : Context, ((t.act p (decide (v ≠ 0))).raise f).fcr = t.fcr ||| (f.setWidth 32 <<< 16) := fun t => by
    unfold Context.act Context.raise; split_ifs <;> rfl
  have hr : ∀ t : Context, ctxOut ((t.act p (decide (v ≠ 0))).raise f) t.x t.p t.fcr = t := fun t => by
    unfold Context.act Context.raise ctxOut; split_ifs <;> rfl
  unfold settle
  dsimp only
  cases d with
  | reg r =>
    unfold writeDst Settles
    dsimp only
    refine ⟨rfl, ?_, ?_, ?_, ?_, ?_, ?_⟩
    · intro j hj
      rw [CellState.ctx_setCtx_ne _ _ hj, CellState.ctx_setCtx_ne _ _ hj]
    · rw [hs, hs]
      have := hr ((c.ctx k).setX r v)
      unfold Context.setX at this ⊢
      split_ifs at this ⊢ with h
      · exact this
      · have h2 := congrArg (fun t : Context => ctxOut t (c.ctx k).x (c.ctx k).p (c.ctx k).fcr) this
        exact h2
    · intro q
      rw [hs, hs, ha, setX_getX]
      simp
    · intro q
      simp
    · intro i
      rw [hs, hs, hp, act_pred]
      have : ((c.ctx k).setX r v).pred i = (c.ctx k).pred i := by unfold Context.setX; split_ifs <;> rfl
      rw [this]
    · rw [hs, hs, hf]
      unfold Context.setX; split_ifs <;> rfl
  | oq q =>
    unfold writeDst Settles
    dsimp only
    have ho : ∀ w : QWord, (c.pushOq q w).ctx k = c.ctx k := fun w => rfl
    refine ⟨rfl, ?_, ?_, ?_, ?_, ?_, ?_⟩
    · intro j hj
      rw [CellState.ctx_setCtx_ne _ _ hj]
      rfl
    · rw [hs, ho]
      exact hr _
    · intro r
      rw [hs, ho, ha]
      simp
    · intro j
      simp only [CellState.pushOq, CellState.setCtx, vset_get, Dst.oq.injEq]
      by_cases h : q = j
      · subst h; simp
      · simp [h]
    · intro i
      rw [hs, ho, hp, act_pred]
    · rw [hs, ho, hf]

/-- A ready instruction whose effect is a result completes with that result. -/
theorem fire_result {s : State} {cue : Cue} {l : List Src} {d : Option Dst} {ok : Bool} {eff : State → Effect} {e : Dst} {p : PAct} {v : Word}
    {x : Bool} {f : Flags} (hr : Ready s cue ⟨l, d, ok, []⟩) (he : eff s = result e p v x f s) :
    ∃ t, fire s cue ⟨l, d, ok, []⟩ eff = .next t ∧ Results s t cue l e p v x f := by
  obtain ⟨t, h1, h2⟩ := fire_fired hr he rfl rfl
  refine ⟨t, h1, settle s.cur s.focus.ctx e p v x f, settle_settles _ _ _ _ _ _ _, ?_⟩
  have : (fun q => (Needs.takes ⟨l, d, ok, []⟩).count q) = deqs l := by
    funext q; rw [takes_count]; simp
  rw [← this]
  exact h2

/-- A ready instruction whose effect changes its cell completes with that cell. -/
theorem fire_acts {s : State} {cue : Cue} {n : Needs} {eff : State → Effect} {p : PAct} {e : CellState}
    (hr : Ready s cue n) (he : eff s = .done (s.setCur (afterAct e s.focus.ctx p))) :
    ∃ t, fire s cue n eff = .next t ∧ Acts s t cue (fun q => deqs n.srcs q + n.more.count q) p e := by
  obtain ⟨t, h1, h2⟩ := fire_fired hr he rfl rfl
  refine ⟨t, h1, ?_⟩
  have : (fun q => n.takes.count q) = fun q => deqs n.srcs q + n.more.count q := by
    funext q; exact takes_count n q
  unfold Acts
  rw [← this]
  exact h2

end Sys2Proof.Machine
end

