-- ==== Sys2Proof/Laws/Faults.lean ====
section
/-! SUPPORT. Faults.lean: taking a precise fault in the terms of Safety.lean. -/

namespace Sys2Proof.Machine

open Sys2Proof.Safety

theorem bits_word (n lo w : Nat) (h : lo + w ≤ 32) : bits (word n).toNat lo w = bits n lo w := by
  unfold bits word
  rw [BitVec.toNat_ofNat]
  have e : (2 : Nat) ^ 32 = 2 ^ lo * 2 ^ (32 - lo) := by rw [← pow_add]; congr 1; omega
  rw [e, Nat.mod_mul_right_div_self]
  exact Nat.mod_mod_of_dvd _ (pow_dvd_pow 2 (by omega))

/-- Taking a precise fault. -/
theorem takeFault_faults (s : State) (cue : Cue) (n : Needs) (f : FaultInfo) : Faults s (takeFault s cue n f) f := by
  have hcell : (takeFault s cue n f).cell s.focus.cell = s.cur.setCtx s.focus.ctx
      { ((s.here.addRecord (mkRecord s s.cur s.focus.ctx s.focus.slot false f .trap) s.tick).park .parkFault) with
        parkDeq := n.takes, parkCue := some cue } := by
    simp only [takeFault, State.setCur, State.cell_setCell_same]
  obtain ⟨r, hr⟩ : ∃ r, r = mkRecord s s.cur s.focus.ctx s.focus.slot false f .trap := ⟨_, rfl⟩
  unfold Faults
  dsimp only
  rw [hcell, ← hr]
  have h1 : ∀ t : Context, (s.cur.setCtx s.focus.ctx t).ctx s.focus.ctx = t := fun t => by simp [CellState.ctx, CellState.setCtx]
  refine ⟨rfl, ?_, rfl, rfl, ?_, ?_, ?_, ?_, r, ?_, ?_⟩
  · intro m hm
    exact AMap.get?_put_ne _ _ hm
  · intro j hj
    exact CellState.ctx_setCtx_ne _ _ hj
  · rw [h1]
    unfold Context.addRecord
    split_ifs <;> rfl
  · rw [h1]; rfl
  · intro i
    rw [h1]
    have : ∀ t : Context, (t.addRecord r s.tick).pres = t.pres := fun t => by unfold Context.addRecord; split_ifs <;> rfl
    show (setBit (s.here.addRecord r s.tick).pres 7 false).getLsbD i.val = _
    rw [this, getLsbD_setBit]
    by_cases h : 7 = i
    · subst h; simp
    · simp [h, Ne.symm h]
  · rw [h1]
    unfold Context.addRecord
    by_cases h : s.here.record.isNone = true ∧ s.here.beside = []
    · have h' : (s.here.record.isNone && s.here.beside.isEmpty) = true := by simp [h.1, h.2]
      rw [if_pos h, if_pos h']
      exact ⟨rfl, h.2⟩
    · have h' : ¬ (s.here.record.isNone && s.here.beside.isEmpty) = true := by
        simpa [List.isEmpty_iff] using h
      rw [if_neg h, if_neg h']
      exact ⟨rfl, rfl⟩
  · subst hr
    have hk := s.focus.ctx.isLt
    simp only [mkRecord]
    refine ⟨?_, ?_, ?_, ?_, ?_, ?_, ?_, ?_, ?_, ?_, ?_, ?_, ?_, ?_⟩
    all_goals first
      | trivial
      | (rw [bits_word _ _ _ (by norm_num)]; unfold bits; simp only [Bool.toNat_false]; omega)
      | (rw [bits_word _ _ _ (by norm_num)]; unfold bits; omega)

/-- A ready instruction whose effect is a fault takes it. -/
theorem fire_faults {s : State} {cue : Cue} {n : Needs} {eff : State → Effect} {f : FaultInfo} (hr : Ready s cue n)
    (he : eff s = .fault f) : ∃ t, fire s cue n eff = .next t ∧ Faults s t f :=
  ⟨_, fire_fault hr.1 hr.2 he, takeFault_faults s cue n f⟩

end Sys2Proof.Machine
end

