-- ==== Sys2Proof/Laws/PerInstr.lean ====
section
/-! SUPPORT. PerInstr.lean: for every instruction, whether it has an encoding. -/

namespace Sys2Proof.Laws.Encoded

open Sys2Proof Sys2Proof.Machine

/-- Exactly the machine's own events have no words. -/
def Statement (i : Instr) : Prop := (encode i).isNone = isEvent i

theorem add (c : Cue) (d : Dst) (a b : Src) (p : PAct) : Statement (.add c d a b p) := rfl
theorem sub (c : Cue) (d : Dst) (a b : Src) (p : PAct) : Statement (.sub c d a b p) := rfl
theorem and (c : Cue) (d : Dst) (a b : Src) (p : PAct) : Statement (.and c d a b p) := rfl
theorem or (c : Cue) (d : Dst) (a b : Src) (p : PAct) : Statement (.or c d a b p) := rfl
theorem xor (c : Cue) (d : Dst) (a b : Src) (p : PAct) : Statement (.xor c d a b p) := rfl
theorem sll (c : Cue) (d : Dst) (a b : Src) (p : PAct) : Statement (.sll c d a b p) := rfl
theorem srl (c : Cue) (d : Dst) (a b : Src) (p : PAct) : Statement (.srl c d a b p) := rfl
theorem sra (c : Cue) (d : Dst) (a b : Src) (p : PAct) : Statement (.sra c d a b p) := rfl
theorem mul (c : Cue) (d : Dst) (a b : Src) (p : PAct) : Statement (.mul c d a b p) := rfl
theorem mulh (c : Cue) (d : Dst) (a b : Src) (p : PAct) : Statement (.mulh c d a b p) := rfl
theorem mulhu (c : Cue) (d : Dst) (a b : Src) (p : PAct) : Statement (.mulhu c d a b p) := rfl
theorem min (c : Cue) (d : Dst) (a b : Src) (p : PAct) : Statement (.min c d a b p) := rfl
theorem max (c : Cue) (d : Dst) (a b : Src) (p : PAct) : Statement (.max c d a b p) := rfl
theorem minu (c : Cue) (d : Dst) (a b : Src) (p : PAct) : Statement (.minu c d a b p) := rfl
theorem maxu (c : Cue) (d : Dst) (a b : Src) (p : PAct) : Statement (.maxu c d a b p) := rfl
theorem seq (c : Cue) (d : Dst) (a b : Src) (p : PAct) : Statement (.seq c d a b p) := rfl
theorem sne (c : Cue) (d : Dst) (a b : Src) (p : PAct) : Statement (.sne c d a b p) := rfl
theorem slt (c : Cue) (d : Dst) (a b : Src) (p : PAct) : Statement (.slt c d a b p) := rfl
theorem sltu (c : Cue) (d : Dst) (a b : Src) (p : PAct) : Statement (.sltu c d a b p) := rfl
theorem sel (c : Cue) (d : Dst) (a b : Src) (ps : Fin 8) : Statement (.sel c d a b ps) := rfl
theorem div (c : Cue) (d : Dst) (a b : Src) (p : PAct) : Statement (.div c d a b p) := rfl
theorem divu (c : Cue) (d : Dst) (a b : Src) (p : PAct) : Statement (.divu c d a b p) := rfl
theorem rem (c : Cue) (d : Dst) (a b : Src) (p : PAct) : Statement (.rem c d a b p) := rfl
theorem remu (c : Cue) (d : Dst) (a b : Src) (p : PAct) : Statement (.remu c d a b p) := rfl
theorem addi (c : Cue) (d : Dst) (a : Src) (imm : BitVec 10) : Statement (.addi c d a imm) := rfl
theorem andi (c : Cue) (d : Dst) (a : Src) (imm : BitVec 10) : Statement (.andi c d a imm) := rfl
theorem ori (c : Cue) (d : Dst) (a : Src) (imm : BitVec 10) : Statement (.ori c d a imm) := rfl
theorem xori (c : Cue) (d : Dst) (a : Src) (imm : BitVec 10) : Statement (.xori c d a imm) := rfl
theorem slli (c : Cue) (d : Dst) (a : Src) (sh : Fin 32) : Statement (.slli c d a sh) := rfl
theorem srli (c : Cue) (d : Dst) (a : Src) (sh : Fin 32) : Statement (.srli c d a sh) := rfl
theorem srai (c : Cue) (d : Dst) (a : Src) (sh : Fin 32) : Statement (.srai c d a sh) := rfl
theorem slti (c : Cue) (d : Dst) (a : Src) (imm : BitVec 10) : Statement (.slti c d a imm) := rfl
theorem sltiu (c : Cue) (d : Dst) (a : Src) (imm : BitVec 10) : Statement (.sltiu c d a imm) := rfl
theorem seqi (c : Cue) (d : Dst) (a : Src) (imm : BitVec 10) : Statement (.seqi c d a imm) := rfl
theorem li (c : Cue) (d : Dst) (imm : BitVec 15) : Statement (.li c d imm) := rfl
theorem fadd (c : Cue) (d : Dst) (a b : Src) (p : PAct) : Statement (.fadd c d a b p) := rfl
theorem fsub (c : Cue) (d : Dst) (a b : Src) (p : PAct) : Statement (.fsub c d a b p) := rfl
theorem fmul (c : Cue) (d : Dst) (a b : Src) (p : PAct) : Statement (.fmul c d a b p) := rfl
theorem fma (c : Cue) (d : Fin 16) (a b : Src) (p : PAct) : Statement (.fma c d a b p) := rfl
theorem fnms (c : Cue) (d : Fin 16) (a b : Src) (p : PAct) : Statement (.fnms c d a b p) := rfl
theorem fmin (c : Cue) (d : Dst) (a b : Src) (p : PAct) : Statement (.fmin c d a b p) := rfl
theorem fmax (c : Cue) (d : Dst) (a b : Src) (p : PAct) : Statement (.fmax c d a b p) := rfl
theorem feq (c : Cue) (d : Dst) (a b : Src) (p : PAct) : Statement (.feq c d a b p) := rfl
theorem flt (c : Cue) (d : Dst) (a b : Src) (p : PAct) : Statement (.flt c d a b p) := rfl
theorem fle (c : Cue) (d : Dst) (a b : Src) (p : PAct) : Statement (.fle c d a b p) := rfl
theorem mov (c : Cue) (d : Dst) (a : Src) (p : PAct) : Statement (.mov c d a p) := rfl
theorem not (c : Cue) (d : Dst) (a : Src) (p : PAct) : Statement (.not c d a p) := rfl
theorem neg (c : Cue) (d : Dst) (a : Src) (p : PAct) : Statement (.neg c d a p) := rfl
theorem abs (c : Cue) (d : Dst) (a : Src) (p : PAct) : Statement (.abs c d a p) := rfl
theorem clz (c : Cue) (d : Dst) (a : Src) (p : PAct) : Statement (.clz c d a p) := rfl
theorem ctz (c : Cue) (d : Dst) (a : Src) (p : PAct) : Statement (.ctz c d a p) := rfl
theorem popc (c : Cue) (d : Dst) (a : Src) (p : PAct) : Statement (.popc c d a p) := rfl
theorem brev (c : Cue) (d : Dst) (a : Src) (p : PAct) : Statement (.brev c d a p) := rfl
theorem sextb (c : Cue) (d : Dst) (a : Src) (p : PAct) : Statement (.sextb c d a p) := rfl
theorem sexth (c : Cue) (d : Dst) (a : Src) (p : PAct) : Statement (.sexth c d a p) := rfl
theorem zextb (c : Cue) (d : Dst) (a : Src) (p : PAct) : Statement (.zextb c d a p) := rfl
theorem zexth (c : Cue) (d : Dst) (a : Src) (p : PAct) : Statement (.zexth c d a p) := rfl
theorem fabs (c : Cue) (d : Dst) (a : Src) (p : PAct) : Statement (.fabs c d a p) := rfl
theorem fneg (c : Cue) (d : Dst) (a : Src) (p : PAct) : Statement (.fneg c d a p) := rfl
theorem fclass (c : Cue) (d : Dst) (a : Src) (p : PAct) : Statement (.fclass c d a p) := rfl
theorem cvtFi (c : Cue) (d : Dst) (a : Src) (p : PAct) : Statement (.cvtFi c d a p) := rfl
theorem cvtIf (c : Cue) (d : Dst) (a : Src) (p : PAct) : Statement (.cvtIf c d a p) := rfl
theorem cvtFn (c : Cue) (d : Dst) (a : Src) (p : PAct) : Statement (.cvtFn c d a p) := rfl
theorem cvtNf (c : Cue) (d : Dst) (a : Src) (p : PAct) : Statement (.cvtNf c d a p) := rfl
theorem frnd (c : Cue) (d : Dst) (a : Src) (p : PAct) : Statement (.frnd c d a p) := rfl
theorem cvtBf (c : Cue) (d : Dst) (a : Src) (p : PAct) : Statement (.cvtBf c d a p) := rfl
theorem cvtFb (c : Cue) (d : Dst) (a : Src) (p : PAct) : Statement (.cvtFb c d a p) := rfl
theorem cvtHf (c : Cue) (d : Dst) (a : Src) (p : PAct) : Statement (.cvtHf c d a p) := rfl
theorem cvtFh (c : Cue) (d : Dst) (a : Src) (p : PAct) : Statement (.cvtFh c d a p) := rfl
theorem cvtE4f (c : Cue) (d : Dst) (a : Src) (p : PAct) : Statement (.cvtE4f c d a p) := rfl
theorem cvtFe4 (c : Cue) (d : Dst) (a : Src) (p : PAct) : Statement (.cvtFe4 c d a p) := rfl
theorem cvtE5f (c : Cue) (d : Dst) (a : Src) (p : PAct) : Statement (.cvtE5f c d a p) := rfl
theorem cvtFe5 (c : Cue) (d : Dst) (a : Src) (p : PAct) : Statement (.cvtFe5 c d a p) := rfl
theorem tag (c : Cue) (d : Dst) (q : Fin 8) (p : PAct) : Statement (.tag c d q p) := rfl
theorem qcnt (c : Cue) (d : Dst) (q : Fin 8) (p : PAct) : Statement (.qcnt c d q p) := rfl
theorem xbit (c : Cue) (d : Dst) (q : Fin 8) (p : PAct) : Statement (.xbit c d q p) := rfl
theorem send (c : Cue) (o : Fin 8) (a b : Src) (p : PAct) : Statement (.send c o a b p) := rfl
theorem sendi (c : Cue) (o : Fin 8) (a : Src) (tag : Byte) : Statement (.sendi c o a tag) := rfl
theorem join (c : Cue) (d : Dst) (a b : Fin 8) (p : PAct) : Statement (.join c d a b p) := rfl
theorem drop (c : Cue) (a : Fin 8) (b : Option (Fin 8)) (p : PAct) : Statement (.drop c a b p) := rfl
theorem putr (c : Cue) (k : Fin 4) (r : Fin 8) (a b : Src) (p : PAct) : Statement (.putr c k r a b p) := rfl
theorem ldw (c : Cue) (d : Dst) (a : Src) (imm : BitVec 10) : Statement (.ldw c d a imm) := rfl
theorem ldh (c : Cue) (d : Dst) (a : Src) (imm : BitVec 10) : Statement (.ldh c d a imm) := rfl
theorem ldhu (c : Cue) (d : Dst) (a : Src) (imm : BitVec 10) : Statement (.ldhu c d a imm) := rfl
theorem ldb (c : Cue) (d : Dst) (a : Src) (imm : BitVec 10) : Statement (.ldb c d a imm) := rfl
theorem ldbu (c : Cue) (d : Dst) (a : Src) (imm : BitVec 10) : Statement (.ldbu c d a imm) := rfl
theorem stw (c : Cue) (d : Src) (a : Src) (imm : BitVec 10) : Statement (.stw c d a imm) := rfl
theorem sth (c : Cue) (d : Src) (a : Src) (imm : BitVec 10) : Statement (.sth c d a imm) := rfl
theorem stb (c : Cue) (d : Src) (a : Src) (imm : BitVec 10) : Statement (.stb c d a imm) := rfl
theorem pand (c : Cue) (d a b : Fin 8) : Statement (.pand c d a b) := rfl
theorem por (c : Cue) (d a b : Fin 8) : Statement (.por c d a b) := rfl
theorem pxor (c : Cue) (d a b : Fin 8) : Statement (.pxor c d a b) := rfl
theorem pnot (c : Cue) (d a : Fin 8) : Statement (.pnot c d a) := rfl
theorem pmovx (c : Cue) (d : Dst) : Statement (.pmovx c d) := rfl
theorem psetx (c : Cue) (a : Src) : Statement (.psetx c a) := rfl
theorem nop (c : Cue) : Statement (.nop c) := rfl
theorem fenceL (c : Cue) : Statement (.fenceL c) := rfl
theorem vadd (h : VHead) (d : VDst) (a b : VSrc) : Statement (.vadd h d a b) := rfl
theorem vsub (h : VHead) (d : VDst) (a b : VSrc) : Statement (.vsub h d a b) := rfl
theorem vmul (h : VHead) (d : VDst) (a b : VSrc) : Statement (.vmul h d a b) := rfl
theorem vfma (h : VHead) (d : Fin 8) (a b : VSrc) : Statement (.vfma h d a b) := rfl
theorem vmin (h : VHead) (d : VDst) (a b : VSrc) : Statement (.vmin h d a b) := rfl
theorem vmax (h : VHead) (d : VDst) (a b : VSrc) : Statement (.vmax h d a b) := rfl
theorem vand (h : VHead) (d : VDst) (a b : VSrc) : Statement (.vand h d a b) := rfl
theorem vor (h : VHead) (d : VDst) (a b : VSrc) : Statement (.vor h d a b) := rfl
theorem vxor (h : VHead) (d : VDst) (a b : VSrc) : Statement (.vxor h d a b) := rfl
theorem vshl (h : VHead) (d : VDst) (a b : VSrc) : Statement (.vshl h d a b) := rfl
theorem vshr (h : VHead) (d : VDst) (a b : VSrc) : Statement (.vshr h d a b) := rfl
theorem vsra (h : VHead) (d : VDst) (a b : VSrc) : Statement (.vsra h d a b) := rfl
theorem vceq (h : VHead) (d : VDst) (a b : VSrc) : Statement (.vceq h d a b) := rfl
theorem vclt (h : VHead) (d : VDst) (a b : VSrc) : Statement (.vclt h d a b) := rfl
theorem vcle (h : VHead) (d : VDst) (a b : VSrc) : Statement (.vcle h d a b) := rfl
theorem vsel (h : VHead) (d : VDst) (a b e : VSrc) : Statement (.vsel h d a b e) := rfl
theorem vcvt (h : VHead) (d : VDst) (a : VSrc) (conv : VConv) (xs : Fin 16) : Statement (.vcvt h d a conv xs) := rfl
theorem vbcast (h : VHead) (d : VDst) (xs : Fin 16) : Statement (.vbcast h d xs) := rfl
theorem vext (h : VHead) (d : VDst) (a b : VSrc) (xs : Fin 16) : Statement (.vext h d a b xs) := rfl
theorem vins (h : VHead) (d : VDst) (a : VSrc) (xs : Fin 16) : Statement (.vins h d a xs) := rfl
theorem vperm (h : VHead) (d : VDst) (a b : VSrc) : Statement (.vperm h d a b) := rfl
theorem vrsum (h : VHead) (d : Fin 8) (a : VSrc) : Statement (.vrsum h d a) := rfl
theorem vrmax (h : VHead) (d : Fin 8) (a : VSrc) : Statement (.vrmax h d a) := rfl
theorem vrmin (h : VHead) (d : Fin 8) (a : VSrc) : Statement (.vrmin h d a) := rfl
theorem vabs (h : VHead) (d : VDst) (a : VSrc) : Statement (.vabs h d a) := rfl
theorem vneg (h : VHead) (d : VDst) (a : VSrc) : Statement (.vneg h d a) := rfl
theorem vmov (h : VHead) (d : VDst) (a : VSrc) : Statement (.vmov h d a) := rfl
theorem vld (h : VHead) (d : VDst) (xs : Fin 16) : Statement (.vld h d xs) := rfl
theorem vst (h : VHead) (a : VSrc) (xs : Fin 16) : Statement (.vst h a xs) := rfl
theorem vldexp (h : VHead) (d : VDst) (a b : VSrc) : Statement (.vldexp h d a b) := rfl
theorem vdot2 (h : VHead) (d : Fin 8) (a b : VSrc) : Statement (.vdot2 h d a b) := rfl
theorem vclamp (h : VHead) (d : VDst) (a b e : VSrc) : Statement (.vclamp h d a b e) := rfl
theorem sfExp2 (h : VHead) (d : VDst) (a : VSrc) : Statement (.sfExp2 h d a) := rfl
theorem sfLog2 (h : VHead) (d : VDst) (a : VSrc) : Statement (.sfLog2 h d a) := rfl
theorem sfRcp (h : VHead) (d : VDst) (a : VSrc) : Statement (.sfRcp h d a) := rfl
theorem sfRsq (h : VHead) (d : VDst) (a : VSrc) : Statement (.sfRsq h d a) := rfl
theorem sfSqrt (h : VHead) (d : VDst) (a : VSrc) : Statement (.sfSqrt h d a) := rfl
theorem sfTanh (h : VHead) (d : VDst) (a : VSrc) : Statement (.sfTanh h d a) := rfl
theorem sfSigm (h : VHead) (d : VDst) (a : VSrc) : Statement (.sfSigm h d a) := rfl
theorem sfSin (h : VHead) (d : VDst) (a : VSrc) : Statement (.sfSin h d a) := rfl
theorem sfCos (h : VHead) (d : VDst) (a : VSrc) : Statement (.sfCos h d a) := rfl
theorem mxMma (c : Cue) (acc : Fin 4) (ga gb : Fin 8) (dt : MxTy) (accum : Bool) (rows cols : Fin 16) (popa popb trb : Bool) (p : PAct) : Statement (.mxMma c acc ga gb dt accum rows cols popa popb trb p) := rfl
theorem mxGmma (c : Cue) (acc : Fin 4) (ga gb : Fin 8) (dt : MxTy) (accum : Bool) (cols : Fin 16) (popa popb trb : Bool) (xv : Fin 16) (p : PAct) : Statement (.mxGmma c acc ga gb dt accum cols popa popb trb xv p) := rfl
theorem mxZero (c : Cue) (acc : Fin 4) (p : PAct) : Statement (.mxZero c acc p) := rfl
theorem mxLda (c : Cue) (acc : Fin 4) (ga : Fin 8) (popa : Bool) (p : PAct) : Statement (.mxLda c acc ga popa p) := rfl
theorem mxRda (c : Cue) (acc : Fin 4) (ga : Fin 8) (code : Fin 8) (accum : Bool) (p : PAct) : Statement (.mxRda c acc ga code accum p) := rfl
theorem mxScale (c : Cue) (acc : Fin 4) (trb : Bool) (xv : Fin 8) (p : PAct) : Statement (.mxScale c acc trb xv p) := rfl
theorem mxIssue (c : Cue) (q : Fin 6) (p : PAct) : Statement (.mxIssue c q p) := rfl
theorem scCfg (c : Cue) (grp : Fin 8) (dir : Bool) (p : PAct) : Statement (.scCfg c grp dir p) := rfl
theorem scLocal (c : Cue) (op : ScanOp) (cont : Bool) (a : VSrc) (d : VDst) (nb : Fin 64) (p : PAct) : Statement (.scLocal c op cont a d nb p) := rfl
theorem scAgg (c : Cue) (op : ScanOp) (grp : Fin 8) (a : VSrc) (p : PAct) : Statement (.scAgg c op grp a p) := rfl
theorem scAggRel (c : Cue) (op : ScanOp) (grp : Fin 8) (a : VSrc) (p : PAct) : Statement (.scAggRel c op grp a p) := rfl
theorem scPfx (c : Cue) (grp : Fin 8) (d : Fin 8) (p : PAct) : Statement (.scPfx c grp d p) := rfl
theorem scApply (c : Cue) (op : ScanOp) (scan : Bool) (a : Fin 8) (d : VDst) (nb : Fin 64) (p : PAct) : Statement (.scApply c op scan a d nb p) := rfl
theorem scReset (c : Cue) (grp : Fin 8) (p : PAct) : Statement (.scReset c grp p) := rfl
theorem sgSetBase (c : Cue) (g : Fin 4) (a : Src) (p : PAct) : Statement (.sgSetBase c g a p) := rfl
theorem sgSetCtl (c : Cue) (g : Fin 4) (a : Src) (p : PAct) : Statement (.sgSetCtl c g a p) := rfl
theorem sgSetLv (c : Cue) (g : Fin 4) (a b : Src) (lv : Fin 4) (p : PAct) : Statement (.sgSetLv c g a b lv p) := rfl
theorem sgGo (c : Cue) (g : Fin 4) (p : PAct) : Statement (.sgGo c g p) := rfl
theorem sgHalt (c : Cue) (g : Fin 4) (p : PAct) : Statement (.sgHalt c g p) := rfl
theorem sgStatCtl (c : Cue) (g : Fin 4) (d : Dst) (p : PAct) : Statement (.sgStatCtl c g d p) := rfl
theorem sgStatIdx (c : Cue) (g : Fin 4) (d : Dst) (lv : Fin 4) (p : PAct) : Statement (.sgStatIdx c g d lv p) := rfl
theorem sgStatOcc (c : Cue) (g : Fin 4) (d : Dst) (p : PAct) : Statement (.sgStatOcc c g d p) := rfl
theorem gSetW0 (c : Cue) (g : Fin 8) (a : Src) (p : PAct) : Statement (.gSetW0 c g a p) := rfl
theorem gSetW1 (c : Cue) (g : Fin 8) (a : Src) (p : PAct) : Statement (.gSetW1 c g a p) := rfl
theorem gAdvPush (c : Cue) (g : Fin 8) (p : PAct) : Statement (.gAdvPush c g p) := rfl
theorem gAdvPop (c : Cue) (g : Fin 8) (p : PAct) : Statement (.gAdvPop c g p) := rfl
theorem gStatCnt (c : Cue) (g : Fin 8) (d : Dst) (p : PAct) : Statement (.gStatCnt c g d p) := rfl
theorem gStatHead (c : Cue) (g : Fin 8) (d : Dst) (p : PAct) : Statement (.gStatHead c g d p) := rfl
theorem gStatTail (c : Cue) (g : Fin 8) (d : Dst) (p : PAct) : Statement (.gStatTail c g d p) := rfl
theorem tsend (c : Cue) (g : Fin 8) (o : Fin 8) (p : PAct) : Statement (.tsend c g o p) := rfl
theorem cpArm (c : Cue) (ct : Fin 16) (p : PAct) : Statement (.cpArm c ct p) := rfl
theorem cpArmSet (c : Cue) (ct : Fin 16) (a b : Src) (wr : Fin 4) (p : PAct) : Statement (.cpArmSet c ct a b wr p) := rfl
theorem cpFire (c : Cue) (ct : Fin 16) (p : PAct) : Statement (.cpFire c ct p) := rfl
theorem cpFireNow (c : Cue) (ct : Fin 16) (p : PAct) : Statement (.cpFireNow c ct p) := rfl
theorem cpGet (c : Cue) (a b : Src) (wr : Fin 4) (len : BitVec 14) (notify : Bool) (p : PAct) : Statement (.cpGet c a b wr len notify p) := rfl
theorem cpPut (c : Cue) (a b : Src) (wr : Fin 4) (len : BitVec 14) (notify : Bool) (p : PAct) : Statement (.cpPut c a b wr len notify p) := rfl
theorem cpCancel (c : Cue) (ct : Fin 16) (p : PAct) : Statement (.cpCancel c ct p) := rfl
theorem cpStatDep (c : Cue) (ct : Fin 16) (d : Dst) (p : PAct) : Statement (.cpStatDep c ct d p) := rfl
theorem cpStatEng (c : Cue) (d : Dst) (p : PAct) : Statement (.cpStatEng c d p) := rfl
theorem wstw (c : Cue) (rel : Bool) (wr : Fin 4) (off : BitVec 12) (d : Src) (p : PAct) : Statement (.wstw c rel wr off d p) := rfl
theorem wstd (c : Cue) (rel : Bool) (wr : Fin 4) (off : BitVec 12) (lo hi : Src) (p : PAct) : Statement (.wstd c rel wr off lo hi p) := rfl
theorem wstv (c : Cue) (rel : Bool) (wr : Fin 4) (off : BitVec 12) (v : Fin 8) (p : PAct) : Statement (.wstv c rel wr off v p) := rfl
theorem amoAdd (c : Cue) (ord : Ord) (wr : Fin 4) (off : BitVec 12) (d : Fin 8) (a : Src) (p : PAct) : Statement (.amoAdd c ord wr off d a p) := rfl
theorem amoAnd (c : Cue) (ord : Ord) (wr : Fin 4) (off : BitVec 12) (d : Fin 8) (a : Src) (p : PAct) : Statement (.amoAnd c ord wr off d a p) := rfl
theorem amoOr (c : Cue) (ord : Ord) (wr : Fin 4) (off : BitVec 12) (d : Fin 8) (a : Src) (p : PAct) : Statement (.amoOr c ord wr off d a p) := rfl
theorem amoXor (c : Cue) (ord : Ord) (wr : Fin 4) (off : BitVec 12) (d : Fin 8) (a : Src) (p : PAct) : Statement (.amoXor c ord wr off d a p) := rfl
theorem amoMin (c : Cue) (ord : Ord) (wr : Fin 4) (off : BitVec 12) (d : Fin 8) (a : Src) (p : PAct) : Statement (.amoMin c ord wr off d a p) := rfl
theorem amoMax (c : Cue) (ord : Ord) (wr : Fin 4) (off : BitVec 12) (d : Fin 8) (a : Src) (p : PAct) : Statement (.amoMax c ord wr off d a p) := rfl
theorem amoMinn (c : Cue) (ord : Ord) (wr : Fin 4) (off : BitVec 12) (d : Fin 8) (a : Src) (p : PAct) : Statement (.amoMinn c ord wr off d a p) := rfl
theorem amoMaxn (c : Cue) (ord : Ord) (wr : Fin 4) (off : BitVec 12) (d : Fin 8) (a : Src) (p : PAct) : Statement (.amoMaxn c ord wr off d a p) := rfl
theorem amoSwap (c : Cue) (ord : Ord) (wr : Fin 4) (off : BitVec 12) (d : Fin 8) (a : Src) (p : PAct) : Statement (.amoSwap c ord wr off d a p) := rfl
theorem amoCas (c : Cue) (ord : Ord) (wr : Fin 4) (off : BitVec 12) (d : Fin 8) (a : Src) (p : PAct) : Statement (.amoCas c ord wr off d a p) := rfl
theorem amoLd (c : Cue) (ord : Ord) (wr : Fin 4) (off : BitVec 12) (d : Fin 8) (p : PAct) : Statement (.amoLd c ord wr off d p) := rfl
theorem amodAdd (c : Cue) (ord : Ord) (wr : Fin 4) (off : BitVec 12) (d : Fin 4) (a : Fin 8) (p : PAct) : Statement (.amodAdd c ord wr off d a p) := rfl
theorem amodAnd (c : Cue) (ord : Ord) (wr : Fin 4) (off : BitVec 12) (d : Fin 4) (a : Fin 8) (p : PAct) : Statement (.amodAnd c ord wr off d a p) := rfl
theorem amodOr (c : Cue) (ord : Ord) (wr : Fin 4) (off : BitVec 12) (d : Fin 4) (a : Fin 8) (p : PAct) : Statement (.amodOr c ord wr off d a p) := rfl
theorem amodXor (c : Cue) (ord : Ord) (wr : Fin 4) (off : BitVec 12) (d : Fin 4) (a : Fin 8) (p : PAct) : Statement (.amodXor c ord wr off d a p) := rfl
theorem amodMin (c : Cue) (ord : Ord) (wr : Fin 4) (off : BitVec 12) (d : Fin 4) (a : Fin 8) (p : PAct) : Statement (.amodMin c ord wr off d a p) := rfl
theorem amodMax (c : Cue) (ord : Ord) (wr : Fin 4) (off : BitVec 12) (d : Fin 4) (a : Fin 8) (p : PAct) : Statement (.amodMax c ord wr off d a p) := rfl
theorem amodMinn (c : Cue) (ord : Ord) (wr : Fin 4) (off : BitVec 12) (d : Fin 4) (a : Fin 8) (p : PAct) : Statement (.amodMinn c ord wr off d a p) := rfl
theorem amodMaxn (c : Cue) (ord : Ord) (wr : Fin 4) (off : BitVec 12) (d : Fin 4) (a : Fin 8) (p : PAct) : Statement (.amodMaxn c ord wr off d a p) := rfl
theorem amodSwap (c : Cue) (ord : Ord) (wr : Fin 4) (off : BitVec 12) (d : Fin 4) (a : Fin 8) (p : PAct) : Statement (.amodSwap c ord wr off d a p) := rfl
theorem amodCas (c : Cue) (ord : Ord) (wr : Fin 4) (off : BitVec 12) (d : Fin 4) (a : Fin 8) (p : PAct) : Statement (.amodCas c ord wr off d a p) := rfl
theorem amodLd (c : Cue) (ord : Ord) (wr : Fin 4) (off : BitVec 12) (d : Fin 4) (p : PAct) : Statement (.amodLd c ord wr off d p) := rfl
theorem redAddI32 (c : Cue) (rel : Bool) (wr : Fin 4) (off : BitVec 12) (a : Src) (p : PAct) : Statement (.redAddI32 c rel wr off a p) := rfl
theorem redAddF32 (c : Cue) (rel : Bool) (wr : Fin 4) (off : BitVec 12) (a : Src) (p : PAct) : Statement (.redAddF32 c rel wr off a p) := rfl
theorem redAddBf16x2 (c : Cue) (rel : Bool) (wr : Fin 4) (off : BitVec 12) (a : Src) (p : PAct) : Statement (.redAddBf16x2 c rel wr off a p) := rfl
theorem redMaxF32 (c : Cue) (rel : Bool) (wr : Fin 4) (off : BitVec 12) (a : Src) (p : PAct) : Statement (.redMaxF32 c rel wr off a p) := rfl
theorem redMinF32 (c : Cue) (rel : Bool) (wr : Fin 4) (off : BitVec 12) (a : Src) (p : PAct) : Statement (.redMinF32 c rel wr off a p) := rfl
theorem redAnd (c : Cue) (rel : Bool) (wr : Fin 4) (off : BitVec 12) (a : Src) (p : PAct) : Statement (.redAnd c rel wr off a p) := rfl
theorem redOr (c : Cue) (rel : Bool) (wr : Fin 4) (off : BitVec 12) (a : Src) (p : PAct) : Statement (.redOr c rel wr off a p) := rfl
theorem redXor (c : Cue) (rel : Bool) (wr : Fin 4) (off : BitVec 12) (a : Src) (p : PAct) : Statement (.redXor c rel wr off a p) := rfl
theorem waita (c : Cue) (wr : Fin 4) (off : BitVec 12) (t : Src) (cmp : WCmp) (p : PAct) : Statement (.waita c wr off t cmp p) := rfl
theorem wpoke (c : Cue) (dbl : Bool) (wr : Fin 4) (off : BitVec 12) (p : PAct) : Statement (.wpoke c dbl wr off p) := rfl
theorem fenceW (c : Cue) (p : PAct) : Statement (.fenceW c p) := rfl
theorem fenceC (c : Cue) (p : PAct) : Statement (.fenceC c p) := rfl
theorem fenceAll (c : Cue) (p : PAct) : Statement (.fenceAll c p) := rfl
theorem mark (c : Cue) (a : Src) (p : PAct) : Statement (.mark c a p) := rfl
theorem barArr (c : Cue) (g : Fin 16) (p : PAct) : Statement (.barArr c g p) := rfl
theorem barArrRel (c : Cue) (g : Fin 16) (p : PAct) : Statement (.barArrRel c g p) := rfl
theorem barStat (c : Cue) (g : Fin 16) (d : Dst) (p : PAct) : Statement (.barStat c g d p) := rfl
theorem phase (c : Cue) (onset : BitVec 12) (int : Fin 16) (k : Fin 32) (p : PAct) : Statement (.phase c onset int k p) := rfl
theorem phaseGang (c : Cue) (a : Src) (onset : BitVec 12) (int : Fin 16) (k : Fin 32) (p : PAct) : Statement (.phaseGang c a onset int k p) := rfl
theorem phaseEnd (c : Cue) (p : PAct) : Statement (.phaseEnd c p) := rfl
theorem phaseEndGang (c : Cue) (a : Src) (p : PAct) : Statement (.phaseEndGang c a p) := rfl
theorem pwrRd (c : Cue) (d : Dst) (item : Fin 8) (p : PAct) : Statement (.pwrRd c d item p) := rfl
theorem trap (c : Cue) (a : Src) (code : Fin 32) (p : PAct) : Statement (.trap c a code p) := rfl
theorem trapPark (c : Cue) (a : Src) (code : Fin 32) (p : PAct) : Statement (.trapPark c a code p) := rfl
theorem bkpt (c : Cue) (a : Src) (code : Fin 32) (p : PAct) : Statement (.bkpt c a code p) := rfl
theorem cfgRd (c : Cue) (d : Dst) (a : Src) (ca : BitVec 12) (p : PAct) : Statement (.cfgRd c d a ca p) := rfl
theorem cfgWr (c : Cue) (v a : Src) (ca : BitVec 12) (p : PAct) : Statement (.cfgWr c v a ca p) := rfl
theorem slotLd (c : Cue) (a : Src) (first n1 : Fin 128) (p : PAct) : Statement (.slotLd c a first n1 p) := rfl
theorem cueWr (c : Cue) (hi lo : Src) (idx : Fin 64) (p : PAct) : Statement (.cueWr c hi lo idx p) := rfl
theorem cueEn (c : Cue) (idx : Fin 64) (en : Bool) (p : PAct) : Statement (.cueEn c idx en p) := rfl
theorem fcrRd (c : Cue) (d : Dst) (p : PAct) : Statement (.fcrRd c d p) := rfl
theorem fcrWr (c : Cue) (d : Dst) (a : Src) (mask : BitVec 21) (p : PAct) : Statement (.fcrWr c d a mask p) := rfl
theorem halt (c : Cue) (mask : BitVec 4) (p : PAct) : Statement (.halt c mask p) := rfl
theorem presClr (c : Cue) (mask : BitVec 8) (p : PAct) : Statement (.presClr c mask p) := rfl
theorem timeRd (c : Cue) (d : Dst) (p : PAct) : Statement (.timeRd c d p) := rfl
theorem timeRdHi (c : Cue) (d : Dst) (p : PAct) : Statement (.timeRdHi c d p) := rfl
theorem cycRd (c : Cue) (d : Dst) (p : PAct) : Statement (.cycRd c d p) := rfl
theorem cycRdHi (c : Cue) (d : Dst) (p : PAct) : Statement (.cycRdHi c d p) := rfl
theorem cycRdFired (c : Cue) (d : Dst) (p : PAct) : Statement (.cycRdFired c d p) := rfl
theorem cycRdIdle (c : Cue) (d : Dst) (p : PAct) : Statement (.cycRdIdle c d p) := rfl
theorem idRd (c : Cue) (d : Dst) (item : Fin 8) (p : PAct) : Statement (.idRd c d item p) := rfl
theorem liw (c : Cue) (d : Dst) (imm : Word) : Statement (.liw c d imm) := rfl
theorem addip (c : Cue) (d : Dst) (a : Src) (imm : BitVec 16) (p : PAct) : Statement (.addip c d a imm p) := rfl
theorem addipHi (c : Cue) (d : Dst) (a : Src) (imm : BitVec 16) (p : PAct) : Statement (.addipHi c d a imm p) := rfl
theorem lea (c : Cue) (d : Dst) (a b : Src) (sh : Fin 4) (imm : BitVec 16) (p : PAct) : Statement (.lea c d a b sh imm p) := rfl
theorem cmpiEq (c : Cue) (d : Dst) (a : Src) (imm : BitVec 16) (p : PAct) : Statement (.cmpiEq c d a imm p) := rfl
theorem cmpiNe (c : Cue) (d : Dst) (a : Src) (imm : BitVec 16) (p : PAct) : Statement (.cmpiNe c d a imm p) := rfl
theorem cmpiLt (c : Cue) (d : Dst) (a : Src) (imm : BitVec 16) (p : PAct) : Statement (.cmpiLt c d a imm p) := rfl
theorem cmpiLtu (c : Cue) (d : Dst) (a : Src) (imm : BitVec 16) (p : PAct) : Statement (.cmpiLtu c d a imm p) := rfl
theorem extr (c : Cue) (d : Dst) (a : Src) (pos len1 : Fin 32) (p : PAct) : Statement (.extr c d a pos len1 p) := rfl
theorem extrS (c : Cue) (d : Dst) (a : Src) (pos len1 : Fin 32) (p : PAct) : Statement (.extrS c d a pos len1 p) := rfl
theorem insr (c : Cue) (d : Fin 16) (a : Src) (pos len1 : Fin 32) (p : PAct) : Statement (.insr c d a pos len1 p) := rfl
theorem madd (c : Cue) (d : Fin 16) (a b : Src) (p : PAct) : Statement (.madd c d a b p) := rfl
theorem decp (c : Cue) (d : Fin 16) (px : Fin 8) : Statement (.decp c d px) := rfl
theorem wSet (c : Cue) (w : Fin 4) (a b : Src) (p : PAct) : Statement (.wSet c w a b p) := rfl
theorem wAdd (c : Cue) (w : Fin 4) (a : Src) (sh : Fin 32) (p : PAct) : Statement (.wAdd c w a sh p) := rfl
theorem wAddi (c : Cue) (w : Fin 4) (imm : BitVec 16) (p : PAct) : Statement (.wAddi c w imm p) := rfl
theorem wGet (c : Cue) (d : Dst) (w : Fin 4) (half : Bool) (p : PAct) : Statement (.wGet c d w half p) := rfl
theorem ldwp (c : Cue) (d : Dst) (a : Src) (imm : BitVec 16) (p : PAct) : Statement (.ldwp c d a imm p) := rfl
theorem ldhp (c : Cue) (d : Dst) (a : Src) (imm : BitVec 16) (p : PAct) : Statement (.ldhp c d a imm p) := rfl
theorem ldhup (c : Cue) (d : Dst) (a : Src) (imm : BitVec 16) (p : PAct) : Statement (.ldhup c d a imm p) := rfl
theorem ldbp (c : Cue) (d : Dst) (a : Src) (imm : BitVec 16) (p : PAct) : Statement (.ldbp c d a imm p) := rfl
theorem ldbup (c : Cue) (d : Dst) (a : Src) (imm : BitVec 16) (p : PAct) : Statement (.ldbup c d a imm p) := rfl
theorem vectorBeat (n : Nat) : Statement (.vectorBeat n) := rfl
theorem sliceAccessResume (n : Nat) : Statement (.sliceAccessResume n) := rfl
theorem divideResult (n : Nat) : Statement (.divideResult n) := rfl
theorem sfServiceStart (n : Nat) : Statement (.sfServiceStart n) := rfl
theorem sfResultWrite (n : Nat) : Statement (.sfResultWrite n) := rfl
theorem lineFillComplete (n : Nat) (line : Nat) : Statement (.lineFillComplete n line) := rfl
theorem fenceLComplete (n : Nat) : Statement (.fenceLComplete n) := rfl
theorem mergeWindowClose (i : Nat) : Statement (.mergeWindowClose i) := rfl
theorem sgTransfer (n : Nat) (g : Fin 4) : Statement (.sgTransfer n g) := rfl
theorem mxCommandStart (n : Nat) : Statement (.mxCommandStart n) := rfl
theorem mxCommandComplete (n : Nat) : Statement (.mxCommandComplete n) := rfl
theorem copyStart (n : Nat) : Statement (.copyStart n) := rfl
theorem copyBlock (n : Nat) (k : Fin 2) (i : Nat) : Statement (.copyBlock n k i) := rfl
theorem copyComplete (n : Nat) (k : Fin 2) : Statement (.copyComplete n k) := rfl
theorem tsendUnit (n : Nat) : Statement (.tsendUnit n) := rfl
theorem oqWordSend (n : Nat) (q : Fin 8) : Statement (.oqWordSend n q) := rfl
theorem meshFlitForward (i : Nat) (dir : Dir) : Statement (.meshFlitForward i dir) := rfl
theorem wordDeliver (i : Nat) : Statement (.wordDeliver i) := rfl
theorem tileArrive (i : Nat) : Statement (.tileArrive i) := rfl
theorem putrNameWalk (n : Nat) : Statement (.putrNameWalk n) := rfl
theorem putrDeliver (w : PutFrom) : Statement (.putrDeliver w) := rfl
theorem releaseStationIssue (n : Nat) (c : Fin 4) : Statement (.releaseStationIssue n c) := rfl
theorem translationWalk (r : ReqRef) : Statement (.translationWalk r) := rfl
theorem suuAccept (i : Nat) : Statement (.suuAccept i) := rfl
theorem suuApply (i : Nat) (half : Bool) : Statement (.suuApply i half) := rfl
theorem ackReceive (r : ReqRef) : Statement (.ackReceive r) := rfl
theorem responseReceive (r : ReqRef) : Statement (.responseReceive r) := rfl
theorem waitaTimeout (n : Nat) (c : Fin 4) : Statement (.waitaTimeout n c) := rfl
theorem markerRecorded (i : Nat) : Statement (.markerRecorded i) := rfl
theorem barrierComplete (st : Nat) (g : Fin 16) : Statement (.barrierComplete st g) := rfl
theorem scanCombine (st : Nat) (grp : Fin 8) (round : Word) (q : ScanQ) : Statement (.scanCombine st grp round q) := rfl
theorem phaseGrant (n : Nat) (c : Fin 4) : Statement (.phaseGrant n c) := rfl
theorem phaseWindowEnd (n : Nat) (c : Fin 4) : Statement (.phaseWindowEnd n c) := rfl
theorem clockMaskApply (st : Nat) : Statement (.clockMaskApply st) := rfl
theorem faultRecordDeliver (n : Nat) (w : RecFrom) : Statement (.faultRecordDeliver n w) := rfl
theorem recordDivert (n : Nat) (w : RecFrom) : Statement (.recordDivert n w) := rfl
theorem launch (off : Nat) : Statement (.launch off) := rfl
theorem launchAccept : Statement .launchAccept := rfl
theorem placement : Statement .placement := rfl
theorem requestAged (st : Nat) : Statement (.requestAged st) := rfl
theorem forcedPreempt (st : Nat) : Statement (.forcedPreempt st) := rfl
theorem sceneInstall (st : Nat) : Statement (.sceneInstall st) := rfl
theorem curtainUp (st : Nat) : Statement (.curtainUp st) := rfl
theorem curtainDown (st : Nat) : Statement (.curtainDown st) := rfl
theorem stallReport (st : Nat) : Statement (.stallReport st) := rfl
theorem sceneWatchdog (st : Nat) : Statement (.sceneWatchdog st) := rfl
theorem heartbeatPoll (row col : Nat) (answer : Bool) : Statement (.heartbeatPoll row col answer) := rfl
theorem cellSelfTest (row col : Nat) (pass : Bool) : Statement (.cellSelfTest row col pass) := rfl
theorem preempt (st : Nat) : Statement (.preempt st) := rfl
theorem restore (st : Nat) (x0 y0 : Nat) : Statement (.restore st x0 y0) := rfl
theorem drainAndSwap (st : Nat) : Statement (.drainAndSwap st) := rfl
theorem mappingUpdate (t : MapTable) (level2 : Bool) (idx : Nat) (entry : DWord) : Statement (.mappingUpdate t level2 idx entry) := rfl
theorem stageWithdraw (st : Nat) : Statement (.stageWithdraw st) := rfl
theorem hostEndStage (st : Nat) : Statement (.hostEndStage st) := rfl
theorem hostRelease (st : Nat) (v : Word) : Statement (.hostRelease st v) := rfl
theorem ingressDoorbell (port : Fin 8) (off : Nat) (v : DWord) : Statement (.ingressDoorbell port off v) := rfl
theorem tokenDeliver (k : Nat) : Statement (.tokenDeliver k) := rfl
theorem apertureWrite (port : Fin 8) (off : Nat) (ws : List Word) : Statement (.apertureWrite port off ws) := rfl
theorem apertureRead (port : Fin 8) (off : Nat) (n : Nat) : Statement (.apertureRead port off n) := rfl
theorem egressEntryWrite (q : Nat) : Statement (.egressEntryWrite q) := rfl
theorem pciePortDown (port : Fin 8) : Statement (.pciePortDown port) := rfl
theorem pciePortUp (port : Fin 8) : Statement (.pciePortUp port) := rfl
theorem pcapWrite (v : Word) : Statement (.pcapWrite v) := rfl
theorem domainCommit (v : Word) (held : Bool) : Statement (.domainCommit v held) := rfl
theorem portTraining (p : Fin 128) (m : Byte) (peer : Fin 128) : Statement (.portTraining p m peer) := rfl
theorem collectiveEnable (k : Fin 64) (v : Word) : Statement (.collectiveEnable k v) := rfl
theorem collectiveRound (k : Fin 64) : Statement (.collectiveRound k) := rfl
theorem reshapeGo (v : Word) : Statement (.reshapeGo v) := rfl
theorem reshapeDrainDone : Statement .reshapeDrainDone := rfl
theorem reshapeDrainTimeout : Statement .reshapeDrainTimeout := rfl
theorem portRelock (p : Fin 128) (m : Byte) (peer : Fin 128) : Statement (.portRelock p m peer) := rfl
theorem portRelockTimeout (p : Fin 128) : Statement (.portRelockTimeout p) := rfl
theorem linkLoss (p : Fin 128) : Statement (.linkLoss p) := rfl
theorem linkDeclaredDown (p : Fin 128) : Statement (.linkDeclaredDown p) := rfl
theorem sobSubmit (v : Word) : Statement (.sobSubmit v) := rfl
theorem sobCheckDone (testPass : Bool) : Statement (.sobCheckDone testPass) := rfl
theorem sobOreqCasting : Statement .sobOreqCasting := rfl
theorem sobOreqQuote : Statement .sobOreqQuote := rfl
theorem sobOreqCert : Statement .sobOreqCert := rfl
theorem powerOnBoot (f : BootFinds) : Statement (.powerOnBoot f) := rfl
theorem registerWrite (off : Nat) (v : Word) : Statement (.registerWrite off v) := rfl
theorem clockStretch (n : Nat) (on : Bool) : Statement (.clockStretch n on) := rfl

end Sys2Proof.Laws.Encoded
end

