-- ==== Sys2Proof/Tests/Slice0.lean ====
section
/-! SUPPORT. Slice0.lean: words written out from the layouts, ill-formed terms, worked examples of the spec, and for every
statement a state and operands that meet its hypotheses. -/

namespace Sys2Proof.Tests

open Sys2Proof Sys2Proof.Machine Sys2Proof.Safety

set_option Elab.async false
set_option synthInstance.maxSize 1000
set_option synthInstance.maxHeartbeats 200000

/-! ## Words

Each word is written from the bit fields of spec 03 R69, R74, R75 and the code tables R80 to R85 with the entry tables of
R151, R157, R162, R183, R209, R250, R257, R265, R273, R293, R335, R347; the two of `test_decode_spec` stand in R250 and R347. -/

/-- Whether each pair of words is read as its instruction, which is well formed and has those words. -/
noncomputable def reads (l : List (Nat × Option Nat × Instr)) : Bool :=
  l.all fun e =>
    (match decode e.1 e.2.1 with
      | .ok i => decide (i = e.2.2)
      | .error _ => false) && decide (encode e.2.2 = some (e.1, e.2.1)) && e.2.2.wf

theorem test_decode_integer : reads
    [(0x0400475D, none, .add 1 (.reg 0) (.deq 1) (.peek 2) ⟨3, 5⟩),
      (0x0810C75D, none, .sub 2 (.reg 1) (.deq 1) (.peek 2) ⟨3, 5⟩),
      (0x0C21475D, none, .and 3 (.reg 2) (.deq 1) (.peek 2) ⟨3, 5⟩),
      (0x1031C75D, none, .or 4 (.reg 3) (.deq 1) (.peek 2) ⟨3, 5⟩),
      (0x1442475D, none, .xor 5 (.reg 4) (.deq 1) (.peek 2) ⟨3, 5⟩),
      (0x1852C75D, none, .sll 6 (.reg 5) (.deq 1) (.peek 2) ⟨3, 5⟩),
      (0x1C63475D, none, .srl 7 (.reg 6) (.deq 1) (.peek 2) ⟨3, 5⟩),
      (0x2073C75D, none, .sra 8 (.reg 7) (.deq 1) (.peek 2) ⟨3, 5⟩),
      (0x2480475D, none, .mul 9 (.reg 0) (.deq 1) (.peek 2) ⟨3, 5⟩),
      (0x2890C75D, none, .mulh 10 (.reg 1) (.deq 1) (.peek 2) ⟨3, 5⟩),
      (0x2CA1475D, none, .mulhu 11 (.reg 2) (.deq 1) (.peek 2) ⟨3, 5⟩),
      (0x30B1C75D, none, .min 12 (.reg 3) (.deq 1) (.peek 2) ⟨3, 5⟩),
      (0x34C2475D, none, .max 13 (.reg 4) (.deq 1) (.peek 2) ⟨3, 5⟩),
      (0x38D2C75D, none, .minu 14 (.reg 5) (.deq 1) (.peek 2) ⟨3, 5⟩),
      (0x3CE3475D, none, .maxu 15 (.reg 6) (.deq 1) (.peek 2) ⟨3, 5⟩),
      (0x40F3C75D, none, .seq 16 (.reg 7) (.deq 1) (.peek 2) ⟨3, 5⟩),
      (0x4500475D, none, .sne 17 (.reg 0) (.deq 1) (.peek 2) ⟨3, 5⟩),
      (0x4910C75D, none, .slt 18 (.reg 1) (.deq 1) (.peek 2) ⟨3, 5⟩),
      (0x4D21475D, none, .sltu 19 (.reg 2) (.deq 1) (.peek 2) ⟨3, 5⟩),
      (0x51380446, none, .sel 20 (.oq 0) (.reg 1) (.reg 2) 6),
      (0x554BBDCF, none, .div 21 (.oq 7) (.reg 15) (.reg 14) ⟨1, 7⟩),
      (0x555BBDCF, none, .divu 21 (.oq 7) (.reg 15) (.reg 14) ⟨1, 7⟩),
      (0x556BBDCF, none, .rem 21 (.oq 7) (.reg 15) (.reg 14) ⟨1, 7⟩),
      (0x557BBDCF, none, .remu 21 (.oq 7) (.reg 15) (.reg 14) ⟨1, 7⟩)] = true := by decide +kernel

theorem test_decode_immediate : reads
    [(0x09821601, none, .addi 2 (.reg 4) (.reg 5) 0x201),
      (0x09921601, none, .andi 2 (.reg 4) (.reg 5) 0x201),
      (0x09A21601, none, .ori 2 (.reg 4) (.reg 5) 0x201),
      (0x09B21601, none, .xori 2 (.reg 4) (.reg 5) 0x201),
      (0x09C2141F, none, .slli 2 (.reg 4) (.reg 5) 31),
      (0x09D2141E, none, .srli 2 (.reg 4) (.reg 5) 30),
      (0x09E2141D, none, .srai 2 (.reg 4) (.reg 5) 29),
      (0x09F263FF, none, .slti 2 (.reg 4) (.peek 0) 0x3FF),
      (0x0A0263FF, none, .sltiu 2 (.reg 4) (.peek 0) 0x3FF),
      (0x0A1263FF, none, .seqi 2 (.reg 4) (.peek 0) 0x3FF),
      (0x0E29FFFF, none, .li 3 (.oq 3) 0x7FFF),
      (0x123386D3, none, .fadd 4 (.reg 7) (.reg 1) (.deq 6) ⟨2, 3⟩),
      (0x124386D3, none, .fsub 4 (.reg 7) (.reg 1) (.deq 6) ⟨2, 3⟩),
      (0x125386D3, none, .fmul 4 (.reg 7) (.reg 1) (.deq 6) ⟨2, 3⟩),
      (0x126386D3, none, .fma 4 7 (.reg 1) (.deq 6) ⟨2, 3⟩),
      (0x127386D3, none, .fnms 4 7 (.reg 1) (.deq 6) ⟨2, 3⟩),
      (0x128386D3, none, .fmin 4 (.reg 7) (.reg 1) (.deq 6) ⟨2, 3⟩),
      (0x129386D3, none, .fmax 4 (.reg 7) (.reg 1) (.deq 6) ⟨2, 3⟩),
      (0x12A386D3, none, .feq 4 (.reg 7) (.reg 1) (.deq 6) ⟨2, 3⟩),
      (0x12B386D3, none, .flt 4 (.reg 7) (.reg 1) (.deq 6) ⟨2, 3⟩),
      (0x12C386D3, none, .fle 4 (.reg 7) (.reg 1) (.deq 6) ⟨2, 3⟩)] = true := by decide +kernel

theorem test_decode_single : reads
    [(0x16D4A809, none, .mov 5 (.reg 9) (.reg 10) ⟨1, 1⟩),
      (0x16D4A829, none, .not 5 (.reg 9) (.reg 10) ⟨1, 1⟩),
      (0x16D4A849, none, .neg 5 (.reg 9) (.reg 10) ⟨1, 1⟩),
      (0x16D4A869, none, .abs 5 (.reg 9) (.reg 10) ⟨1, 1⟩),
      (0x16D4A889, none, .clz 5 (.reg 9) (.reg 10) ⟨1, 1⟩),
      (0x16D4A8A9, none, .ctz 5 (.reg 9) (.reg 10) ⟨1, 1⟩),
      (0x16D4A8C9, none, .popc 5 (.reg 9) (.reg 10) ⟨1, 1⟩),
      (0x16D4A8E9, none, .brev 5 (.reg 9) (.reg 10) ⟨1, 1⟩),
      (0x16D4A909, none, .sextb 5 (.reg 9) (.reg 10) ⟨1, 1⟩),
      (0x16D4A929, none, .sexth 5 (.reg 9) (.reg 10) ⟨1, 1⟩),
      (0x16D4A949, none, .zextb 5 (.reg 9) (.reg 10) ⟨1, 1⟩),
      (0x16D4A969, none, .zexth 5 (.reg 9) (.reg 10) ⟨1, 1⟩),
      (0x16D4A989, none, .fabs 5 (.reg 9) (.reg 10) ⟨1, 1⟩),
      (0x16D4A9A9, none, .fneg 5 (.reg 9) (.reg 10) ⟨1, 1⟩),
      (0x16D4A9C9, none, .fclass 5 (.reg 9) (.reg 10) ⟨1, 1⟩),
      (0x16D4A9E9, none, .cvtFi 5 (.reg 9) (.reg 10) ⟨1, 1⟩),
      (0x16D4AA09, none, .cvtIf 5 (.reg 9) (.reg 10) ⟨1, 1⟩),
      (0x16D4AA29, none, .cvtFn 5 (.reg 9) (.reg 10) ⟨1, 1⟩),
      (0x16D4AA49, none, .cvtNf 5 (.reg 9) (.reg 10) ⟨1, 1⟩),
      (0x16D4AA69, none, .frnd 5 (.reg 9) (.reg 10) ⟨1, 1⟩),
      (0x16D4AA89, none, .cvtBf 5 (.reg 9) (.reg 10) ⟨1, 1⟩),
      (0x16D4AAA9, none, .cvtFb 5 (.reg 9) (.reg 10) ⟨1, 1⟩),
      (0x16D4AAC9, none, .cvtHf 5 (.reg 9) (.reg 10) ⟨1, 1⟩),
      (0x16D4AAE9, none, .cvtFh 5 (.reg 9) (.reg 10) ⟨1, 1⟩),
      (0x16D4AB09, none, .cvtE4f 5 (.reg 9) (.reg 10) ⟨1, 1⟩),
      (0x16D4AB29, none, .cvtFe4 5 (.reg 9) (.reg 10) ⟨1, 1⟩),
      (0x16D4AB49, none, .cvtE5f 5 (.reg 9) (.reg 10) ⟨1, 1⟩),
      (0x16D4AB69, none, .cvtFe5 5 (.reg 9) (.reg 10) ⟨1, 1⟩),
      (0x16D4EF89, none, .tag 5 (.reg 9) 3 ⟨1, 1⟩),
      (0x16D4EFA9, none, .qcnt 5 (.reg 9) 3 ⟨1, 1⟩),
      (0x16D4EFC9, none, .xbit 5 (.reg 9) 3 ⟨1, 1⟩)] = true := by decide +kernel

theorem test_decode_words : reads
    [(0x1AE9045D, none, .send 6 2 (.reg 1) (.reg 2) ⟨3, 5⟩),
      (0x1AFB84A5, none, .sendi 6 7 (.reg 1) 0xA5),
      (0x1B01C2FD, none, .join 6 (.reg 3) 0 7 ⟨3, 5⟩),
      (0x1B1052BD, none, .drop 6 4 (some 5) ⟨3, 5⟩),
      (0x1B105000, none, .drop 6 4 none ⟨0, 0⟩),
      (0x1B2F045D, none, .putr 6 3 6 (.reg 1) (.reg 2) ⟨3, 5⟩),
      (0x1F380EAA, none, .ldw 7 (.oq 0) (.reg 3) 0x2AA),
      (0x1F488EAA, none, .ldh 7 (.oq 1) (.reg 3) 0x2AA),
      (0x1F590EAA, none, .ldhu 7 (.oq 2) (.reg 3) 0x2AA),
      (0x1F698EAA, none, .ldb 7 (.oq 3) (.reg 3) 0x2AA),
      (0x1F7A0EAA, none, .ldbu 7 (.oq 4) (.reg 3) 0x2AA),
      (0x1F880D55, none, .stw 7 (.deq 0) (.reg 3) 0x155),
      (0x1F988D55, none, .sth 7 (.deq 1) (.reg 3) 0x155),
      (0x1FA90D55, none, .stb 7 (.deq 2) (.reg 3) 0x155),
      (0x23B08803, none, .pand 8 1 2 3),
      (0x23B08823, none, .por 8 1 2 3),
      (0x23B08843, none, .pxor 8 1 2 3),
      (0x23B21C60, none, .pnot 8 4 7),
      (0x23B88080, none, .pmovx 8 (.oq 1)),
      (0x23B078A0, none, .psetx 8 (.peek 6)),
      (0xFBC00000, none, .nop 62),
      (0xFBC00020, none, .fenceL 62)] = true := by decide +kernel

theorem test_decode_vector1 : reads
    [(0x27F00B85, some 0xFF7E001D, .vadd ⟨9, .n8, 63, ⟨3, 5⟩⟩ (.so 3) (.sq 0) (.v 5)),
      (0x27F01B85, some 0xFEFE001D, .vsub ⟨9, .i8, 63, ⟨3, 5⟩⟩ (.so 3) (.sq 0) (.v 5)),
      (0x27F02B85, some 0xFE7E001D, .vmul ⟨9, .i16, 63, ⟨3, 5⟩⟩ (.so 3) (.sq 0) (.v 5)),
      (0x27F04B85, some 0xFDFE001D, .vmin ⟨9, .i32, 63, ⟨3, 5⟩⟩ (.so 3) (.sq 0) (.v 5)),
      (0x27F05B85, some 0xFD7E001D, .vmax ⟨9, .f16, 63, ⟨3, 5⟩⟩ (.so 3) (.sq 0) (.v 5)),
      (0x27F06B85, some 0xFDFE001D, .vand ⟨9, .i32, 63, ⟨3, 5⟩⟩ (.so 3) (.sq 0) (.v 5)),
      (0x27F07B85, some 0xFDFE001D, .vor ⟨9, .i32, 63, ⟨3, 5⟩⟩ (.so 3) (.sq 0) (.v 5)),
      (0x27F08B85, some 0xFDFE001D, .vxor ⟨9, .i32, 63, ⟨3, 5⟩⟩ (.so 3) (.sq 0) (.v 5)),
      (0x27F09B85, some 0xFF7E001D, .vshl ⟨9, .n8, 63, ⟨3, 5⟩⟩ (.so 3) (.sq 0) (.v 5)),
      (0x27F0AB85, some 0xFEFE001D, .vshr ⟨9, .i8, 63, ⟨3, 5⟩⟩ (.so 3) (.sq 0) (.v 5)),
      (0x27F0BB85, some 0xFE7E001D, .vsra ⟨9, .i16, 63, ⟨3, 5⟩⟩ (.so 3) (.sq 0) (.v 5)),
      (0x27F0CB85, some 0xFC7E001D, .vceq ⟨9, .f32, 63, ⟨3, 5⟩⟩ (.so 3) (.sq 0) (.v 5)),
      (0x27F0DB85, some 0xFCFE001D, .vclt ⟨9, .bf16, 63, ⟨3, 5⟩⟩ (.so 3) (.sq 0) (.v 5)),
      (0x27F0EB85, some 0xFD7E001D, .vcle ⟨9, .f16, 63, ⟨3, 5⟩⟩ (.so 3) (.sq 0) (.v 5)),
      (0x27F14B85, some 0xFEFE001D, .vperm ⟨9, .i8, 63, ⟨3, 5⟩⟩ (.so 3) (.sq 0) (.v 5)),
      (0x27F1DB85, some 0xFCFE001D, .vldexp ⟨9, .bf16, 63, ⟨3, 5⟩⟩ (.so 3) (.sq 0) (.v 5)),
      (0x27F03619, some 0xFC02001D, .vfma ⟨9, .f32, 1, ⟨3, 5⟩⟩ 6 (.v 1) (.sq 1)),
      (0x27F1E619, some 0xFD02001D, .vdot2 ⟨9, .f16, 1, ⟨3, 5⟩⟩ 6 (.v 1) (.sq 1)),
      (0x27F0F234, some 0xFD81401D, .vsel ⟨9, .i32, 0, ⟨3, 5⟩⟩ (.v 2) (.v 3) (.v 4) (.sq 2)),
      (0x27F1F234, some 0xFF01401D, .vclamp ⟨9, .n8, 0, ⟨3, 5⟩⟩ (.v 2) (.v 3) (.v 4) (.sq 2)),
      (0x27F10230, some 0xFC00B81D, .vcvt ⟨9, .f32, 0, ⟨3, 5⟩⟩ (.v 2) (.v 3) (.toTy .i8) 12),
      (0x27F10230, some 0xFD01401D, .vcvt ⟨9, .f16, 0, ⟨3, 5⟩⟩ (.v 2) (.v 3) .fromE4m3 0),
      (0x27F11200, some 0xFE041E1D, .vbcast ⟨9, .i16, 2, ⟨3, 5⟩⟩ (.v 2) 15),
      (0x27F12234, some 0xFE841C1D, .vext ⟨9, .i8, 2, ⟨3, 5⟩⟩ (.v 2) (.v 3) (.v 4) 14),
      (0x27F13230, some 0xFD841A1D, .vins ⟨9, .i32, 2, ⟨3, 5⟩⟩ (.v 2) (.v 3) 13),
      (0x27F157B0, some 0xFC06001D, .vrsum ⟨9, .f32, 3, ⟨3, 5⟩⟩ 7 (.sq 3)),
      (0x27F167B0, some 0xFC86001D, .vrmax ⟨9, .bf16, 3, ⟨3, 5⟩⟩ 7 (.sq 3)),
      (0x27F177B0, some 0xFD06001D, .vrmin ⟨9, .f16, 3, ⟨3, 5⟩⟩ 7 (.sq 3)),
      (0x27F18870, some 0xFC06001D, .vabs ⟨9, .f32, 3, ⟨3, 5⟩⟩ (.so 0) (.v 7)),
      (0x27F19870, some 0xFF06001D, .vneg ⟨9, .n8, 3, ⟨3, 5⟩⟩ (.so 0) (.v 7)),
      (0x27F1A870, some 0xFD86001D, .vmov ⟨9, .i32, 3, ⟨3, 5⟩⟩ (.so 0) (.v 7)),
      (0x27F1B100, some 0xFD9E121D, .vld ⟨9, .i32, 15, ⟨3, 5⟩⟩ (.v 1) 9)] = true := by decide +kernel

theorem test_decode_vector2 : reads
    [(0x27F1C090, some 0xFD9E121D, .vst ⟨9, .i32, 15, ⟨3, 5⟩⟩ (.sq 1) 9),
      (0x27F20920, some 0xFC0C001D, .sfExp2 ⟨9, .f32, 6, ⟨3, 5⟩⟩ (.so 1) (.v 2)),
      (0x27F21920, some 0xFC8C001D, .sfLog2 ⟨9, .bf16, 6, ⟨3, 5⟩⟩ (.so 1) (.v 2)),
      (0x27F22920, some 0xFD0C001D, .sfRcp ⟨9, .f16, 6, ⟨3, 5⟩⟩ (.so 1) (.v 2)),
      (0x27F23920, some 0xFC0C001D, .sfRsq ⟨9, .f32, 6, ⟨3, 5⟩⟩ (.so 1) (.v 2)),
      (0x27F24920, some 0xFC8C001D, .sfSqrt ⟨9, .bf16, 6, ⟨3, 5⟩⟩ (.so 1) (.v 2)),
      (0x27F25920, some 0xFD0C001D, .sfTanh ⟨9, .f16, 6, ⟨3, 5⟩⟩ (.so 1) (.v 2)),
      (0x27F26920, some 0xFC0C001D, .sfSigm ⟨9, .f32, 6, ⟨3, 5⟩⟩ (.so 1) (.v 2)),
      (0x27F27920, some 0xFC8C001D, .sfSin ⟨9, .bf16, 6, ⟨3, 5⟩⟩ (.so 1) (.v 2)),
      (0x27F28920, some 0xFD0C001D, .sfCos ⟨9, .f16, 6, ⟨3, 5⟩⟩ (.so 1) (.v 2))] = true := by decide +kernel

theorem test_decode_matrix : reads
    [(0x2BF30D74, some 0xFEB2801D, .mxMma 10 3 2 7 .e4e5 true 5 9 false true false ⟨3, 5⟩),
      (0x2BF31701, some 0xFC1F6C1D, .mxGmma 10 1 6 0 .f16 false 15 true false true 11 ⟨3, 5⟩),
      (0x2BF32800, some 0xFC00001D, .mxZero 10 2 ⟨3, 5⟩),
      (0x2BF33A80, some 0xFC01001D, .mxLda 10 2 5 true ⟨3, 5⟩),
      (0x2BF34A87, some 0xFE00001D, .mxRda 10 2 5 7 true ⟨3, 5⟩),
      (0x2BF35800, some 0xFC005C1D, .mxScale 10 2 true 7 ⟨3, 5⟩),
      (0x2BF36000, some 0xFC00141D, .mxIssue 10 5 ⟨3, 5⟩),
      (0x2FF400D0, some 0xFC00001D, .scCfg 11 6 true ⟨3, 5⟩),
      (0x2FF41718, some 0xFCE0001D, .scLocal 11 .lse true (.sq 0) (.v 3) 32 ⟨3, 5⟩),
      (0x2FF428A4, some 0xFC00001D, .scAgg 11 .maxidx 5 (.v 4) ⟨3, 5⟩),
      (0x2FF421A4, some 0xFC00801D, .scAggRel 11 .addI32 5 (.v 4) ⟨3, 5⟩),
      (0x2FF43080, some 0xFDC0001D, .scPfx 11 4 7 ⟨3, 5⟩),
      (0x2FF44615, some 0xFE7F001D, .scApply 11 .affine true 5 (.so 1) 63 ⟨3, 5⟩),
      (0x2FF450E0, some 0xFC00001D, .scReset 11 7 ⟨3, 5⟩)] = true := by decide +kernel

theorem test_decode_stream : reads
    [(0x33F50388, some 0xFC00001D, .sgSetBase 12 3 (.deq 1) ⟨3, 5⟩),
      (0x33F50389, some 0xFC00001D, .sgSetCtl 12 3 (.deq 1) ⟨3, 5⟩),
      (0x33F5038A, some 0xFD20007D, .sgSetLv 12 3 (.deq 1) (.reg 9) 3 ⟨3, 5⟩),
      (0x33F51200, some 0xFC00001D, .sgGo 12 2 ⟨3, 5⟩),
      (0x33F52200, some 0xFC00001D, .sgHalt 12 2 ⟨3, 5⟩),
      (0x33F53120, some 0xFC00001D, .sgStatCtl 12 1 (.reg 4) ⟨3, 5⟩),
      (0x33F53121, some 0xFC00005D, .sgStatIdx 12 1 (.reg 4) 2 ⟨3, 5⟩),
      (0x33F53122, some 0xFC00001D, .sgStatOcc 12 1 (.reg 4) ⟨3, 5⟩),
      (0x33F547F8, some 0xFC00001D, .gSetW0 12 7 (.peek 7) ⟨3, 5⟩),
      (0x33F547F9, some 0xFC00001D, .gSetW1 12 7 (.peek 7) ⟨3, 5⟩),
      (0x33F55600, some 0xFC00001D, .gAdvPush 12 6 ⟨3, 5⟩),
      (0x33F55601, some 0xFC00001D, .gAdvPop 12 6 ⟨3, 5⟩),
      (0x33F565B8, some 0xFC00001D, .gStatCnt 12 5 (.oq 7) ⟨3, 5⟩),
      (0x33F565B9, some 0xFC00001D, .gStatHead 12 5 (.oq 7) ⟨3, 5⟩),
      (0x33F565BA, some 0xFC00001D, .gStatTail 12 5 (.oq 7) ⟨3, 5⟩),
      (0x33F574B0, some 0xFC00001D, .tsend 12 4 6 ⟨3, 5⟩),
      (0x37F60F00, some 0xFC00001D, .cpArm 13 15 ⟨3, 5⟩),
      (0x37F60E09, some 0xFE18001D, .cpArmSet 13 14 (.reg 1) (.deq 0) 3 ⟨3, 5⟩),
      (0x37F61900, some 0xFC00001D, .cpFire 13 9 ⟨3, 5⟩),
      (0x37F61901, some 0xFC00001D, .cpFireNow 13 9 ⟨3, 5⟩),
      (0x37F62009, some 0xFC57FFFD, .cpGet 13 (.reg 1) (.reg 2) 2 0x3FFF true ⟨3, 5⟩),
      (0x37F63008, some 0xFC48003D, .cpPut 13 (.reg 1) (.reg 2) 1 1 false ⟨3, 5⟩),
      (0x37F64800, some 0xFC00001D, .cpCancel 13 8 ⟨3, 5⟩),
      (0x37F65730, some 0xFC00001D, .cpStatDep 13 7 (.reg 6) ⟨3, 5⟩),
      (0x37F65031, some 0xFC00001D, .cpStatEng 13 (.reg 6) ⟨3, 5⟩)] = true := by decide +kernel

theorem test_decode_wafer1 : reads
    [(0x3BF70C12, some 0xFE00411D, .wstw 14 true 3 0x801 (.deq 2) ⟨3, 5⟩),
      (0x3BF718A4, some 0xFDFFC03D, .wstd 14 false 2 0x7FF (.reg 4) (.reg 5) ⟨3, 5⟩),
      (0x3BF72406, some 0xFC00415D, .wstv 14 true 1 1 6 ⟨3, 5⟩),
      (0x3BF734E8, some 0xFC00401D, .amoAdd 14 .relaxed 1 1 0 (.reg 7) ⟨3, 5⟩),
      (0x3BF74408, some 0xFC00403D, .amodAdd 14 .relaxed 1 1 0 0 ⟨3, 5⟩),
      (0x3BF734E9, some 0xFC00829D, .amoAnd 14 .acquire 1 2 1 (.reg 7) ⟨3, 5⟩),
      (0x3BF7444A, some 0xFC0082BD, .amodAnd 14 .acquire 1 2 1 1 ⟨3, 5⟩),
      (0x3BF734EA, some 0xFC00C51D, .amoOr 14 .release 1 3 2 (.reg 7) ⟨3, 5⟩),
      (0x3BF7448C, some 0xFC00C53D, .amodOr 14 .release 1 3 2 2 ⟨3, 5⟩),
      (0x3BF734EB, some 0xFC01079D, .amoXor 14 .acqRel 1 4 3 (.reg 7) ⟨3, 5⟩),
      (0x3BF744CE, some 0xFC0107BD, .amodXor 14 .acqRel 1 4 3 3 ⟨3, 5⟩),
      (0x3BF734EC, some 0xFC01481D, .amoMin 14 .relaxed 1 5 4 (.reg 7) ⟨3, 5⟩),
      (0x3BF74508, some 0xFC01483D, .amodMin 14 .relaxed 1 5 0 4 ⟨3, 5⟩),
      (0x3BF734ED, some 0xFC018A9D, .amoMax 14 .acquire 1 6 5 (.reg 7) ⟨3, 5⟩),
      (0x3BF7454A, some 0xFC018ABD, .amodMax 14 .acquire 1 6 1 5 ⟨3, 5⟩),
      (0x3BF734EE, some 0xFC01CD1D, .amoMinn 14 .release 1 7 6 (.reg 7) ⟨3, 5⟩),
      (0x3BF7458C, some 0xFC01CD3D, .amodMinn 14 .release 1 7 2 6 ⟨3, 5⟩),
      (0x3BF734EF, some 0xFC020F9D, .amoMaxn 14 .acqRel 1 8 7 (.reg 7) ⟨3, 5⟩),
      (0x3BF745CE, some 0xFC020FBD, .amodMaxn 14 .acqRel 1 8 3 7 ⟨3, 5⟩),
      (0x3BF734E8, some 0xFC02501D, .amoSwap 14 .relaxed 1 9 0 (.reg 7) ⟨3, 5⟩),
      (0x3BF74408, some 0xFC02503D, .amodSwap 14 .relaxed 1 9 0 0 ⟨3, 5⟩),
      (0x3BF734E9, some 0xFC02929D, .amoCas 14 .acquire 1 10 1 (.reg 7) ⟨3, 5⟩),
      (0x3BF7444A, some 0xFC0292BD, .amodCas 14 .acquire 1 10 1 1 ⟨3, 5⟩),
      (0x3BF7300D, some 0xFC00149D, .amoLd 14 .acquire 0 0 5 ⟨3, 5⟩),
      (0x3BF7400E, some 0xFC00153D, .amodLd 14 .release 0 0 3 ⟨3, 5⟩),
      (0x3BF75320, some 0xFFFFC01D, .redAddI32 14 false 0 0xFFF (.peek 1) ⟨3, 5⟩),
      (0x3BF75720, some 0xFFFFC31D, .redAddF32 14 true 1 0xFFF (.peek 1) ⟨3, 5⟩),
      (0x3BF75B20, some 0xFFFFC41D, .redAddBf16x2 14 false 2 0xFFF (.peek 1) ⟨3, 5⟩),
      (0x3BF75F20, some 0xFFFFC71D, .redMaxF32 14 true 3 0xFFF (.peek 1) ⟨3, 5⟩),
      (0x3BF75320, some 0xFFFFC81D, .redMinF32 14 false 0 0xFFF (.peek 1) ⟨3, 5⟩),
      (0x3BF75720, some 0xFFFFCB1D, .redAnd 14 true 1 0xFFF (.peek 1) ⟨3, 5⟩),
      (0x3BF75B20, some 0xFFFFCC1D, .redOr 14 false 2 0xFFF (.peek 1) ⟨3, 5⟩)] = true := by decide +kernel

theorem test_decode_wafer2 : reads
    [(0x3BF75F20, some 0xFFFFCF1D, .redXor 14 true 3 0xFFF (.peek 1) ⟨3, 5⟩),
      (0x3BF76864, some 0xFC01401D, .waita 14 2 5 (.reg 4) (.word (.reg 3)) ⟨3, 5⟩),
      (0x3BF768C4, some 0xFC01403D, .waita 14 2 5 (.reg 4) (.pair 3) ⟨3, 5⟩),
      (0x3BF77800, some 0xFC01401D, .wpoke 14 false 2 5 ⟨3, 5⟩),
      (0x3BF77800, some 0xFC01403D, .wpoke 14 true 2 5 ⟨3, 5⟩),
      (0x3BF78000, some 0xFC00001D, .fenceW 14 ⟨3, 5⟩),
      (0x3BF78000, some 0xFC00021D, .fenceC 14 ⟨3, 5⟩),
      (0x3BF78000, some 0xFC00041D, .fenceAll 14 ⟨3, 5⟩),
      (0x3BF793A0, some 0xFC00001D, .mark 14 (.peek 5) ⟨3, 5⟩)] = true := by decide +kernel

theorem test_decode_system : reads
    [(0x3FF90000, some 0xFC0001BD, .barArr 15 13 ⟨3, 5⟩),
      (0x3FF90000, some 0xFC0003BD, .barArrRel 15 13 ⟨3, 5⟩),
      (0x3FF91180, some 0xFC00019D, .barStat 15 12 (.reg 3) ⟨3, 5⟩),
      (0x3FF92000, some 0xFE13579D, .phase 15 0xABC 9 16 ⟨3, 5⟩),
      (0x3FF9200D, some 0xFE13579D, .phaseGang 15 (.reg 3) 0xABC 9 16 ⟨3, 5⟩),
      (0x3FF93000, some 0xFC00001D, .phaseEnd 15 ⟨3, 5⟩),
      (0x3FF9300D, some 0xFC00001D, .phaseEndGang 15 (.reg 3) ⟨3, 5⟩),
      (0x3FF94180, some 0xFC00005D, .pwrRd 15 (.reg 3) 2 ⟨3, 5⟩),
      (0x3FFA9000, some 0xFC00017D, .halt 15 0xB ⟨3, 5⟩),
      (0x3FFAA000, some 0xFC00103D, .presClr 15 0x81 ⟨3, 5⟩),
      (0x3FFAB180, some 0xFC00001D, .timeRd 15 (.reg 3) ⟨3, 5⟩),
      (0x3FFAB181, some 0xFC00001D, .timeRdHi 15 (.reg 3) ⟨3, 5⟩),
      (0x3FFACA00, some 0xFC00001D, .cycRd 15 (.oq 4) ⟨3, 5⟩),
      (0x3FFACA01, some 0xFC00001D, .cycRdHi 15 (.oq 4) ⟨3, 5⟩),
      (0x3FFACA02, some 0xFC00001D, .cycRdFired 15 (.oq 4) ⟨3, 5⟩),
      (0x3FFACA03, some 0xFC00001D, .cycRdIdle 15 (.oq 4) ⟨3, 5⟩),
      (0x3FFA2190, some 0xFC01FDBD, .cfgRd 15 (.reg 3) (.reg 4) 0xFED ⟨3, 5⟩),
      (0x3FFA3190, some 0xFC01FDBD, .cfgWr 15 (.reg 3) (.reg 4) 0xFED ⟨3, 5⟩),
      (0x3FFA4010, some 0xFC01BC9D, .slotLd 15 (.reg 4) 100 27 ⟨3, 5⟩),
      (0x3FFA5190, some 0xFC0007DD, .cueWr 15 (.reg 3) (.reg 4) 62 ⟨3, 5⟩),
      (0x3FFA6000, some 0xFC0008BD, .cueEn 15 5 true ⟨3, 5⟩),
      (0x3FFA7180, some 0xFC00001D, .fcrRd 15 (.reg 3) ⟨3, 5⟩),
      (0x3FFA8190, some 0xFFE0FFFD, .fcrWr 15 (.reg 3) (.reg 4) 0x1F07FF ⟨3, 5⟩),
      (0x3FFAD180, some 0xFC0000DD, .idRd 15 (.reg 3) 6 ⟨3, 5⟩),
      (0x3FFA0010, some 0xFC0000FD, .trap 15 (.reg 4) 7 ⟨3, 5⟩),
      (0x3FFA0011, some 0xFC0000FD, .trapPark 15 (.reg 4) 7 ⟨3, 5⟩),
      (0x3FFA1010, some 0xFC0003FD, .bkpt 15 (.reg 4) 31 ⟨3, 5⟩)] = true := by decide +kernel

theorem test_decode_longscalar : reads
    [(0x43FC0955, some 0xFD234567, .liw 16 (.oq 2) (0x55 * 2 ^ 25 + 0x1234567)),
      (0x43FC1190, some 0xFC10003D, .addip 16 (.reg 3) (.reg 4) 0x8001 ⟨3, 5⟩),
      (0x43FC1191, some 0xFC10003D, .addipHi 16 (.reg 3) (.reg 4) 0x8001 ⟨3, 5⟩),
      (0x43FC2193, some 0xFCBFFF9D, .lea 16 (.reg 3) (.reg 4) (.reg 5) 3 0xFFFC ⟨3, 5⟩),
      (0x43FC3190, some 0xFC1FFFDD, .cmpiEq 16 (.reg 3) (.reg 4) 0xFFFE ⟨3, 5⟩),
      (0x43FC3191, some 0xFC1FFFDD, .cmpiNe 16 (.reg 3) (.reg 4) 0xFFFE ⟨3, 5⟩),
      (0x43FC3192, some 0xFC1FFFDD, .cmpiLt 16 (.reg 3) (.reg 4) 0xFFFE ⟨3, 5⟩),
      (0x43FC3193, some 0xFC1FFFDD, .cmpiLtu 16 (.reg 3) (.reg 4) 0xFFFE ⟨3, 5⟩),
      (0x43FC4190, some 0xFC002D1D, .extr 16 (.reg 3) (.reg 4) 8 11 ⟨3, 5⟩),
      (0x43FC4191, some 0xFC002D1D, .extrS 16 (.reg 3) (.reg 4) 8 11 ⟨3, 5⟩),
      (0x43FC5190, some 0xFC0003FD, .insr 16 3 (.reg 4) 31 0 ⟨3, 5⟩),
      (0x43FC6190, some 0xFCA0001D, .madd 16 3 (.reg 4) (.reg 5) ⟨3, 5⟩),
      (0x43FC7180, some 0xFC00001D, .decp 16 3 5),
      (0x43FC8012, some 0xFCA0001D, .wSet 16 2 (.reg 4) (.reg 5) ⟨3, 5⟩),
      (0x43FC9013, some 0xFC00023D, .wAdd 16 3 (.reg 4) 17 ⟨3, 5⟩),
      (0x43FCA001, some 0xFC00041D, .wAddi 16 1 0x20 ⟨3, 5⟩),
      (0x43FCB182, some 0xFC00003D, .wGet 16 (.reg 3) 2 true ⟨3, 5⟩),
      (0x43FCC190, some 0xFC0FFFFD, .ldwp 16 (.reg 3) (.reg 4) 0x7FFF ⟨3, 5⟩),
      (0x43FCD190, some 0xFC0FFFFD, .ldhp 16 (.reg 3) (.reg 4) 0x7FFF ⟨3, 5⟩),
      (0x43FCE190, some 0xFC0FFFFD, .ldhup 16 (.reg 3) (.reg 4) 0x7FFF ⟨3, 5⟩),
      (0x43FCF190, some 0xFC0FFFFD, .ldbp 16 (.reg 3) (.reg 4) 0x7FFF ⟨3, 5⟩),
      (0x43FD0190, some 0xFC0FFFFD, .ldbup 16 (.reg 3) (.reg 4) 0x7FFF ⟨3, 5⟩)] = true := by decide +kernel

theorem test_decode_spec : reads
    [(0x17FA000D, some 0xFC00012A, .trapPark 5 (.reg 3) 9 ⟨1, 2⟩),
      (0x13FCC20C, some 0xFC00000B, .ldwp 4 (.reg 4) (.reg 3) 0 ⟨1, 3⟩)] = true := by decide +kernel

/-! ## Ill-formed terms: one for each check of WellFormed.lean -/

/-- A vector head of a type. -/
def vh (t : Ty) : VHead := ⟨0, t, 0, ⟨0, 0⟩⟩

theorem test_wf_refuses : ([.join 0 (.reg 1) 2 2 ⟨0, 0⟩, .drop 0 3 (some 3) ⟨0, 0⟩, .vand (vh .f32) (.v 0) (.v 1) (.v 2),
    .vor (vh .i16) (.v 0) (.v 1) (.v 2), .vxor (vh .n8) (.v 0) (.v 1) (.v 2), .vshl (vh .f32) (.v 0) (.v 1) (.v 2),
    .vshr (vh .f16) (.v 0) (.v 1) (.v 2), .vsra (vh .n8) (.v 0) (.v 1) (.v 2), .vsel (vh .f32) (.v 0) (.v 1) (.v 2) (.v 3),
    .vcvt (vh .i8) (.v 0) (.v 1) (.toTy .i8) 0, .vcvt (vh .i32) (.v 0) (.v 1) .toE4m3 0, .vbcast (vh .f32) (.v 0) 1,
    .vext (vh .n8) (.v 0) (.v 1) (.v 2) 1, .vins (vh .bf16) (.v 0) (.v 1) 1, .vperm (vh .f32) (.v 0) (.v 1) (.v 2), .vmov (vh .i16) (.v 0) (.v 1),
    .vld (vh .f32) (.v 0) 1, .vst (vh .i8) (.v 0) 1, .vldexp (vh .i32) (.v 0) (.v 1) (.v 2), .vdot2 (vh .f32) 0 (.v 1) (.v 2),
    .sfExp2 (vh .i32) (.v 0) (.v 1), .sfLog2 (vh .i16) (.v 0) (.v 1), .sfRcp (vh .i8) (.v 0) (.v 1), .sfRsq (vh .n8) (.v 0) (.v 1),
    .sfSqrt (vh .i32) (.v 0) (.v 1), .sfTanh (vh .i32) (.v 0) (.v 1), .sfSigm (vh .i32) (.v 0) (.v 1), .sfSin (vh .i32) (.v 0) (.v 1),
    .sfCos (vh .i32) (.v 0) (.v 1)] : List Instr).all (fun i => !i.wf) = true := by decide

theorem test_wf_refuses_more : ([.mxMma 0 0 1 1 .bf16 false 0 0 false false false ⟨0, 0⟩, .mxGmma 0 0 2 2 .i8 false 0 false false false 1 ⟨0, 0⟩,
    .scLocal 0 .addF32 true (.v 1) (.so 1) 0 ⟨0, 0⟩, .scApply 0 .addF32 false 1 (.v 1) 1 ⟨0, 0⟩, .phase 0 0 0 4 ⟨0, 0⟩, .phase 0 0 1 17 ⟨0, 0⟩,
    .phaseGang 0 (.reg 1) 0 0 4 ⟨0, 0⟩, .pwrRd 0 (.reg 1) 4 ⟨0, 0⟩, .slotLd 0 (.reg 1) 127 1 ⟨0, 0⟩, .cueWr 0 (.reg 1) (.reg 2) 63 ⟨0, 0⟩,
    .cueEn 0 63 true ⟨0, 0⟩, .fcrWr 0 (.reg 1) (.reg 2) 0x800 ⟨0, 0⟩, .idRd 0 (.reg 1) 7 ⟨0, 0⟩, .extr 0 (.reg 1) (.reg 2) 31 1 ⟨0, 0⟩,
    .extrS 0 (.reg 1) (.reg 2) 1 31 ⟨0, 0⟩, .insr 0 1 (.reg 2) 16 16 ⟨0, 0⟩] : List Instr).all (fun i => !i.wf) = true := by decide

/-! ## States for tests -/

/-- Sixteen lanes that differ. -/
def lanes (n : Nat) : VWord := BitVec.ofNat 512 ((List.range 16).foldl (fun a i => a * 2 ^ 32 + ((n + i) * 2654435761 * (n + 3 * i + 1)) % 2 ^ 32) 0)

/-- A context whose registers differ. -/
def someCtx (k : Nat) : Context :=
  { Context.blank with
    x := Vector.ofFn fun i => BitVec.ofNat 32 (64 * (i.val + 16 * k))
    v := Vector.ofFn fun i => lanes (i.val + 8 * k + 1)
    w := Vector.ofFn fun i => BitVec.ofNat 64 (0x10000 * (i.val + 1))
    p := 0x35 }

/-- A running cell with words in its queues and a line of SRAM. -/
def someCell : CellState :=
  { benchCell 0 0 with
    ctxs := Vector.ofFn fun k => someCtx k.val
    sram := Mem.writeN [] 64 64 (lanes 9).toNat
    iq := Vector.ofFn fun i => [⟨BitVec.ofNat 32 (1000 + i.val), BitVec.ofNat 8 (3 * i.val), i.val % 2 == 1⟩, zeroWord]
    sq := Vector.ofFn fun i => [⟨lanes (i.val + 50), i.val == 1⟩, ⟨lanes (i.val + 60), false⟩] }

/-- A placed stage of 7 by 5 cells at the origin whose scene runs. -/
def someStage : Stage := { benchStage with w := 7, h := 5, job := 77, scene := 5, nsc := 9 }

/-- The module with that stage and that cell, and a context of it in focus. -/
def base : State :=
  { State.reset with
    cells := [(0, someCell)], stages := [(0, someStage)], focus := ⟨0, 7, 0⟩, strip := 5000
    host := { HostSide.reset with modState := 2 } }

/-- `base` with its cell changed. -/
def withCell (f : CellState → CellState) : State := base.setCur (f base.cur)

/-- `base` with the focused context changed. -/
def withCtx (f : Context → Context) : State := base.setCur (base.cur.setCtx 0 (f base.here))

/-- `base` with a register changed. -/
def withX (r : Fin 16) (v : Word) : State := withCtx fun t => { t with x := vset t.x r v }

/-! ## Hypotheses met: scalar instructions -/

theorem test_hyp_IntegerPairResults : Ready base 0 ⟨[.reg 1, .deq 2], some (.reg 3), true, []⟩ ∧
    Ready base 0 ⟨[.peek 2, .deq 2], some (.oq 3), true, []⟩ ∧ Ready base 62 ⟨[.reg 1, .reg 1], some (.reg 0), true, []⟩ := by
  unfold Ready; decide +kernel

theorem test_hyp_ImmediateResults : Ready base 0 ⟨[.peek 7], some (.oq 7), true, []⟩ ∧ Ready base 0 ⟨[], some (.reg 0), true, []⟩ := by
  unfold Ready; decide +kernel

theorem test_hyp_LongScalarResults : Ready base 0 ⟨[], some (.oq 0), true, []⟩ ∧ Ready base 0 ⟨[.reg 15], some (.reg 15), true, []⟩ ∧
    Ready base 0 ⟨[.reg 1, .deq 0], some (.reg 5), true, []⟩ := by unfold Ready; decide +kernel

theorem test_hyp_FieldAndCountResults : (31 : Fin 32).val + ((0 : Fin 32).val + 1) ≤ 32 ∧ (0 : Fin 32).val + ((31 : Fin 32).val + 1) ≤ 32 ∧
    Ready base 0 ⟨[.deq 1], some (.oq 2), true, []⟩ ∧ Ready base 0 ⟨[.deq 1], some (.reg 0), true, []⟩ ∧
    Ready base 0 ⟨[], some (.reg 0), true, []⟩ := by unfold Ready; decide +kernel

theorem test_hyp_SingleSourceResults : Ready base 0 ⟨[.deq 7], some (.oq 0), true, []⟩ := by unfold Ready; decide +kernel

theorem test_hyp_QueueAndPredicateResults : base.cur.iq[(3 : Fin 8)] = [⟨1003, 9, true⟩, zeroWord] ∧
    Ready base 0 ⟨[.peek 3], some (.reg 4), true, []⟩ ∧ Ready base 0 ⟨[], some (.reg 4), true, []⟩ ∧ Ready base 0 ⟨[], none, true, []⟩ ∧
    Ready base 0 ⟨[.deq 3], none, true, []⟩ := by unfold Ready; decide +kernel

theorem test_hyp_AddressAndControlRegisters : Ready base 0 ⟨[.reg 1, .peek 2], none, true, []⟩ ∧ Ready base 0 ⟨[.reg 1], none, true, []⟩ ∧
    Ready base 0 ⟨[], none, true, []⟩ ∧ Ready base 0 ⟨[], some (.oq 1), true, []⟩ ∧
    (Instr.fcrWr 0 (.oq 1) (.reg 1) 0x1F07FF ⟨0, 0⟩).wf = true ∧ Ready base 0 ⟨[.reg 1], some (.oq 1), true, []⟩ := by
  unfold Ready; decide +kernel

theorem test_hyp_FloatScalarResults : Ready base 0 ⟨[.reg 1, .reg 2], some (.reg 3), true, []⟩ ∧ Ready base 0 ⟨[.reg 1], some (.oq 3), true, []⟩ := by
  unfold Ready; decide +kernel

theorem test_hyp_FloatOrderAndWidening : (⟨0, false, false, false⟩ : Mode).daz = false ∧ 0x80 < 2 ^ (Fmt.e4m3.mag + 1) ∧
    0x38 < 2 ^ (Fmt.e4m3.mag + 1) ∧ Fval.of .e4m3 0x80 = .fin true 0 (-9) ∧ Fval.of .e4m3 0x38 = .fin false 8 (-3) ∧
    (3 : Nat) < 4 ∧ IsInfOf .f32 0xFF800000 ∧ ¬ IsNanOf .f32 0x80000001 ∧ IsFin .f16 0x3C01 ∧ IsFin .f16 0x83FF ∧ IsFin .f32 0x80000000 ∧ IsNanOf .f32 0x7F800001 ∧ IsSnanOf .f32 0x7F800001 ∧
    IsNanOf .e4m3 0xFF ∧ ¬ IsSnanOf .e4m3 0xFF ∧ IsInfOf .e5m2 0xFC ∧ IsFin .e5m2 0x7B := by
  unfold IsFin IsSnanOf IsInfOf IsNanOf; decide +kernel

/-- Fused operands that are infinite or no numbers, an infinity times zero among them. -/
theorem test_hyp_FloatOrderAndWidening_fused :
    let md : Mode := { rm := 2, ftz := false, daz := true, sat := false }
    md.rm < 4 ∧ IsInfOf .f32 0x7F800000 ∧ IsFin .f32 0 ∧ numIn .f32 md 0 = 0 ∧ ¬ IsFin .f32 0x7F800000 ∧ ¬ IsNanOf .f32 0x7F800000 ∧
    IsFin .f32 0x3F800000 ∧ IsNanOf .f32 0x7FC00000 ∧ ¬ IsSnanOf .f32 0x7FC00000 ∧ (-2147483648 : Int) ≤ 0 ∧ (0 : Int) ≤ 2147483647 := by
  unfold IsFin IsSnanOf IsInfOf IsNanOf
  refine ⟨by decide, by decide +kernel, by decide +kernel, by simp [numIn], ?_⟩
  decide +kernel

theorem test_hyp_DivisionResults : Ready base 0 ⟨[.reg 1, .reg 2], some (.oq 3), base.cur.div.isNone, []⟩ ∧
    (let j : DivJob := ⟨true, false, 7, 0, 2, 3, .reg 4, ⟨0, 0⟩, false, 18⟩
     let c := someCell.setCtx 2 { someCell.ctx 2 with status := .parkDiv }
     let s := base.setCell 0 { c with div := some j, cyc := 18 }
     (s.cell 0).div = some j ∧ j.due ≤ (s.cell 0).cyc ∧ ((s.cell 0).ctx j.ctx).status = .parkDiv ∧ ((s.cell 0).ctx j.ctx).respFaults = 0 ∧
     someCell.cyc < j.due) := by unfold Ready; decide +kernel

theorem test_hyp_WordsSentAndMerged : Ready base 0 ⟨[.reg 1, .deq 2], some (.oq 3), true, []⟩ ∧ Ready base 0 ⟨[.deq 1], some (.oq 3), true, []⟩ ∧
    Ready base 0 ⟨.deq 4 :: (some 5 : Option (Fin 8)).toList.map Src.deq, none, true, []⟩ ∧
    Ready base 0 ⟨.deq 4 :: (none : Option (Fin 8)).toList.map Src.deq, none, true, []⟩ ∧
    (0 : Fin 8) ≠ 1 ∧ base.cur.iq[(0 : Fin 8)] = [⟨1000, 0, false⟩, zeroWord] ∧ base.cur.iq[(1 : Fin 8)] = [⟨1001, 3, true⟩, zeroWord] ∧
    Ready base 0 ⟨[.deq 0, .deq 1], some (.reg 2), true, []⟩ := by unfold Ready; decide +kernel

theorem test_hyp_RemoteWriteNames :
    let s := withCell fun c => { c with names := [34], nameWalk := [(33, 9), (35, 40)], cyc := 9 }
    let n : Needs := ⟨[.reg 1, .reg 2], none, decide (s.cur.putSend.length < 4), []⟩
    let t := s.setCur (s.cur.setCtx 0 { s.here with x := vset s.here.x 1 34 })
    let u := s.setCur (s.cur.setCtx 0 { s.here with x := vset s.here.x 1 35 })
    (t.src (.reg 1)).toNat < (t.stage 0).w * (t.stage 0).h ∧ (t.src (.reg 1)).toNat ∈ t.cur.names ∧ Ready t 0 n ∧
    (u.stage 0).w * (u.stage 0).h ≤ (u.src (.reg 1)).toNat ∧ Ready u 0 n ∧ (0 : Nat) < 35 ∧ 0 ∉ s.cur.names ∧
    (s.cell 0).nameWalk = [(33, 9), (35, 40)] ∧ 9 ≤ (s.cell 0).cyc ∧ (s.cell 0).cyc < 40 := by unfold Ready; decide +kernel

/-! ## Private space -/

theorem test_hyp_SramAccess :
    let s := withX 1 0x3FFFC
    let t := withX 1 0x40000
    let u := withX 1 0x40080000
    Ready s 0 ⟨[.reg 1], some (.reg 2), true, []⟩ ∧ Ready s 0 ⟨[.deq 1, .reg 1], none, true, []⟩ ∧ s.cur.sram.wf = true ∧
    (BitVec.ofInt 32 ((s.src (.reg 1)).toInt + (0 : BitVec 10).toInt * 4)).toNat % 4 = 0 ∧
    (BitVec.ofInt 32 ((s.src (.reg 1)).toInt + (0 : BitVec 10).toInt * 4)).toNat + 4 ≤ 0x40000 ∧
    (∀ w ∈ s.cur.badSram, w * 8 + 8 ≤ 0x3FFFC ∨ 0x3FFFC + 4 ≤ w * 8) ∧
    (BitVec.ofInt 32 ((s.src (.reg 1)).toInt + (1 : BitVec 10).toInt * 1)).toNat % 2 ≠ 0 ∧
    Ready t 0 ⟨[.reg 1], some (.reg 2), true, []⟩ ∧ Ready t 0 ⟨[.deq 1, .reg 1], none, true, []⟩ ∧ (t.src (.reg 1)).toNat % 4 = 0 ∧
    ¬ (t.src (.reg 1)).toNat + 4 ≤ 0x40000 ∧
    ¬ (0x40000000 ≤ (t.src (.reg 1)).toNat ∧ (t.src (.reg 1)).toNat + 4 ≤ 0x40000000 + (t.cur.sliceMiB * 2 ^ 20 - 2 ^ 19)) ∧
    ¬ (0x40000000 ≤ (u.src (.reg 1)).toNat ∧ (u.src (.reg 1)).toNat + 4 ≤ 0x40000000 + (u.cur.sliceMiB * 2 ^ 20 - 2 ^ 19)) := by
  unfold Ready; decide +kernel

theorem test_hyp_SliceLoadsAndFence :
    let s := withX 1 0x40000060
    let hit := s.setCur { s.cur with cache := [⟨9, 7, true, false⟩, ⟨3, 5, false, false⟩] }
    let ld : Access := { store := false, size := 4, signed := false, addr := 0x40000060, data := 0, dst := .reg 2, p := ⟨0, 0⟩, x := false, ctx := 1, slot := 2 }
    let busy := s.setCur { s.cur with fills := [⟨3, .load ld, false, none⟩] }
    let full := s.setCur { s.cur with fills := List.replicate 4 ⟨9, .load ld, true, none⟩ }
    Ready hit 0 ⟨[.reg 1], some (.reg 2), true, []⟩ ∧ (s.src (.reg 1)).toNat % 4 = 0 ∧ 0x40000000 ≤ (s.src (.reg 1)).toNat ∧
    (s.src (.reg 1)).toNat + 4 ≤ 0x40000000 + (s.cur.sliceMiB * 2 ^ 20 - 2 ^ 19) ∧ (∀ f ∈ hit.cur.fills, f.line ≠ 3) ∧
    (⟨3, 5, false, false⟩ : Line) ∈ hit.cur.cache ∧ (∀ y ∈ hit.cur.cache, y.line = 3 → y = ⟨3, 5, false, false⟩) ∧
    Ready s 0 ⟨[.reg 1], some (.reg 2), true, []⟩ ∧ (∀ x ∈ s.cur.cache, x.line ≠ 3) ∧ s.cur.fills.length < 4 ∧
    Ready hit 0 ⟨[.deq 2, .reg 1], none, true, []⟩ ∧ Ready s 0 ⟨[.deq 2, .reg 1], none, true, []⟩ ∧
    (∃ f ∈ busy.cur.fills, f.line = 3) ∧ Ready busy 0 ⟨[.reg 1], some (.oq 2), true, []⟩ ∧ Ready busy 0 ⟨[.deq 2, .reg 1], none, true, []⟩ ∧
    4 ≤ full.cur.fills.length ∧ (∀ x ∈ full.cur.cache, x.line ≠ 3) ∧ Ready full 0 ⟨[.reg 1], some (.oq 2), true, []⟩ ∧
    (busy.cur.fills.filter fun f => !f.asked) = [⟨3, .load ld, false, none⟩] ∧ (∀ w ∈ busy.cur.wbs, w.asked = true) ∧ busy.merges = [] ∧
    (let g : Merge := ⟨busy.stripOf 0 * 2 + busy.halfOf 0, 3, false, 4990, [(1, 1, .cache, 0)]⟩
     g.line = 3 ∧ g.write = false ∧ (∀ w ∈ g.who, w.2.1 ≠ busy.posOf 0) ∧ ({ busy with merges := [g] } : State).merges = [] ++ g :: []) ∧
    Ready s 0 ⟨[], none, true, []⟩ ∧ (s.cur.fills = [] ∧ s.cur.wbs = [] ∧ ∀ x ∈ s.cur.cache, x.dirty = false) ∧
    Ready hit 0 ⟨[], none, true, []⟩ ∧ ¬ (hit.cur.fills = [] ∧ hit.cur.wbs = [] ∧ ∀ x ∈ hit.cur.cache, x.dirty = false) := by
  unfold Ready; decide +kernel

/-! ## Vectors and special functions -/

theorem test_hyp_VectorInstructionsFire : Ready base 3 (beatNeeds base.cur [.sq 1, .v 2, .sq 1] (some (.so 2)) true) ∧
    Ready base 3 (beatNeeds base.cur [] (some (.v 0)) true) ∧ (0 : Fin 64) = 0 ∧ (63 : Fin 64) ≠ 0 := by unfold Ready; decide +kernel

theorem test_hyp_VectorBeats :
    let r : BeatRun := { op := .vec .fma .f32, slot := 7, ctx := 2, total := 3, done := 1, a := .sq 1, b := .const 5, e := .const 0, dst := .v 3
                         run := some 9, base := 0, xs := 0, p := ⟨3, 1⟩, fcr := 0, flags := 1, wait := 0 }
    let c : CellState := (withCell fun c => { c with hold := .beats r }).cell 0
    c.hold = .beats r ∧ r.op = .vec .fma .f32 ∧ r.wait = 0 ∧ beatSrc c r.a = some ⟨lanes 51, true⟩ ∧
    beatSrc c r.b = some ⟨5, false⟩ ∧ beatSrc c r.e = some ⟨0, false⟩ ∧ soRoom c r.dst = true ∧ r.done + 1 < r.total ∧
    ({ r with done := 2 } : BeatRun).total ≤ ({ r with done := 2 } : BeatRun).done + 1 ∧ 15 < 16 ∧
    31 < 512 / 16 ∧ 63 < 512 / 8 := by decide +kernel

theorem test_hyp_VectorMemory :
    let s := withX 5 0x3FFC0
    let t := withX 5 0x3FFC2
    Ready s 3 (beatNeeds s.cur [] (some (.so 1)) true) ∧ (∀ w ∈ s.cur.badSram, w * 8 + 8 ≤ 0x3FFC0 ∨ 0x3FFC0 + 64 ≤ w * 8) ∧
    Ready s 3 (beatNeeds s.cur [.sq 1] none true) ∧ s.cur.sram.wf = true ∧ (s.here.getX 5).toNat % 4 = 0 ∧ (s.here.getX 5).toNat + 64 ≤ 0x40000 ∧
    Ready t 3 (beatNeeds t.cur [] (some (.so 1)) true) ∧ Ready t 3 (beatNeeds t.cur [.sq 1] none true) ∧ (t.here.getX 5).toNat % 4 ≠ 0 ∧
    (let addr (k : Nat) : Nat := ((s.here.getX 5).toNat + 64 * k) % 2 ^ 32
     let out (k : Nat) : Prop := ¬ addr k + 64 ≤ 0x40000 ∧
       ¬ (0x40000000 ≤ addr k ∧ addr k + 64 ≤ 0x40000000 + (s.cur.sliceMiB * 2 ^ 20 - 2 ^ 19))
     out 1 ∧ ∀ j, j < 1 → ¬ out j) := by unfold Ready; decide +kernel

/-- Beats of VLD and VST that end in SRAM and in the slice, and their later beats. -/
theorem test_hyp_VectorMemory_beats :
    let plain (c : CellState) : Prop := (c.cache.map (·.line)).Nodup ∧ (∀ x ∈ c.cache, x.bad = false) ∧ c.sram.wf = true
    let sound (c : CellState) (t0 : Nat) : Prop := ∀ w ∈ c.badSram, w * 8 + 8 ≤ t0 ∨ t0 + 64 ≤ w * 8
    let inside (c : CellState) (t0 : Nat) : Prop :=
      t0 % 4 = 0 ∧ (t0 + 64 ≤ 0x40000 ∨ 0x40000000 ≤ t0 ∧ t0 + 64 ≤ 0x40000000 + (c.sliceMiB * 2 ^ 20 - 2 ^ 19))
    let run (op : BeatOp) (a : BSrc) (x : Word) : BeatRun :=
      { op := op, slot := 7, ctx := 2, total := 3, done := 1, a := a, b := .const 0, e := .const 0, dst := .so 1
        run := none, base := 0, xs := x, p := ⟨3, 1⟩, fcr := 0, flags := 0, wait := 0 }
    let c (r : BeatRun) : CellState := (withCell fun c => { c with hold := .beats r }).cell 0
    (∀ s ∈ [withX 5 0x3FF00, withX 5 0x40000020], plain s.cur ∧ sound s.cur (s.here.getX 5).toNat ∧
      (inside s.cur (s.here.getX 5).toNat ∧ inside s.cur (s.here.getX 5 + 64).toNat ∧ inside s.cur (s.here.getX 5 + 128).toNat) ∧
      Ready s 3 (beatNeeds s.cur [] (some (.so 1)) true) ∧ Ready s 3 (beatNeeds s.cur [.sq 1] none true)) ∧
    ∀ r ∈ [run .vld (.const 0) 0x3FF00, run .vst (.sq 1) 0x3FF00, run .vld (.const 0) 0x40000020, run .vst (.sq 1) 0x40000020],
      (c r).hold = .beats r ∧ plain (c r) ∧ inside (c r) (r.xs + 64).toNat ∧ (beatSrc (c r) r.a).isSome = true ∧
        soRoom (c r) r.dst = true ∧ sound (c r) (r.xs + 64).toNat := by unfold Ready; decide +kernel

/-- Lanes that are numbers, infinities and NaNs, and the pairwise trees. -/
theorem test_hyp_VectorBeats_lanes :
    IsFin .bf16 0x3F80 ∧ IsInfOf .f16 0xFC00 ∧ IsNanOf .f32 0x7F800001 ∧ IsSnanOf .f32 0x7F800001 ∧ ¬ IsSnanOf .f16 0x7E00 ∧ IsFin .f32 0x3F800000 := by
  unfold IsFin IsSnanOf IsInfOf IsNanOf; decide +kernel

theorem test_hyp_VectorBeats_tree (g : Nat → Nat → Nat × Flags) (f : Nat → Nat) : ∃ t : Nat → Nat → Nat × Flags, (∀ i, t 0 i = (f i, 0)) ∧
    ∀ k i, t (k + 1) i = ((g (t k (2 * i)).1 (t k (2 * i + 1)).1).1,
      (t k (2 * i)).2 ||| (t k (2 * i + 1)).2 ||| (g (t k (2 * i)).1 (t k (2 * i + 1)).1).2) :=
  ⟨fun k => Nat.rec (fun i => (f i, 0)) (fun _ u i => ((g (u (2 * i)).1 (u (2 * i + 1)).1).1,
    (u (2 * i)).2 ||| (u (2 * i + 1)).2 ||| (g (u (2 * i)).1 (u (2 * i + 1)).1).2)) k, fun _ => rfl, fun _ _ => rfl⟩

theorem test_hyp_SpecialFunctions :
    let j : SfJob := { fn := .sqrt, ty := .f32, ctx := 1, slot := 4, buf := [⟨lanes 3, true⟩], dst := .v 6, p := ⟨3, 3⟩, fcr := 0, joined := some 5000
                       stop := none, written := 0, due := 0, flags := 0 }
    let s := withCell fun c => { c with sf := some j }
    let t := withCell fun c => { c.setCtx 1 { c.ctx 1 with status := .parkSf } with sf := some { j with stop := some 4980, due := 4988 } }
    Ready base 4 (beatNeeds base.cur [.sq 3] (some (.so 0)) base.cur.sf.isNone) ∧ (s.cell 0).sf = some j ∧ j.joined = some 5000 ∧ j.stop = none ∧
    5000 ≤ s.strip ∧ (∀ o ∈ s.cells, quadBefore s 0 5000 o = false) ∧ (t.cell 0).sf = some { j with stop := some 4980, due := 4988 } ∧
    4988 ≤ t.strip ∧ ((t.cell 0).ctx 1).status = .parkSf ∧ ((t.cell 0).ctx 1).respFaults = 0 := by unfold Ready; decide +kernel

/-- R180: results of two beats for a stream queue, at the first and at the last one, with room and without. -/
theorem test_hyp_SpecialFunctions_stream :
    let j (w : Nat) : SfJob := { fn := .sqrt, ty := .f32, ctx := 1, slot := 4, buf := [⟨lanes 3, true⟩, ⟨lanes 4, false⟩], dst := .so 2, p := ⟨3, 3⟩
                                 fcr := 0, joined := some 4970, stop := some 4980, written := w, due := 4988, flags := 0 }
    let s (w n : Nat) : State := withCell fun c => { c.setCtx 1 { c.ctx 1 with status := .parkSf } with
      sf := some (j w), so := vset c.so 2 (List.replicate n ⟨0, false⟩) }
    (∀ w ∈ [0, 1], ((s w 7).cell 0).sf = some (j w) ∧ (j w).stop = some 4980 ∧ (j w).due ≤ (s w 7).strip ∧ (((s w 7).cell 0).ctx 1).status = .parkSf ∧
      (((s w 7).cell 0).ctx 1).respFaults = 0 ∧ (((s w 7).cell 0).so[(2 : Fin 4)]).length < 8 ∧ ((j w).buf[(j w).written]?).isSome = true ∧
      8 ≤ (((s w 8).cell 0).so[(2 : Fin 4)]).length) ∧ (j 0).written + 1 < (j 0).buf.length ∧ ¬ (j 1).written + 1 < (j 1).buf.length := by
  decide +kernel

/-- R122, R123: one input of every kind that the statement names, and the series at some of them. -/
theorem test_hyp_SpecialFunctionWithinBound : IsNanOf .f32 0xFF800001 ∧ IsInfOf .f32 0xFF800000 ∧ IsFin .f32 0x80000000 ∧ IsFin .f32 0x40490FDB ∧
    (sfRes .exp2 0 0x3FC00000 matches .near false _ 1) = true ∧ (sfRes .log2 3 0x40400000 matches .near false _ 1) = true ∧
    (sfRes .log2 3 0x3F400000 matches .near true _ 1) = true ∧ (sfRes .tanh 1 0xBF800000 matches .near true _ 2) = true ∧
    (sfRes .sin 0 0x40490FDB matches .near true _ 2) = true ∧ (sfRes .cos 0 0x40490FDB matches .near true _ 2) = true ∧
    (sfRes .exp2 0 0x40200000 matches .near false _ 1) = true := by
  unfold IsFin IsInfOf IsNanOf; decide +kernel

/-! ## Matrix unit -/

/-- `base` with every ring read out by accumulator 1, tiles of 1 KiB. -/
def wide : State := withCell fun c => { c with rings := Vector.ofFn fun i => { benchRing i with tsz := 15, prod := 3, pidx := 1 } }

theorem test_hyp_MatrixCommandsAccepted : Ready wide 4 ⟨[], none, wide.cur.mxRoom, []⟩ ∧ wide.cur.mxStop = false ∧
    decide (7 ≤ (wide.cur.rings[(2 : Fin 8)]).tsz ∧ 7 ≤ (wide.cur.rings[(3 : Fin 8)]).tsz) = true ∧ 3 ≤ (wide.cur.rings[(3 : Fin 8)]).depth ∧
    (let cnt := (wide.here.getX 3).toNat % 2 ^ 16
     cnt % 16 + cnt / 16 % 16 + cnt / 256 % 16 + cnt / 4096 ≤ 16) ∧ 15 ≤ (wide.cur.rings[(2 : Fin 8)]).tsz ∧
    256 * rdaSize 6 ≤ ((wide.cur.rings[(2 : Fin 8)]).tsz + 1) * 64 ∧ (wide.cur.rings[(2 : Fin 8)]).prod = 3 ∧
    (wide.cur.rings[(2 : Fin 8)]).pidx = (1 : Fin 4).val := by unfold Ready; decide +kernel

theorem test_hyp_MatrixTokensAndFaults :
    let small := withCell fun c => { c with rings := Vector.replicate 8 { benchRing 0 with tsz := 6 } }
    let sum17 := wide.setCur (wide.cur.setCtx 0 { wide.here with x := vset wide.here.x 3 0xF011 })
    let flat := wide.setCur { wide.cur with rings := Vector.replicate 8 { benchRing 0 with depth := 2 } }
    let tok (d : Word) : State := wide.setCur { wide.cur with iq := vset wide.cur.iq 3 [⟨d, 5, true⟩] }
    Ready small 4 ⟨[], none, small.cur.mxRoom, []⟩ ∧ (small.cur.rings[(2 : Fin 8)]).tsz < 7 ∧ Ready sum17 4 ⟨[], none, sum17.cur.mxRoom, []⟩ ∧
    (let cnt := (sum17.here.getX 3).toNat % 2 ^ 16
     16 < cnt % 16 + cnt / 16 % 16 + cnt / 256 % 16 + cnt / 4096) ∧
    Ready flat 4 ⟨[], none, flat.cur.mxRoom, []⟩ ∧ 7 ≤ (flat.cur.rings[(2 : Fin 8)]).tsz ∧ (flat.cur.rings[(3 : Fin 8)]).depth < 3 ∧
    (let p : Word := BitVec.ofNat 32 (1 * 2 ^ 3 + 2 * 2 ^ 5 + 3 * 2 ^ 8 + mxCode .e4m3 * 2 ^ 11 + 1 * 2 ^ 15 + 4 * 2 ^ 19 + 9 * 2 ^ 23)
     (tok p).cur.iq[(3 : Fin 8)] = [⟨p, 5, true⟩] ∧ Ready (tok p) 4 ⟨[.deq 3], none, (tok p).cur.mxRoom, []⟩ ∧ (tok p).cur.mxStop = false ∧
     (2 : Fin 8) ≠ 3 ∧ Ready (tok 10) 4 ⟨[.deq 3], none, (tok 10).cur.mxRoom, []⟩ ∧ (10 : Word) = BitVec.ofNat 32 (2 + (1 : Fin 4).val * 2 ^ 3) ∧
     Ready (tok 5) 4 ⟨[.deq 3], none, (tok 5).cur.mxRoom, []⟩ ∧ 5 ≤ (5 : Word).toNat % 8) := by unfold Ready; decide +kernel

/-- `base` with rings read out by accumulator 1 of `depth + 1` tiles of `tsz + 1` blocks, and some words in `iq3`. -/
def tokens (tsz depth : Nat) (l : List QWord) : State := withCell fun c => { c with
  rings := Vector.ofFn fun i => { benchRing i with tsz := tsz, depth := depth, prod := 3, pidx := 1 }, iq := vset c.iq 3 l }

/-- R199: a token of KIND 3 or 4 as it passes its checks and as it fails them. -/
theorem test_hyp_MatrixTokensAndFaults_kinds :
    let w (n : Nat) : List QWord := [⟨BitVec.ofNat 32 n, 5, true⟩]
    let load := 3 + 1 * 2 ^ 3 + 2 * 2 ^ 5 + 2 ^ 16
    let readOut (acc : Nat) : Nat := 4 + acc * 2 ^ 3 + 2 * 2 ^ 5 + 1 * 2 ^ 11
    let s := tokens 7 2 (w (readOut 2))
    Ready s 4 ⟨[.deq 3], none, s.cur.mxRoom, []⟩ ∧ s.cur.iq[(3 : Fin 8)] = w (readOut 2) ∧ load % 8 ≠ 1 ∧ readOut 1 % 8 ≠ 1 ∧ s.cur.mxStop = false ∧
    256 * rdaSize 1 ≤ ((s.cur.rings[(2 : Fin 8)]).tsz + 1) * 64 ∧ (s.cur.rings[(2 : Fin 8)]).prod = 3 ∧
    (s.cur.rings[(2 : Fin 8)]).pidx ≠ (2 : Fin 4).val ∧ (s.cur.rings[(2 : Fin 8)]).pidx = (1 : Fin 4).val ∧ (s.cur.rings[(2 : Fin 8)]).tsz < 15 ∧
    15 ≤ ((tokens 15 3 (w load)).cur.rings[(2 : Fin 8)]).tsz ∧ (((tokens 6 3 (w load)).cur.rings[(2 : Fin 8)]).tsz + 1) * 64 < 256 * rdaSize 1 := by
  unfold Ready; decide +kernel

/-- R199: a token of KIND 1 with the word behind it, whose counts fit, are too many, or are no counts. -/
theorem test_hyp_MatrixTokensAndFaults_groups :
    let product := 1 * 2 ^ 3 + 2 * 2 ^ 5 + 3 * 2 ^ 8 + mxCode .e4m3 * 2 ^ 11 + 1 * 2 ^ 15 + 9 * 2 ^ 23
    let two (n : Nat) : List QWord := [⟨BitVec.ofNat 32 (product + 1), 5, true⟩, ⟨BitVec.ofNat 32 n, 0, false⟩]
    let sum (n : Nat) : Nat := n % 16 + n / 2 ^ 4 % 16 + n / 2 ^ 8 % 16 + n / 2 ^ 12 % 16
    let s := tokens 7 3 (two 0x4321)
    Ready s 4 ⟨[.deq 3], none, s.cur.mxRoom, [3]⟩ ∧ s.cur.iq[(3 : Fin 8)] = two 0x4321 ∧ s.cur.mxStop = false ∧ sum 0x4321 ≤ 16 ∧ 16 < sum 0xF011 ∧
    2 ^ 16 ≤ 0x10000 ∧ 7 ≤ (s.cur.rings[(2 : Fin 8)]).tsz ∧ 3 ≤ (s.cur.rings[(3 : Fin 8)]).depth ∧
    ((tokens 7 2 (two 0x4321)).cur.rings[(3 : Fin 8)]).depth < 3 := by unfold Ready; decide +kernel

/-- R192 to R195, R310: commands whose completion pops, and a product whose window is pending, over, or has no budget left. -/
theorem test_hyp_MatrixCommandsRun_pops :
    let z : MxCmd := { kind := .gmma, acc := 1, ga := 2, gb := 3, dt := 5, accum := false, rows := 16, cols := 16, popa := true, popb := true, trb := false
                       counts := 0x4321, vec := 0, fcr := 0, ctx := 2, mark := false, early := false }
    let run (x : MxCmd) : CellState := (withCell fun c => { c with mxRun := some ⟨x, 0, 16⟩, cyc := 16 }).cell 0
    let m : MxCmd := { z with kind := .mma }
    let c : CellState := (withCell fun c => { c with mxq := [m] }).cell 0
    let ph (grant stop budget : Nat) : Phase := ⟨grant, stop, 8, 5, none, budget, true, true⟩
    (∀ k ∈ [MxKind.mma, .gmma, .lda, .rda], (run { z with kind := k }).mxRun = some ⟨{ z with kind := k }, 0, 16⟩ ∧
      (16 : Nat) ≤ (run { z with kind := k }).cyc ∧ (run { z with kind := k }).badSram = [] ∧ z.ga ≠ z.gb) ∧
    (∀ p ∈ [ph 5001 6000 99, ph 4000 5000 99, ph 4000 6000 15], c.mxq = [m] ∧ c.mxRun = none ∧ c.mxStop = false ∧ c.mxPark = false ∧
      mxPresent c m = true ∧ m.early = false ∧ ((c.setCtx 2 { c.ctx 2 with phase := some p }).ctx 2).phase = some p ∧
      (base.strip < p.grant ∨ p.stop ≤ base.strip ∨ p.budget < 16)) := by decide +kernel

theorem test_hyp_MatrixCommandsRun :
    let z : MxCmd := { kind := .zero, acc := 1, ga := 0, gb := 0, dt := 0, accum := false, rows := 1, cols := 1, popa := false, popb := false, trb := false
                       counts := 0, vec := 0, fcr := 0, ctx := 2, mark := false, early := false }
    let m : MxCmd := { z with kind := .mma, ga := 2, gb := 3, dt := 5, rows := 16, cols := 16 }
    let l : MxCmd := { z with kind := .lda, ga := 2 }
    let q (x : MxCmd) : CellState := (withCell fun c => { c with mxq := [x] }).cell 0
    let ph : Phase := ⟨4000, 6000, 8, 5, none, 16, true, true⟩
    let open2 : CellState := (q m).setCtx 2 { (q m).ctx 2 with phase := some ph }
    let run (x : MxCmd) : CellState := (withCell fun c => { c with mxRun := some ⟨x, 0, 16⟩, cyc := 16 }).cell 0
    (q z).mxq = [z] ∧ (q z).mxRun = none ∧ (q z).mxStop = false ∧ mxPresent (q z) z = true ∧
    mxPresent open2 m = true ∧ (open2.ctx 2).phase = some ph ∧ ph.grant ≤ base.strip ∧ base.strip < ph.stop ∧ 16 ≤ ph.budget ∧
    mxPresent (q m) m = true ∧ ((q m).ctx 2).phase = none ∧ (run z).mxRun = some ⟨z, 0, 16⟩ ∧
    16 ≤ (run z).cyc ∧ (run z).badSram = [] ∧ (run l).mxRun = some ⟨l, 0, 16⟩ ∧ l.popa = false ∧
    (∀ x ∈ [m, { m with dt := 0, trb := true }, { m with dt := 4, accum := true }, { z with kind := .gmma, ga := 2, gb := 3, dt := 1, counts := 0x4321, cols := 7 },
        { z with kind := .rda, ga := 2, dt := 6 }, { z with kind := .rda, ga := 2, dt := 3, accum := true }, { z with kind := .scale, trb := true, vec := lanes 4 }],
      (run x).mxRun = some ⟨x, 0, 16⟩ ∧ x.dt ≤ 7 ∧ (run x).badSram = [] ∧ (run x).sram.wf = true) ∧
    IsFin .e5m2 0x3C ∧ IsNanOf .e4m3 0x7F ∧ IsNanOf .f32 0x7FC00000 := by
  unfold IsFin IsNanOf; decide +kernel

/-! ## Scans -/

theorem test_hyp_ScanBeatsFire : (0 : Fin 64) = 0 ∧ Ready base 4 (beatNeeds base.cur [.sq 1] (some (.so 1)) true) ∧
    Ready base 4 (beatNeeds base.cur [.v 3] (some (.v 3)) true) ∧ (63 : Fin 64) ≠ 0 ∧
    (let run (op : BeatOp) (n : Nat) (u : Option VWord) : BeatRun :=
      { op := op, slot := 7, ctx := 2, total := 3, done := n, a := .sq 1, b := .const 0, e := .const 0, dst := .so 1
        run := u, base := 0, xs := 0, p := ⟨3, 1⟩, fcr := 0, flags := 0, wait := 0 }
     ∀ r ∈ [run (.scanLocal .addF32) 1 none, run (.scanLocal .addF32) 1 (some 5), run (.scanApply .addI32 true 3) 1 (some 5),
        run (.scanApply .addI32 false 3) 2 (some 5)],
      let c : CellState := (withCell fun c => { c with hold := .beats r }).cell 0
      c.hold = .beats r ∧ beatSrc c r.a = some ⟨lanes 51, true⟩ ∧ soRoom c r.dst = true) := by unfold Ready; decide +kernel

theorem test_hyp_ScanPorts :
    let port := base.cur.scan[(2 : Fin 8)]
    Ready base 4 (beatNeeds base.cur [.sq 1] none (decide ((port.sub - port.rcv).toInt < 2) && port.agg.isNone)) ∧
    Ready base 4 (beatNeeds base.cur [.sq 1] none ((decide ((port.sub - port.rcv).toInt < 2) && port.agg.isNone) && decide (base.here.uack = 0))) ∧
    port.pfx = [(0, 0, false)] ∧ port.rcv = 0 ∧ Ready base 4 ⟨[], none, true, []⟩ ∧
    Ready base 4 ⟨[], none, decide (port.sub = port.rcv) && port.agg.isNone, []⟩ := by unfold Ready; decide +kernel

theorem test_hyp_ScanRounds :
    let g : ScanGroup := ⟨0, 0, 2, 1⟩
    let a (n : Nat) : Agg := ⟨0, 3, n, .addI32, 77, true, 0, 1, false, false, 4999⟩
    let port : ScanPort := { ScanPort.blank with member := true, sub := 1, agg := some 0, ops := [(0, .addI32)] }
    let cell (x : Nat) : CellState := { someCell with cx := x, cyc := 5001, scan := vset someCell.scan 3 port }
    let k : Carry := { round := 0, grp := 3, q := .cellPfx 1 0, val := 5, mark := false, formed := 4990, dir := false, epoch := false, good := true }
    let at' (l : List Carry) (w : List (Word × ScanQ × Nat)) : State :=
      { base with
        cells := [(0, cell 0), (1, { cell 1 with scan := vset someCell.scan 3 { port with work := w } })]
        stages := [(0, { someStage with groups := vset someStage.groups 3 (some g), aggs := [a 0, a 1], carries := l })] }
    let s := at' [] []
    let r := at' [k] []
    let w := at' [k] [(0, .seg 0 0, 5000)]
    let st := s.stage 0
    scanCell st g false (0, 0) = 0 ∧ (s.cell 0).scan[(3 : Fin 8)] = port ∧ st.status = .placed ∧ st.groups[(3 : Fin 8)] = some g ∧ 0 < g.w ∧ 0 < g.h ∧
    port.member = true ∧ port.dir = false ∧ port.work = [] ∧ ownAgg st 3 0 0 port = some (a 0) ∧ (a 0).sent < (s.cell 0).cyc ∧
    findCarry st 3 0 (.pfx 0 0) port = none ∧ ((0 : Word) - port.rcv).toNat < 2 ∧ st.heldBack g 3 (.pfx 0 0) = false ∧ 1 < g.w ∧
    findCarry st 3 0 (.cellPfx 1 0) port = none ∧ st.heldBack g 3 (.cellPfx 1 0) = false ∧
    (r.cell 1).scan[(3 : Fin 8)] = port ∧ ownAgg (r.stage 0) 3 1 0 port = some (a 1) ∧ findCarry (r.stage 0) 3 0 (.cellPfx 1 0) port = some k ∧
    k.formed + 2 * ((r.physCol 0 : Int) - r.physCol 1).natAbs ≤ r.strip ∧ findCarry (r.stage 0) 3 0 (.seg 0 0) port = none ∧
    (r.stage 0).heldBack g 3 (.seg 0 0) = false ∧ port.work.find? (fun w => decide (w.1 = (0 : Word) ∧ w.2.1 = .seg 0 0)) = none ∧
    ((w.cell 1).scan[(3 : Fin 8)]).work = [(0, .seg 0 0, 5000)] ∧ 5000 + 1 ≤ (w.cell 1).cyc := by decide +kernel


/-- R207, R208: pairs that are equal, no numbers, infinite, and a gap of the maxima that is a number of steps or none. -/
theorem test_hyp_ScanRounds_pairs :
    (3 : Nat) < 4 ∧ IsNanOf .f32 0x7F800001 ∧ IsSnanOf .f32 0x7F800001 ∧ ¬ IsNanOf .f32 0xFF800000 ∧ (0xFF800000 : Nat) = 2 ^ 31 + 0x7F800000 ∧
    IsFin .f32 0x3F800000 ∧ IsFin .f32 0 ∧ |numOf .f32 0x3F800000 - numOf .f32 0x3F800000| = (0 : Nat) ∧
    (∀ k : Nat, |numOf .f32 0x3F000000 - numOf .f32 0| ≠ k) ∧ negOf .f32 0x3F800000 = negOf .f32 0 ∧ numOf .f32 0x3F800000 ≠ 0 := by
  have h : numOf .f32 0x3F000000 = 1 / 2 ∧ numOf .f32 0 = 0 ∧ numOf .f32 0x3F800000 ≠ 0 := by
    norm_num [numOf, negOf, Fmt.frac, Fmt.expo, Fmt.bias, Fmt.mag]
  refine ⟨by decide, by unfold IsNanOf; decide, by unfold IsSnanOf IsNanOf; decide, by unfold IsNanOf; decide, by decide, by unfold IsFin; decide,
    by unfold IsFin; decide, by simp, fun k e => ?_, by decide, h.2.2⟩
  rw [h.1, h.2.1, sub_zero, abs_of_pos (by norm_num)] at e
  have h2 : (1 : ℚ) = ((2 * k : Nat) : ℚ) := by push_cast; linarith
  have h3 : 1 = 2 * k := by exact_mod_cast h2
  omega

/-- R207: lanes of ones, which every identity leaves unchanged. -/
theorem test_hyp_ScanRounds_identities :
    let v : VWord := BitVec.ofNat 512 ((List.range 16).foldl (fun a _ => a * 2 ^ 32 + 0x3F800000) 0)
    let md : Mode := { rm := 1, ftz := false, daz := true, sat := false }
    md.rm < 4 ∧ (∀ i, i < 16 → v.toNat / 2 ^ (32 * i) % 2 ^ 32 = 0x3F800000) ∧ IsFin .f32 0x3F800000 ∧ md.ftz = false ∧ ¬ IsNanOf .f32 0x3F800000 := by
  unfold IsFin IsNanOf; decide +kernel

/-! ## Streams, rings, copies -/

theorem test_hyp_StreamGenerators :
    let g : Gen := { Gen.blank with base := 128, rg := 3, lv := Vector.replicate 4 ⟨64, 3, 2⟩ }
    let with' (x : Gen) : State := withCell fun c => { c with gens := vset c.gens 1 x }
    let s := with' g
    let t := with' { g with rgen := true }
    let u := with' { g with active := true }
    let full := u.setCur { u.cur with sq := vset u.cur.sq 1 (List.replicate 8 ⟨0, false⟩) }
    let wr := with' { g with active := true, dir := true, lv := Vector.replicate 4 ⟨64, 3, 3⟩ }
    let o := wr.setCur { wr.cur with so := vset wr.cur.so 1 [⟨7, true⟩], soAt := vset wr.cur.soAt 1 1 }
    let slow := wr.setCur { wr.cur with so := vset wr.cur.so 1 [⟨7, true⟩] }
    let far := with' { g with active := true, base := 0x40000080 }
    let ad (v : Gen) : Int := v.base.toNat + (v.lv[(0 : Fin 4)]).idx.toNat * (v.lv[(0 : Fin 4)]).stride.toInt
      + (v.lv[(1 : Fin 4)]).idx.toNat * (v.lv[(1 : Fin 4)]).stride.toInt + (v.lv[(2 : Fin 4)]).idx.toNat * (v.lv[(2 : Fin 4)]).stride.toInt
      + (v.lv[(3 : Fin 4)]).idx.toNat * (v.lv[(3 : Fin 4)]).stride.toInt
    let moves (s : State) : Prop :=
      let v := (s.cell 0).gens[(1 : Fin 4)]
      v.active = true ∧ v.rgen = false ∧ v.start ≤ (s.cell 0).cyc ∧ v.base.toNat % 64 = 0 ∧ (∀ i : Fin 4, (v.lv[i]).stride.toNat % 64 = 0) ∧
        0 ≤ ad v ∧ (ad v).toNat + 64 ≤ 0x40000 ∧ (s.cell 0).badSram = [] ∧ (s.stage 0).stopping = false
    (s.cur.gens[(1 : Fin 4)]).active = false ∧ Ready s 0 ⟨[.reg 3], none, true, []⟩ ∧ Ready s 0 ⟨[.reg 3, .deq 2], none, true, []⟩ ∧
    Ready s 0 ⟨[], none, true, []⟩ ∧ (s.cur.gens[(1 : Fin 4)]).rgen = false ∧ Ready t 0 ⟨[], none, true, []⟩ ∧
    (t.cur.gens[(1 : Fin 4)]).rgen = true ∧ (t.cur.gens[(1 : Fin 4)]).dir = false ∧ (t.cur.rings[(3 : Fin 8)]).prod ≠ 2 ∧
    (u.cur.gens[(1 : Fin 4)]).active = true ∧ Ready u 0 ⟨[.reg 3], none, true, []⟩ ∧ Ready u 0 ⟨[], none, true, []⟩ ∧
    moves u ∧ ((u.cell 0).gens[(1 : Fin 4)]).dir = false ∧ ((u.cell 0).sq[(1 : Fin 4)]).length < 8 ∧ moves full ∧
    8 ≤ ((full.cell 0).sq[(1 : Fin 4)]).length ∧ moves o ∧ ((o.cell 0).gens[(1 : Fin 4)]).dir = true ∧ (o.cell 0).so[(1 : Fin 4)] = [⟨7, true⟩] ∧
    1 ≤ (o.cell 0).soAt[(1 : Fin 4)] ∧ moves slow ∧ (slow.cell 0).soAt[(1 : Fin 4)] = 0 ∧ (far.cell 0).port = [] ∧
    0x40000000 ≤ ad ((far.cell 0).gens[(1 : Fin 4)]) ∧ ad ((far.cell 0).gens[(1 : Fin 4)]) + 64 ≤ 0x40000000 + ((far.cell 0).sliceMiB * 2 ^ 20 - 2 ^ 19) ∧
    (∀ i : Fin 4, (((o.cell 0).gens[(1 : Fin 4)]).lv[i]).idx = (((o.cell 0).gens[(1 : Fin 4)]).lv[i]).cntm1) ∧
    (((u.cell 0).gens[(1 : Fin 4)]).lv[(0 : Fin 4)]).idx ≠ (((u.cell 0).gens[(1 : Fin 4)]).lv[(0 : Fin 4)]).cntm1 := by
  unfold Ready; decide +kernel

/-- R55: transfers of a generator that fills or drains a ring, at the last and at an inner entry of a tile, and one whose address wraps. -/
theorem test_hyp_StreamGenerators_rings :
    let g : Gen := { Gen.blank with base := 0xFFFFFFC0, rg := 3, rgen := true, active := true, lv := Vector.replicate 4 ⟨64, 3, 2⟩ }
    let on (out : Bool) (f : Ring → Ring) : State := withCell fun c => { c with
      gens := vset c.gens 1 { g with dir := out }, rings := vset c.rings 3 (f c.rings[3]), ringAt := vset c.ringAt 3 1 }
    let sum (v : Gen) : Int := v.base.toNat + (v.lv[(0 : Fin 4)]).idx.toNat * (v.lv[(0 : Fin 4)]).stride.toInt
      + (v.lv[(1 : Fin 4)]).idx.toNat * (v.lv[(1 : Fin 4)]).stride.toInt + (v.lv[(2 : Fin 4)]).idx.toNat * (v.lv[(2 : Fin 4)]).stride.toInt
      + (v.lv[(3 : Fin 4)]).idx.toNat * (v.lv[(3 : Fin 4)]).stride.toInt
    (∀ out : Bool, ∀ f ∈ [fun r => { r with part := 7, drain := 7 }, fun (r : Ring) => { r with part := 2, drain := 3 }, fun r => { r with count := 0 },
        fun r => { r with count := 4 }],
      let v := ((on out f).cell 0).gens[(1 : Fin 4)]
      v.active = true ∧ v.rgen = true ∧ v.dir = out ∧ v.start ≤ ((on out f).cell 0).cyc ∧ v.base.toNat % 64 = 0 ∧
        (∀ i : Fin 4, (v.lv[i]).stride.toNat % 64 = 0) ∧ sum v = 0x1000001C0 ∧ (sum v % 2 ^ 32).toNat + 64 ≤ 0x40000 ∧ ((on out f).cell 0).badSram = [] ∧
        ((on out f).stage 0).stopping = false ∧ 1 ≤ ((on out f).cell 0).ringAt[(3 : Fin 8)]) ∧
    (let r := (base.cell 0).rings[(3 : Fin 8)]
     r.tsz = 7 ∧ r.depth = 3 ∧ 1 ≤ r.count ∧ r.count ≤ r.depth) := by decide +kernel

/-- R54, R55, R343: indices of which the lowest two are at their end, generators that fault at their first transfer, and ones with a ring over slice
lines that are to be asked for, or served. -/
theorem test_hyp_StreamGenerators_sequences :
    let g : Gen := { Gen.blank with base := 0x40000080, rg := 3, active := true, lv := Vector.ofFn fun i => ⟨64, 3, if i.val < 2 then 3 else 1⟩ }
    let on (x : Gen) (l : List PortReq) : State := withCell fun c => { c with gens := vset c.gens 1 x, port := l, ringAt := vset c.ringAt 3 1 }
    let lines (w : Bool) : List PortReq := [⟨.gen 1, 20, w, true⟩, ⟨.gen 1, 21, w, true⟩]
    let sum (v : Gen) : Int := v.base.toNat + (v.lv[(0 : Fin 4)]).idx.toNat * (v.lv[(0 : Fin 4)]).stride.toInt
      + (v.lv[(1 : Fin 4)]).idx.toNat * (v.lv[(1 : Fin 4)]).stride.toInt + (v.lv[(2 : Fin 4)]).idx.toNat * (v.lv[(2 : Fin 4)]).stride.toInt
      + (v.lv[(3 : Fin 4)]).idx.toNat * (v.lv[(3 : Fin 4)]).stride.toInt
    let inSlice (ad : Nat) : Prop := 0x40000000 ≤ ad ∧ ad + 64 ≤ 0x40000000 + (someCell.sliceMiB * 2 ^ 20 - 2 ^ 19)
    let aligned (v : Gen) : Prop := v.base.toNat % 64 = 0 ∧ ∀ i : Fin 4, (v.lv[i]).stride.toNat % 64 = 0
    let ends : Gen := { g with lv := Vector.replicate 4 ⟨64, 3, 3⟩ }
    (∀ j : Fin 4, j < 2 → (g.lv[j]).idx = (g.lv[j]).cntm1) ∧ (g.lv[(2 : Fin 4)]).idx ≠ (g.lv[(2 : Fin 4)]).cntm1 ∧
    (∀ j : Fin 4, (ends.lv[j]).idx = (ends.lv[j]).cntm1) ∧ aligned g ∧ ¬ aligned { g with base := 4 } ∧ aligned { g with base := 0x80000000 } ∧
    (0x40000 : Int) < sum { g with base := 0x80000000 } ∧ ¬ inSlice (sum { g with base := 0x80000000 }).toNat ∧ sum g = 0x40000280 ∧
    inSlice (sum g).toNat ∧ ((sum g).toNat - 0x40000000) / 32 = 20 ∧
    (∀ d : Bool, ∀ l ∈ [[], lines d], let s := on { g with rgen := true, dir := d } l
      ((s.cell 0).gens[(1 : Fin 4)]).active = true ∧ g.start ≤ (s.cell 0).cyc ∧ (s.stage 0).stopping = false ∧ (s.cell 0).badSram = [] ∧
      (s.cell 0).badLines = [] ∧ (s.cell 0).asyncRecs.length < 8 ∧ ((s.cell 0).ctx g.ctx).status ≠ .halted ∧
      1 ≤ ((s.cell 0).rings[(3 : Fin 8)]).count ∧ ((s.cell 0).rings[(3 : Fin 8)]).count ≤ ((s.cell 0).rings[(3 : Fin 8)]).depth ∧
      1 ≤ (s.cell 0).ringAt[(3 : Fin 8)] ∧ (s.cell 0).port = l) ∧
    ∀ d : Bool, ∀ x ∈ [20, 20 + 1], ∃ q ∈ lines d, q.user = .gen 1 ∧ q.line = x ∧ q.write = d ∧ q.served = true := by decide +kernel

theorem test_hyp_RingDescriptorsAndTiles :
    let s := withX 1 0x3F800
    let t := withX 1 63
    let q := withX 1 0x00A03004
    let r := base.cur.rings[(1 : Fin 8)]
    let full := withCell fun c => { c with rings := vset c.rings 1 { r with prod := 3, pidx := 2 } }
    let ok (base tsz depth prod pidx : Nat) : Prop :=
      base + (depth + 1) * ((tsz + 1) * 64) ≤ 0x40000 ∧ base % 64 = 0 ∧ prod < 4 ∧ prod ≠ 1 ∧ (pidx = 0 ∨ 2 ≤ prod)
    base.cur.mxq = [] ∧ base.cur.mxRun = none ∧ base.cur.tsend = none ∧ r.prod ≠ 1 ∧
    (∀ i : Fin 4, (base.cur.gens[i]).active = true → (base.cur.gens[i]).rgen = true → (base.cur.gens[i]).rg ≠ 1) ∧
    Ready s 0 ⟨[.reg 1], none, true, []⟩ ∧ ok (0x3F800 % 2 ^ 18) r.tsz r.depth r.prod r.pidx ∧
    Ready t 0 ⟨[.reg 1], none, true, []⟩ ∧ r.prod < 4 ∧ ¬ ok 63 r.tsz r.depth r.prod r.pidx ∧
    Ready q 0 ⟨[.reg 1], none, true, []⟩ ∧ ok r.base (0x00A03004 % 2 ^ 12) (0x00A03004 / 2 ^ 12 % 2 ^ 8) (0x00A03004 / 2 ^ 20 % 2 ^ 3) (0x00A03004 / 2 ^ 23 % 2 ^ 2) ∧
    Ready base 0 ⟨[], none, decide (r.count ≤ r.depth), []⟩ ∧ r.prod = 0 ∧ Ready full 0 ⟨[], none, decide ((full.cur.rings[(1 : Fin 8)]).count ≤ 3), []⟩ ∧
    (full.cur.rings[(1 : Fin 8)]).prod ≠ 0 ∧ Ready base 0 ⟨[], none, decide (1 ≤ r.count), []⟩ ∧ base.cur.oq[(2 : Fin 8)] = [] ∧
    Ready base 0 ⟨[], some (.oq 2), decide (1 ≤ r.count), []⟩ := by unfold Ready; decide +kernel

theorem test_hyp_CopyInstructions :
    let t0 : Template := { Template.blank with pa := 64, wa := 0x100, len := 128, put := true, ctx := 1, notify := true }
    let with' (u : Template) : State := withCell fun c => { c with cts := vset c.cts 3 u }
    let good (s : State) (u : Template) : Prop := u.len % 32 = 0 ∧ 32 ≤ u.len ∧ u.pa.toNat % 32 = 0 ∧ u.wa.toNat % 32 = 0 ∧
      s.cur.inPrivate u.pa.toNat u.len = true
    let s := with' t0
    let a := with' { t0 with pinit := 2, armed := true, count := 2 }
    let free (s : State) : Bool := s.here.station.isNone && !s.here.acq
    let addr := copyAddr s.here.w[(1 : Fin 4)] (s.src (.reg 2))
    (s.cur.cts[(3 : Fin 16)]).pending = false ∧ (s.cur.cts[(3 : Fin 16)]).active = false ∧ good s (s.cur.cts[(3 : Fin 16)]) ∧
    Ready s 0 ⟨[], none, decide ((s.cur.cts[(3 : Fin 16)]).pinit ≠ 0) || free s, []⟩ ∧ good s { t0 with pa := s.src (.reg 1), wa := addr } ∧
    Ready s 0 ⟨[.reg 1, .reg 2], none, decide ((s.cur.cts[(3 : Fin 16)]).pinit ≠ 0) || free s, []⟩ ∧ Ready a 0 ⟨[], none, free a, []⟩ ∧
    (a.cur.cts[(3 : Fin 16)]).armed = true ∧ (s.cur.cts[(3 : Fin 16)]).armed = false ∧ Ready s 0 ⟨[], none, free s, []⟩ ∧
    Ready s 0 ⟨[.reg 1, .reg 2], none, decide (s.cur.directs < 4) && free s, []⟩ ∧ (s.src (.reg 1)).toNat % 32 = 0 ∧ addr.toNat % 32 = 0 ∧
    s.cur.inPrivate (s.src (.reg 1)).toNat (((3 : BitVec 14).toNat + 1) * 32) = true ∧ Ready a 0 ⟨[], none, true, []⟩ := by
  unfold Ready; decide +kernel

/-- R266, R268, R270: templates that fail their checks, one that is pending, and direct copies with a bad address on either side. -/
theorem test_hyp_CopyInstructions_faults :
    let t0 : Template := { Template.blank with pa := 64, wa := 0x100, len := 128 }
    let with' (u : Template) : State := withCell fun c => { c with cts := vset c.cts 3 u }
    let x : Copy := { tmpl := some 3, put := false, pa := 64, wa := 0x100, len := 64, ctx := 1, slot := 2, notify := true, left := [0, 1]
                      work := [], flight := [], cancelled := false, failed := none }
    let pend (n : Bool) : State := withCell fun c => { c with cts := vset c.cts 3 { t0 with pending := true }, copyPend := [{ x with notify := n }] }
    let act := withCell fun c => { c with cts := vset c.cts 3 { t0 with active := true }, copyAct := vset c.copyAct 1 (some x) }
    let free (s : State) : Bool := s.here.station.isNone && !s.here.acq
    let s := withX 1 0x40000
    let w := (withX 1 64).setCur ((withX 1 64).cur.setCtx 0 { (withX 1 64).here with w := vset base.here.w 1 0x10004 })
    let bad (u : Template) : Prop := u.len % 32 ≠ 0 ∨ u.len < 32 ∨ u.pa.toNat % 32 ≠ 0 ∨ u.wa.toNat % 32 ≠ 0
    (pend true).cur.cts[(3 : Fin 16)] = { t0 with pending := true } ∧ bad { t0 with len := 48 } ∧ bad { t0 with wa := 8 } ∧ ¬ bad { t0 with pa := 0x3FFC0 } ∧
    base.cur.inPrivate 0x3FFC0 128 = false ∧ Ready (with' { t0 with len := 48 }) 0 ⟨[], none, free base, []⟩ ∧
    Ready s 0 ⟨[.reg 1, .reg 2], none, decide (s.cur.directs < 4) && free s, []⟩ ∧ (s.src (.reg 1)).toNat % 32 = 0 ∧
    s.cur.inPrivate (s.src (.reg 1)).toNat 128 = false ∧ (copyAddr s.here.w[(1 : Fin 4)] (s.src (.reg 2))).toNat % 32 = 0 ∧
    (copyAddr w.here.w[(1 : Fin 4)] (w.src (.reg 2))).toNat % 32 ≠ 0 ∧ ((withX 1 68).src (.reg 1)).toNat % 32 ≠ 0 ∧
    (∀ n : Bool, Ready (pend n) 0 ⟨[], none, true, []⟩ ∧ (pend n).cur.copyPend.find? (fun y => decide (y.tmpl = some 3)) = some { x with notify := n } ∧
      ((pend n).cur.cts[(3 : Fin 16)]).armed = false) ∧
    Ready act 0 ⟨[], none, true, []⟩ ∧ (act.cur.cts[(3 : Fin 16)]).armed = false ∧ (act.cur.cts[(3 : Fin 16)]).pending = false := by
  unfold Ready; decide +kernel

/-- A mapped stage: its first gigabyte lies on frame 256 of the pool (R321, R322). -/
def mapped : State :=
  { base with tlb := [⟨0, 0, none, true, 0, 0x10001F, []⟩, ⟨64, 0, none, true, 0, 0x10001F, []⟩], stages := [(0, { someStage with root := some 0 })] }

/-- A cached page gives the byte of its frame, whatever else the state holds. -/
theorem pageOf_cached (s : State) (k : ReqKind) (f st : Nat) (g r : Option Nat) (off : Nat) (e : TlbEntry)
    (h : s.cached f st g off = some e)
    (hd : denied k e.entry = none) (hw : entryF e.entry 5 1 ≠ 1) (hf : frameOk (leafFrame e.entry e.huge off) = true) :
    pageOf s k f st g r off = (.home (frameKey (leafFrame e.entry e.huge off) (off % 2 ^ 21)), s) := by
  simp only [pageOf, Machine.translate, h, hd, hw, hf, if_false, if_true]

theorem pageOf_denied (s : State) (k : ReqKind) (f st : Nat) (g r : Option Nat) (off : Nat) (e : TlbEntry) (c : Nat)
    (h : s.cached f st g off = some e)
    (hd : denied k e.entry = some c) : pageOf s k f st g r off = (.fault 7 c, s) := by
  simp only [pageOf, Machine.translate, h, hd]

theorem test_hyp_CopyEngineWorks :
    let x : Copy := { tmpl := none, put := false, pa := 0x3FFC0, wa := 0x100, len := 64, ctx := 1, slot := 2, notify := false, left := [1]
                      work := [], flight := [], cancelled := false, failed := none }
    let key := 17244881184
    let s := withCell fun c => { c with copyPend := [x], copyAct := vset c.copyAct 0 (some x) }
    let d := withCell fun c => { c with copyAct := vset c.copyAct 1 (some { x with left := [] }) }
    let m := mapped.setCur { mapped.cur with copyAct := vset mapped.cur.copyAct 1 (some x) }
    let y (ph : BlockPhase) (n : Nat) : Block := ⟨1, .home key, ph, [], 0, 1, 0, Hop.at n 0, none, true⟩
    let work (put : Bool) (v : Block) : State := m.setCur { m.cur with copyAct := vset m.cur.copyAct 1 (some { x with put := put, left := [], work := [v] }) }
    (s.cell 0).copyPend = [x] ∧ x.tmpl = none ∧ (s.cell 0).copyAct[(1 : Fin 2)] = none ∧ (∀ j : Fin 2, j < 1 → (s.cell 0).copyAct[j] ≠ none) ∧
    (d.cell 0).copyAct[(1 : Fin 2)] = some { x with left := [] } ∧ x.notify = false ∧ x.failed = none ∧ x.flight = [] ∧
    (m.cell 0).copyAct[(1 : Fin 2)] = some x ∧ 1 ∈ x.left ∧ x.cancelled = false ∧ (m.stage 0).stopping = false ∧ modOf x.wa = m.host.modNum ∧
    1 < x.frontier + 64 ∧ m.tlb = mapped.tlb ∧ m.fieldOf 0 = 0 ∧ (m.stage 0).root = some 0 ∧
    walkMay m (walkReads m (m.fieldOf 0) 0 none (m.stage 0).root (offOf (setOff x.wa (offOf x.wa + 32)))) (256 * 4096) 64 = true ∧
    ((work true (y .out 1728)).leaving (.block 0 1 0)).isSome = true ∧ (work true (y .out 0)).leaving (.block 0 1 0) = none ∧
    ((work true { y .out 1728 with good := false }).leaving (.block 0 1 0)).isSome = true ∧ (y .out 1728).good = true ∧
    ((work false { y .back 0 with good := false }).leaving (.block 0 1 0)).isSome = true ∧
    ((work false { y .back 0 with res := some { cls := 8, code := 1, opnd := 9 } }).leaving (.block 0 1 0)).isSome = true ∧
    ((work false (y .back 0)).leaving (.block 0 1 0)).isSome = true ∧ (work false (y .back 1)).leaving (.block 0 1 0) = none ∧
    x.pa + 32 * 1 + 32 ≤ 0x40000 ∧ (m.cell 0).badSram = [] ∧ m.watches = [] ∧ key / 32 ∉ m.badFirn ∧
    ((y .there 0).got.getLsbD 0 = true ∧ (y .there 0).got.getLsbD 7 = false ∧ (y .there 0).done.getLsbD 0 = false ∧ (y .there 0).done ||| 1 ≠ 255) ∧
    (127 : BitVec 8) ||| (1 <<< 7) = 255 ∧
    ((work false (y .write 0)).cell 0).copyAct[(1 : Fin 2)] = some { x with put := false, left := [], work := [y .write 0] } := by decide +kernel

/-- R62, R269, R270: copies of a template and direct ones that end well, after a cancellation, and after a fault. -/
theorem test_hyp_CopyEngineWorks_ends :
    let x (i : Option (Fin 16)) (off : Bool) (f : Option FaultInfo) : Copy :=
      { tmpl := i, put := false, pa := 64, wa := 0x100, len := 64, ctx := 1, slot := 2, notify := true, left := if off then [1] else [], work := []
        flight := [], cancelled := off, failed := f }
    let s (y : Copy) : State := withCell fun c => { c with
      copyAct := vset c.copyAct 1 (some y)
      cts := vset (vset c.cts 3 { Template.blank with active := true, s0 := some 5, s1 := some 6 }) 5 { Template.blank with armed := true, count := 1 } }
    (∀ y ∈ [x none false none, x (some 3) false none, x none true none, x (some 3) true none, x (some 3) true (some { cls := 8, code := 1, opnd := 9 })],
      ((s y).cell 0).copyAct[(1 : Fin 2)] = some y ∧ y.flight = [] ∧ y.work = [] ∧ ((s y).cell 0).newPend = 0 ∧ ((s y).cell 0).asyncRecs.length < 8 ∧
      (((s y).cell 0).ctx y.ctx).status ≠ .halted) ∧
    (((s (x none false none)).cell 0).cts[(5 : Fin 16)]).armed = true ∧ (((s (x none false none)).cell 0).cts[(5 : Fin 16)]).count - 1 = 0 ∧
    (5 : Fin 16) ∈ (((s (x none false none)).cell 0).cts[(3 : Fin 16)]).s0.toList := by decide +kernel

theorem test_hyp_CopyEngineWorks_page : ∀ (m : State) (k : ReqKind), m.tlb = mapped.tlb → k = .getBlock ∨ k = .putBlock 0 →
    pageOf m k 0 0 none (some 0) (offOf (setOff 0x100 (offOf 0x100 + 32 * 1))) = (.home 17244881184, m) := by
  intro m k h hk
  have hp : denied k 0x10001F = none := by rcases hk with rfl | rfl <;> rfl
  exact pageOf_cached m k 0 0 none (some 0) _ ⟨0, 0, none, true, 0, 0x10001F, []⟩ (by rw [State.cached, h]; rfl) hp (by decide) rfl

/-! ## Status, wafer space, synchronization -/

theorem test_hyp_StatusReads :
    let ph (o : Bool) : Phase := ⟨4000, 6000, 7, 9, none, 55, o, true⟩
    let s : State := { (withCtx fun t => { t with phase := some (ph false) }) with strip := 4000 }
    let u : State := { s with strip := 3999 }
    Ready base 0 ⟨[], some (.oq 5), true, []⟩ ∧ base.here.phase = none ∧ Ready s 0 ⟨[], some (.reg 5), true, []⟩ ∧ s.here.phase = some (ph false) ∧
    (ph false).grant ≤ s.strip ∧ Ready u 0 ⟨[], some (.reg 5), true, []⟩ ∧ u.here.phase = some (ph false) ∧ u.strip < (ph false).grant ∧
    base.silent = [] := by unfold Ready; decide +kernel

theorem test_hyp_WaferStoresIssue :
    let free (s : State) : Bool := s.here.station.isNone && !s.here.acq && decide (s.here.uack < 255)
    let s := withCtx fun t => { t with uack := 254 }
    let o := withCtx fun t => { t with w := vset t.w 1 0x1234567890ABC2 }
    Ready s 0 ⟨[.deq 2], none, free s, []⟩ ∧ Ready s 0 ⟨[.deq 2, .reg 4], none, free s, []⟩ ∧ Ready s 0 ⟨[], none, free s, []⟩ ∧
    (waferAddr s.here 1 64 64).toNat % 64 = 0 ∧ (waferAddr s.here 1 64 4).toNat % 4 = 0 ∧ (waferAddr s.here 1 64 8).toNat % 8 = 0 ∧
    (waferAddr o.here 1 1 4).toNat % 4 ≠ 0 ∧ (waferAddr o.here 1 1 8).toNat % 8 ≠ 0 ∧ (waferAddr o.here 1 1 64).toNat % 64 ≠ 0 ∧
    Ready o 0 ⟨[.deq 2], none, free o, []⟩ := by unfold Ready; decide +kernel

theorem test_hyp_AtomicsAndWatchesIssue :
    let free : Bool := base.here.station.isNone && !base.here.acq && decide (base.here.uack < 255)
    let open8 (d : Fin 8) : Bool := !base.here.pres.getLsbD d && !base.here.resv.getLsbD d
    Ready base 0 ⟨[.reg 1], none, free && open8 7, []⟩ ∧ Ready base 0 ⟨[], none, free && open8 0, []⟩ ∧ (waferAddr base.here 1 16 4).toNat % 4 = 0 ∧
    Ready base 0 ⟨[], none, free && (open8 (Fin.ofNat 8 (2 * (3 : Fin 4).val)) && open8 (Fin.ofNat 8 (2 * (3 : Fin 4).val + 1))), []⟩ ∧
    (waferAddr base.here 1 16 8).toNat % 8 = 0 ∧ Ready base 0 ⟨[.reg 4, .reg 1], none, free && !base.here.watchOut, []⟩ ∧
    Ready base 0 ⟨[.reg 4], none, free && !base.here.watchOut, []⟩ := by unfold Ready; decide +kernel

theorem test_hyp_FencesMarksArrivals :
    let noCopy := !base.cur.copyPend.any (fun x => decide (x.ctx = base.focus.ctx))
      && base.cur.copyAct.all (fun x => x.all fun y => decide (y.ctx ≠ base.focus.ctx))
    let idle := decide (base.here.uack = 0)
    let empty := base.here.station.isNone
    Ready base 0 ⟨[], none, empty && idle, []⟩ ∧ Ready base 0 ⟨[], none, empty && noCopy, []⟩ ∧ Ready base 0 ⟨[], none, empty && idle && noCopy, []⟩ ∧
    Ready base 0 ⟨[.deq 2], none, empty, []⟩ ∧ Ready base 0 ⟨[], none, !(base.cur.bars[(5 : Fin 16)]).arr, []⟩ ∧
    Ready base 0 ⟨[], none, !(base.cur.bars[(5 : Fin 16)]).arr && empty, []⟩ := by unfold Ready; decide +kernel

theorem test_hyp_PowerPhases :
    let grp : Fin 16 := Fin.ofNat 16 ((base.src (.reg 1)).toNat)
    let m := withCell fun c => { c with bars := Vector.replicate 16 { Bar.blank with member := true } }
    let held (s : State) (u : Context) : Bool := u.phase.any fun ph => decide (s.strip < ph.stop)
    let g := m.setCur (m.cur.setCtx 0 { m.here with phase := some ⟨6000, 8000, 7, 5, some grp, 8, false, true⟩ })
    let o := m.setCur (m.cur.setCtx 0 { m.here with phase := some ⟨3000, 5000, 7, 5, some grp, 8, true, true⟩ })
    let two := m.setCur (m.cur.setCtx 1 { m.cur.ctx 1 with phase := some ⟨6000, 8000, 7, 5, some grp, 8, false, true⟩ })
    let admits (s : State) : Prop :=
      ((s.cells.filter fun e => decide (s.fieldOf e.1 = s.fieldOf 0)).map fun e => e.1).dedup.length * 15 ≤ s.fl[Fin.ofNat 64 (s.fieldOf 0)]
    Ready base 0 ⟨[], none, true, []⟩ ∧ base.here.phase = none ∧ admits base ∧ Ready g 0 ⟨[], none, true, []⟩ ∧ g.here.phase.isSome = true ∧
    Ready m 0 ⟨[.reg 1], none, true, []⟩ ∧ m.here.phase = none ∧ (m.cur.bars[grp]).member = true ∧ ((m.cell 0).ctx 0).phase = none ∧ admits m ∧
    (∀ e ∈ m.cells, ∀ i : Fin 4, (e.2.ctx i).phase = none) ∧ Ready base 0 ⟨[.reg 1], none, true, []⟩ ∧ (base.cur.bars[grp]).member = false ∧
    Ready g 0 ⟨[.reg 1], none, true, []⟩ ∧ (g.cur.bars[grp]).member = true ∧ held g g.here = true ∧ held o o.here = false ∧ o.here.phase.isSome = true ∧
    admits o ∧ Ready o 0 ⟨[], none, true, []⟩ ∧ held two two.here = false ∧ (two.cur.bars[grp]).member = true ∧ Ready two 0 ⟨[.reg 1], none, true, []⟩ ∧
    (∃ e ∈ two.cells, e.2.stage = two.cur.stage ∧ ∃ i, held two (e.2.ctx i) = true ∧
      (e.2.ctx i).phase.any (fun ph => decide (ph.gang = some grp)) = true) := by
  unfold Ready; decide +kernel

/-- R306: a declaration that the limit delays by 256 strip cycles, since a window of another context stands until then, and one that no delay lets
in; alone and as a gang of one. -/
theorem test_hyp_PowerPhases_limit :
    let m (l : Nat) : State := { (withCell fun c => { c.setCtx 1 { c.ctx 1 with phase := some ⟨5000, 5400, 6, 5, none, 8, true, true⟩ } with
      bars := Vector.replicate 16 { Bar.blank with member := true } }) with fl := Vector.replicate 64 l }
    let grant := max ((m 10).strip + 16 * 0) ((m 10).strip + 256) + 16 * ((3 * (0 / 320 % 64) + (m 10).physCol 0 % 48 / 16) % 16)
    let load (s : State) (d t : Nat) : Nat :=
      let covers (g e : Nat) : Bool := decide (g ≤ t ∧ t < e)
      let at' (m : Nat) : Nat :=
        ((s.cells.filter fun e => decide (e.1 = m)).flatMap fun e => e.2.ctxs.toList.flatMap fun u =>
          (u.phase.toList.filter fun ph => covers ph.grant ph.stop).map fun ph => ph.int).sum
          + if m ∈ [0] ∧ covers (5256 + d) (5256 + d + 64) = true then 8 else 0
      (((s.cells.map fun e => e.1).dedup.filter fun m => decide (s.fieldOf m = 0)).map fun m => min 15 (at' m)).sum
    grant = 5256 ∧ (m 10).fieldOf 0 = 0 ∧ ¬ load (m 10) 0 5256 ≤ 10 ∧ (∀ t ∈ List.range' 5512 64, load (m 10) 256 t ≤ 10) ∧
    (∀ j ∈ List.range 257, ¬ load (m 0) (256 * j) (5256 + 256 * j) ≤ 0) ∧ Ready (m 10) 0 ⟨[], none, true, []⟩ ∧ (m 10).here.phase = none ∧
    Ready (m 10) 0 ⟨[.reg 1], none, true, []⟩ ∧ ((m 10).cells.filter fun e => decide (e.2.stage = (m 10).cur.stage)).map (fun e => e.1) = [0] ∧
    (∀ i : Fin 4, ((m 10).cur.ctx i).phase.all (fun ph => ph.gang.isNone) = true) := by
  unfold Ready; decide +kernel

/-! ## Traps, configuration, remote writes -/

theorem test_hyp_HaltAndTraps :
    let d := base.setStage 0 { someStage with debug := true }
    Ready base 0 ⟨[], none, true, []⟩ ∧ Ready base 0 ⟨[.deq 1], none, base.here.record.isNone && base.here.beside.isEmpty, []⟩ ∧
    Ready d 0 ⟨[.deq 1], none, d.here.record.isNone && d.here.beside.isEmpty, []⟩ ∧ (d.stage d.cur.stage).debug = true ∧
    Ready base 0 ⟨[.deq 1], none, true, []⟩ ∧ (base.stage base.cur.stage).debug = false := by unfold Ready; decide +kernel

theorem test_hyp_ConfigurationCuesSlots :
    let z := withX 1 0
    let arm := z.setCur { z.cur with cts := vset z.cur.cts 11 { Template.blank with armed := true } }
    let bad := withX 2 0x90000000
    let img := (withX 3 64).setCur { (withX 3 64).cur with sram := Mem.writeN [] 64 4 5 }
    let at' (ca : BitVec 12) : Nat := ((z.src (.reg 1)).toNat + ca.toNat) % 2 ^ 12
    let flip : DWord := base.cur.cues[(9 : Fin 63)] ||| 0x1000000000000000
    Ready z 0 ⟨[.reg 1], some (.reg 4), true, []⟩ ∧ at' 0 = 0 ∧ at' 1 = 1 ∧ at' 0x25 = 0x10 + 3 * 7 ∧ at' 0x70 = 0x40 + 16 * 3 ∧
    at' 0xF8 = 0x80 + 8 * 15 ∧ at' 0x110 = 0x110 ∧ at' 0x11A = 0x11A ∧ at' 0x1FC = 0x180 + 2 * 62 ∧ at' 0x1FD = 0x181 + 2 * 62 ∧
    at' 0x27F = 0x200 + 127 ∧ (2 ≤ at' 2 ∧ at' 2 < 0x10) ∧ (0x28 ≤ at' 0x3F ∧ at' 0x3F < 0x40) ∧ (0x11C ≤ at' 0x17F ∧ at' 0x17F < 0x180) ∧
    0x284 ≤ at' 0xFFF ∧ Ready z 0 ⟨[.reg 2, .reg 1], none, true, []⟩ ∧ at' 0xD8 = 0x80 + 8 * 11 ∧ (z.cur.cts[(11 : Fin 16)]).armed = false ∧
    (z.cur.cts[(11 : Fin 16)]).pending = false ∧ (z.cur.cts[(11 : Fin 16)]).active = false ∧ Ready arm 0 ⟨[.reg 2, .reg 1], none, true, []⟩ ∧
    (arm.cur.cts[(11 : Fin 16)]).armed = true ∧ (0x10 ≤ at' 0x27 ∧ at' 0x27 < 0x28) ∧
    cueBad z.cur (z.src (.reg 2) ++ z.src (.reg 1)) = false ∧ Ready bad 0 ⟨[.reg 2, .reg 1], none, true, []⟩ ∧
    cueBad bad.cur (bad.src (.reg 2) ++ bad.src (.reg 1)) = true ∧ Ready base 0 ⟨[], none, true, []⟩ ∧ cueBad base.cur flip = false ∧
    (0x9000000000000000 : DWord).getLsbD 60 = true ∧ (0x9000000000000000 : DWord).getLsbD 63 = true ∧
    (4 : Fin 128).val + ((2 : Fin 128).val + 1) ≤ 128 ∧ Ready img 0 ⟨[.reg 3], none, true, []⟩ ∧ (img.src (.reg 3)).toNat % 4 = 0 ∧
    (img.src (.reg 3)).toNat + ((3 + 31) / 32 + 3) * 4 ≤ 0x40000 ∧
    ((img.src (.reg 3)).toNat + ((3 + 31) / 32 + 3) * 4 - 1) / 64 - (img.src (.reg 3)).toNat / 64 + 1 = 1 ∧ img.cur.badSram = [] ∧
    (withX 3 65).src (.reg 3) = 65 ∧ 65 % 4 ≠ 0 ∧ 0x40000 < 0x3FFF4 + ((3 + 31) / 32 + 3) * 4 ∧ (60 + 16 - 1) / 64 - 60 / 64 + 1 ≠ 1 := by
  unfold Ready; decide +kernel

theorem test_hyp_RemoteWritesRelease :
    let w : Put := ⟨0, 0, 2, 7, 1, 0, none⟩
    let moving : Put := { w with hop := some (Hop.at 0 4990) }
    let s := withCell fun c => { c.setCtx 2 { c.ctx 2 with status := .parkFault } with putSend := [w], names := [0] }
    let m := s.setCell 0 { s.cell 0 with putSend := [moving] }
    let h := withCell fun c => { c with putHeld := [w] }
    let u := (s.cell 0).ctx 2
    w.ctx = 2 ∧ u.pres.getLsbD w.r.val = false ∧ u.resv.getLsbD w.r.val = false ∧ u.was.getLsbD w.r.val = false ∧ u.status = .parkFault ∧ w.r = 7 ∧
    u.beside = [] ∧ u.respFaults = 0 ∧ w.value.toNat % 4 = 1 ∧ (s.cell 0).putSend[0]? = some w ∧ w.hop = none ∧ putOpen s 0 0 w = true ∧
    FlitRef.put 0 0 ∈ s.flits.map (·.1) ∧ m.putAt 0 = some (0, 0, moving) ∧ (m.leaving (.put 0 0)).isSome = true ∧ m.putCell 0 moving = 0 ∧
    (s.cell 0).putHeld = [] ∧ (h.cell 0).putHeld = [w] ∧ ((h.cell 0).ctx 2).status = .running := by decide +kernel

theorem test_hyp_ConfigurationCuesSlots_map :
    let z := withX 1 0
    let at' (ca : BitVec 12) : Nat := ((z.src (.reg 1)).toNat + ca.toNat) % 2 ^ 12
    let arm := z.setCur { z.cur with cts := vset z.cur.cts 11 { Template.blank with armed := true } }
    let gap (x : Nat) (g : Fin 4) (ct : Fin 16) : Prop :=
      0x4A + 16 * g.val ≤ x ∧ x < 0x50 + 16 * g.val ∨ 0x85 + 8 * ct.val ≤ x ∧ x < 0x88 + 8 * ct.val ∨ x = 0x1FE ∨ x = 0x1FF
    at' 0x71 = 0x41 + 16 * 3 ∧ at' 0x78 = 0x42 + 16 * 3 + 2 * 3 ∧ at' 0x79 = 0x43 + 16 * 3 + 2 * 3 ∧ at' 0xF9 = 0x81 + 8 * 15 ∧ at' 0xFA = 0x82 + 8 * 15 ∧
    at' 0xFB = 0x83 + 8 * 15 ∧ at' 0xFC = 0x84 + 8 * 15 ∧ at' 0x10E = 0x100 + 2 * 7 ∧ at' 0x10F = 0x101 + 2 * 7 ∧ at' 0x111 = 0x111 ∧
    at' 0x119 = 0x112 + 7 ∧ at' 0x11B = 0x11B ∧ at' 0x283 = 0x280 + 3 ∧ gap (at' 0x4A) 0 0 ∧ gap (at' 0x7F) 3 0 ∧ gap (at' 0x85) 0 0 ∧
    gap (at' 0xFF) 0 15 ∧ gap (at' 0x1FE) 0 0 ∧ gap (at' 0x1FF) 0 0 ∧ ¬ gap (at' 0x49) 0 0 ∧ ¬ gap (at' 0x84) 0 0 ∧
    Ready z 0 ⟨[.reg 1], some (.reg 4), true, []⟩ ∧ Ready z 0 ⟨[.reg 2, .reg 1], none, true, []⟩ ∧ (z.cur.cts[(11 : Fin 16)]).armed = false ∧
    (z.cur.cts[(11 : Fin 16)]).pending = false ∧ (z.cur.cts[(11 : Fin 16)]).active = false ∧ at' 0xDC = 0x80 + 8 * 11 + 4 ∧
    Ready arm 0 ⟨[.reg 2, .reg 1], none, true, []⟩ ∧ (arm.cur.cts[(11 : Fin 16)]).armed = true ∧
    (at' 0x41 ≠ 0 ∧ at' 0x41 < 0x80 ∧ ∀ g : Fin 4, ¬ (0x4A + 16 * g.val ≤ at' 0x41 ∧ at' 0x41 < 0x50 + 16 * g.val)) ∧ 0x100 ≤ at' 0x11B ∧ at' 0x11B < 0x11C := by
  unfold Ready; decide +kernel

theorem test_hyp_ConfigurationCuesSlots_hold :
    let h (left : Nat) (sram : Mem) : State := withCell fun c => { c with sram := sram, hold := .slotLd left 7 0 9 (.reg 3) 4 2 64 ⟨0, 0⟩ }
    let new (c : CellState) : CellState :=
      { c with hold := .none, slots := Vector.ofFn fun i => if 4 ≤ i ∧ i.val < 7 then
          (if (c.sram.readN 64 4).testBit (i.val - 4) then some (BitVec.ofNat 32 (c.sram.readN (64 + (1 + (i.val - 4)) * 4) 4)) else none)
          else c.slots[i] }
    let empty := h 1 []
    let bad := h 1 (Mem.writeN (Mem.writeN [] 64 4 2) 72 4 0xFFFFFFFF)
    ((h 2 []).cell 0).hold = .slotLd 2 7 0 9 (.reg 3) 4 2 64 ⟨0, 0⟩ ∧ (empty.cell 0).hold = .slotLd 1 7 0 9 (.reg 3) 4 2 64 ⟨0, 0⟩ ∧
    (empty.cell 0).badSram = [] ∧ (∀ k : Fin 5, slotBadCode (new (empty.cell 0)) (3 + k.val) = none) ∧ (bad.cell 0).badSram = [] ∧
    (slotBadCode (new (bad.cell 0)) 5).isSome = true ∧ (∀ k : Fin 2, slotBadCode (new (bad.cell 0)) (3 + k.val) = none) := by decide +kernel

theorem test_hyp_RemoteWritesRelease_names :
    let s := withCell fun c => { c with nameWalk := [(7, 9000), (5, 400)], cyc := 400 }
    (s.cell 0).nameWalk = [(7, 9000)] ++ (5, 400) :: [] ∧ 400 ≤ (s.cell 0).cyc ∧ ∀ w ∈ [((7 : Nat), 9000)] ++ [], (s.cell 0).cyc < w.2 := by decide +kernel

/-! ## Events of cells and the network -/

theorem test_hyp_LineCacheAndMerges :
    let a : Access := { store := false, size := 4, signed := false, addr := 0x40000064, data := 1, dst := .reg 3, p := ⟨3, 1⟩, x := true, ctx := 2, slot := 3 }
    let b : Access := { a with store := true }
    let e : Line := ⟨3, 5, false, false⟩
    let hold (x : Access) (lines : List Line) (fills : List Fill) : State := withCell fun c => { c with hold := .slice x, cache := lines, fills := fills }
    let hit (x : Access) : State := hold x [⟨9, 7, true, false⟩, e] []
    let miss (x : Access) : State := hold x [⟨9, 7, true, false⟩] [⟨8, .beat, false, none⟩]
    let wait := hold a [] [⟨3, .load a, false, none⟩]
    let four := hold a [] ([4, 5, 6, 7].map fun l => ⟨l, .beat, false, none⟩)
    let fill (u : FillUse) (at' : Nat) : State :=
      withCell fun c => { c.setCtx 2 { c.ctx 2 with status := .parkMiss } with fills := [⟨3, u, true, some at'⟩] }
    let z := withCell fun c => { c with hold := .fenceL, cache := [⟨9, 7, false, false⟩] }
    let l := (a.addr - 0x40000000) / 32
    let w (write : Bool) (at' : Nat) (u : PortUser) : State := { base with merges := [⟨0, 3, write, at', [(0, 0, u, 5)]⟩] }
    l = 3 ∧ (∀ x ∈ [a, b], ((hit x).cell 0).hold = .slice x ∧ (∀ f ∈ ((hit x).cell 0).fills, f.line ≠ l) ∧
      ((hit x).cell 0).cache.find? (fun y => decide (y.line = l)) = some e ∧ ((miss x).cell 0).hold = .slice x ∧
      (∀ f ∈ ((miss x).cell 0).fills, f.line ≠ l) ∧ (∀ y ∈ ((miss x).cell 0).cache, y.line ≠ l) ∧ ((miss x).cell 0).fills.length < 4) ∧
    e.line = l ∧ a.store = false ∧ b.store = true ∧ (((miss a).cell 0).ctx 2).status = .running ∧ (wait.cell 0).hold = .slice a ∧
    (∃ f ∈ (wait.cell 0).fills, f.line = l) ∧ (four.cell 0).hold = .slice a ∧ (∀ y ∈ (four.cell 0).cache, y.line ≠ l) ∧ 4 ≤ (four.cell 0).fills.length ∧
    (∀ u ∈ [FillUse.beat, .store a, .load a], ((fill u 5000).cell 0).fills = [⟨l, u, true, some 5000⟩] ∧ 5000 ≤ (fill u 5000).strip ∧
      l ∉ ((fill u 5000).cell 0).badLines ∧ ((fill u 5000).cell 0).wbs = [] ∧
      (((fill u 5000).cell 0).cache.filter fun x => decide (x.line % 128 = l % 128)).length < 4 ∧
      (((fill u 5000).cell 0).ctx 2).status = .parkMiss ∧ (((fill u 5000).cell 0).ctx 2).respFaults = 0) ∧
    ((fill .beat 5001).cell 0).fills = [⟨l, .beat, true, some 5001⟩] ∧ (fill .beat 5001).strip < 5001 ∧
    (z.cell 0).hold = .fenceL ∧ (z.cell 0).fills = [] ∧ (z.cell 0).wbs = [] ∧ (∀ x ∈ (z.cell 0).cache, x.dirty = false) ∧
    (∀ u ∈ [PortUser.cache, .gen 1, .copy 1], ∀ write : Bool, (w write 4936 u).merges[0]? = some ⟨0, 3, write, 4936, [(0, 0, u, 5)]⟩ ∧
      4936 + 64 ≤ (w write 4936 u).strip ∧ (w write 4936 u).firn.wf = true ∧ (w write 4936 u).host.hostMem.wf = true) ∧
    (w false 4937 .cache).merges[0]? = some ⟨0, 3, false, 4937, [(0, 0, .cache, 5)]⟩ ∧ (w false 4937 .cache).strip < 4937 + 64 := by decide +kernel

theorem test_hyp_MeshItems :
    let q : Route := ⟨0, 0, .queue 4 1 0, 9⟩
    let r : Route := ⟨0, 0, .ring 4 1 0, 9⟩
    let s := (withCell fun c => { c with
      oq := vset c.oq 2 [⟨5, 6, true⟩], oqAt := vset c.oqAt 2 1, routes := vset c.routes 2 (some q) }).setCell 1 (CellState.blank 0 1 0)
    let k : TSend := ⟨1, 2, 7, 8, 1, 3⟩
    let t := (withCell fun c => { c with tsend := some k, routes := vset c.routes 2 (some r) }).setCell 1
      { CellState.blank 0 1 0 with rings := Vector.replicate 8 { Ring.blank with depth := 3, tsz := 7, prod := 1 } }
    let ring := (t.cell 1).rings[(4 : Fin 8)]
    (s.cell 0).oq[(2 : Fin 8)] = [⟨5, 6, true⟩] ∧ (s.cell 0).routes[(2 : Fin 8)] = some q ∧ (s.stage 0).stopping = false ∧
    (s.cell 0).oqAt[(2 : Fin 8)] ≠ 0 ∧ (s.cell 0).tsend = none ∧ ((s.cell 1).iq[(4 : Fin 8)]).length * 4 + s.flying (.queue 1 4) + 4 ≤ 32 ∧
    (base.cell 0).oqAt[(2 : Fin 8)] = 0 ∧ (t.cell 0).tsend = some k ∧ k.q = 2 ∧ (t.cell 0).routes[(2 : Fin 8)] = some r ∧
    (t.cell 0).badSram = [] ∧ ring.bytes + t.flying (.ring 1 4) + 64 ≤ (ring.depth + 1 - ring.count) * ((ring.tsz + 1) * 64) ∧ k.units ≤ k.sent + 1 ∧
    ({ k with sent := 6 } : TSend).sent + 1 < k.units ∧ ((t.cell 0).rings[(1 : Fin 8)]).prod ≠ 3 := by decide +kernel

/-- A flit that is alone on the mesh and stands where it leaves it has its turn there. -/
theorem leaving_alone {s : State} {ref : FlitRef} {f : Flit} (h : s.flits = [(ref, f)]) (ht : f.there = true) (hk : s.takes ref = true) :
    s.leaving ref = some f := by
  simp [State.leaving, h, ht, hasTurn, State.heads, indexed, isHead, wants, hk]

/-- An empty buffer has room. -/
theorem portRoom_empty {s : State} {cls router : Nat} {d : Dir}
    (h : (s.flits.filter fun f => decide (f.2.cls = cls ∧ f.2.hop.router = router ∧ f.2.hop.trail.head? = some d)) = []) :
    portRoom s cls router d = true := by rw [portRoom, h]; simp

/-- Whether the first flit of a state has its turn at an output. -/
def firstTurn (s : State) (out : Option Dir) : Bool := (s.flits.head?).any fun e => hasTurn s s.takes e.1 e.2 out

theorem test_hyp_MeshItems_packets :
    let p (d : PktData) (tgt : PktTo) (goal : Nat) : Packet := ⟨0, 0, 2, tgt, d, Hop.at 0 0, goal, 3, true⟩
    let word : PktData := .word ⟨5, 6, true⟩
    let f : State := { base with packets := [p word (.queue 1 4) 1] }
    let narrow : AMap Stage := [(0, { someStage with w := 1 }), (3, { someStage with x0 := 1, w := 2 })]
    let o : State := { f with stages := narrow }
    let e : State := { base with packets := [p word (.egress 3) 1], stages := narrow }
    let before : Packet := { p word (.queue 1 4) 1 with hop := (Hop.at 0 0).go .east 0 }
    let two : State := { base with packets := [before, p word (.queue 1 4) 1] }
    let v (d : PktData) (tgt : PktTo) : State := { base with packets := [p d tgt 0] }
    f.packets[0]? = some (p word (.queue 1 4) 1) ∧ (f.flits.head?).any (fun x => decide (x.1 = .packet 0 ∧ x.2.ways = [.east])) = true ∧
    firstTurn f (some .east) = true ∧ AMap.getD f.links (linkKey 0 .east) 0 + 1 ≤ 2 ∧ f.strip % 8 ≠ 7 ∧ (Hop.at 0 0).router ≠ 1 ∧
    (∀ x ∈ f.stages, x.2.owns 1 = true → x.1 = 0) ∧ (∃ x ∈ o.stages, x.2.owns 1 = true ∧ x.1 ≠ 0 ∧ x.2.owns 1 = true) ∧
    firstTurn o (some .east) = true ∧ firstTurn e (some .east) = true ∧ (e.stage 0).owns 0 = true ∧ (e.stage 0).owns 1 = false ∧
    two.packets[1]? = some (p word (.queue 1 4) 1) ∧ ((two.packets.take 1).filter fun x => decide (x.src = 0 ∧ x.oq = 2)) = [] ++ [before] ∧
    before.hop.trail.reverse[0]? = some .east ∧ (AMap.get? base.cells 0).isSome = true ∧ someCell.stage = 0 ∧
    (∀ x ∈ [(word, PktTo.queue 0 4), (word, .ring 0 4), (.unit 7 true, .ring 0 4)],
      (v x.1 x.2).packets[0]? = some (p x.1 x.2 0) ∧ ((v x.1 x.2).leaving (.packet 0)).isSome = true) ∧
    ((base.cell 0).rings[(4 : Fin 8)]).bytes + 64 ≤ (((base.cell 0).rings[(4 : Fin 8)]).tsz + 1) * 64 ∧ ((base.cell 0).rings[(4 : Fin 8)]).buf = [] ∧
    two.packets[0]? = some before := by
  decide +kernel

/-- R50: the last of 16 words for a ring, with another packet that came to the buffer behind it. -/
theorem test_hyp_MeshItems_ring :
    let p (came : Nat) : Packet := ⟨0, 0, 2, .ring 0 4, .word ⟨5, 6, true⟩, { Hop.at 0 0 with came := came }, 0, 3, true⟩
    let c : CellState := { someCell with rings := vset someCell.rings 4 { someCell.rings[4] with buf := List.replicate 15 7, bytes := 60 } }
    let s : State := { base with cells := [(0, c)], packets := [p 4, p 5] }
    s.packets[0]? = some (p 4) ∧ s.packets[1]? = some (p 5) ∧ (s.leaving (.packet 0)).isSome = true ∧ AMap.get? s.cells 0 = some c ∧ c.stage = (p 4).stage ∧
    (c.rings[(4 : Fin 8)]).buf.length = 15 ∧ (c.rings[(4 : Fin 8)]).bytes + 4 ≠ ((c.rings[(4 : Fin 8)]).tsz + 1) * 64 := by decide +kernel

theorem test_hyp_MeshItems_room :
    portRoom { base with packets := [⟨0, 0, 2, .queue 1 4, .word ⟨5, 6, true⟩, Hop.at 0 0, 1, 3, true⟩] } 0 1 .east = true :=
  portRoom_empty (by decide +kernel)

theorem test_hyp_RequestsReachTheirHome :
    let r := requestAt base (.store4 9) 0x1234
    let s := withCtx fun t => { t with station := some (.req r) }
    let m : State := { mapped with reqs := [r] }
    let homed (key : Nat) : Req := { r with loc := .homed (key / 2 ^ 27) key }
    let w (key : Nat) : State := { base with reqs := [homed key] }
    let full : State := { base with reqs := homed 5 :: List.replicate 64 { r with loc := .window 0 4096 } }
    let rival : Req := { homed 5 with stage := 3, hop := (Hop.at 1 0).go Dir.west 0 }
    let spent : State := { w 5 with reqs := [homed 5, rival], served := [(serveKey 0 0 (256 * 4096), 200)] }
    let tired : State := { base with reqs := [r, { homed 5 with stage := 3 }], served := [(serveKey 0 1 (256 * 4096), 256)] }
    let inWindow (s : State) : Nat := (s.reqs.filter fun x => match x.loc with
      | .window k _ => decide (k = 0)
      | _ => false).length
    ((s.cell 0).ctx 0).station = some (.req r) ∧ ((s.cell 0).ctx 0).uack = 0 ∧ r.cell = 0 ∧ r.ctx = 0 ∧ m.reqs[0]? = some r ∧ r.loc = .issued ∧
    modOf r.addr = m.host.modNum ∧ m.fieldOf 0 = 0 ∧ r.stage = 0 ∧ (m.stage 0).root = some 0 ∧ m.tlb = mapped.tlb ∧
    r.origin = none ∧ walkMay m (walkReads m 0 0 none (some 0) 0x1234) r.who r.qp = true ∧
    walkMay tired (walkReads tired 0 0 none (some 0) 0x1234) r.who r.qp = false ∧
    (w 5).reqs[0]? = some (homed 5) ∧ inWindow (w 5) < 64 ∧ r.hop.y * 320 + r.hop.x = (w 5).overStrip 0 ∧ ((w 5).leaving (.req 0)).isSome = true ∧
    (∀ e ∈ (w 5).flits, e.1 ≠ .req 0 → e.2.hop.router ≠ (w 5).overStrip 0) ∧ full.leaving (.req 0) = none ∧
    budgetsAllow (w 5) (homed 5) 0 = true ∧ full.reqs[0]? = some (homed 5) ∧ 64 ≤ inWindow full ∧
    (w (2 ^ 27 + 5)).reqs[0]? = some (homed (2 ^ 27 + 5)) ∧ (w (2 ^ 27 + 5)).leaving (.req 0) = none ∧
    (∀ q ∈ (w 5).reqs, q.before 0 = true → q.who = (homed 5).who) ∧ spent.reqs[0]? = some (homed 5) ∧ budgetsAllow spent (homed 5) 0 = false ∧ blockDemand (w 5) 0 = [] ∧
    walkDemand (w 5) 0 = [] := by decide +kernel

theorem test_hyp_RequestsReachTheirHome_edge :
    let r := requestAt base (.store4 9) 0x5000000000010
    let linked : State := { base with edge := { base.edge with
      peers := vset base.edge.peers 3 (5 * 2 ^ 7), ports := vset base.edge.ports 3 { EdgePort.blank with trained := true } } }
    ({ base with reqs := [r] } : State).reqs[0]? = some r ∧ r.loc = .issued ∧ modOf r.addr ≠ base.host.modNum ∧ linked.toward (modOf r.addr) = some 3 ∧
    linked.openTo (modOf r.addr) = true ∧ r.origin = none := by decide +kernel

theorem test_hyp_RequestsReachTheirHome_unlinked : ({ base with edge := { base.edge with next := some [] } } : State).toward 5 = none := by decide +kernel

/-- A request for another module that stands where that module's traffic leaves. -/
def awayState : State :=
  { base with
    cells := []
    reqs := [{ requestAt base (.store4 9) 0x5000000000010 with loc := .away, hop := Hop.at (edgeRouter 5) 0 }]
    edge := { base.edge with peers := vset base.edge.peers 3 (5 * 2 ^ 7), ports := vset base.edge.ports 3 { EdgePort.blank with trained := true } } }

theorem hop_router (n strip : Nat) : (Hop.at n strip).router = n := by simp only [Hop.at, Hop.router]; omega

theorem test_hyp_RequestsReachTheirHome_away : ∃ f, awayState.leaving (.req 0) = some f := by
  have h : modOf (0x5000000000010 : DWord) = 5 := by decide
  refine ⟨_, leaving_alone (f := ⟨1, Hop.at (edgeRouter 5) 0, edgeRouter 5, 1, (Hop.at (edgeRouter 5) 0).ways (edgeRouter 5)⟩) ?_ ?_ ?_⟩
  · simp [State.flits, awayState, indexed, reqFlit, requestAt, base, State.reset, ReqKind.flits]
    exact ⟨congrArg edgeRouter h, congrArg (fun m => (Hop.at (edgeRouter 5) 0).ways (edgeRouter m)) h⟩
  · exact decide_eq_true (hop_router _ _)
  · decide +kernel

theorem test_hyp_RequestsReachTheirHome_page : ∀ m : State,
    (m.tlb = mapped.tlb → pageOf m (.store4 9) 0 0 none (some 0) 0x1234 = (.home (frameKey 256 0x1234), m)) ∧
    (m.tlb = [⟨0, 0, none, true, 0, 0x100003, []⟩] → pageOf m (.store4 9) 0 0 none (some 0) 0x1234 = (.fault 7 1, m)) := by
  intro m
  refine ⟨fun h => ?_, fun h => ?_⟩
  · exact pageOf_cached m _ 0 0 none (some 0) _ ⟨0, 0, none, true, 0, 0x10001F, []⟩ (by rw [State.cached, h]; rfl) rfl (by decide) rfl
  · exact pageOf_denied m _ 0 0 none (some 0) _ ⟨0, 0, none, true, 0, 0x100003, []⟩ 1 (by rw [State.cached, h]; rfl) rfl

/-- Two tables in frame 0 of the pool: pages, pointers and entries that break the layout. -/
def tables : State :=
  { base with firn := [((0 : Nat), (0x20001F : Nat)), (16, 0x20005F), (24, 0x20000B), (32, 0x200011), (40, 0x100000001), (48, 0x2F), (4096, 0x10001F),
      (4112, 0x100005)].foldl (fun (f : Mem) (e : Nat × Nat) => f.writeN (frameKey 0 e.1) 8 e.2) [] }

theorem test_hyp_TranslationWalks :
    let fld (e : DWord) (lo n : Nat) : Nat := e.toNat / 2 ^ lo % 2 ^ n
    let entry (a : Nat) : DWord := BitVec.ofNat 64 (tables.firn.readN (frameKey 0 a) 8)
    let ok (e : DWord) : Prop := fld e 0 1 = 1 ∧ fld e 6 6 = 0 ∧ fld e 41 23 = 0
    tables.tlb = [] ∧ 0 < 786432 ∧ (ok (entry 0) ∧ fld (entry 0) 1 1 = 1 ∧ fld (entry 0) 12 20 % 512 = 0 ∧ fld (entry 0) 5 1 = 0 ∧ fld (entry 0) 2 1 = 1) ∧
    fld (entry 8) 0 1 = 0 ∧ fld (entry 16) 6 6 ≠ 0 ∧ (ok (entry 24) ∧ fld (entry 24) 2 1 = 0) ∧ (fld (entry 32) 1 1 = 0 ∧ fld (entry 32) 2 4 ≠ 0) ∧
    (ok (entry 40) ∧ fld (entry 40) 1 1 = 0 ∧ fld (entry 40) 2 4 = 0 ∧ fld (entry 40) 12 20 < 786432 ∧ fld (entry 40) 32 9 * 4096 = 4096) ∧
    (ok (entry 48) ∧ fld (entry 48) 5 1 = 1) ∧ (ok (entry 4096) ∧ fld (entry 4096) 1 1 = 1 ∧ fld (entry 4096) 32 9 = 0) ∧ fld (entry 4104) 0 1 = 0 ∧
    fld (entry 4112) 0 1 = 1 ∧ fld (entry 4112) 1 1 = 0 ∧ 2 ^ 30 * 5 / 2 ^ 30 % 2 ^ 18 * 8 = 40 := by decide +kernel

theorem test_hyp_RequestsAreApplied :
    let r (k : ReqKind) : Req := { requestAt base k 0 with loc := .window 3 4096 }
    let s (k : ReqKind) : State := { base with reqs := [r k], firn := Mem.writeN [] 4000 8 77 }
    let a (dbl : Bool) (fn : AmoFn) : ReqKind := .amo fn dbl true 5 6 3 ⟨1, 2⟩
    let bad : Req := { r (.store4 9) with good := false }
    let w (n : Nat) : ReqKind := .waita false (BitVec.ofNat 64 n) true
    (∀ k ∈ [ReqKind.store4 9, .store8 9, .store64 5, a false .cas, a true .minn, .red .addF32 1, .red .addBf16x2 1, .red .maxF32 1, .red .minF32 1,
        .red .addI32 1, .red .and 1, .red .or 1, .red .xor 1, .wpoke true, w 0, w 1],
      (s k).reqs[0]? = some (r k) ∧ (r k).kind = k ∧ (r k).loc = .window 3 4096 ∧ (r k).origin = none ∧ (r k).good = true ∧
      suuFirst (s k) 0 (r k) 3 = true ∧ (s k).badFirn = [] ∧ (s k).watches = [] ∧ (s k).firn.wf = true ∧ (s k).host.hostMem.wf = true) ∧
    bad.good = false ∧ 0 < (r (w 0)).wq ∧ (s (w 0)).firn.readN 4096 4 = (0 : DWord).toNat ∧ (s (w 1)).firn.readN 4096 4 ≠ (1 : DWord).toNat ∧
    ((s (w 1)).stage 0).status ≠ .preempted ∧ (r (.store64 5)).lo = false ∧ (r (.store64 5)).hi = false := by decide +kernel

/-- R233, R278: watches that a store wakes and one that it does not; a quota and a list that are full. -/
theorem test_hyp_RequestsAreApplied_watches :
    let w (strip addr stage : Nat) (o : Option (Nat × Nat)) : Watch := ⟨strip, addr, 4, 0, 1, stage, o⟩
    let r (k : ReqKind) (wq : Nat) : Req := { requestAt base k 0 with loc := .window 3 4096, wq := wq }
    let s (q : Req) (l : List Watch) : State := { base with reqs := [q], watches := l }
    let reg : ReqKind := .waita false 0 true
    let store := s (r (.store4 9) 128) [w 3 4096 0 none, w 3 4100 0 none]
    let quota := s (r reg 2) [w 3 64 5 none, w 3 4096 0 none, w 3 4100 0 none]
    let full := s (r reg 128) (List.replicate 128 (w 3 64 5 none))
    (store.watches.filter fun v => decide (v.addr < 4096 + 4 ∧ 4096 < v.addr + v.size)).length = 1 ∧
    (∀ v ∈ store.watches, v.origin = none ∧ (store.stage v.stage).status ≠ .preempted) ∧ store.reqs[0]? = some (r (.store4 9) 128) ∧
    suuFirst store 0 (r (.store4 9) 128) 3 = true ∧ quota.reqs[0]? = some (r reg 2) ∧ suuFirst quota 0 (r reg 2) 3 = true ∧
    2 ≤ (quota.watches.filter fun v => decide (v.strip = 3 ∧ v.stage = 0 ∧ v.origin = none)).length ∧ quota.firn.readN 4096 4 = (0 : DWord).toNat ∧
    quota.watches = [w 3 64 5 none] ++ w 3 4096 0 none :: [w 3 4100 0 none] ∧ full.reqs[0]? = some (r reg 128) ∧ suuFirst full 0 (r reg 128) 3 = true ∧
    128 ≤ (full.watches.filter fun v => decide (v.strip = 3)).length ∧
    ¬ (128 ≤ (full.watches.filter fun v => decide (v.strip = 3 ∧ v.stage = 0 ∧ v.origin = none)).length) ∧
    full.watches = [] ++ w 3 64 5 none :: List.replicate 127 (w 3 64 5 none) ∧ (full.stage 5).status ≠ .preempted ∧
    (r (.waita false 0 false) 1).good = true := by decide +kernel

theorem test_hyp_RequestsAreApplied_order :
    IsFin .f32 0xC0000000 ∧ IsFin .f32 0x3F800000 ∧ numOf .f32 0xC0000000 < numOf .f32 0x3F800000 := by
  refine ⟨by unfold IsFin; decide, by unfold IsFin; decide, ?_⟩
  norm_num [numOf, negOf, Fmt.frac, Fmt.expo, Fmt.bias, Fmt.mag]

theorem test_hyp_AnswersWatchesMarkers :
    let r := { requestAt base (.store4 9) 0 with ctx := 2 }
    let q : Req := { r with kind := .amo .add false true 1 2 3 ⟨3, 5⟩ }
    let s (u : Nat) (a : Ack) : State := { withCell (fun c => c.setCtx 2 { c.ctx 2 with uack := u }) with acks := [a] }
    let a : Ack := ⟨r, .done, Hop.at 0 0, true⟩
    let b : Ack := ⟨q, .value 9, Hop.at 0 0, true⟩
    let far : Ack := ⟨r, .done, Hop.at 4 0, true⟩
    let m : State := { base with items := [⟨0, 0, directorAt, .mark 2 88, false, Hop.at 0 0⟩] }
    let w := withCell fun c => c.setCtx 2 { c.ctx 2 with watchOut := true, watch := some 454 }
    let fail (no : Nat) : State := { withCell (fun c => c.setCtx 2 { c.ctx 2 with uack := 1, watchOut := true, watchNo := no }) with
      acks := [⟨{ r with kind := .waita false 5 true, serial := 6 }, .fault 8 1, Hop.at 0 0, true⟩] }
    (s 1 a).acks[0]? = some a ∧ ((s 1 a).leaving (.ack 0)).isSome = true ∧ r.kind.isAmo = false ∧ r.cell = 0 ∧ r.ctx = 2 ∧ r.origin = none ∧
    (AMap.get? (s 1 a).cells 0).isSome = true ∧ ((s 1 a).cell 0).stage = r.stage ∧ 0 < (((s 1 a).cell 0).ctx 2).uack ∧
    (((s 0 a).cell 0).ctx 2).uack = 0 ∧ ((s 0 a).leaving (.ack 0)).isSome = true ∧ (s 1 b).acks[0]? = some b ∧
    ((s 1 b).leaving (.ack 0)).isSome = true ∧ q.cell = 0 ∧ q.ctx = 2 ∧ (s 1 far).acks[0]? = some far ∧ far.req = r ∧ far.hop.router ≠ 0 ∧
    (s 1 far).leaving (.ack 0) = none ∧
    (AMap.get? w.cells 0).isSome = true ∧ ((w.cell 0).ctx 2).watchOut = true ∧ ((w.cell 0).ctx 2).watch = some 454 ∧ 454 ≤ w.tick ∧
    (∀ no ∈ [7, 9], ((fail no).leaving (.ack 0)).isSome = true ∧ (((fail no).cell 0).ctx 2).watchOut = true ∧ (((fail no).cell 0).ctx 2).watchId = none ∧
      ((fail no).stage r.stage).status ≠ .preempted ∧ ((fail no).cell 0).stage = r.stage ∧ (((fail no).cell 0).ctx 2).uack = 1 ∧
      (((fail no).cell 0).ctx 2).watchNo = no) ∧
    ((w.cell 0).ctx 2).watchId = none ∧ (∀ e ∈ w.stages, e.2.status ≠ .preempted) ∧ (w.stage (w.cell 0).stage).status ≠ .preempted ∧
    m.items[0]? = some ⟨0, 0, directorAt, .mark 2 88, false, Hop.at 0 0⟩ ∧ (m.leaving (.item 0)).isSome = true := by decide +kernel

/-- R225, R282: the response of an AMOD pair, and a failed one for a context that runs, that is parked, and that is halted. -/
theorem test_hyp_AnswersWatchesMarkers_pair :
    let r (d : Fin 8) (dbl : Bool) : Req := { requestAt base (.amo .add dbl true 1 2 d ⟨3, 5⟩) 0 with ctx := 2 }
    let s (t : CtxStatus) (a : Ack) : State := { withCell (fun c => c.setCtx 2 { c.ctx 2 with uack := 1, status := t }) with acks := [a] }
    let pair : Ack := ⟨r 4 true, .value 9, Hop.at 0 0, true⟩
    let fail : Ack := ⟨r 3 false, .fault 8 1, Hop.at 0 0, true⟩
    (∀ a ∈ [pair, fail], ∀ t ∈ [CtxStatus.running, .parkFault, .halted], (s t a).acks[0]? = some a ∧ ((s t a).leaving (.ack 0)).isSome = true ∧
      (AMap.get? (s t a).cells 0).isSome = true ∧ ((s t a).cell 0).stage = a.req.stage ∧ 0 < (((s t a).cell 0).ctx 2).uack ∧ a.req.cell = 0 ∧
      a.req.ctx = 2 ∧ a.req.origin = none ∧ (((s t a).cell 0).ctx 2).status = t) ∧ (4 : Fin 8).val % 2 = 0 := by decide +kernel

theorem test_hyp_BarriersWindowsMasks :
    let s := (withCell fun c => { c with bars := Vector.replicate 16 ⟨true, true, false, false, 7⟩ }).setStage 0
      { someStage with arr := [(4, 0)], ubl := 5, stat := { someStage.stat with ubc := 6 } }
    let ph : Phase := ⟨4999, 5000, 7, 5, none, 8, false, true⟩
    let p := withCell fun c => c.setCtx 1 { c.ctx 1 with phase := some ph }
    (s.stage 0).status = .placed ∧ (∃ e ∈ s.cells, e.2.stage = 0 ∧ (e.2.bars[(4 : Fin 16)]).member = true) ∧
    (∀ e ∈ s.cells, ((4 : Fin 16), e.2.cy * (s.stage 0).w + e.2.cx) ∈ (s.stage 0).arr) ∧ ((p.cell 0).ctx 1).phase = some ph ∧
    ph.grant < p.strip ∧ ph.opened = false ∧ ph.stop ≤ p.strip ∧
    (s.stage 0).upAt.isSome = true ∧ (s.stage 0).ubl ≠ 65535 ∧ (s.stage 0).ubl < (s.stage 0).stat.ubc ∧ (s.stage 0).mask = none := by
  decide +kernel

theorem test_hyp_BarriersWindowsMasks_items :
    let it (src dest : Nat) (w : CtrlWhat) (at' : Nat) : CtrlItem := ⟨0, src, dest, w, false, Hop.at at' 0⟩
    let on (i : CtrlItem) : State := { base with items := [i], ctrl := [(0, { CtrlTables.blank with
      banks := Vector.replicate 2 ⟨0, 0, 7, 5, []⟩, pending := true, tokens := [(0, directorAt)] })] }
    let off (i : CtrlItem) : State := { base with items := [i] }
    (∀ i ∈ [it 0 directorAt (.arrive 3) 0, it directorAt 0 (.complete 3) 0, it 0 directorAt .token 0],
      (on i).items[0]? = some i ∧ ((on i).flits.head?).any (fun e => decide (e.1 = .item 0)) = true ∧ ((on i).leaving (.item 0)).isSome = true) ∧
    (0, directorAt) ∈ ((on (it 0 directorAt .token 0)).ctrlOf 0).tokens ∧
    (off (it directorAt 1 (.complete 3) 0)).ctrlNext 0 0 1 = none ∧ 0 ≠ endRouter 1 ∧
    (on (it directorAt 1 (.complete 3) 0)).ctrlNext 0 0 1 = some .east ∧ firstTurn (on (it directorAt 1 (.complete 3) 0)) (some .east) = true ∧
    ((on (it directorAt 1 (.complete 3) 0)).flits.head?).any (fun e => linkFree (on (it directorAt 1 (.complete 3) 0)) e.2 .east) = true := by
  decide +kernel

theorem test_hyp_BarriersWindowsMasks_room : portRoom { base with
    items := [⟨0, directorAt, 1, .complete 3, false, Hop.at 0 0⟩], ctrl := [(0, { CtrlTables.blank with banks := Vector.replicate 2 ⟨0, 0, 7, 5, []⟩ })] }
    3 1 .east = true := portRoom_empty (by decide +kernel)

theorem test_hyp_RecordsGoToTheirPlace :
    let rc := mkRecord base someCell 2 3 false { cls := 3, code := 4, opnd := 99 } .trap
    let s := withCell fun c => c.setCtx 2 { c.ctx 2 with record := some (rc, 5) }
    let t := s.setCur { s.cur with trap := some (0, 0) }
    let ends := t.setStage 0 { someStage with ending := true }
    let d := withCell fun c => c.setCtx 2 { c.ctx 2 with record := some (rc, 0) }
    let late : State := { d with strip := 11000 }
    ((s.cell 0).ctx 2).record = some (rc, 5) ∧ rc.dest = .trap ∧ (∀ o ∈ (s.cell 0).records, rc.made ≤ o.made) ∧ (s.cell 0).trap = none ∧
    (s.stage 0).flog.length < 4096 ∧ (∀ o ∈ (t.cell 0).records, rc.made ≤ o.made) ∧ (t.cell 0).trap = some (0, 0) ∧ (t.stage 0).ending = false ∧
    ((t.cell 0).iq[(7 : Fin 8)]).length ≤ 4 ∧ (t.cell 0).mail7 = [] ∧ (ends.stage 0).ending = true ∧ (∀ o ∈ (ends.cell 0).records, rc.made ≤ o.made) ∧
    ((late.cell 0).ctx 2).record = some (rc, 0) ∧ 0 + 1000 ≤ late.tick := by
  decide +kernel

/-! ## Stages -/

/-- The launch record and the image of a stage of one cell with one empty scene (R99, R100, R372), as bytes of the launch area. -/
def launchBytes : Mem :=
  let put (m : Mem) (e : Nat × Nat) : Mem := m.writeN e.1 4 e.2
  [(0, 0xA64C4C01), (4, 1), (12, 77 * 2 ^ 16), (16, 1 + 2 ^ 8 + 2 ^ 16), (20, 0x100), (24, 7), (0x100, 0xA64C5201), (0x104, 1 + 2 ^ 16),
    (0x108, 1 + 2 ^ 16), (0x10C, 1), (0x110, 1), (0x120, 36), (0x124, 0xFF)].foldl put []

/-- A ready module whose launch area holds that record, and an egress queue for its completion entries. -/
def launchable : State :=
  { State.reset with host := { HostSide.reset with
      modState := 1, launchArea := launchBytes, egress := [(7, { Egress.blank with cq := true, log2n := 4 })] } }

/-- Whether a launch check succeeds, and the reason and code where it does not. -/
def checks (s : State) (off : Nat) : Option (Nat × Nat) :=
  match launchCheck s off with
  | .ok _ => none
  | .error e => some e

theorem test_hyp_LaunchAndPlacement :
    let s := launchable
    let bad : State := { s with host := { s.host with launchArea := [] } }
    let h : State := { s with host := { s.host with heldLaunch := [0] } }
    let q := s.setStage 3 { Stage.blank with w := 2, h := 2, status := .queued }
    let old : State := { q with strip := 55000000 }
    let g : State := { base.setStage 0 { someStage with regroup := some 0 } with
      strip := 220000000, ctrl := [(0, { CtrlTables.blank with banks := Vector.replicate 2 ⟨0, 0, 7, 5, []⟩ })] }
    s.host.modState = 1 ∧ checks s 0 = none ∧ s.host.heldLaunch = [] ∧ s.freeId = some 0 ∧ checks bad 0 = some (1, 0) ∧
    h.host.heldLaunch = [0] ∧ h.freeId = some 0 ∧ checks { h with host := { h.host with heldLaunch := [] } } 0 = none ∧ bad.launchWord 0 0 ≠ 0xA64C4C01 ∧
    (q.stage 3).status = .queued ∧ (AMap.get? q.stages 3).isSome = true ∧ (∀ e ∈ q.stages, e.2.status = .queued → e.1 = 3) ∧
    waiting q = [(3, q.stage 3)] ∧ q.host.modState = 1 ∧ AMap.get? q.stages 3 = some (q.stage 3) ∧ (q.stages.map fun e => e.1).Pairwise (· < ·) ∧
    (q.cells.map fun e => e.1).Pairwise (· < ·) ∧ findOrigin q (q.stage 3) = some (0, 0) ∧ 0 + (q.stage 3).w ≤ 320 ∧
    (old.stage 3).arrived + 5000000 ≤ old.tick ∧ (g.stage 0).regroup = some 0 ∧ (g.stage 0).status = .placed ∧ (g.stage 0).stopping = false ∧
    0 + 20000000 ≤ g.tick ∧ g.swapped 0 = true ∧ g.rowsOpen (g.stage 0) = true ∧ g.stageGap 0 = none ∧ 8 ≤ ({ s with host := { s.host with
      launchArea := Mem.writeN launchBytes 4 4 9 } } : State).launchWord 0 1 := by decide +kernel

/-- A record in range over an image that is no image. -/
theorem test_hyp_LaunchAndPlacement_image :
    let s : State := { launchable with host := { launchable.host with launchArea := Mem.writeN launchBytes 0x100 4 5 } }
    (launchRec s 0).isSome = true ∧ (match imageHead (imageWords s.host.launchArea 0x100) with
      | .error _ => true
      | .ok _ => false) = true := by decide +kernel

/-- A search that nothing in its range satisfies finds nothing. -/
theorem firstNat_none_below (p : Nat → Bool) : ∀ n i, (∀ j, i ≤ j → j < i + n → p j = false) → firstNat p i n = none := by
  intro n
  induction n with
  | zero => intro i _; rfl
  | succ n ih =>
    intro i h
    simp only [firstNat, h i (Nat.le_refl i) (by omega)]
    exact ih (i + 1) fun j a b => h j (by omega) (by omega)

theorem get?_range {α : Type} (f : Nat → α) (k : Nat) : ∀ n i, i ≤ k → k < i + n →
    AMap.get? ((List.range' i n).map fun j => (j, f j)) k = some (f k) := by
  intro n
  induction n with
  | zero => intro i a b; omega
  | succ n ih =>
    intro i a b
    simp only [List.range'_succ, List.map_cons, AMap.get?]
    split
    · subst k; rfl
    · exact ih (i + 1) (by omega) (by omega)

theorem test_hyp_LaunchAndPlacement_no_id :
    ({ launchable with stages := (List.range' 0 4096).map fun i => (i, { Stage.blank with status := .queued }) } : State).freeId = none := by
  refine firstNat_none_below _ _ _ fun j _ h => ?_
  simp only [get?_range (fun _ => ({ Stage.blank with status := .queued } : Stage)) j 4096 0 (by omega) (by omega)]
  decide

theorem test_hyp_LaunchAndPlacement_no_place :
    let q := State.reset.setStage 3 { Stage.blank with w := 321, h := 1, status := .queued }
    waiting q = [(3, q.stage 3)] ∧ findOrigin q (q.stage 3) = none := by
  refine ⟨by decide +kernel, ?_⟩
  have h : (State.reset.setStage 3 { Stage.blank with w := 321, h := 1, status := .queued }).stage 3 =
      { Stage.blank with w := 321, h := 1, status := .queued } := rfl
  simp only [findOrigin, h]
  rw [firstNat_none_below _ _ _ fun i _ _ => by simp [originOk, fitsAt]]
  rfl

/-- `base` with the CTRL tables of its stage. -/
def tabled : State :=
  { base with ctrl := [(0, { CtrlTables.blank with banks := Vector.replicate 2 ⟨0, 0, 7, 5, []⟩ })] }

theorem test_hyp_Scenes :
    let img := imageWords launchBytes 0x100
    let t : Stage := { someStage with w := 1, h := 1, image := img, nsc := 1, scene := 0, installed := false, upAt := none }
    let s := tabled.setStage 0 t
    let bad := tabled.setStage 0 { t with image := [] }
    let up := tabled.setStage 0 { t with installed := true }
    let gap : State := { base.setStage 0 { t with x0 := 1 } with cells := [(1, someCell)] }
    let way : State := { s with items := [⟨0, 0, directorAt, .arrive 3, false, Hop.at 0 0⟩] }
    let fin := (tabled.setCur { CellState.blank 0 0 0 with ctxs := someCell.ctxs.map fun k => { k with status := .halted } }).setStage 0
      { t with installed := true, upAt := some 3, startAt := 3, nsc := 2, image := img.take 8 ++ [40, 40, 0xFF] }
    let last := fin.setStage 0 { t with installed := true, upAt := some 3, startAt := 3 }
    let bound : State := { fin with host := { fin.host with egress := fin.host.egress.put t.cqn { Egress.blank with bound := some 0 } } }
    let okScene (s : State) (i : Nat) : Bool :=
      match sceneFor s (s.stage 0) i with
      | .ok _ => true
      | .error _ => false
    installable s 0 (s.stage 0) = true ∧ okScene s 0 = true ∧ installable bad 0 (bad.stage 0) = true ∧ okScene bad 0 = false ∧
    (up.stage 0).status = .placed ∧ (up.stage 0).installed = true ∧ (up.stage 0).stopping = false ∧ (up.stage 0).upAt = none ∧ up.swapped 0 = true ∧
    (fin.stage 0).upAt.isSome = true ∧ (fin.stage 0).startAt ≤ fin.tick ∧ sceneOver fin 0 (fin.stage 0) = true ∧ (fin.stage 0).scene + 1 < (fin.stage 0).nsc ∧ okScene fin 1 = true ∧ (fin.stage 0).swd = 0 ∧
    (last.stage 0).nsc ≤ (last.stage 0).scene + 1 ∧ sceneOver last 0 (last.stage 0) = true ∧ (fin.stage 0).stat.portalLost = 0 ∧ (∀ x ∈ [s, bad, up, fin, last], x.stageGap 0 = none) ∧ fin.swapped 0 = true ∧ fin.rowsOpen (fin.stage 0) = true ∧
    (bound.egress (bound.stage 0).cqn).bound = some 0 ∧ bound.stage 0 = fin.stage 0 ∧ installable gap 0 (gap.stage 0) = true ∧ gap.stageGap 0 = some (0, 4) ∧
    installable way 0 (way.stage 0) = false ∧ (∃ i ∈ way.items, i.stage = 0 ∧ i.what ≠ .token) ∧
    (fin.stage 0).stat.egressLost = [] := by decide +kernel

/-- R289 to R291: a last scene that is over, nothing of it lost, with its completion queue; one with a context that a cue can select is not over. -/
theorem test_hyp_Scenes_plain :
    let t : Stage := { someStage with w := 1, h := 1, scene := 0, nsc := 1, upAt := some 3, startAt := 3 }
    let fin := (tabled.setCur { CellState.blank 0 0 0 with ctxs := someCell.ctxs.map fun k => { k with status := .halted } }).setStage 0 t
    let s : State := { fin with host := { fin.host with egress := fin.host.egress.put t.cqn { Egress.blank with bound := some 0 } } }
    (s.stage 0).stat.portalLost = 0 ∧ (s.stage 0).stat.egressLost = [] ∧ (s.stage 0).swd = 0 ∧ (s.egress (s.stage 0).cqn).bound = some 0 ∧
    (s.stage 0).nsc ≤ (s.stage 0).scene + 1 ∧ sceneOver s 0 (s.stage 0) = true ∧ sceneOver base 0 (base.stage 0) = false := by decide +kernel

theorem test_hyp_Scenes_records :
    let d : Draft := ⟨1, 1, [(0, CellState.blank 0 0 0)], [], some (0, 0, 1, 1), Vector.replicate 8 none, none, []⟩
    let taken (ty : Nat) (l : List Word) : Bool :=
      match applyRecord d 0 ty l with
      | .ok _ => true
      | .error _ => false
    let two (a b : Word) : Bool :=
      match applyRecord d 0 0x02 ([a, 0, 0, 0] ++ List.replicate 128 0x00018C60) with
      | .ok e => (match applyRecord e 5 0x02 ([b, 0, 0, 0] ++ List.replicate 128 0x00018C60) with
        | .ok _ => true
        | .error f => decide (f ≠ ⟨0x13, 0, 0, 0, 5⟩))
      | .error _ => false
    d.given = [] ∧ two 1 6 = true ∧ two 3 6 = false ∧ (∃ f ∈ d.cells, 0 ≤ f.2.cx ∧ f.2.cx < 0 + 1 ∧ 0 ≤ f.2.cy ∧ f.2.cy < 0 + 1) ∧
    d.rect.isSome = true ∧ (AMap.get? d.cells 0).isSome = true ∧ taken 0x02 ([1, 0, 0, 0] ++ List.replicate 128 0x00018C60) = true ∧
    taken 0x03 ([1, 0] ++ List.replicate 126 0) = true ∧
    taken 0x04 (3 :: List.replicate 25 0) = true ∧ taken 0x0C [2] = true := by decide +kernel

theorem test_hyp_DirectorWatches :
    let q := withCell fun c => { c with oq := vset c.oq 2 [⟨5, 6, true⟩] }
    let q : State := { q with strip := 55000 }
    let s : State := (q.setStage 0 { someStage with swd := 3 })
    let t : State := s.setCur { s.cur with trap := some (0, 0) }
    let w : State := (q.setStage 0 { someStage with swd := 3, stat := { someStage.stat with wdog := true } })
    let bound : State := { s with host := { s.host with egress := s.host.egress.put (s.stage 0).cqn { Egress.blank with bound := some 0 } } }
    let m (o : Option (Nat × Bool)) : State := { State.reset with
      host := { HostSide.reset with modState := 1 }, strip := 22000, polled := [(5 * 384 + 6, 1000)]
      silent := o.elim [] fun x => [(5 * 384 + 6, x)] }
    let thr : State := { base with slow := [(0, (false, true))] }
    let held : State := { base with ctrl := [(4096, { base.ctrlOf 4096 with pending := true })] }
    let gap : State := { m none with ctrl := [(4101, CtrlTables.blank)] }
    let early : State := { m none with strip := 21000 }
    let due (s : State) (key : Nat) : Prop := ∀ t ∈ AMap.get? s.polled key, t + 1000 ≤ s.tick
    let way (s : State) (row col : Nat) : Option (Nat × Nat) :=
      let n := (logicalAt s row col).getD (row * 320 + 319)
      (s.gapTo (4096 + row) n).or (s.ctrlGap (4096 + row) n 4 163840 831)
    stalled s 0 = true ∧ trapCell s 0 = none ∧ stalled t 0 = true ∧ trapCell t 0 = some 0 ∧ stalled base 0 = false ∧
    (∃ up, (s.stage 0).upAt = some up ∧ up + 3 ≤ s.tick) ∧ (s.stage 0).status = .placed ∧
    (s.stage 0).swd = 3 ∧ (s.stage 0).stat.wdog = false ∧ (s.stage 0).flog.length < 4096 ∧ (w.stage 0).stat.wdog = true ∧
    inService (m none) 5 6 = true ∧ (1 ≤ (m none).host.modState ∧ (m none).host.modState < 14) ∧ (m none).stages = [] ∧ (m none).cells = [] ∧
    (m none).retiring = [] ∧ ((m none).casting.dead.any fun e => decide (e.1 = 5 ∧ e.2.1 = 6)) = false ∧
    ((m (some (1, true))).silent.getD (5 * 384 + 6) (0, false)).1 < 2 ∧ 2 ≤ ((m (some (2, true))).silent.getD (5 * 384 + 6) (0, false)).1 ∧
    inService thr 0 0 = true ∧ (1 ≤ thr.host.modState ∧ thr.host.modState < 14) ∧ logicalAt thr 0 0 = some 0 ∧
    (AMap.get? thr.cells 0).isSome = true ∧ (thr.slow.getD 0 (false, false)).2 = true ∧ (thr.silent.getD 0 (0, false)).1 + 0 < 3 ∧
    inService held 0 0 = true ∧ (1 ≤ held.host.modState ∧ held.host.modState < 14) ∧ held.ctrlHeld 4096 = true ∧ (m none).ctrlHeld 4101 = false ∧
    way (m none) 5 6 = none ∧ due (m none) (5 * 384 + 6) ∧ due thr 0 ∧ due gap (5 * 384 + 6) ∧ ¬ due early (5 * 384 + 6) ∧
    inService early 5 6 = true ∧ early.ctrlHeld 4101 = false ∧ inService (m none) 5 383 = true ∧ logicalAt (m none) 5 383 = none ∧
    (m none).slow.getD (5 * 384 + 6) (false, false) = (false, false) ∧
    thr.ctrlHeld 4096 = false ∧ way thr 0 0 = none ∧ inService gap 5 6 = true ∧ gap.ctrlHeld 4101 = false ∧
    (way gap 5 6).isSome = true ∧ (gap.silent.getD (5 * 384 + 6) (0, false)).1 + 1 < 3 ∧ gap.host.modState = 1 ∧
    (s.egress (s.stage 0).cqn).bound = none ∧ (bound.egress (bound.stage 0).cqn).bound = some 0 ∧ stalled bound 0 = true := by
  refine ⟨?_, ?_, ?_, ?_, ?_, ⟨_, rfl, ?_⟩, ?_⟩ <;> decide +kernel

/-- R357: the third missed poll of a position that a placed stage holds. -/
theorem test_hyp_DirectorWatches_dead :
    let s : State := { base with silent := [(0, (2, true))] }
    inService s 0 0 = true ∧ (1 ≤ s.host.modState ∧ s.host.modState < 14) ∧ s.ctrlHeld 4096 = false ∧ logicalAt s 0 0 = some 0 ∧
    (s.gapTo 4096 0).or (s.ctrlGap 4096 0 4 163840 831) = none ∧ s.polled = [] ∧ (s.slow.getD 0 (false, false)).2 = false ∧ 3 ≤ (s.silent.getD 0 (0, false)).1 + 1 ∧ TablesOk s ∧
    AMap.get? s.stages 0 = some (s.stage 0) ∧ (s.stage 0).owns 0 = true ∧ (∀ e ∈ s.stages, e.2.owns 0 = true → e.1 = 0) ∧ (s.stage 0).status ≠ .ended ∧
    (s.stage 0).flog.length < 4096 ∧ (s.stage 0).swd = 0 ∧ (∀ e ∈ s.cellsOf 0, e.2.records = []) ∧ (s.stage 0).saved = [] ∧
    (s.stage 0).stat.portalLost = 0 ∧ (s.stage 0).stat.egressLost = [] := by
  unfold TablesOk Rising; decide +kernel

theorem test_hyp_StagesMoveAndEnd :
    let s := base.setStage 0 { someStage with w := 1, h := 1, stopping := true }
    let e := s.setStage 0 { s.stage 0 with ending := true }
    let busy : State := { s with items := [⟨0, 0, directorAt, .arrive 3, false, Hop.at 0 0⟩] }
    let ending : State := { busy with stages := e.stages }
    let back : CellState := { CellState.blank 3 0 0 with live := true }
    let p := State.reset.setStage 3 { Stage.blank with w := 2, h := 2, status := .preempted, saved := [(0, back, [(5, 9)])] }
    let ordered (l : List CtrlBank) (on : Bool) : State := { base with ctrl := [(0, { CtrlTables.blank with banks := Vector.replicate 2 (l.headD CtrlBank.blank), pending := on })] }
    let gap : State := { base.setStage 0 { someStage with x0 := 1 } with cells := [(1, someCell)] }
    let c (tokens : List (Nat × Nat)) (on : Bool) : State := { base with ctrl := [(0, { CtrlTables.blank with pending := on, tokens := tokens })] }
    ((s.stage 0).status = .placed ∧ (s.stage 0).stopping = true ∧ (s.stage 0).ending = false ∧ settled s 0 = true ∧
      (s.cells.map fun e => e.1).Pairwise (· < ·) ∧ (∀ e ∈ s.cellsOf 0, (s.stage 0).cellAt e.2.cx e.2.cy = e.1 ∧ e.2.cx < (s.stage 0).w) ∧
      (s.stage 0).x0 + (s.stage 0).w ≤ 320 ∧ (AMap.get? s.cells 0).isSome = true ∧ (s.cell 0).stage = 0 ∧ s.firn.wf = true ∧ s.host.hostMem.wf = true ∧
      ((s.cellsOf 0).map fun e => e.1) = [0] ∧ (s.cell 0).sliceMiB ≤ 8 ∧ 5 < (s.cell 0).sliceMiB * 2 ^ 20 - 2 ^ 19 ∧ 5 < s.sliceLimit 0) ∧
    settled busy 0 = false ∧
    ((p.stage 3).status = .preempted ∧ restoreAt p (p.stage 3) 0 0 = true ∧ ((p.stage 3).saved.map fun e => e.1).Pairwise (· < ·) ∧
      (∀ e ∈ (p.stage 3).saved, e.1 < (p.stage 3).w * (p.stage 3).h) ∧ (AMap.get? (p.stage 3).saved 0).isSome = true ∧
      (∀ k : Fin 4, (back.ctx k).withdrawn = false) ∧ (p.stage 3).heldWakes = [] ∧ p.firn.wf = true ∧ p.host.hostMem.wf = true ∧
      (∀ e ∈ (p.stage 3).saved, e.2.2.wf = true ∧ ∀ b ∈ e.2.2, b.1 < 2 ^ 23) ∧ (p.stage 3).saved.length = 1) ∧
    (base.stage 0).status = .placed ∧ (base.stage 0).ending = false ∧
    (base.swapped 0 = true ∧ base.rowsOpen (base.stage 0) = true ∧ base.stageGap 0 = none) ∧
    ((gap.stage 0).status = .placed ∧ (gap.stage 0).ending = false ∧ gap.swapped 0 = true ∧ gap.rowsOpen (gap.stage 0) = true ∧ gap.stageGap 0 = some (0, 4)) ∧ (ordered [] true).swapped 0 = false ∧
    ((e.stage 0).status = .placed ∧ (e.stage 0).ending = true ∧ settled e 0 = true ∧ ∀ x ∈ e.cellsOf 0, ∀ i : Fin 2, x.2.copyAct[i] = none) ∧
    ((ending.stage 0).status = .placed ∧ (ending.stage 0).ending = true ∧ settled ending 0 = false ∧ (AMap.get? ending.cells 0).isSome = true ∧
      (ending.cell 0).stage = 0 ∧ (ending.cell 0).holdSettled = true ∧ (ending.cell 0).sfSettled = true) ∧
    (∀ e ∈ (p.stage 3).saved, ∀ k : Fin 4, watchDue p (e.2.1.ctx k) = none) ∧
    (((c [(7, 8)] true).ctrlOf 0).pending = true ∧ ((c [(7, 8)] true).ctrlOf 0).tokens ≠ []) ∧
    (((c [] true).ctrlOf 0).pending = true ∧ ((c [] true).ctrlOf 0).tokens = []) ∧ (base.stage 0).upAt.isSome = true ∧ ((c [] false).ctrlOf 0).pending = false := by
  decide +kernel

/-- R408: stages whose curtain record goes to a bound queue: ended by the host where they stand, and while they are pre-empted. -/
theorem test_hyp_StagesMoveAndEnd_curtain :
    let bound (s : State) : State := { s with host := { s.host with egress := s.host.egress.put (s.stage 0).cqn { Egress.blank with bound := some 0 } } }
    let back : CellState := { CellState.blank 0 0 0 with live := true }
    let e := bound (base.setStage 0 { someStage with w := 1, h := 1, stopping := true, ending := true })
    let p := bound (State.reset.setStage 0 { Stage.blank with w := 2, h := 2, status := .preempted, saved := [(0, back, [(5, 9)])] })
    (∀ s ∈ [e, p], (s.stage 0).stat.portalLost = 0 ∧ (s.stage 0).stat.egressLost = [] ∧ (s.stage 0).swd = 0 ∧
      (s.egress (s.stage 0).cqn).bound = some 0 ∧ (∀ x ∈ s.cellsOf 0, x.2.records = [])) ∧
    ((e.stage 0).status = .placed ∧ (e.stage 0).ending = true ∧ settled e 0 = true ∧ (e.stage 0).saved = [] ∧
      ∀ x ∈ e.cellsOf 0, ∀ i : Fin 2, x.2.copyAct[i] = none) ∧
    (p.stage 0).status = .preempted ∧ ∀ x ∈ (p.stage 0).saved, x.2.1.records = [] := by decide +kernel

/-- `base`'s stage with a translation table in frame 24577. -/
def rooted : State := base.setStage 0 { someStage with root := some 24577 }

/-- A first-level entry for 512 pages, or for a table, in the frames from `f` on. -/
def hugeAt (f : Nat) : DWord := BitVec.ofNat 64 (1 + 2 + 4 + 8 + f * 2 ^ 12)
def tableAt (f : Nat) : DWord := BitVec.ofNat 64 (1 + f * 2 ^ 12)

/-- The frames that an entry takes in `s`. -/
def taken (s : State) (e : DWord) : List Nat := entryFrames (newTable s e false) e false

/-- The key of entry 6 of that table, and a request that read it. -/
def entryKey : Nat := 24577 % 24576 / 2 * 2 ^ 27 + 24577 % 24576 % 2 * 2 ^ 26 + (2 ^ 26 - 2 ^ 21 * (24577 / 24576 + 1)) + 6 * 8
def reading : State := { rooted with reqs := [{ requestAt base (.store4 9) 0 with path := [entryKey] }] }

theorem test_hyp_MappingsAndReleases :
    (1 ≤ rooted.host.modState ∧ rooted.host.modState < 14) ∧ (rooted.firn.wf = true ∧ rooted.host.hostMem.wf = true) ∧
    (AMap.get? rooted.stages 0).isSome = true ∧ (rooted.stage 0).status ≠ .ended ∧ (rooted.stage 0).root = some 24577 ∧ rooted.reqs = [] ∧
    rooted.maps = [] ∧ (∀ e ∈ rooted.cells, ∀ i : Fin 2, e.2.copyAct[i] = none) ∧ rooted.allMapped = [24577] ∧
    mappable rooted (24576 * 31) = false ∧ 24576 * 31 ∈ taken rooted (tableAt (24576 * 31)) ∧
    keepsApart (newTable rooted (tableAt 24577) false) (tableAt 24577) false = false := by decide +kernel

theorem test_hyp_MappingsAndReleases_huge :
    (∀ f ∈ taken rooted (hugeAt 1536), mappable rooted f = true ∧ takeable rooted f = true) ∧ taken rooted (hugeAt 1536) ≠ [] ∧
    24577 ∉ taken rooted (hugeAt 1536) ∧ keepsApart (newTable rooted (hugeAt 1536) false) (hugeAt 1536) false = true := by decide +kernel

theorem test_hyp_MappingsAndReleases_table :
    let other : State := { rooted with dirty := [(1536, 5)] }
    taken other (tableAt 1536) = [1536] ∧ mappable other 1536 = true ∧ takeable other 1536 = true ∧ 1536 ∉ other.allMapped ∧
    AMap.get? other.frames 1536 = none ∧ AMap.get? other.dirty 1536 = some 5 ∧ (other.stage 0).job ≠ 5 ∧ keepsApart (newTable other (tableAt 1536) false) (tableAt 1536) false = true ∧
    (∃ r ∈ reading.reqs, entryKey ∈ r.path) ∧ reading.maps = [] ∧ taken reading (tableAt 1536) = [1536] ∧ mappable reading 1536 = true ∧
    takeable reading 1536 = true ∧ keepsApart (newTable reading (tableAt 1536) false) (tableAt 1536) false = true := by decide +kernel

theorem test_hyp_MappingsAndReleases_release :
    let h (stop : Bool) : State :=
      let t := (withCell fun c => c.setCtx 2 { c.ctx 2 with pres := 0, status := .parkFault })
      { t.setStage 0 { someStage with stopping := stop } with host := { t.host with release := [(0, BitVec.ofNat 32 (2 * 2 ^ 18))] } }
    (∀ stop : Bool, (AMap.getD (h stop).host.release 0 0).toNat = 0 + (2 : Fin 4).val * 2 ^ 18 ∧ ((h stop).stage 0).status = .placed ∧
      0 < ((h stop).stage 0).w * ((h stop).stage 0).h ∧ (h stop).host.releases = [] ∧ ((h stop).stage 0).stopping = stop) ∧
    (((h false).stage 0).y0 + 0 / ((h false).stage 0).w) * 320 + (((h false).stage 0).x0 + 0 % ((h false).stage 0).w) = 0 ∧
    ((h false).cell 0).putHeld = [] ∧ (((h false).cell 0).ctx 2).pres.getLsbD 7 = false ∧ (((h false).cell 0).ctx 2).resv.getLsbD 7 = false ∧
    (((h false).cell 0).ctx 2).was.getLsbD 7 = false := by decide +kernel

/-! ## Hosts, ports, other modules -/

theorem test_hyp_HostWritesArrive :
    let b (l : List (QWord × Fin 8 × Nat)) : State :=
      let s := withCell fun c => { c with feeds := 8 }
      { s with host := { s.host with
        chans := [(5, { Channel.blank with bound := some (0, 0, 3), tokens := l })], egress := [(7, { Egress.blank with bound := some 0 })] } }
    let bad : State := { b [] with host := { (b []).host with badPayload := Vector.replicate 8 true } }
    let dark : State := { b [] with host := { (b []).host with pcieUp := Vector.replicate 8 false } }
    let v : State := { base with edge := { base.edge with colls := vset base.edge.colls 5 { Coll.blank with v := true } } }
    ((b []).host.modState = 1 ∨ (b []).host.modState = 2) ∧ (b []).portUp 1 = true ∧ (0x1234567890 : DWord).toNat < 2 ^ 40 ∧
    (b []).host.badPayload[(1 : Fin 8)] = false ∧ bad.host.badPayload[(1 : Fin 8)] = true ∧ bad.portUp 1 = true ∧
    ((b []).chan 5).bound = some (0, 0, 3) ∧ ((b []).chan 5).tokens.length < 16 ∧ ((b []).chan 6).bound = none ∧
    16 ≤ ((b (List.replicate 16 (zeroWord, 0, 0))).chan 5).tokens.length ∧ ((b [(⟨1, 2, false⟩, 1, 0)]).chan 5).tokens = [(⟨1, 2, false⟩, 1, 0)] ∧
    (b [(⟨1, 2, false⟩, 1, 0)]).fed 0 0 3 = true ∧ (∀ e ∈ (b []).host.chans, e.1 = 5) ∧ (b []).host.work = [] ∧ ((b []).stage 0).cellNum 0 = 0 ∧
    (((b []).cell 0).iq[(3 : Fin 8)]).length * 4 + (b []).flying (.queue 0 3) + 4 ≤ 32 ∧ (b []).host.modState ≠ 14 ∧
    ((b []).egress (4 * 8 / 4)).bound = none ∧ ((b []).egress ((4 * 7 + 2) / 4)).bound.isSome = true ∧ (4 * 7 + 2) % 4 = 2 ∧
    (dark.egress 7).bound.isSome = true ∧ dark.portUp (dark.egress 7).port = false ∧ (4 * 7 + 3) % 4 = 3 ∧ 4 * 7 + 3 < 16384 ∧
    (b []).portUp ((b []).egress 7).port = true ∧ (v.coll (Fin.ofNat 64 (84 / 16))).v = true ∧ 1 ≤ 84 % 16 ∧
    ((b []).coll (Fin.ofNat 64 (84 / 16))).v = false ∧ (0x103 : Word).getLsbD 8 = true ∧ (0x3 : Word).getLsbD 8 = false ∧
    (0x3 : Word).getLsbD 16 = false := by decide +kernel

/-- Where a host's access of four bytes goes. -/
def hostHome (s : State) (k : ReqKind) (port : Fin 8) (off : Nat) : Option Nat :=
  match (hostWord k port off s).1 with
  | .home key => some key
  | _ => none

theorem test_hyp_ApertureAccess :
    let s : State := { mapped with host := { mapped.host with aper := [(64, 1), (65, 0), (67, 0x9)] } }
    (s.host.modState = 1 ∨ s.host.modState = 2) ∧ s.watches = [] ∧ s.portUp 1 = true ∧ s.host.badPayload[(1 : Fin 8)] = false ∧ s.host.work = [] ∧
    hostHome s (.store4 7) 1 0x104 = some (frameKey 256 0x104) ∧ hostHome s .getBlock 1 0x104 = some (frameKey 256 0x104) ∧
    (s.host.aper.getD (1 * 64 + (2 ^ 30 + 0x100) / 2 ^ 30) 0).toNat % 2 = 0 ∧ (AMap.get? s.stages 0).isSome = true ∧ 2 ^ 30 + 0x100 < 2 ^ 36 ∧
    (match (hostWord .getBlock 1 (2 ^ 30 + 0x100) s).1 with | .refused 0 6 1 _ => true | _ => false) = true ∧
    (match (hostWord (.store4 7) 1 (2 ^ 30 + 0x100) s).1 with | .refused 0 6 1 _ => true | _ => false) = true ∧
    AMap.get? s.stages ((s.host.aper.getD (1 * 64 + (2 ^ 30 * 3) / 2 ^ 30) 0).toNat / 2 % 2 ^ 12) = none ∧
    State.reset.portUp 1 = true ∧ State.reset.host.modState = 0 := by decide +kernel

/-- What a host's word comes to does not depend on the accesses under way. -/
theorem test_hyp_ApertureAccess_lands : ∀ (l : List HostWork) (no : Nat),
    let s : State := { mapped with host := { mapped.host with aper := [(64, 1)], tokenNo := no, work := l } }
    (∀ o ∈ [0x104, 0x108], hostWord (.store4 7) 1 o s = (.home (frameKey 256 o), s)) ∧
    (∀ o ∈ [0x104, 0x108], hostWord .getBlock 1 o s = (.home (frameKey 256 o), s)) := by
  intro l no s
  have h (k : ReqKind) (hd : denied k 0x10001F = none) : ∀ o ∈ [0x104, 0x108], hostWord k 1 o s = (.home (frameKey 256 o), s) := by
    intro o ho
    have hp : pageOf s k 64 0 none (s.stage 0).root o = (.home (frameKey 256 o), s) := by
      have e := pageOf_cached s k 64 0 none (some 0) o ⟨64, 0, none, true, 0, 0x10001F, []⟩
      fin_cases ho <;> exact e rfl hd (by decide) rfl
    have hs : AMap.get? s.stages 0 = some (s.stage 0) ∧ (s.stage 0).status ≠ .ended :=
      ⟨rfl, show (mapped.stage 0).status ≠ .ended by decide⟩
    have ha : AMap.getD s.host.aper (1 * 64 + 0) 0 = 1 ∧ s.host.modNum = 0 ∧ s.badFirn = [] := ⟨rfl, rfl, rfl⟩
    have hb : bits 1 1 12 = 0 ∧ bits 1 30 26 = 0 ∧ bits 1 0 1 = 1 ∧ modOf (BitVec.ofNat 64 o) = 0 ∧ offOf (BitVec.ofNat 64 o) = o := by
      fin_cases ho <;> decide
    have ho : o / 2 ^ 30 = 0 ∧ o % 2 ^ 30 = o ∧ ¬ (2 ^ 36 ≤ o) ∧ (1 : DWord).toNat = 1 ∧ (1 : Fin 8).val = 1 := by
      fin_cases ho <;> decide
    simp only [hostWord, ho, ha, hb, hs, hp, Nat.zero_mul, Nat.zero_add, if_false, or_false, reduceCtorEq]
    simp
  exact ⟨h _ rfl, h _ rfl⟩

/-- A host read of two words at 0x104, of which word `j` comes first and the other last. -/
theorem test_hyp_ApertureAccess_words : ∀ j < 2,
    let l := (List.range 2).erase j
    l[Config.pick mapped.strip % l.length]? = some (1 - j) ∧ Config.pick mapped.strip % 2 < 2 ∧ 0x104 + 4 * j ∈ [0x104, 0x108] := by
  intro j h
  have : j = 0 ∨ j = 1 := by omega
  rcases this with rfl | rfl <;> exact ⟨by rw [show Config.pick mapped.strip % ((List.range 2).erase _).length = 0 from Nat.mod_one _]; rfl,
    Nat.mod_lt _ (by decide), by decide⟩

theorem test_hyp_EgressPortsPower :
    let e : Egress := { Egress.blank with base := 0x5000, log2n := 4, port := 3, ien := true, vec := 9, head := 0, count := 13 }
    let p : Packet := ⟨0, 0, 2, .egress 7, .word ⟨0x99, 0x55, false⟩, Hop.at 4 0, 4, 4, true⟩
    let s : State := { base with packets := [p], host := { base.host with egress := [(7, e)] } }
    let m : State := { s with packets := [{ p with data := .word ⟨0x99, 0x55, true⟩ }] }
    let down : State := { s with host := { s.host with pcieUp := vset s.host.pcieUp 3 false } }
    let held (l : List (Nat × List Word)) (up : Bool) : State := { base with host := { base.host with
      egress := [(7, { e with cq := true })], heldCe := l, pcieUp := vset base.host.pcieUp 3 up } }
    let x (due : Nat) : Posted := ⟨3, 0x5000, 8, 7, none, due, false⟩
    let y (vec : Option Nat) : Posted := ⟨3, 0x5008, 8, 7, vec, 5000, false⟩
    let w : Posted := ⟨2, 0x5010, 8, 7, none, 4000, true⟩
    let l (due : Nat) (vec : Option Nat) : State := { base with host := { base.host with posted := [x due, y vec] } }
    (s.leaving (.packet 0)).isSome = true ∧ s.packets = [p] ∧ base.packets = [] ∧ (∀ x ∈ base.host.heldCe, x.1 ≠ 7) ∧ s.packets[0]? = some p ∧
    (m.leaving (.packet 0)).isSome = true ∧ (m.stage 0).owns (Hop.at 4 0).router = true ∧ (m.stage 0).elog.length < 1024 ∧
    (down.leaving (.packet 0)).isSome = true ∧ down.host.pcieUp[(3 : Fin 8)] = false ∧
    (∀ up : Bool, (held [(2, [1]), (7, [5]), (7, [1])] up).host.heldCe = [(2, [1])] ++ (7, [5]) :: [(7, [1])] ∧
      (held [(2, [1]), (7, [5])] up).packets = [] ∧ (held [] up).host.pcieUp[((held [] up).egress 7).port] = up ∧
      ((held [] up).egress 7).count < 2 ^ 21 ∧ ((held [] up).egress 7).head < 2 ^ 21 ∧ ((held [] up).egress 7).log2n ≤ 20) ∧
    (∀ x ∈ (held [(2, [1])] false).host.heldCe, ((held [(2, [1])] false).egress x.1).port ≠ 3) ∧ (held [(7, [5])] false).host.heldCe = [(7, [5])] ∧
    ((held [] false).egress 7).port = 3 ∧ w.port ≠ (x 5001).port ∧ w.wait = true ∧
    { base with host := { base.host with posted := [x 5001, w] } }.host.posted = [x 5001, w] ∧ { base with host := { base.host with posted := [x 5001, w] } }.strip < (x 5001).due ∧ s.egress 7 = e ∧
    s.host.pcieUp[e.port] = true ∧ e.cq = false ∧ (400 : Word).toNat % 2 ^ 9 > 300 ∧ (e.count + 2 ^ 21 - e.head) % 2 ^ 21 < 2 ^ e.log2n ∧ s.host.heldCe = [] ∧ s.host.modState ≠ 14 ∧
    100 ≤ (200 : Word).toNat % 2 ^ 9 ∧ (200 : Word).toNat % 2 ^ 9 ≤ 300 ∧ (l 4000 none).host.posted = [x 4000, y none] ∧
    (l 4000 (some 9)).host.posted = [x 4000, y (some 9)] ∧ (y none).due ≤ (l 4000 none).strip ∧ (x 4000).due ≤ (l 4000 none).strip ∧
    (l 5001 none).strip < (x 5001).due := by decide +kernel

/-- A module of a formed domain with a reshape order over port 3, and over port 4 if `two`; a peer of port 3 is port 5 of module 4. -/
def reshaping (state : Nat) (two : Bool) (strip : Nat) : State :=
  let port : EdgePort := { EdgePort.blank with dark := decide (state = 2) }
  { State.reset with
    strip := strip
    host := { HostSide.reset with modState := 1, inDom := true }
    edge := { EdgeSide.reset with
      reshape := { state := state, words := [(1, 1), (2, if two then 0x18 else 0x8), (41, 0x0205), (42, 0x0206)], goAt := 0, darkAt := 0 }
      ports := vset (vset EdgeSide.reset.ports 3 port) 4 (if two then port else EdgePort.blank) } }

theorem test_hyp_EdgePortsAndReshapes :
    let c : State := { State.reset with host := { HostSide.reset with modState := 1 } }
    let p (e : EdgePort) : State := { reshaping 0 false 0 with edge := { (reshaping 0 false 0).edge with
      ports := vset EdgeSide.reset.ports 3 e, peers := vset EdgeSide.reset.peers 3 0x0205 } }
    let up : State := p { EdgePort.blank with trained := true }
    let lost : State := { p { EdgePort.blank with trained := true, retry := some 0 } with strip := 11 * 1000000 }
    let others (s : State) : Prop := ∀ o : Fin 128, o ≠ 3 → portSettled s o = true ∧ (s.edge.ports[o]).down = false
    let r1 := reshaping 1 false 0
    let held : State := { r1 with edge := { r1.edge with relays := [(9, 1, 3, 1)] } }
    let said : State := { c with edge := { c.edge with next := some [(9, 9), (12, 9)], inbox := [.unreached 9 [12]] } }
    let r2 := reshaping 2 false 0
    let r3 := reshaping 2 true 0
    let r4 := reshaping 2 true (11 * 50000000)
    (1 ≤ c.host.modState ∧ c.host.modState < 14) ∧ (0x104 : Word).getLsbD 8 = true ∧ c.edge.reshape.state = 0 ∧ c.host.inDom = false ∧ c.stages = [] ∧
    (base.stage 0).status = .placed ∧ (0x10801 : Word).getLsbD 16 = true ∧ 1 ≤ (0x10801 : Word).toNat % 2 ^ 10 ∧ (0x10801 : Word).toNat / 2 ^ 10 % 2 ^ 6 ≤ 32 ∧
    up.host.inDom = true ∧ (up.edge.ports[(3 : Fin 128)]).down = false ∧ (up.edge.ports[(3 : Fin 128)]).dark = false ∧
    entryNames (up.edge.peers[(3 : Fin 128)]).toNat 4 5 = true ∧ entryNames (up.edge.peers[(3 : Fin 128)]).toNat 4 6 = false ∧
    (up.edge.ports[(3 : Fin 128)]).trained = true ∧ (up.edge.ports[(3 : Fin 128)]).retry = none ∧
    (lost.edge.ports[(3 : Fin 128)]).retry = some 0 ∧ 0 + 1000000 ≤ lost.tick ∧ (∀ x ∈ lost.stages, x.2.status = .placed → x.2.recast = false) ∧
    r1.edge.reshape.state = 1 ∧ (reshaping 1 false 1100000).edge.reshape.goAt + bits (r1.reshapeWord 1) 0 10 * 100000 ≤ (reshaping 1 false 1100000).tick ∧
    r1.tick < r1.edge.reshape.goAt + bits (r1.reshapeWord 1) 0 10 * 100000 ∧ drained r1 = true ∧ r1.named 3 = true ∧ (r1.reshapeWord 41).testBit 15 = false ∧
    (said.edge.inbox[0]? = some (.unreached 9 [12]) ∧ said.neighbour 12 = some 9) ∧ (held.edge.reshape.state = 1 ∧ ∃ x ∈ held.edge.relays, held.named x.2.2.1 = true ∧ held.strip < x.2.2.2) ∧
    (∀ r ∈ [r2, r3, r4], r.edge.reshape.state = 2 ∧ r.named 3 = true ∧ (r.edge.ports[(3 : Fin 128)]).dark = true ∧
      (r.edge.ports[(3 : Fin 128)]).trained = false ∧ (r.edge.ports[(3 : Fin 128)]).down = false ∧ entryNames (r.reshapeWord 41) 4 5 = true ∧
      (r.reshapeWord 41).testBit 15 = false) ∧ others r2 ∧ r2.tick < r2.edge.reshape.darkAt + 50000000 ∧
    (r3.named 4 = true ∧ (r3.edge.ports[(4 : Fin 128)]).dark = true ∧ (r3.edge.ports[(4 : Fin 128)]).trained = false ∧
      (r3.edge.ports[(4 : Fin 128)]).down = false ∧ (r3.reshapeWord 42).testBit 15 = false ∧ r3.tick < r3.edge.reshape.darkAt + 50000000) ∧
    r4.edge.reshape.darkAt + 50000000 ≤ r4.tick ∧ (∀ o : Fin 128, o ≠ 3 → portSettled r4 o = true ∨ overdue r4 o = true) := by decide +kernel

/-- R363: a link that is lost for 10 ms while a request of a placed stage is out by it. -/
theorem test_hyp_EdgePortsAndReshapes_lost :
    let r : Req := { requestAt base (.store4 9) 0x5000000000010 with loc := .edge 8, ctx := 2, slot := 6 }
    let s : State := { base with
      strip := 11 * 1000000, reqs := [r]
      edge := { base.edge with via := [(8, 3)], ports := vset base.edge.ports 3 { EdgePort.blank with retry := some 0 } } }
    (s.edge.ports[(3 : Fin 128)]).retry = some 0 ∧ 0 + 1000000 ≤ s.tick ∧ outBy s 3 = [⟨0, some 0, 2, 6, 0, 0x5000000000010⟩] ∧
    (∃ q ∈ s.reqs, q.stage = 0 ∧ ∃ id, q.loc = .edge id ∧ AMap.get? s.edge.via id = some 3) ∧ TablesOk s ∧ (s.stage 0).flog.length + 2 ≤ 4096 ∧
    (s.stage 0).swd = 0 ∧ (s.stage 0).saved = [] ∧ (s.stage 0).stat.portalLost = 0 ∧ (s.stage 0).stat.egressLost = [] ∧
    (∀ x ∈ s.cells, x.2.stage = 0 → x.2.records = []) := by
  refine ⟨by decide +kernel, by decide +kernel, by decide +kernel, ⟨_, List.mem_singleton.2 rfl, by decide +kernel, 8, by decide +kernel, by decide +kernel⟩, ?_⟩
  unfold TablesOk Rising; decide +kernel

/-- A placed stage with a collective descriptor in slot 5. -/
def collective (x : Coll) (parts : List Part) (firn : Mem) : State :=
  { mapped with firn := firn, edge := { mapped.edge with colls := vset mapped.edge.colls 5 x, parts := parts } }

/-- A descriptor of the module alone, with every word on the first gigabyte. -/
def someColl : Coll := { Coll.blank with src := 0x1000, dst := 0x2000, start := 0x3000, doneA := 0x4000, expect := 3 }

theorem test_hyp_Collectives :
    let on (x : Coll) : State := collective x [] []
    let d := someColl
    let s := on { d with v := true }
    let full := collective { d with v := true } [] (Mem.writeN [] (frameKey 256 0x3000) 4 5)
    let busy := on { d with v := true, phase := .wait }
    let fin := on { d with v := true, phase := .done, ok := false, closing := true }
    let dark : State := { s with edge := { s.edge with ports := vset s.edge.ports 3 { EdgePort.blank with dark := true } } }
    let lost0 := on { d with v := true, phase := .wait, closing := true }
    let lost : State := { lost0 with edge := { lost0.edge with inbox := [.result 9 5 0 false true 3] } }
    let far : Coll := { d with v := true, phase := .wait, members := [9] }
    let two0 := collective far [⟨0, 5, someStage.job, 0, 0, 77⟩, ⟨9, 5, someStage.job, 0, 0, 78⟩] []
    let two : State := { two0 with
      host := { two0.host with inDom := true }
      edge := { two0.edge with ports := vset two0.edge.ports 3 { EdgePort.blank with trained := true }, peers := vset two0.edge.peers 3 0x0485 } }
    let gone : State := { collective { far with closing := true } [] [] with edge := { (collective { far with closing := true } [] []).edge with next := some [] } }
    let late0 := on { d with v := false, ended := [(9, 1)] }
    let late : State := { late0 with edge := { late0.edge with inbox := [.result 9 5 0 true false 3] } }
    ((gone.coll 5).phase = .wait ∧ (gone.coll 5).members = [9] ∧ 9 ≠ gone.host.modNum ∧ gone.toward 9 = none ∧ (gone.coll 5).closing = true ∧
      gone.watches = [] ∧ (gone.coll 5).out = [] ∧ gone.edge.inbox = []) ∧
    (late.edge.inbox = [.result 9 5 0 true false 3] ∧ 0 < (late.coll 5).turnOf 9 ∧ (late.coll 5).v = false ∧ (late.coll 5).phase = .idle ∧
      (late.coll 5).out = []) ∧
    (s.openTo 256 = true ∧ s.edge.waiting = [] ∧ dark.openTo 256 = false) ∧ s.host.modState ≠ 14 ∧ (lost.edge.inbox = [.result 9 5 0 false true 3] ∧ (lost.coll 5).turnOf 9 ≤ 0 ∧
      (lost.coll 5).v = true ∧ (lost.coll 5).out = [] ∧ (lost.coll 5).phase = .wait ∧ (lost.coll 5).closing = true ∧ lost.watches = []) ∧
    collOk (on d) d = true ∧ collOk (on d) { d with stage := 1 } = false ∧ ((on d).coll 5).v = false ∧
    (s.coll 5).v = true ∧ (s.coll 5).phase = .idle ∧ (s.coll 5).out = [] ∧ (busy.coll 5).phase ≠ .idle ∧ s.edge.inbox = [] ∧ (s.coll 5).members = [] ∧
    s.watches = [] ∧ (s.coll 5).closing = false ∧ s.edge.parts = [] ∧ s.firn.readN (frameKey 256 0x3000) 4 < 3 ∧
    3 ≤ full.firn.readN (frameKey 256 0x3000) 4 ∧ ((fin.coll 5).phase = .done ∧ (fin.coll 5).ok = false ∧ (fin.coll 5).closing = true) ∧
    ((two.coll 5).phase = .wait ∧ (two.coll 5).members = [9] ∧ two.host.modNum < 9 ∧ (two.toward 9).isSome = true ∧ two.edge.outbox = [] ∧
      two.edge.inbox = [] ∧ two.watches = [] ∧ (two.stage (two.coll 5).stage).job = someStage.job ∧ (two.coll 5).fn = 0) := by decide +kernel

theorem test_hyp_Collectives_home : ∀ (x : Coll), x.stage = 0 → ∀ (f : Mem) (p : List Part) (w : Word) (y : VWord),
    let s := collective x p f
    collHome s x (.amo .ld false false 0 0 0 noAct) 0x3000 = some (frameKey 256 0x3000) ∧ collHome s x (.red .addI32 w) 0x3000 = some (frameKey 256 0x3000) ∧
    collHome s x .getBlock 0x1000 = some (frameKey 256 0x1000) ∧ collHome s x .getBlock (setOff 0x1000 (offOf 0x1000 + 32)) = some (frameKey 256 0x1020) ∧
    collHome s x (.store64 y) 0x2000 = some (frameKey 256 0x2000) ∧ collHome s x (.red .addI32 w) 0x4000 = some (frameKey 256 0x4000) ∧
    modOf 0x1000 = s.host.modNum := by
  intro x h f p w y s
  have home (k : ReqKind) (a : DWord) (hm : modOf a = 0) (hd : denied k 0x10001F = none) (hp : pageNo true (offOf a) = 0)
      (hf : leafFrame 0x10001F true (offOf a) = 256) : collHome s x k a = some (frameKey 256 (offOf a % 2 ^ 21)) := by
    have hr : (s.stage 0).root = some 0 ∧ s.host.modNum = 0 := ⟨rfl, rfl⟩
    have hg := pageOf_cached s k 64 0 none (some 0) (offOf a) ⟨64, 0, none, true, 0, 0x10001F, []⟩
      (by rw [State.cached, show s.tlb = mapped.tlb from rfl, show mapped.tlb = [_, _] from rfl]; simp [hp]) hd (by decide) (by simp only [hf]; decide)
    simp only [hf] at hg
    simp [collHome, h, hr, hm, hg]
  exact ⟨home _ _ rfl rfl rfl rfl, home _ _ rfl rfl rfl rfl, home _ _ rfl rfl rfl rfl, home _ _ rfl rfl rfl rfl, home _ _ rfl rfl rfl rfl,
    home _ _ rfl rfl rfl rfl, rfl⟩

/-- A firmware image with an empty body and no signature. -/
def blankImage : List Byte := bytesOf 4 0xA64C5A01 ++ bytesOf 4 0x101 ++ List.replicate 32 0 ++ List.replicate 132 0

theorem test_hyp_SignedObjects :
    let f : BootFinds := { serial := 9, table := [], dead := [(4, 5)], osc := [(7, 8), (0, 0)] }
    let boot (images : List (Bool × List Byte)) : State := { State.reset with
      host := { HostSide.reset with serial := 9, mbox := { Mailbox.reset with images := images } } }
    let s : State := { base with host := { base.host with mbox := { base.host.mbox with istat := 1 } } }
    let r : State := { base with host := { base.host with modState := 14 } }
    State.reset.host.modState = 0 ∧ imageOk (boot [(false, [])]) false = false ∧ imageOk (boot [(true, [])]) true = false ∧
    tableOk (boot []) f.table = none ∧ besideOf 7 8 .north = some (6, 8) ∧ (6, 8) ∉ f.osc ∧ (6, 8) ∉ f.dead ∧ (∀ p ∈ f.osc, p.2 < 384) ∧
    base.host.modState ≠ 0 ∧ (1 : Word).getLsbD 0 = true ∧ base.host.mbox.istat ≠ 1 ∧ s.host.mbox.istat = 1 ∧ sobReason s [] true = some 5 ∧
    field [] 0 4 ≠ 0xA64C5A01 ∧ (1 ≤ base.host.modState ∧ base.host.modState < 14) ∧ r.host.modState = 14 := by decide +kernel

/-- Whether an image with a proper header verifies turns on the root key alone, which the model leaves free (log 20). -/
theorem test_hyp_SignedObjects_key :
    imageOk { State.reset with host := { HostSide.reset with mbox := { Mailbox.reset with images := [(false, blankImage)] } } } false =
      signedBy blankImage Config.rootKey := by
  have h : headOk blankImage = true ∧ field blankImage 4 1 = 1 ∧ field blankImage 24 8 = 0 := by decide +kernel
  simp [imageOk, State.image, serialOk, h.1, h.2.1, h.2.2]

/-- An envelope of the owner, with 132 bytes of zeros where its signature stands, under the key that `SIGNER` names. -/
def ownersObject (ty serial seq : Nat) (body : List Byte) : List Byte := envelope ty (keyId []) serial seq body ++ List.replicate 132 0

/-- R380: objects for each reason: a header, and what follows a signature that holds (whether one does turns on the owner's key). -/
theorem test_hyp_SignedObjects_reasons :
    let h (l : List Byte) : Prop := field l 0 4 = 0xA64C5A01 ∧ field l 4 4 / 2 ^ 8 = 1 ∧ field l 8 4 % 4 = 0 ∧ l.length = 172 + field l 8 4 ∧ field l 12 4 = 0
    let other := envelope 2 0 0 0 [] ++ List.replicate 132 0
    let body (w tail : Nat) : List Byte := bytesOf 4 w ++ bytesOf 4 1 ++ bytesOf 4 2 ++ bytesOf 4 tail
    let back (w tail : Nat) := ownersObject 3 9 6 (body w tail)
    let s : State := { State.reset with
      casting := { State.reset.casting with gen := 1, dead := [(4, 5, true)] }
      host := { HostSide.reset with serial := 9, mbox := { Mailbox.reset with owner := [], seqs := [(3, 5)] } } }
    let at' (l : List Byte) : Nat × Nat := (field (bodyOf l) 0 4 / 2 ^ 9 % 2 ^ 9, field (bodyOf l) 0 4 % 2 ^ 9)
    let good := back (4 * 512 + 5) 0
    let away := back (4 * 512 + 6) 0
    (¬ h [] ∧ h other ∧ field other 4 1 = 2 ∧ h blankImage ∧ field blankImage 16 8 ≠ keyId []) ∧
    (h good ∧ field good 4 1 = 3 ∧ field good 16 8 = keyId s.host.mbox.owner ∧
      Crypto.verify s.host.mbox.owner (Crypto.sha512 (good.take (good.length - 132))) (good.drop (good.length - 132)) = false) ∧
    (field good 24 8 = s.host.serial ∧ field (ownersObject 3 8 6 []) 24 8 ≠ s.host.serial ∧ field (ownersObject 3 8 6 []) 24 8 ≠ 0) ∧
    (lastSeq s 3 = some 5 ∧ 5 < field good 32 8 ∧ ¬ 5 < field (ownersObject 3 9 5 []) 32 8) ∧
    ((bodyOf good).length = 16 ∧ field (bodyOf good) 0 4 < 2 ^ 18 ∧ field (bodyOf good) 8 4 < 256 ∧ field (bodyOf good) 12 4 = 0 ∧
      field (bodyOf (back (4 * 512 + 5) 1)) 12 4 ≠ 0) ∧
    (((at' good).1, (at' good).2, true) ∈ s.casting.dead ∧ at' good ∉ s.casting.back ∧ field (bodyOf good) 4 4 ≤ s.casting.gen) ∧
    ((at' away).1, (at' away).2, true) ∉ s.casting.dead := by decide +kernel

/-! ## The machine -/

theorem test_hyp_DecodeOfEncode : (Instr.liw 12 (.reg 3) 0xDB55AA33).wf = true ∧
    encode (.liw 12 (.reg 3) 0xDB55AA33) = some (0x33FC01ED, some 0xFD55AA33) ∧
    (Instr.vadd ⟨6, .bf16, 2, ⟨3, 1⟩⟩ (.so 1) (.sq 0) (.v 2)).wf = true := by decide +kernel

/-- `add x3, x3, x3` as the first instruction after reset: the state in which the next step runs it. -/
def ready : State := State.reset.withFetchWord 32 0x00018C60

/-- That state when its cell comes to fire. -/
def firing : State :=
  match runAll (dueSteps 0) (askPort (cycleStart { ready with turn := 1 } 0) 0) with
  | .next t => t.setCell 0 (t.cell 0).snap
  | _ => ready

theorem test_hyp_StepRunsDecoded :
    let out : Option State := match exec (.add 0 (.reg 3) (.reg 3) (.reg 3) ⟨0, 0⟩) { firing with focus := ⟨0, 0, 0⟩ } with
      | .next t => some t
      | _ => none
    let q : Route := ⟨0, 0, .ring 4 1 0, 9⟩
    let p := (withCell fun c => { c with tsend := some ⟨1, 2, 7, 8, 1, 3⟩, routes := vset c.routes 2 (some q) }).setCell 1
      { CellState.blank 0 1 0 with rings := Vector.replicate 8 { Ring.blank with depth := 3, tsz := 7, prod := 1 } }
    let took : State := p.setCell 0 { p.cell 0 with sramTook := [4] }
    ({ ready with agenda := [.placement] } : State).agenda = .placement :: [] ∧ isEvent .placement = true ∧ portOf .placement ready = none ∧
    ownTime .placement = false ∧ ownTime (.tsendUnit 0) = false ∧ (isEvent (.vectorBeat 0) = true ∧ ownTime (.vectorBeat 0) = true) ∧
    isEvent (.add 0 (.reg 3) (.reg 3) (.reg 3) ⟨0, 0⟩) = false ∧
    (portOf (.tsendUnit 0) p = some (0, 4) ∧ isEvent (.tsendUnit 0) = true ∧ ((matrixTurn p 0).cell 0).sramTook.length < 2 ∧
      ((matrixTurn p 0).cell 0).sramA = false ∧ nextPort (matrixTurn p 0) 0 = some 4) ∧
    (portOf (.tsendUnit 0) took = some (0, 4) ∧ nextPort (matrixTurn took 0) 0 ≠ some 4) ∧
    ready.agenda = [] ∧ (ready.cells[ready.turn]?).isSome = true ∧ clockRuns ready 0 (({ ready with turn := 1 } : State).cell 0) = true ∧
    (firing.cell 0).live = true ∧ (firing.cell 0).hold = .none ∧ (firing.cell 0).badCues = [] ∧
    (firing.cell 0).slot 0 = some 0x00018C60 ∧ isContinuation 0x00018C60 = false ∧ slotCtx (firing.cell 0) 0 = some 0 ∧
    (match decode 0x00018C60 (((firing.cell 0).slot 1).map BitVec.toNat) with
      | .ok i => decide (i = .add 0 (.reg 3) (.reg 3) (.reg 3) ⟨0, 0⟩)
      | .error _ => false) = true ∧
    out.any (fun t => hasFired firing t 0 0 && (AMap.get? t.cells 0).isSome && (match runAll (lateSteps 0 (t.cell 0)) t with
      | .next _ => true
      | _ => false)) = true := by decide +kernel

theorem test_hyp_StepKeepsInvariants : MemOk State.reset ∧ TablesOk State.reset ∧ MemOk ready ∧ TablesOk ready ∧
    (match step ready with
      | .next _ => true
      | _ => false) = true := by
  unfold MemOk TablesOk Rising; decide +kernel

/-! ## Worked examples

Expected values are those that the spec prints beside its rules; registers are set through `regs`. -/

/-- The running context of `base` with four registers set. -/
def regs (x1 x2 x3 x4 : Word) : State :=
  withCtx fun t => { t with x := vset (vset (vset (vset t.x 1 x1) 2 x2) 3 x3) 4 x4, fcr := 0 }

/-- The context in focus after an instruction, its register `r`, and the flags of its FCR. -/
def after (i : Instr) (s : State) : Option Context :=
  match exec i s with
  | .next t => some t.here
  | _ => none

def result (i : Instr) (r : Fin 16) (s : State) : Option Word := (after i s).map fun t => t.getX r

def flagsOf (i : Instr) (s : State) : Option Nat := (after i s).map fun t => t.fcr.toNat / 2 ^ 16 % 32

/-- R133: the examples of its last paragraphs. -/
theorem test_integer :
    let s := regs 0xFFFFFFFF 0xFFFFFFFF 0x80000000 4
    let go (i : Instr) : Option Word := result i 7 s
    go (.mul 0 (.reg 7) (.reg 1) (.reg 2) ⟨0, 0⟩) = some 1 ∧ go (.mulh 0 (.reg 7) (.reg 1) (.reg 2) ⟨0, 0⟩) = some 0 ∧
    go (.mulhu 0 (.reg 7) (.reg 1) (.reg 2) ⟨0, 0⟩) = some 0xFFFFFFFE ∧ go (.sra 0 (.reg 7) (.reg 3) (.reg 4) ⟨0, 0⟩) = some 0xF8000000 ∧
    go (.srl 0 (.reg 7) (.reg 3) (.reg 4) ⟨0, 0⟩) = some 0x08000000 ∧
    result (.sll 0 (.reg 7) (.reg 1) (.reg 2) ⟨0, 0⟩) 7 (regs 3 33 0 0) = some 6 := by decide +kernel

/-- R136: the borderline cases. -/
theorem test_division :
    divide true false 0xFFFFFFF9 2 = 0xFFFFFFFD ∧ divide true true 0xFFFFFFF9 2 = 0xFFFFFFFF ∧
    divide false false 0xFFFFFFF9 2 = 0x7FFFFFFC ∧ divide false true 0xFFFFFFF9 2 = 1 ∧
    divide true false 7 0xFFFFFFFE = 0xFFFFFFFD ∧ divide true true 7 0xFFFFFFFE = 1 ∧
    divide false false 7 0xFFFFFFFE = 0 ∧ divide false true 7 0xFFFFFFFE = 7 ∧
    divide true false 7 0 = 0xFFFFFFFF ∧ divide true true 7 0 = 7 ∧
    divide false false 7 0 = 0xFFFFFFFF ∧ divide false true 7 0 = 7 ∧
    divide true false 0x80000000 0xFFFFFFFF = 0x80000000 ∧ divide true true 0x80000000 0xFFFFFFFF = 0 ∧
    divide false false 0x80000000 0xFFFFFFFF = 0 ∧ divide false true 0x80000000 0xFFFFFFFF = 0x80000000 := by decide +kernel

/-- R152 to R154. -/
theorem test_long_scalar :
    result (.addipHi 0 (.reg 4) (.reg 1) 0x1234 ⟨0, 0⟩) 4 (regs 0 0 0 0) = some 0x12340000 ∧
    result (.addip 0 (.reg 4) (.reg 4) 0x5678 ⟨0, 0⟩) 4 (regs 0 0 0 0x12340000) = some 0x12345678 ∧
    result (.liw 0 (.reg 4) 0x12345678) 4 (regs 0 0 0 0) = some 0x12345678 ∧
    result (.lea 0 (.reg 3) (.reg 1) (.reg 2) 2 0xFFFC ⟨0, 0⟩) 3 (regs 0x1000 3 0 0) = some 0x1008 ∧
    result (.extr 0 (.reg 3) (.reg 1) 8 11 ⟨0, 0⟩) 3 (regs 0xDEADBEEF 0 0 0) = some 0xDBE ∧
    result (.extrS 0 (.reg 3) (.reg 1) 8 11 ⟨0, 0⟩) 3 (regs 0xDEADBEEF 0 0 0) = some 0xFFFFFDBE ∧
    result (.insr 0 3 (.reg 1) 4 7 ⟨0, 0⟩) 3 (regs 0x123 0 0 0) = some 0x230 ∧
    result (.decp 0 3 5) 3 (regs 0 0 0 0) = some 0xFFFFFFFF ∧
    (after (.decp 0 3 1) (regs 0 0 0 0)).map (fun t => t.p.getLsbD 1) = some true ∧
    (after (.decp 0 3 0) (regs 0 0 1 0)).map (fun t => t.p.getLsbD 0) = some false := by decide +kernel

/-- R155: the offset wraps within its module, and the upper half is read. -/
theorem test_address_registers :
    let s := withCtx fun t => { t with w := vset t.w 2 0x0005FFFFFFFFFFF0 }
    (after (.wAddi 0 2 0x20 ⟨0, 0⟩) s).map (fun t => t.w[(2 : Fin 4)]) = some 0x0005000000000010 ∧
    result (.wGet 0 (.reg 7) 2 true ⟨0, 0⟩) 7 (withCtx fun t => { t with w := vset t.w 2 0x0005000000000010 }) = some 0x00050000 := by decide +kernel

/-- R115: its table, results and flags (NX 1, UF 2, OF 4, NV 16; R35). -/
theorem test_conversions :
    let s (x : Word) : State := regs x 0 0 0
    let rup (x : Word) : State := withCtx fun t => { t with x := vset t.x 1 x, fcr := 2 }
    let is (i : Instr) (s : State) (v : Word) (f : Nat) : Prop := result i 7 s = some v ∧ flagsOf i s = some f
    is (.cvtE4f 0 (.reg 7) (.reg 1) ⟨0, 0⟩) (s 0x3FC00000) 0x3C 0 ∧ is (.cvtE5f 0 (.reg 7) (.reg 1) ⟨0, 0⟩) (s 0x3FC00000) 0x3E 0 ∧
    is (.cvtE4f 0 (.reg 7) (.reg 1) ⟨0, 0⟩) (s 0x43EB0000) 0x7E 5 ∧ is (.cvtE5f 0 (.reg 7) (.reg 1) ⟨0, 0⟩) (s 0x43EB0000) 0x5F 1 ∧
    is (.cvtBf 0 (.reg 7) (.reg 1) ⟨0, 0⟩) (s 0x3F808000) 0x3F80 1 ∧ is (.cvtE4f 0 (.reg 7) (.reg 1) ⟨0, 0⟩) (s 0x3A800000) 0 3 ∧
    is (.cvtHf 0 (.reg 7) (.reg 1) ⟨0, 0⟩) (s 0x477FF000) 0x7C00 5 ∧ is (.cvtBf 0 (.reg 7) (.reg 1) ⟨0, 0⟩) (s 0x7F800001) 0x7FC0 16 ∧
    is (.cvtFe4 0 (.reg 7) (.reg 1) ⟨0, 0⟩) (s 0xFF) 0x7FC00000 0 ∧ is (.cvtE4f 0 (.reg 7) (.reg 1) ⟨0, 0⟩) (s 0x80000000) 0x80 0 ∧
    is (.cvtFi 0 (.reg 7) (.reg 1) ⟨0, 0⟩) (s 0x40200000) 2 1 ∧ is (.cvtFi 0 (.reg 7) (.reg 1) ⟨0, 0⟩) (s 0xC0200000) 0xFFFFFFFE 1 ∧
    is (.cvtFi 0 (.reg 7) (.reg 1) ⟨0, 0⟩) (s 0x4F000000) 0x7FFFFFFF 16 ∧ is (.cvtFn 0 (.reg 7) (.reg 1) ⟨0, 0⟩) (s 0x4F000000) 0x80000000 0 ∧
    is (.cvtFn 0 (.reg 7) (.reg 1) ⟨0, 0⟩) (s 0xBF800000) 0 16 ∧ is (.cvtIf 0 (.reg 7) (.reg 1) ⟨0, 0⟩) (s 0x01000001) 0x4B800000 1 ∧
    is (.cvtFb 0 (.reg 7) (.reg 1) ⟨0, 0⟩) (s 0xDEAD3F80) 0x3F800000 0 ∧ result (.cvtBf 0 (.reg 7) (.reg 1) ⟨0, 0⟩) 7 (rup 0x3F808000) = some 0x3F81 ∧
    result (.cvtE4f 0 (.reg 7) (.reg 1) ⟨0, 0⟩) 7 (rup 0x3A800000) = some 1 := by decide +kernel

/-- R119: the example of an exact sum, bf16 by bf16 with both tiles in SRAM. -/
theorem test_matrix_element :
    let a := 0x3F80 + 0x3B00 * ((2 ^ 256 - 2 ^ 16) / 65535)
    let b := (List.range 16).foldl (fun (m : Mem) k => m.writeN (512 + k * 32) 2 (if k = 0 then 0x4380 else 0x3B80)) (Mem.writeN [] 0 32 a)
    (mxDot b 0 512 (mxCode .bf16) false false 0 0 0xFFFFFFFF).1 = 0x43800004 := by decide +kernel

/-- R121: left to right, a sum of 2^24 and ones stays 2^24. -/
theorem test_scan_association :
    (fAdd .f32 Mode.rne (fAdd .f32 Mode.rne 0x4B800000 0x3F800000).1 0x3F800000).1 = 0x4B800000 := by decide +kernel

/-- Right after reset with the word of `add x3, x3, x3` in slot 0, the first step fires it, in cycle 0 of the cell. -/
theorem test_first_step :
    (match step (State.reset.withFetchWord 32 0x00018C60) with
      | .next t => ((t.cell 0).ctx 0).fired
      | _ => 0) = ((ready.cell 0).ctx 0).fired + 1 := by decide +kernel

/-- FIPS 180-4's example for "abc", and FIPS 186-5's base point (R329). -/
theorem test_sha512 : Crypto.sha512 [0x61, 0x62, 0x63] =
    0xddaf35a193617abacc417349ae20413112e6fa4e89a97ea20a9eeee64b55d39a2192992a274fc1a836ba3c23a3feebbd454d4423643ce80e2a9ac94fa54ca49f#512 ∧
    Crypto.onCurve Crypto.baseX Crypto.baseY = true := by decide +kernel

end Sys2Proof.Tests
end

section
/-! # The invariants of O60 (log 3)
`Inv mem tab s` asks canonical memory of `s` where `mem` holds and ordered tables where `tab` holds, so that one lemma for each function of
the model serves both halves of O60. `Lands` and `Does` say the same of an outcome and of an effect. -/

namespace Sys2Proof.Invariant

open Sys2Proof.Machine Sys2Proof.Safety

/-- The invariants that are asked for. -/
def Inv (mem tab : Prop) (s : State) : Prop := (mem → MemOk s) ∧ (tab → TablesOk s)

/-- An outcome that keeps them: its next state, if it has one, does. -/
def Lands (mem tab : Prop) (o : Out) : Prop := ∀ t, o = .next t → Inv mem tab t

/-- An effect that keeps them: the state that it leaves, if it is no fault, does. -/
def Does (mem tab : Prop) (e : Effect) : Prop := ∀ t, e = .done t → Inv mem tab t

/-! ## Tables in order -/

theorem Rising.map {α β : Type} {m : AMap α} (h : Rising m) {f : Nat × α → Nat × β} (hf : ∀ e, (f e).1 = e.1) :
    Rising (m.map f : AMap β) := by
  simpa [Rising, Function.comp_def, hf] using h

theorem Rising.del {α : Type} {m : AMap α} (h : Rising m) (k : Nat) : Rising (m.del k) :=
  h.sublist (List.filter_sublist.map _)

/-- The numbers of a table after a put: those of before and the one put. -/
theorem mem_keys_put {α : Type} {m : AMap α} {k j : Nat} {a : α} (h : j ∈ (m.put k a).map (·.1)) : j = k ∨ j ∈ m.map (·.1) := by
  induction m with
  | nil => simpa [AMap.put] using h
  | cons e r ih =>
    obtain ⟨i, b⟩ := e
    simp only [AMap.put] at h
    split_ifs at h <;> simp only [List.map_cons, List.mem_cons] at h ⊢ <;> tauto

theorem Rising.put {α : Type} {m : AMap α} (h : Rising m) (k : Nat) (a : α) : Rising (m.put k a) := by
  induction m with
  | nil => simp [AMap.put, Rising]
  | cons e r ih =>
    obtain ⟨j, b⟩ := e
    obtain ⟨hj, hr⟩ := List.pairwise_cons.mp h
    simp only [AMap.put]
    split_ifs with h1 h2
    · subst h1; exact h
    · exact List.pairwise_cons.mpr ⟨fun i hi => (List.mem_cons.mp hi).elim (fun e => e ▸ h2) fun hi => h2.trans (hj i hi), h⟩
    · exact List.pairwise_cons.mpr ⟨fun i hi => (mem_keys_put hi).elim (fun e => e ▸ by dsimp only; omega) (hj i), ih hr⟩

variable {mem tab : Prop} {s : State}

/-! ## Outcomes and effects -/

theorem Lands.next (h : Inv mem tab s) : Lands mem tab (.next s) := fun _ e => by cases e; exact h

theorem Lands.fault {r : Fault} : Lands mem tab (.fault r) := fun _ e => by cases e

theorem Does.done (h : Inv mem tab s) : Does mem tab (.done s) := fun _ e => by cases e; exact h

theorem Does.fault {f : FaultInfo} : Does mem tab (.fault f) := fun _ e => by cases e

theorem Inv.ite {c : Prop} [Decidable c] {t : State} (h : Inv mem tab s) (k : Inv mem tab t) : Inv mem tab (if c then s else t) := by
  split_ifs <;> assumption

theorem Lands.ite {c : Prop} [Decidable c] {o p : Out} (h : Lands mem tab o) (k : Lands mem tab p) : Lands mem tab (if c then o else p) := by
  split_ifs <;> assumption

theorem Does.ite {c : Prop} [Decidable c] {e f : Effect} (h : Does mem tab e) (k : Does mem tab f) : Does mem tab (if c then e else f) := by
  split_ifs <;> assumption

/-- A fold of a function that keeps the invariants. -/
theorem Inv.foldl {α : Type} {f : State → α → State} {l : List α} (h : Inv mem tab s) (hf : ∀ {t a}, Inv mem tab t → Inv mem tab (f t a)) :
    Inv mem tab (l.foldl f s) := by
  induction l generalizing s with
  | nil => exact h
  | cons a r ih => exact ih (hf h)

theorem Lands.andThen {o : Out} {f : State → Out} (h : Lands mem tab o) (hf : ∀ {t}, Inv mem tab t → Lands mem tab (f t)) :
    Lands mem tab (andThen o f) := by
  unfold Machine.andThen
  split
  · exact hf (h _ rfl)
  · exact .fault
  · exact fun _ e => by cases e

/-! ## Changes of one field -/

section Fields
variable {agenda : List Instr} {turn : Nat} {focus : Focus} {strip : Nat} {cells : AMap CellState} {firn : Mem} {badFirn : List Nat}
  {pl : AMap Nat} {casting : Casting} {merges : List Merge} {packets : List Packet} {reqs : List Req} {acks : List Ack} {watches : List Watch}
  {items : List CtrlItem} {links : AMap Nat} {tlb : List TlbEntry} {guests : AMap Nat} {stages : AMap Stage} {frames dirty : AMap Nat}
  {fl : Vector Nat 64} {duty : Nat} {ctrl : AMap CtrlTables} {retiring : List (Nat × Nat)} {silent : AMap (Nat × Bool)}
  {slow flags : AMap (Bool × Bool)} {polled : AMap Nat} {clocks : AMap Dir} {router : List Record} {served rr : AMap Nat}
  {maps : List MapJob} {mapNo : Nat} {host : HostSide} {edge : EdgeSide}

/-- The other fields may change in any way, and so may what the host side holds besides the hosts' memory. -/
theorem Inv.frame (h : Inv mem tab s) (hh : host.hostMem = s.host.hostMem := by rfl) :
    Inv mem tab ⟨agenda, turn, focus, strip, s.cells, s.firn, badFirn, pl, casting, merges, packets, reqs, acks, watches, items, links, tlb,
      guests, s.stages, frames, dirty, fl, duty, ctrl, retiring, silent, slow, flags, polled, clocks, router, served, rr, maps, mapNo, host,
      edge⟩ :=
  ⟨fun m => ⟨(h.1 m).1, (congrArg Mem.wf hh).trans (h.1 m).2⟩, h.2⟩

/-- The same beside a change of DRAM that keeps the canonical form. -/
theorem Inv.withFirn (h : Inv mem tab s) (hf : s.firn.wf = true → firn.wf = true) (hh : host.hostMem = s.host.hostMem := by rfl) :
    Inv mem tab ⟨agenda, turn, focus, strip, s.cells, firn, badFirn, pl, casting, merges, packets, reqs, acks, watches, items, links, tlb,
      guests, s.stages, frames, dirty, fl, duty, ctrl, retiring, silent, slow, flags, polled, clocks, router, served, rr, maps, mapNo, host,
      edge⟩ :=
  ⟨fun m => ⟨hf (h.1 m).1, (congrArg Mem.wf hh).trans (h.1 m).2⟩, h.2⟩

/-- The same beside a change of the hosts' memory that keeps the canonical form. -/
theorem Inv.withHost (h : Inv mem tab s) (hh : s.host.hostMem.wf = true → host.hostMem.wf = true) :
    Inv mem tab ⟨agenda, turn, focus, strip, s.cells, s.firn, badFirn, pl, casting, merges, packets, reqs, acks, watches, items, links, tlb,
      guests, s.stages, frames, dirty, fl, duty, ctrl, retiring, silent, slow, flags, polled, clocks, router, served, rr, maps, mapNo, host,
      edge⟩ :=
  ⟨fun m => ⟨(h.1 m).1, hh (h.1 m).2⟩, h.2⟩

/-- The same beside a change of the table of cells that keeps its order. -/
theorem Inv.withCells (h : Inv mem tab s) (hc : Rising s.cells → Rising cells) (hh : host.hostMem = s.host.hostMem := by rfl) :
    Inv mem tab ⟨agenda, turn, focus, strip, cells, s.firn, badFirn, pl, casting, merges, packets, reqs, acks, watches, items, links, tlb,
      guests, s.stages, frames, dirty, fl, duty, ctrl, retiring, silent, slow, flags, polled, clocks, router, served, rr, maps, mapNo, host,
      edge⟩ :=
  ⟨fun m => ⟨(h.1 m).1, (congrArg Mem.wf hh).trans (h.1 m).2⟩, fun t => ⟨hc (h.2 t).1, (h.2 t).2⟩⟩

/-- The same beside a change of the table of stages that keeps its order. -/
theorem Inv.withStages (h : Inv mem tab s) (hs : Rising s.stages → Rising stages) (hh : host.hostMem = s.host.hostMem := by rfl) :
    Inv mem tab ⟨agenda, turn, focus, strip, s.cells, s.firn, badFirn, pl, casting, merges, packets, reqs, acks, watches, items, links, tlb,
      guests, stages, frames, dirty, fl, duty, ctrl, retiring, silent, slow, flags, polled, clocks, router, served, rr, maps, mapNo, host,
      edge⟩ :=
  ⟨fun m => ⟨(h.1 m).1, (congrArg Mem.wf hh).trans (h.1 m).2⟩, fun t => ⟨(h.2 t).1, hs (h.2 t).2⟩⟩

end Fields

theorem Inv.setCell {n : Nat} {c : CellState} (h : Inv mem tab s) : Inv mem tab (s.setCell n c) := h.withCells fun k => Rising.put k _ _

theorem Inv.setCur {c : CellState} (h : Inv mem tab s) : Inv mem tab (s.setCur c) := h.setCell

theorem Inv.setStage {i : Nat} {t : Stage} (h : Inv mem tab s) : Inv mem tab (s.setStage i t) := h.withStages fun k => Rising.put k _ _
end Sys2Proof.Invariant
end

section
/-! # The state, the matrix unit, scans and the slice (O60) -/

namespace Sys2Proof.Invariant

open Sys2Proof.Machine Sys2Proof.Safety

-- `fun_cases` starts more threads than the check's memory limit allows when proofs are elaborated side by side.
set_option Elab.async false

variable {mem tab : Prop} {s : State}

/-! ## Fault records and the firing of an instruction -/

theorem Inv.logFault {id : Nat} {r : Record} {count : Nat} {div : Bool} (h : Inv mem tab s) :
    Inv mem tab (State.logFault s id r count div) :=
  .ite h.setStage h.setStage

theorem Inv.cellRecord {n : Nat} {ctx : Fin 4} {slot : Nat} {f : FaultInfo} (h : Inv mem tab s) :
    Inv mem tab (State.cellRecord s n ctx slot f) :=
  .ite h.setCell h.logFault

theorem Inv.asyncRecord {n : Nat} {ctx : Fin 4} {slot : Nat} {f : FaultInfo} (h : Inv mem tab s) :
    Inv mem tab (State.asyncRecord s n ctx slot f) :=
  .ite h.logFault h.cellRecord

theorem Inv.active {n : Nat} (h : Inv mem tab s) : Inv mem tab (State.active s n) := h.setCell

theorem Inv.takeFault {cue : Cue} {n : Needs} {f : FaultInfo} (h : Inv mem tab s) : Inv mem tab (takeFault s cue n f) := h.setCur

theorem Inv.finish {e : DWord} {n : Needs} (h : Inv mem tab s) : Inv mem tab (finish s e n) := h.setCur

theorem Inv.fireState {cue : Cue} {n : Needs} {eff : State → Effect} (h : Inv mem tab s) (he : Does mem tab (eff s)) :
    Inv mem tab (fireState s cue n eff) := by
  unfold Machine.fireState
  split_ifs
  · exact h.takeFault
  · split
    · exact h.takeFault
    · exact (he _ ‹_›).finish
  · exact h

/-- An instruction keeps the invariants if its effect does. -/
theorem Inv.fire {cue : Cue} {n : Needs} {eff : State → Effect} (h : Inv mem tab s) (he : Does mem tab (eff s)) :
    Lands mem tab (fire s cue n eff) := .next (h.fireState he)

theorem Inv.result {d : Dst} {p : PAct} {v : Word} {x : Bool} {f : Flags} (h : Inv mem tab s) : Does mem tab (result d p v x f s) :=
  .done h.setCur

theorem Inv.onCtx {p : PAct} {g : Context → Context} (h : Inv mem tab s) : Does mem tab (onCtx p g s) := .done h.setCur

theorem Inv.onCell {p : PAct} {g : CellState → CellState} (h : Inv mem tab s) : Does mem tab (onCell p g s) := .done h.setCur

/-! ## The matrix unit (R183 to R200) -/

theorem Inv.mxDiscard {n : Nat} {m : MxCmd} (h : Inv mem tab s) : Inv mem tab (mxDiscard s n m) := h.asyncRecord

theorem Inv.mxAccept {p : PAct} {m : MxCmd} {opnd : Word} (h : Inv mem tab s) : Does mem tab (mxAccept p m opnd s) := by
  unfold Machine.mxAccept
  split
  · exact .fault
  · exact .ite (.done h.setCur.mxDiscard) (.done h.setCur.setCur)

theorem Inv.mxFire {c : Cue} {p : PAct} {m : State → MxCmd} {o : State → Word} (h : Inv mem tab s) : Lands mem tab (mxFire c p m o s) :=
  h.fire h.mxAccept

theorem Inv.execMxIssue {c : Cue} {q : Fin 6} {p : PAct} (h : Inv mem tab s) : Lands mem tab (execMxIssue c q p s) := by
  refine h.fire ?_
  dsimp only
  split
  · exact .fault
  · exact h.mxAccept

theorem Inv.execMxCommandStart_half {n : Nat} {c : CellState} {m : MxCmd} {run : CellState → Nat → CellState} {l : Nat}
    (h : Inv mem tab s) : Inv mem tab (execMxCommandStart.half s n c m run l) := h.setCell.setStage

theorem Inv.execMxCommandStart {n : Nat} (h : Inv mem tab s) : Lands mem tab (execMxCommandStart n s) := by
  unfold Machine.execMxCommandStart
  dsimp only
  split
  · exact .next h
  · refine .ite (.next h) (.ite (.ite ?_ (.next h.setCell)) (.next (.ite h.setCell h)))
    split
    · exact .ite (.next h.setCell) (.next h.execMxCommandStart_half)
    · exact .next h.execMxCommandStart_half

theorem Inv.execMxCommandComplete {n : Nat} (h : Inv mem tab s) : Lands mem tab (execMxCommandComplete n s) := by
  unfold Machine.execMxCommandComplete
  dsimp only
  split
  · exact .next h
  · refine .ite (.next h) ?_
    split
    · exact .next (h.setCell.asyncRecord.foldl fun h => h.mxDiscard)
    · exact .next h.setCell.active

/-! ## Completions and egress queues -/

theorem Inv.setEgress {q : Nat} {e : Egress} (h : Inv mem tab s) : Inv mem tab (State.setEgress s q e) := h.frame

theorem Inv.postOn {port : Fin 8} {addr size v : Nat} {vec : Option Nat} {wait : Bool} (h : Inv mem tab s) :
    Inv mem tab (State.postOn s port addr size v vec wait) :=
  h.frame

theorem Inv.post {port : Fin 8} {addr size v : Nat} (h : Inv mem tab s) : Inv mem tab (State.post s port addr size v) := h.postOn

theorem land_wf {h : HostSide} {p : Posted} (hw : h.hostMem.wf = true) : (h.land p).hostMem.wf = true := by
  unfold HostSide.land
  split
  · exact hw
  · exact Mem.wf_writeN hw _ _ _

theorem landPort_wf {h : HostSide} {strip : Nat} {port : Fin 8} {fuel : Nat} (hw : h.hostMem.wf = true) :
    (landPort h strip port fuel).hostMem.wf = true := by
  induction fuel generalizing h with
  | zero => exact hw
  | succ k ih =>
    unfold landPort
    split
    · split_ifs
      · next e _ _ => cases e; exact ih (land_wf hw)
      · exact hw
    · exact hw

theorem landPorts_wf {strip : Nat} (l : List (Fin 8)) {h : HostSide} (hw : h.hostMem.wf = true) :
    (l.foldl (fun h p => landPort h strip p h.posted.length) h).hostMem.wf = true := by
  induction l generalizing h with
  | nil => exact hw
  | cons p l ih => exact ih (landPort_wf hw)

theorem Inv.landPosted (h : Inv mem tab s) : Inv mem tab s.landPosted :=
  h.withHost fun hw => landPorts_wf _ hw

theorem Inv.writeEntry {q : Nat} {bytes : Nat} {wait : Bool} (h : Inv mem tab s) : Inv mem tab (writeEntry s q bytes wait) :=
  (Inv.ite h.postOn.postOn h.postOn).setEgress

theorem Inv.writeHeld {q : Nat} (h : Inv mem tab s) : Inv mem tab (writeHeld s q) := by
  unfold Machine.writeHeld
  dsimp only
  split
  · exact h
  · exact .ite h.frame.writeEntry h

theorem Inv.postCe {q : Nat} {l : List Word} (h : Inv mem tab s) : Inv mem tab (postCe s q l) :=
  .ite h.setEgress (.ite h.frame.writeHeld h.frame)

theorem Inv.complete {st ty : Nat} {payload : List Word} (h : Inv mem tab s) : Inv mem tab (State.complete s st ty payload) :=
  .ite h.postCe h

theorem Inv.hostRecord {st : Nat} {r : Record} (h : Inv mem tab s) : Inv mem tab (State.hostRecord s st r) := h.logFault.complete

theorem Inv.logMark {st cx cy : Nat} {oq : Fin 8} {item : Nat} (h : Inv mem tab s) : Inv mem tab (State.logMark s st cx cy oq item) :=
  .ite h.setStage h.setStage

theorem Inv.routerRecord {n port : Nat} (h : Inv mem tab s) : Inv mem tab (State.routerRecord s n port) := h.frame

/-! ## Scan rounds -/

theorem Inv.aggEff {op : ScanOp} {grp : Fin 8} {a : VSrc} {p : PAct} (h : Inv mem tab s) : Does mem tab (aggEff op grp a p s) := by
  unfold Machine.aggEff
  exact h.setStage.onCell

theorem Inv.execScPfx {c : Cue} {grp : Fin 8} {d : Fin 8} {p : PAct} (h : Inv mem tab s) : Lands mem tab (execScPfx c grp d p s) :=
  h.fire (.done h.setCur)

theorem Inv.resetEff {grp : Fin 8} {dir : Option Bool} {p : PAct} (h : Inv mem tab s) : Does mem tab (resetEff grp dir p s) := by
  unfold Machine.resetEff
  exact h.setStage.onCell

theorem Inv.scanPerform {id : Nat} {grp : Fin 8} {round : Word} {q : ScanQ} {n : Nat} {o : ScanOut} (h : Inv mem tab s) :
    Inv mem tab (scanPerform s id grp round q n o) :=
  h.setCell.setStage.foldl fun h => h.asyncRecord

theorem Inv.scanTurn {id : Nat} {grp : Fin 8} {round : Word} {q : ScanQ} {n : Nat} {o : ScanOut} (h : Inv mem tab s) :
    Inv mem tab (scanTurn s id grp round q n o) := by
  unfold Machine.scanTurn
  dsimp only
  split
  · exact .ite h.scanPerform h
  · exact .ite h.scanPerform h.setCell

theorem Inv.ownPrefixes {n : Nat} (h : Inv mem tab s) : Lands mem tab (ownPrefixes n s) := by
  refine .next (h.foldl fun h => h.foldl fun h => ?_)
  split
  · exact .ite h.scanPerform h
  · exact h

theorem Inv.scanDiscard {id n : Nat} {l : List Carry} (h : Inv mem tab s) : Inv mem tab (scanDiscard s id n l) := h.setStage.routerRecord

theorem Inv.execScanCombine {id : Nat} {grp : Fin 8} {round : Word} {q : ScanQ} (h : Inv mem tab s) :
    Lands mem tab (execScanCombine id grp round q s) := by
  unfold Machine.execScanCombine
  refine .ite (.next h) ?_
  split
  · exact .next h.scanTurn
  · split
    · exact .next h.scanTurn
    · split
      · exact .next h.scanDiscard
      · exact .next h

/-! ## The slice, its merge windows and its lines -/

theorem Inv.sliceWrite {cell o n v : Nat} (h : Inv mem tab s) : Inv mem tab (s.sliceWrite cell o n v) := by
  induction n generalizing s o v with
  | zero => exact h
  | succ k ih => exact ih (h.withFirn fun hf => Mem.wf_write hf _ _)

theorem Inv.join {cell line : Nat} {write : Bool} {user : PortUser} {data : BitVec 256} (h : Inv mem tab s) :
    Inv mem tab (State.join s cell line write user data) := by
  unfold State.join
  dsimp only
  split
  · exact h.frame
  · exact h.frame

theorem Inv.askPort {n : Nat} (h : Inv mem tab s) : Inv mem tab (askPort s n) := (h.setCell.foldl fun h => h.join).foldl fun h => h.join

theorem Inv.closeOne {line : Nat} {write : Bool} {w : Nat × Nat × PortUser × BitVec 256} (h : Inv mem tab s) :
    Inv mem tab (closeOne line write s w) := by
  unfold Machine.closeOne
  dsimp only
  split
  · exact .ite h.setCell.sliceWrite h.setCell
  · exact h.setCell

theorem Inv.portAsk {n : Nat} {u : PortUser} {ls : List Nat} {write : Bool} (h : Inv mem tab s) :
    Inv mem tab (State.portAsk s n u ls write) :=
  h.setCell.foldl fun h => h.join

theorem Inv.portDrop {n : Nat} {p : PortUser → Nat → Bool} (h : Inv mem tab s) : Inv mem tab (State.portDrop s n p) := h.setCell.frame

theorem Inv.portDone {n : Nat} {u : PortUser} (h : Inv mem tab s) : Inv mem tab (State.portDone s n u) := h.portDrop

theorem Inv.lineDone {n : Nat} {u : PortUser} {l : Nat} (h : Inv mem tab s) : Inv mem tab (State.lineDone s n u l) := h.portDrop

theorem Inv.execMergeWindowClose {i : Nat} (h : Inv mem tab s) : Lands mem tab (execMergeWindowClose i s) := by
  unfold Machine.execMergeWindowClose
  split
  · exact .next h
  · exact .ite (.next (h.frame.foldl fun h => h.closeOne)) (.next h)

theorem Inv.writeBack {n : Nat} {e : Line} (h : Inv mem tab s) : Inv mem tab (State.writeBack s n e) := h.setCell

theorem Inv.install {n : Nat} {e : Line} (h : Inv mem tab s) : Inv mem tab (State.install s n e) := by
  unfold State.install
  refine .ite h.setCell ?_
  split
  · exact h.setCell
  · exact .ite h.setCell.writeBack h.setCell

theorem Inv.startFills {n : Nat} {l : List (Nat × FillUse)} (h : Inv mem tab s) : Inv mem tab (State.startFills s n l) := h.setCell

theorem Inv.sliceAccess {n : Nat} {a : Access} {held : Bool} {t : State} (h : Inv mem tab s) (e : sliceAccess s n a held = some t) :
    Inv mem tab t := by
  revert e
  fun_cases Machine.sliceAccess s n a held
  · exact nofun
  · rintro ⟨⟩; exact h.setCell
  · exact nofun
  · rintro ⟨⟩; exact h.startFills
  · rintro ⟨⟩; exact h.setCell.startFills

theorem Inv.accessEff {a : Access} (h : Inv mem tab s) : Does mem tab (accessEff a s) := by
  unfold Machine.accessEff
  refine .ite .fault (.ite .fault (.ite (.ite (.done h.setCur) ?_) ?_))
  · split
    · exact .fault
    · exact .done h.setCur
  · split
    · exact .done (h.sliceAccess ‹_›)
    · exact .done h.setCell

theorem Inv.loadOp {size : Nat} {signed : Bool} {c : Cue} {d : Dst} {a : Src} {off : Int} {p : PAct} (h : Inv mem tab s) :
    Lands mem tab (loadOp size signed c d a off p s) :=
  h.fire h.accessEff

theorem Inv.storeOp {size : Nat} {c : Cue} {d a : Src} {off : Int} (h : Inv mem tab s) : Lands mem tab (storeOp size c d a off s) :=
  h.fire h.accessEff

theorem Inv.execSliceAccessResume {n : Nat} (h : Inv mem tab s) : Lands mem tab (execSliceAccessResume n s) := by
  unfold Machine.execSliceAccessResume
  dsimp only
  split
  · split
    · exact .next (h.sliceAccess ‹_›).setCell
    · exact .next h
  · exact .next h

theorem Inv.fillFault {n : Nat} {a : Access} (h : Inv mem tab s) : Inv mem tab (fillFault s n a) :=
  .ite h.asyncRecord (.ite h.setCell h.setCell.logFault)

theorem Inv.fillDone {n : Nat} {f : Fill} (h : Inv mem tab s) : Inv mem tab (fillDone s n f) := by
  unfold Machine.fillDone
  dsimp only
  split
  · exact h.setCell.install
  · exact .ite h.setCell.fillFault h.setCell.install.setCell
  · exact .ite h.setCell.fillFault h.setCell.install

theorem Inv.execLineFillComplete {n line : Nat} (h : Inv mem tab s) : Lands mem tab (execLineFillComplete n line s) := by
  unfold Machine.execLineFillComplete
  split
  · split
    · exact .ite (.next h.fillDone) (.next h)
    · exact .next h
  · exact .next h

theorem Inv.execFenceL {c : Cue} (h : Inv mem tab s) : Lands mem tab (execFenceL c s) := h.fire (.ite (.done h.setCur) (.done h.setCur))

theorem Inv.fenceIssue {n : Nat} (h : Inv mem tab s) : Inv mem tab (fenceIssue s n) := by
  unfold Machine.fenceIssue
  refine .ite h ?_
  split
  · exact h
  · exact h.setCell.writeBack

theorem Inv.execFenceLComplete {n : Nat} (h : Inv mem tab s) : Lands mem tab (execFenceLComplete n s) := .ite (.next h.setCell) (.next h)

end Sys2Proof.Invariant
end

section
/-! # Vectors, generators and the mesh (O60) -/

namespace Sys2Proof.Invariant

open Sys2Proof.Machine Sys2Proof.Safety

-- `fun_cases` starts more threads than the check's memory limit allows when proofs are elaborated side by side.
set_option Elab.async false

variable {mem tab : Prop} {s : State}

/-! ## Functions that answer beside the state -/

/-- A result beside which a state is left that keeps the invariants. -/
def Beside {α : Type} (mem tab : Prop) (p : α × State) : Prop := Inv mem tab p.2

theorem Beside.mk {α : Type} {a : α} (h : Inv mem tab s) : Beside mem tab (a, s) := h

/-- A beat's answer: the state in what it did, if it is done, and the state in which it waits keep the invariants. -/
def Beats {α β : Type} (mem tab : Prop) (after : α → State) (wait : β → State) (p : Option α × β) : Prop :=
  (∀ a, p.1 = some a → Inv mem tab (after a)) ∧ Inv mem tab (wait p.2)

theorem Beats.done {α β : Type} {after : α → State} {wait : β → State} {a : α} {b : β} (h : Inv mem tab (after a))
    (k : Inv mem tab (wait b)) : Beats mem tab after wait (some a, b) :=
  ⟨fun _ e => Option.some.inj e ▸ h, k⟩

theorem Beats.wait {α β : Type} {after : α → State} {wait : β → State} {b : β} (h : Inv mem tab (wait b)) :
    Beats mem tab after wait (none, b) :=
  ⟨fun _ e => (Option.some_ne_none _ e.symm).elim, h⟩

/-! ## Vector instructions and special functions -/

theorem Inv.beatFill {n t : Nat} (h : Inv mem tab s) : Beside mem tab (beatFill s n t) := by
  fun_cases Machine.beatFill s n t
  · exact .mk h
  · exact .mk h.startFills
  · exact .mk h

theorem Inv.vldBeat {n slot t : Nat} {ctx : Fin 4} (h : Inv mem tab s) : Beats mem tab Prod.snd Prod.fst (vldBeat s n ctx slot t) := by
  fun_cases Machine.vldBeat s n ctx slot t
  case case3 q => exact .wait (show Beside mem tab (_, _) from q ▸ h.beatFill)
  · exact .done h.setCell.asyncRecord h.setCell
  · exact .done h.setCell h.setCell
  · exact .done h.setCell.asyncRecord h.setCell
  · exact .done h.setCell h.setCell

theorem Inv.vstBeat {n slot t : Nat} {ctx : Fin 4} {v : VWord} (h : Inv mem tab s) :
    Beats mem tab id Prod.fst (vstBeat s n ctx slot t v) := by
  fun_cases Machine.vstBeat s n ctx slot t v
  case case2 q => exact .wait (show Beside mem tab (_, _) from q ▸ h.beatFill)
  · exact .done h.setCell h
  · exact .done h.setCell.asyncRecord h
  · exact .done h.setCell h

theorem Inv.beatWork {n : Nat} {r : BeatRun} {a b e : SEnt} (h : Inv mem tab s) :
    Beats mem tab BeatDone.s id (beatWork s n r a b e) := by
  have hl := h.vldBeat (n := n) (ctx := r.ctx) (slot := r.slot) (t := beatAddr r.xs r.done)
  have hs := h.vstBeat (n := n) (ctx := r.ctx) (slot := r.slot) (t := beatAddr r.xs r.done) (v := a.data)
  fun_cases Machine.beatWork s n r a b e
  case case5 q => rw [q] at hl; exact .done (hl.1 _ rfl) h
  case case6 q => rw [q] at hl; exact .wait hl.2
  case case7 q => rw [q] at hs; exact .done (hs.1 _ rfl) h
  case case8 q => rw [q] at hs; exact .wait hs.2
  · exact .done h h
  · exact .done h.setCell h
  · exact .done h h
  · exact .done h h

theorem Inv.beatsEnd {n : Nat} {r : BeatRun} {o : BeatDone} (h : Inv mem tab s) : Inv mem tab (beatsEnd s n r o) := by
  unfold Machine.beatsEnd
  dsimp only
  split <;> exact h.setCell

theorem Inv.beatCycle {n : Nat} {r : BeatRun} (h : Inv mem tab s) : Inv mem tab (beatCycle s n r) := by
  have hw (a b e : SEnt) := h.beatWork (n := n) (r := r) (a := a) (b := b) (e := e)
  fun_cases Machine.beatCycle s n r
  case case3 a b e _ _ _ _ u q =>
    have hu : Inv mem tab u := (q ▸ hw a b e : Beats mem tab _ _ (_, _)).2
    exact hu.setCell
  case case4 a b e _ _ _ _ o _ q _ _ _ _ _ =>
    have ho : Inv mem tab o.s := (q ▸ hw a b e : Beats mem tab _ _ (_, _)).1 _ rfl
    exact ho.setCell.setCell
  case case5 a b e _ _ _ _ o _ q _ _ _ _ _ =>
    have ho : Inv mem tab o.s := (q ▸ hw a b e : Beats mem tab _ _ (_, _)).1 _ rfl
    exact ho.setCell.beatsEnd.setCell
  all_goals exact h.setCell

theorem Inv.execVectorBeat {n : Nat} (h : Inv mem tab s) : Lands mem tab (execVectorBeat n s) := by
  unfold Machine.execVectorBeat
  split
  · exact .next h.beatCycle
  · exact .next h

theorem Inv.vecFire {op : VOp} {hd : VHead} {d : VDst} {a : Option VSrc} {b : Option VSrc} {e : Option VSrc} {xs : Fin 16}
    (h : Inv mem tab s) :
    Lands mem tab (vecFire op hd d a b e xs s) :=
  h.fire (.done h.beatCycle)

theorem Inv.execVld {hd : VHead} {d : VDst} {xs : Fin 16} (h : Inv mem tab s) : Lands mem tab (execVld hd d xs s) := by
  refine h.fire ?_
  dsimp only
  split
  · exact .fault
  · exact .done h.beatCycle

theorem Inv.execVst {hd : VHead} {a : VSrc} {xs : Fin 16} (h : Inv mem tab s) : Lands mem tab (execVst hd a xs s) := by
  refine h.fire ?_
  dsimp only
  split
  · exact .fault
  · exact .done h.beatCycle

theorem Inv.execScLocal {c : Cue} {op : ScanOp} {cont : Bool} {a : VSrc} {d : VDst} {nb : Fin 64} {p : PAct} (h : Inv mem tab s) :
    Lands mem tab (execScLocal c op cont a d nb p s) :=
  h.fire (.done h.beatCycle)

theorem Inv.execScApply {c : Cue} {op : ScanOp} {scan : Bool} {a : Fin 8} {d : VDst} {nb : Fin 64} {p : PAct} (h : Inv mem tab s) :
    Lands mem tab (execScApply c op scan a d nb p s) :=
  h.fire (.done h.beatCycle)

theorem Inv.sfFire {fn : SfFn} {hd : VHead} {d : VDst} {a : VSrc} (h : Inv mem tab s) : Lands mem tab (sfFire fn hd d a s) :=
  h.fire (.done h.setCur.beatCycle)

theorem Inv.execSfServiceStart {n : Nat} (h : Inv mem tab s) : Lands mem tab (execSfServiceStart n s) := by
  unfold Machine.execSfServiceStart
  dsimp only
  split
  · exact .next h
  · split
    · exact .ite (.next h.setCell) (.next h)
    · exact .next h

theorem Inv.execSfResultWrite {n : Nat} (h : Inv mem tab s) : Lands mem tab (execSfResultWrite n s) := by
  unfold Machine.execSfResultWrite
  dsimp only
  split
  · exact .next h
  · refine .ite (.next h) ?_
    split
    · exact .next h.setCell
    · exact .ite (.next h) (.ite (.next h.setCell) (.next h.setCell))

/-! ## Stream generators and rings -/

theorem Inv.sgSet {c : Cue} {g : Fin 4} {srcs : List Src} {p : PAct} {opnd : State → Word} {f : State → Gen → Gen} (h : Inv mem tab s) :
    Lands mem tab (sgSet c g srcs p opnd f s) :=
  h.fire (.ite .fault h.onCell)

theorem Inv.execSgGo {c : Cue} {g : Fin 4} {p : PAct} (h : Inv mem tab s) : Lands mem tab (execSgGo c g p s) :=
  h.fire (.ite .fault (.ite .fault h.onCell))

theorem Inv.stat0 {c : Cue} {d : Dst} {p : PAct} {f : State → Word} (h : Inv mem tab s) : Lands mem tab (stat0 c d p f s) :=
  h.fire h.result

theorem Inv.gSet {c : Cue} {g : Fin 8} {a : Src} {mesh : Word → Bool} {f : Ring → Word → Ring} {p : PAct} (h : Inv mem tab s) :
    Lands mem tab (gSet c g a mesh f p s) :=
  h.fire (.ite .fault (.ite .fault (.ite h.onCell .fault)))

theorem Inv.execGAdvPush {c : Cue} {g : Fin 8} {p : PAct} (h : Inv mem tab s) : Lands mem tab (execGAdvPush c g p s) :=
  h.fire (.ite h.onCell .fault)

theorem Inv.sgFault {n : Nat} {g : Fin 4} {cls code : Nat} (h : Inv mem tab s) : Inv mem tab (sgFault s n g cls code) :=
  h.setCell.asyncRecord

theorem Inv.engineEcc {n : Nat} {ctx : Fin 4} {slot unit : Nat} {w : Option Nat} (h : Inv mem tab s) :
    Inv mem tab (engineEcc s n ctx slot unit w) := by
  unfold Machine.engineEcc
  split
  · exact h.asyncRecord
  · exact h

theorem Inv.engineWrite {n a v : Nat} (h : Inv mem tab s) : Inv mem tab (engineWrite s n a v) := .ite h.setCell h.setCell.sliceWrite

theorem Inv.sgMove {n : Nat} {g : Fin 4} (h : Inv mem tab s) : Inv mem tab (sgMove s n g) := by
  unfold Machine.sgMove
  refine .ite (.ite h.sgFault h.setCell.engineEcc.active) (.ite ?_ ?_)
  · exact h.engineWrite.setCell.engineEcc.active
  · exact h.engineWrite.setCell.active

theorem Inv.execSgTransfer {n : Nat} {g : Fin 4} (h : Inv mem tab s) : Lands mem tab (execSgTransfer n g s) := by
  unfold Machine.execSgTransfer
  exact .ite (.next h) (.ite (.next h.sgFault) (.ite (.next h.sgFault) (.ite (.next h) (.ite (.next h.sgMove)
    (.ite (.next h.portAsk) (.ite (.next h.portDone.sgMove) (.next h)))))))

theorem Inv.sgSettle {n : Nat} {g : Fin 4} (h : Inv mem tab s) : Inv mem tab (sgSettle s n g) :=
  .ite (.ite h.portDone.sgMove h.portDone) h

theorem Inv.execSgHalt {c : Cue} {g : Fin 4} {p : PAct} (h : Inv mem tab s) : Lands mem tab (execSgHalt c g p s) :=
  h.fire h.sgSettle.onCell

/-! ## The mesh -/

theorem Inv.throttle {key : Nat} (h : Inv mem tab s) : Inv mem tab (State.throttle s key) := .ite h h.frame

theorem Inv.noteSent {st : Nat} {p : Nat × Nat} (h : Inv mem tab s) : Inv mem tab (State.noteSent s st p) := h.frame

theorem Inv.putItem {st src dest : Nat} {w : CtrlWhat} (h : Inv mem tab s) : Inv mem tab (State.putItem s st src dest w) :=
  (Inv.ite h h.noteSent).frame

theorem Inv.turned {f : Flit} {out : Option Dir} (h : Inv mem tab s) : Inv mem tab (State.turned s f out) := h.frame

theorem Inv.moveFlit {ref : FlitRef} {d : Dir} (h : Inv mem tab s) : Inv mem tab (State.moveFlit s ref d) := by
  unfold State.moveFlit
  dsimp only
  split
  · exact h.frame
  · exact h.frame
  · exact h.frame
  · exact h.frame
  · exact h.setCell
  · exact h.setCell

theorem Inv.dropFlit {ref : FlitRef} (h : Inv mem tab s) : Inv mem tab (State.dropFlit s ref) := by
  unfold State.dropFlit
  split
  · exact h.frame
  · exact h.frame
  · exact h.setCell
  · exact h

/-! ## Scalar arithmetic -/

theorem Inv.int2 {c : Cue} {d : Dst} {a b : Src} {p : PAct} {f : Word → Word → Word} (h : Inv mem tab s) :
    Lands mem tab (int2 c d a b p f s) :=
  h.fire h.result

theorem Inv.int1 {c : Cue} {d : Dst} {a : Src} {p : PAct} {f : Word → Word} (h : Inv mem tab s) : Lands mem tab (int1 c d a p f s) :=
  h.fire h.result

theorem Inv.divStart {signed remainder : Bool} {c : Cue} {d : Dst} {a b : Src} {p : PAct} (h : Inv mem tab s) :
    Lands mem tab (divStart signed remainder c d a b p s) :=
  h.fire (.done h.setCur)

theorem Inv.execDivideResult {n : Nat} (h : Inv mem tab s) : Lands mem tab (execDivideResult n s) := by
  unfold Machine.execDivideResult
  dsimp only
  split
  · exact .next h
  · exact .ite (.next h) (.next h.setCell)

/-! ## Requests leave a cell -/

theorem Inv.issue {r : Req} (h : Inv mem tab s) : Inv mem tab (State.issue s r) := h.setCell.frame

theorem Inv.arrive {n : Nat} {g : Fin 16} (h : Inv mem tab s) : Inv mem tab (State.arrive s n g) := h.setCell.putItem

theorem Inv.issueStation {n : Nat} {k : Fin 4} {i : Station} {ordered : Bool} (h : Inv mem tab s) :
    Inv mem tab (State.issueStation s n k i ordered) := by
  unfold State.issueStation
  split
  · exact h.issue
  · exact h.putItem
  · exact h.arrive

theorem Inv.release {n : Nat} {k : Fin 4} {i : Station} (h : Inv mem tab s) : Inv mem tab (State.release s n k i) :=
  .ite h.issueStation h.setCell

theorem Inv.stationIssue {n : Nat} {k : Fin 4} {ordered : Bool} (h : Inv mem tab s) : Inv mem tab (stationIssue s n k ordered) := by
  unfold Machine.stationIssue
  dsimp only
  split
  · exact .ite h.setCell.issueStation h
  · exact h

theorem Inv.reqFire {c : Cue} {srcs : List Src} {ok : State → Bool} {rel : Bool} {wr : Fin 4} {off : BitVec 12} {scale : Nat}
    {kind : State → ReqKind} {f : State → Context → Context} {p : PAct} (h : Inv mem tab s) :
    Lands mem tab (reqFire c srcs ok rel wr off scale kind f p s) :=
  h.fire (.ite .fault (.done (.ite h.setCur.release h.setCur.issue)))

theorem Inv.execMark {c : Cue} {a : Src} {p : PAct} (h : Inv mem tab s) : Lands mem tab (execMark c a p s) :=
  h.fire (.done h.setCur.release)

end Sys2Proof.Invariant
end

section
/-! # Requests, their walks, homes and answers (O60) -/

namespace Sys2Proof.Invariant

open Sys2Proof.Machine Sys2Proof.Safety

-- `fun_cases` starts more threads than the check's memory limit allows when proofs are elaborated side by side.
set_option Elab.async false

variable {mem tab : Prop} {s : State}

/-! ## Walks -/

theorem Inv.serve {strip cls who : Nat} (h : Inv mem tab s) : Inv mem tab (State.serve s strip cls who) := h.frame

theorem Inv.translate {field stage off : Nat} {guest root : Option Nat} (h : Inv mem tab s) :
    Beside mem tab (translate s field stage guest root off) := by
  have hs (l : List Nat) (f : Nat → Nat) (w : Nat) : Inv mem tab (l.foldl (fun s k => s.serve (f k) 1 w) s) := h.foldl fun h => h.serve
  fun_cases Machine.translate s field stage guest root off
  · exact .mk h
  · exact .mk (hs _ _ _).frame
  · exact .mk (hs _ _ _)

theorem Inv.pageOf {k : ReqKind} {field stage off : Nat} {guest root : Option Nat} (h : Inv mem tab s) :
    Beside mem tab (pageOf s k field stage guest root off) := by
  have hp {w : Walk} {t : State} (q : Machine.translate s field stage guest root off = (w, t)) : Inv mem tab t :=
    (q ▸ h.translate : Beside mem tab (w, t))
  fun_cases Machine.pageOf s k field stage guest root off
  all_goals exact .mk (hp ‹_›)

theorem Inv.send {m : EdgeMsg} (h : Inv mem tab s) : Inv mem tab (State.send s m) := .ite h.frame h.frame

theorem Inv.sendWaiting (h : Inv mem tab s) : Inv mem tab (State.sendWaiting s) := h.frame.foldl fun h => h.send

theorem Inv.sendRequest {m port : Nat} {r : Req} (h : Inv mem tab s) : Beside mem tab (s.sendRequest m port r) := .mk h.frame.send

theorem Inv.answerAt {n : Nat} {r : Req} {res : AckRes} (h : Inv mem tab s) : Inv mem tab (State.answerAt s n r res) := h.frame

theorem Inv.answer {r : Req} {res : AckRes} (h : Inv mem tab s) : Inv mem tab (State.answer s r res) := by
  fun_cases State.answer s r res
  · exact h.send
  · exact h.answerAt

theorem Inv.answerFrom {st : Nat} {r : Req} {res : AckRes} (h : Inv mem tab s) : Inv mem tab (State.answerFrom s st r res) := h.answerAt

theorem Inv.windowWrite {w byte v : Nat} (h : Inv mem tab s) : Beside mem tab (windowWrite s w byte v) := by
  fun_cases Machine.windowWrite s w byte v
  · exact .mk h
  · exact .mk h
  · exact .mk h.post

/-- A fold that carries a result beside the state. -/
theorem Beside.foldl {α β : Type} {f : β × State → α → β × State} {l : List α} {p : β × State} (h : Beside mem tab p)
    (hf : ∀ {q a}, Beside mem tab q → Beside mem tab (f q a)) : Beside mem tab (l.foldl f p) := by
  induction l generalizing p with
  | nil => exact h
  | cons a r ih => exact ih (hf h)

theorem Inv.guestWindow {r : Req} {d : BitVec 256} {w byte : Nat} (h : Inv mem tab s) : Inv mem tab (guestWindow s r d w byte) := by
  unfold Machine.guestWindow
  refine Inv.answer (Beside.foldl (.mk h) fun {q _} k => ?_)
  split
  · exact k
  · exact Inv.windowWrite k

theorem Inv.settlePage {r : Req} {path : List Nat} {p : Page} (h : Inv mem tab s) : Lands mem tab (settlePage s r path p) := by
  fun_cases Machine.settlePage s r path p
  · exact .next h.answer
  · exact .next h.guestWindow
  · exact .next h.answer
  · exact .next h.frame
  · exact .fault

theorem Inv.noteWatch {r : Req} {m id : Nat} (h : Inv mem tab s) : Inv mem tab (noteWatch s r m id) := by
  fun_cases Machine.noteWatch s r m id
  · exact h.setCell
  · exact h

theorem Inv.setOut {i : Nat} {r : Req} (h : Inv mem tab s) : Inv mem tab (setOut s i r) := .ite h.frame.answer h.frame

theorem Inv.departs {i : Nat} {r : Req} (h : Inv mem tab s) : Inv mem tab (departs s i r) := by
  fun_cases Machine.departs s i r
  · exact h.turned.frame.answerAt
  · exact Inv.noteWatch (Inv.frame h.turned.sendRequest)
  · exact h

theorem Inv.walkOwn {i : Nat} (h : Inv mem tab s) : Lands mem tab (walkOwn i s) := by
  fun_cases Machine.walkOwn i s
  · exact .next h
  · exact .next h.departs
  · exact .next h
  · exact .next h.setOut
  · exact .next h
  · exact Inv.settlePage h.frame.pageOf

theorem Inv.walkGuest {i : Nat} (h : Inv mem tab s) : Lands mem tab (walkGuest i s) := by
  fun_cases Machine.walkGuest i s
  · exact .next h.frame.answer
  · exact .next h
  · exact Inv.settlePage h.frame.pageOf
  · exact .next h

theorem Inv.relayOut {i : Nat} (h : Inv mem tab s) : Lands mem tab (relayOut i s) := by
  fun_cases Machine.relayOut i s
  · exact .next h.frame.send
  · exact .next h
  · exact .next h.frame.send
  · exact h.walkGuest

theorem Inv.execTranslationWalk {r : ReqRef} (h : Inv mem tab s) : Lands mem tab (execTranslationWalk r s) := by
  cases r with
  | own i => exact h.walkOwn
  | guest i => exact h.relayOut

theorem Inv.execSuuAccept {i : Nat} (h : Inv mem tab s) : Lands mem tab (execSuuAccept i s) := by
  fun_cases Machine.execSuuAccept i s
  · exact .next (Inv.ite h.turned.serve.serve h.turned.serve).frame
  · exact .next h
  · exact .next h

/-! ## Homes -/

theorem Inv.wakeCell {st n : Nat} {k : Fin 4} {code : Nat} (h : Inv mem tab s) : Inv mem tab (State.wakeCell s st n k code) := by
  unfold State.wakeCell
  exact .ite h.setStage h.setCell

theorem Inv.wakeWatch {w : Watch} {code : Nat} (h : Inv mem tab s) : Inv mem tab (State.wakeWatch s w code) := by
  fun_cases State.wakeWatch s w code
  · exact h.send
  · exact h.wakeCell

theorem Inv.wakes {a n code : Nat} (h : Inv mem tab s) : Inv mem tab (State.wakes s a n code) := h.frame.foldl fun h => h.wakeWatch

theorem Inv.homeWrite {a n v : Nat} (h : Inv mem tab s) : Inv mem tab (State.homeWrite s a n v) :=
  (h.withFirn fun hf => Mem.wf_writeN hf _ _ _).wakes

theorem Inv.evict {r : Req} {st : Nat} (h : Inv mem tab s) : Inv mem tab (evict s r st) := by
  have out (p : Watch → Bool) : Inv mem tab (match s.watches.findIdx? p with
      | some i =>
        match s.watches[i]? with
        | some w => ({ s with watches := s.watches.eraseIdx i } : State).wakeWatch w 1
        | none => s
      | none => s) := by
    split
    · split
      · exact h.frame.wakeWatch
      · exact h
    · exact h
  exact .ite (out _) (.ite (out _) h)

theorem Inv.mendLine {key : Nat} (h : Inv mem tab s) : Inv mem tab (State.mendLine s key) := h.frame

/-- What a request leaves at its home; the state stands before its answer. -/
theorem Inv.applyAt {r : Req} {st key : Nat} (h : Inv mem tab s) : Inv mem tab (applyAt s r st key).1 := by
  fun_cases Machine.applyAt s r st key
  · exact h.homeWrite
  · exact h.homeWrite
  · exact h.homeWrite
  · exact .ite h.homeWrite h
  · exact .ite h.homeWrite h
  · exact h.homeWrite
  · exact h
  · exact h.evict.frame
  · exact h.wakeWatch
  · exact h.wakes
  · exact h
  · exact h.mendLine.homeWrite

theorem Inv.applyWord {i : Nat} {r : Req} {st key : Nat} (h : Inv mem tab s) : Inv mem tab (applyWord i s r st key) := by
  fun_cases Machine.applyWord i s r st key
  · exact h.homeWrite.frame.mendLine.answerFrom
  · exact h.homeWrite.frame
  · exact h.frame.answerFrom
  · exact h.frame

theorem Inv.applyHalf {i : Nat} {half : Bool} {r : Req} {d : VWord} {st key : Nat} (h : Inv mem tab s) :
    Inv mem tab (applyHalf i half s r d st key) := by
  fun_cases Machine.applyHalf i half s r d st key
  · exact h
  · exact h.mendLine.homeWrite.frame.answerFrom
  · exact h.mendLine.homeWrite.frame

theorem Inv.execSuuApply {i : Nat} {half : Bool} (h : Inv mem tab s) : Lands mem tab (execSuuApply i half s) := by
  unfold Machine.execSuuApply
  split
  · exact .next h
  · next r _ =>
    split
    · refine .ite (.next h) (.ite (.next h.frame.answerFrom) ?_)
      cases r.kind with
      | store64 d => exact .next (Inv.ite h.active h).applyHalf
      | getBlock | putBlock d => exact .next h.applyWord
      | _ => exact .next (Inv.applyAt (.ite h.frame.active h.frame)).answerFrom
    · exact .next h

/-! ## Answers -/

theorem Inv.failAmo {r : Req} {t : Context} {f : FaultInfo} (h : Inv mem tab s) : Inv mem tab (failAmo s r t f) :=
  .ite h.setCell.logFault h.setCell

theorem Inv.amoDone {r : Req} {dbl acq : Bool} {d : Fin 8} {p : PAct} {res : AckRes} (h : Inv mem tab s) :
    Inv mem tab (amoDone s r dbl acq d p res) := by
  fun_cases Machine.amoDone s r dbl acq d p res
  · exact h.failAmo
  · exact h.setCell
  · exact h.setCell

theorem Inv.cancelWatch {st n : Nat} {k : Fin 4} {id : Option (Nat × Nat)} (h : Inv mem tab s) :
    Inv mem tab (cancelWatch s st n k id) := by
  fun_cases Machine.cancelWatch s st n k id
  · exact h.frame.send
  · exact h.frame

theorem Inv.ackDone {r : Req} {res : AckRes} (h : Inv mem tab s) : Inv mem tab (ackDone s r res) := by
  fun_cases Machine.ackDone s r res
  · exact h.setCell.asyncRecord.cancelWatch.wakeCell
  · exact h.setCell.asyncRecord
  · exact h.setCell.asyncRecord
  · exact h.setCell

theorem Inv.dropInbox {i : Nat} (h : Inv mem tab s) : Inv mem tab (State.dropInbox s i) := h.frame

theorem Inv.lostAnswer {i : Nat} (h : Inv mem tab s) : Inv mem tab (lostAnswer s i) := by
  fun_cases Machine.lostAnswer s i
  · exact h
  · exact h.dropInbox
  · exact h

theorem Inv.remoteWake {peer id code : Nat} (h : Inv mem tab s) : Inv mem tab (remoteWake s peer id code) := by
  unfold Machine.remoteWake
  dsimp only
  split
  · split
    · exact h.wakeCell
    · exact h
  · split
    · split
      · split
        · exact h.wakeCell
        · exact h
      · exact h
    · exact h

theorem Inv.remoteCancel {peer id : Nat} (h : Inv mem tab s) : Inv mem tab (remoteCancel s peer id) := h.frame

theorem Inv.answerIn {i j : Nat} {r : Req} {res : AckRes} (h : Inv mem tab s) : Inv mem tab (answerIn s i j r res) :=
  h.dropInbox.frame.active.answerAt

theorem Inv.wakeCutOff (h : Inv mem tab s) : Inv mem tab (wakeCutOff s) := h.foldl fun h => h.wakeCell

theorem Inv.tellUnreached (h : Inv mem tab s) : Inv mem tab (tellUnreached s) := h.send

theorem Inv.peerUnreached {peer : Nat} {l : List Nat} (h : Inv mem tab s) : Inv mem tab (peerUnreached s peer l) := by
  unfold Machine.peerUnreached
  exact .ite h.frame (Inv.frame h).tellUnreached.wakeCutOff

theorem Inv.ackGuest {i : Nat} (h : Inv mem tab s) : Inv mem tab (ackGuest i s) := by
  fun_cases Machine.ackGuest i s
  · exact h.dropInbox.remoteWake
  · exact h.dropInbox.remoteCancel
  · exact h.dropInbox.peerUnreached
  · exact h.dropInbox.frame.send
  · exact h
  · exact h.answerIn
  · exact h.lostAnswer

theorem Inv.takeAck {i : Nat} {amo : Bool} {f : State → Req → AckRes → State} (h : Inv mem tab s)
    (hf : ∀ {t r a}, Inv mem tab t → Inv mem tab (f t r a)) : Inv mem tab (takeAck i s amo f) := by
  fun_cases Machine.takeAck i s amo f
  · exact h
  · exact h.turned.frame.send
  · exact h
  · exact hf h.turned.frame
  · exact h.turned.frame.routerRecord
  · exact h

theorem Inv.execAckReceive {r : ReqRef} (h : Inv mem tab s) : Lands mem tab (execAckReceive r s) := by
  cases r with
  | own i => exact .next (h.takeAck fun h => h.ackDone)
  | guest i => exact .next h.ackGuest

theorem Inv.respond {r : Req} {res : AckRes} (h : Inv mem tab s) : Inv mem tab (respond s r res) := by
  fun_cases Machine.respond s r res
  · exact h.amoDone
  · exact h

theorem Inv.execResponseReceive {r : ReqRef} (h : Inv mem tab s) : Lands mem tab (execResponseReceive r s) := by
  fun_cases Machine.execResponseReceive r s
  · exact .next h.answerIn
  · exact .next h
  · exact .next h
  · exact .next (h.takeAck fun h => h.respond)

theorem Inv.savedTimeout {n : Nat} {k : Fin 4} {e : Nat × Stage} (h : Inv mem tab s) : Inv mem tab (savedTimeout n k s e) := by
  fun_cases Machine.savedTimeout n k s e
  · exact h.cancelWatch.wakeCell
  · exact h
  · exact h
  · exact h

theorem Inv.execWaitaTimeout {n : Nat} {k : Fin 4} (h : Inv mem tab s) : Lands mem tab (execWaitaTimeout n k s) := by
  have h1 : Inv mem tab (s.stages.foldl (Machine.savedTimeout n k) s) := h.foldl fun h => h.savedTimeout
  fun_cases Machine.execWaitaTimeout n k s
  · exact .next h1.cancelWatch.wakeCell
  · exact .next h1
  · exact .next h1

end Sys2Proof.Invariant
end

section
/-! # Copies, barriers, phases, slots and deliveries (O60) -/

namespace Sys2Proof.Invariant

open Sys2Proof.Machine Sys2Proof.Safety

-- `fun_cases` starts more threads than the check's memory limit allows when proofs are elaborated side by side.
set_option Elab.async false

variable {mem tab : Prop} {s : State}

/-! ## Copies -/

theorem Inv.armEff {ct : Fin 16} {t : Template} {opnd : Word} {p : PAct} (h : Inv mem tab s) : Does mem tab (armEff ct t opnd p s) :=
  .ite .fault (.ite .fault h.onCell)

theorem Inv.cpFire {c : Cue} {ct : Fin 16} {count : Nat → Nat} {p : PAct} (h : Inv mem tab s) : Lands mem tab (cpFire c ct count p s) :=
  h.fire (.ite .fault h.onCell)

theorem Inv.direct {put : Bool} {c : Cue} {a b : Src} {wr : Fin 4} {len : BitVec 14} {notify : Bool} {p : PAct} (h : Inv mem tab s) :
    Lands mem tab (direct put c a b wr len notify p s) :=
  h.fire (.ite .fault (.ite .fault (.ite .fault h.onCell)))

theorem Inv.execCopyStart {n : Nat} (h : Inv mem tab s) : Lands mem tab (execCopyStart n s) := by
  fun_cases Machine.execCopyStart n s
  · exact .next h.setCell
  · exact .next h

theorem Inv.setCopy {n : Nat} {k : Fin 2} {x : Copy} (h : Inv mem tab s) : Inv mem tab (State.setCopy s n k x) := h.setCell

theorem Inv.privAsk {n : Nat} {k : Fin 2} {a : Nat} {write : Bool} (h : Inv mem tab s) : Inv mem tab (privAsk s n k a write) :=
  .ite h h.portAsk

theorem Inv.privWrite {n a v : Nat} (h : Inv mem tab s) : Inv mem tab (privWrite s n a v) := .ite h.setCell h.sliceWrite

theorem Inv.privDone {n : Nat} {k : Fin 2} {a : Nat} {write : Bool} (h : Inv mem tab s) : Inv mem tab (privDone s n k a write) :=
  .ite h (.ite h.lineDone.setCell h.lineDone)

theorem Inv.blockOpen {n : Nat} {k : Fin 2} {x : Copy} {b : Nat} (h : Inv mem tab s) : Lands mem tab (blockOpen s n k x b) := by
  fun_cases Machine.blockOpen s n k x b
  · exact .next h.setCopy
  · exact .next h
  · exact .fault
  · exact .next (Inv.setCopy h.pageOf)
  · exact .next (Inv.setCopy h.pageOf)
  · exact .next (Inv.setCopy h.pageOf)

theorem Inv.putRead {n : Nat} {k : Fin 2} {x : Copy} {y : Block} (h : Inv mem tab s) : Inv mem tab (putRead s n k x y) := by
  fun_cases Machine.putRead s n k x y
  · exact h.privAsk
  · exact h.privDone.setCopy
  · exact (Inv.ite h.privDone.setCell h.privDone).setCopy

theorem Inv.putApply {n : Nat} {k : Fin 2} {x : Copy} {y : Block} {w : Fin 8} (h : Inv mem tab s) :
    Inv mem tab (putApply s n k x y w) := by
  have hw {v byte d : Nat} {e : Option Nat} {t : State} (q : Machine.windowWrite s v byte d = (e, t)) : Inv mem tab t :=
    (q ▸ h.windowWrite : Beside mem tab (e, t))
  fun_cases Machine.putApply s n k x y w
  · exact (Inv.ite h.homeWrite.mendLine h.homeWrite).setCopy
  · exact (hw ‹_›).setCopy
  · exact (hw ‹_›).setCopy
  · exact h

theorem Inv.getRead {n : Nat} {k : Fin 2} {x : Copy} {y : Block} {w : Fin 8} (h : Inv mem tab s) : Inv mem tab (getRead s n k x y w) := by
  fun_cases Machine.getRead s n k x y w
  · exact h.setCopy
  · exact h.setCopy
  · exact h

theorem Inv.getApply {n : Nat} {k : Fin 2} {x : Copy} {y : Block} (h : Inv mem tab s) : Inv mem tab (getApply s n k x y) :=
  .ite h.privAsk h.privWrite.privDone.setCopy.active

theorem Inv.blockAway {n : Nat} {k : Fin 2} {x : Copy} {y : Block} (h : Inv mem tab s) : Inv mem tab (blockAway s n k x y) := by
  fun_cases Machine.blockAway s n k x y
  · exact h.setCopy
  · exact Inv.setCopy h.sendRequest

theorem Inv.blockLeaves {n : Nat} {k : Fin 2} {x : Copy} {y : Block} (h : Inv mem tab s) : Inv mem tab (blockLeaves s n k x y) := by
  fun_cases Machine.blockLeaves s n k x y
  · exact h
  · exact h.turned.setCopy
  · exact h.turned.setCopy.active
  · exact h.turned.setCopy
  · exact h.turned.serve.setCopy
  · exact h.turned.setCopy
  · exact h.turned.blockAway

theorem Inv.blockAnswer {n : Nat} {k : Fin 2} {x : Copy} {b id : Nat} (h : Inv mem tab s) : Inv mem tab (blockAnswer s n k x b id) := by
  fun_cases Machine.blockAnswer s n k x b id
  · exact h
  · exact h.dropInbox.setCopy
  · exact h.dropInbox.setCopy
  · exact h.dropInbox.setCopy

theorem Inv.blockStep {n : Nat} {k : Fin 2} {x : Copy} {y : Block} {w : Fin 8} (h : Inv mem tab s) :
    Inv mem tab (blockStep s n k x y w) := by
  fun_cases Machine.blockStep s n k x y w
  · exact h.putRead
  · exact h.blockLeaves
  · exact h.blockLeaves
  · exact h
  · exact h.putApply
  · exact h
  · exact h.getRead
  · exact h.getApply

theorem Inv.copyTurn {n : Nat} {k : Fin 2} {b : Nat} {w : Fin 8} (h : Inv mem tab s) : Lands mem tab (copyTurn n k b w s) := by
  fun_cases Machine.copyTurn n k b w s
  · exact .next h
  · exact .next h.blockAnswer
  · exact .next h.blockStep
  · exact .next h
  · exact h.blockOpen

theorem Inv.execCopyComplete {n : Nat} {k : Fin 2} (h : Inv mem tab s) : Lands mem tab (execCopyComplete n k s) := by
  fun_cases Machine.execCopyComplete n k s
  · exact .next h
  · exact .next h
  · exact .next h.setCell.asyncRecord
  · exact .next h.setCell
  · exact .next h.setCell

/-! ## Barriers, phases and clocks -/

theorem Inv.arriveEff {g : Fin 16} {rel : Bool} {p : PAct} (h : Inv mem tab s) : Does mem tab (arriveEff g rel p s) :=
  .done (.ite h.setCur.release h.setCur.arrive)

theorem Inv.execBarrierComplete {st : Nat} {g : Fin 16} (h : Inv mem tab s) : Lands mem tab (execBarrierComplete st g s) :=
  .ite (.next (h.setStage.foldl fun h => h.putItem)) (.next h)

theorem Inv.phaseEff {gang : Option (Fin 16)} {onset : BitVec 12} {int : Fin 16} {k : Fin 32} {p : PAct} (h : Inv mem tab s) :
    Does mem tab (phaseEff gang onset int k p s) := by
  fun_cases Machine.phaseEff gang onset int k p s
  · exact .done h.setCur.setCur
  · exact .done (h.setCur.foldl fun h => h.setCell)

theorem Inv.endGang {g : Fin 16} (h : Inv mem tab s) : Inv mem tab (endGang s g) := .ite (h.foldl fun h => .ite h.setCell h) h

theorem Inv.execPhaseEndGang {c : Cue} {a : Src} {p : PAct} (h : Inv mem tab s) : Lands mem tab (execPhaseEndGang c a p s) :=
  h.fire h.endGang.onCtx

theorem Inv.execPhaseGrant {n : Nat} {k : Fin 4} (h : Inv mem tab s) : Lands mem tab (execPhaseGrant n k s) := by
  fun_cases Machine.execPhaseGrant n k s
  · exact .next h.setCell
  · exact .next h
  · exact .next h

theorem Inv.execPhaseWindowEnd {n : Nat} {k : Fin 4} (h : Inv mem tab s) : Lands mem tab (execPhaseWindowEnd n k s) := by
  fun_cases Machine.execPhaseWindowEnd n k s
  · exact .next h.setCell
  · exact .next h
  · exact .next h

theorem Inv.execClockMaskApply {st : Nat} (h : Inv mem tab s) : Lands mem tab (execClockMaskApply st s) :=
  .ite (.next (h.setStage.foldl fun h => h.throttle)) (.next h)

/-! ## Control instructions -/

theorem Inv.latchRead {c : Cue} {d : Dst} {p : PAct} {v : State → Nat} {f : Context → Word → Context} (h : Inv mem tab s) :
    Lands mem tab (latchRead c d p v f s) :=
  h.fire h.setCur.result

theorem Inv.trapEff {cls : Nat} {dest : RecDest} {park : Bool} {a : Src} {code : Fin 32} {p : PAct} (h : Inv mem tab s) :
    Does mem tab (trapEff cls dest park a code p s) := by
  unfold Machine.trapEff
  exact h.onCtx

theorem Inv.execBkpt {c : Cue} {a : Src} {code : Fin 32} {p : PAct} (h : Inv mem tab s) : Lands mem tab (execBkpt c a code p s) :=
  h.fire (.ite h.trapEff h.onCtx)

theorem Inv.execCfgRd {c : Cue} {d : Dst} {a : Src} {ca : BitVec 12} {p : PAct} (h : Inv mem tab s) :
    Lands mem tab (execCfgRd c d a ca p s) := by
  refine h.fire ?_
  dsimp only
  split
  · exact h.result
  · exact .fault

theorem Inv.execCfgWr {c : Cue} {v a : Src} {ca : BitVec 12} {p : PAct} (h : Inv mem tab s) : Lands mem tab (execCfgWr c v a ca p s) :=
  h.fire (.ite .fault (.ite .fault h.onCell))

theorem Inv.cuePut {idx : Fin 64} {e : DWord} {p : PAct} (h : Inv mem tab s) : Does mem tab (cuePut idx e p s) := .ite .fault h.onCell

theorem Inv.execCueWr {c : Cue} {hi lo : Src} {idx : Fin 64} {p : PAct} (h : Inv mem tab s) : Lands mem tab (execCueWr c hi lo idx p s) :=
  h.fire h.cuePut

theorem Inv.execCueEn {c : Cue} {idx : Fin 64} {en : Bool} {p : PAct} (h : Inv mem tab s) : Lands mem tab (execCueEn c idx en p s) :=
  h.fire (.ite .fault h.onCell)

theorem Inv.slotLdDone {first n t : Nat} {a : Src} {p : PAct} {cue : Cue} (h : Inv mem tab s) :
    Inv mem tab (slotLdDone s first n t a p cue) := by
  fun_cases Machine.slotLdDone s first n t a p cue
  · exact h.setCur.takeFault
  · exact h.setCur.frame.takeFault
  · exact h.setCur.setCur.finish

theorem Inv.execSlotLd {c : Cue} {a : Src} {first n1 : Fin 128} {p : PAct} (h : Inv mem tab s) :
    Lands mem tab (execSlotLd c a first n1 p s) := by
  fun_cases Machine.execSlotLd c a first n1 p s
  · exact .next h.takeFault
  · exact .next h.takeFault
  · exact .next h.takeFault
  · exact .next h.slotLdDone
  · exact .next h.setCur
  · exact .next h

theorem Inv.slotLdCycle {n : Nat} (h : Inv mem tab s) : Inv mem tab (slotLdCycle s n) := by
  fun_cases Machine.slotLdCycle s n
  · exact h.frame.slotLdDone
  · exact h.setCell
  · exact h

/-! ## Words, tiles, markers and remote writes on their way -/

theorem Inv.flush {n : Nat} (h : Inv mem tab s) : Inv mem tab (State.flush s n) :=
  ((h.foldl fun h => h.sliceWrite).foldl fun h => h.sliceWrite).setCell.frame

theorem Inv.sliceZero {n lo hi : Nat} (h : Inv mem tab s) : Inv mem tab (State.sliceZero s n lo hi) :=
  h.withFirn fun hf => Mem.wf_filter hf _

theorem Inv.execOqWordSend {n : Nat} {q : Fin 8} (h : Inv mem tab s) : Lands mem tab (execOqWordSend n q s) := by
  fun_cases Machine.execOqWordSend n q s
  · exact .next h
  · exact .next h
  · exact .next h.setCell.setStage
  · exact .next h.setCell.frame
  · exact .next h
  · exact .next h

theorem Inv.execTsendUnit {n : Nat} (h : Inv mem tab s) : Lands mem tab (execTsendUnit n s) := by
  fun_cases Machine.execTsendUnit n s
  · exact .next h
  · exact .next h
  · exact .next h.setCell.frame.engineEcc.active
  · exact .next h

theorem Inv.edgeMark {ref : FlitRef} {a b : Nat} (h : Inv mem tab s) : Inv mem tab (edgeMark s ref a b) := by
  fun_cases Machine.edgeMark s ref a b
  · exact h.logMark
  all_goals exact h

theorem Inv.dropToken {st : Nat} {p : Nat × Nat} (h : Inv mem tab s) : Inv mem tab (State.dropToken s st p) := .ite h.frame h

theorem Inv.itemIn {i : Nat} {f : Flit} (h : Inv mem tab s) : Inv mem tab (itemIn s i f) := by
  fun_cases Machine.itemIn s i f
  · exact h
  · exact h
  · exact h.turned.frame.setStage
  · exact h.turned.frame.setCell
  · exact h.turned.frame.foldl fun h => h.dropToken

theorem Inv.execMeshFlitForward {i : Nat} {dir : Dir} (h : Inv mem tab s) : Lands mem tab (execMeshFlitForward i dir s) := by
  fun_cases Machine.execMeshFlitForward i dir s
  · exact .next h
  · exact .next (.ite h.itemIn h)
  · exact .next h
  · exact .next h.dropFlit.routerRecord
  · exact .next h.turned.frame.edgeMark.moveFlit
  · exact .next h.turned.frame.dropFlit.routerRecord
  · exact .next h

theorem Inv.execMarkerRecorded {i : Nat} (h : Inv mem tab s) : Lands mem tab (execMarkerRecorded i s) := by
  fun_cases Machine.execMarkerRecorded i s
  · exact .next h.turned.frame.setStage.setCell
  · exact .next h

theorem Inv.badWord {p : Packet} {n opnd : Nat} (h : Inv mem tab s) : Inv mem tab (badWord s p n opnd) := .ite h h.cellRecord

theorem Inv.badTile {p : Packet} {n : Nat} {g : Fin 8} (h : Inv mem tab s) : Inv mem tab (badTile s p n g) := .ite h h.setCell.cellRecord

theorem Inv.consume {i n : Nat} {p : Packet} (h : Inv mem tab s) : Inv mem tab (consume s i n p) := by
  fun_cases Machine.consume s i n p
  · exact h.frame.routerRecord
  · exact h.frame.routerRecord
  · exact h.frame.setCell.badWord
  · exact h.frame.setCell.badWord
  · exact h.frame.setCell.badTile
  · exact h.frame

theorem Inv.deliver {i : Nat} {ok : PktData → Bool} (h : Inv mem tab s) : Lands mem tab (deliver i s ok) := by
  fun_cases Machine.deliver i s ok
  · exact .next h.turned.consume
  all_goals exact .next h

theorem Inv.putArrive {n j : Nat} {w : Put} (h : Inv mem tab s) : Inv mem tab (putArrive s n j w) :=
  .ite h.dropFlit.routerRecord (.ite h.dropFlit.setCell h.dropFlit.setCell)

theorem Inv.putRelease {n : Nat} {k : Fin 4} {r : Fin 8} (h : Inv mem tab s) : Inv mem tab (putRelease s n k r) := by
  fun_cases Machine.putRelease s n k r
  · exact h.setCell
  · exact h
  · exact h

theorem Inv.execPutrDeliver {w : PutFrom} (h : Inv mem tab s) : Lands mem tab (execPutrDeliver w s) := by
  fun_cases Machine.execPutrDeliver w s
  · exact .next h.turned.putArrive
  · exact .next h
  · exact .next h
  · exact .next h.putRelease

/-! ## Words and records that leave -/

theorem Inv.loseWord {st q n : Nat} (h : Inv mem tab s) : Inv mem tab (loseWord s st q n) := h.setStage

theorem Inv.wordOut {q i : Nat} {p : Packet} (h : Inv mem tab s) : Inv mem tab (wordOut s q i p) := by
  fun_cases Machine.wordOut s q i p
  · exact (Inv.ite h.frame.logMark h.frame).badWord.writeEntry
  · exact (Inv.ite h.frame.logMark h.frame).badWord.loseWord
  · exact h

theorem Inv.execEgressEntryWrite {q : Nat} (h : Inv mem tab s) : Lands mem tab (execEgressEntryWrite q s) := by
  fun_cases Machine.execEgressEntryWrite q s
  · exact .next h.turned.wordOut
  · exact .next h.writeHeld

theorem Inv.execFaultRecordDeliver {n : Nat} {w : RecFrom} (h : Inv mem tab s) : Lands mem tab (execFaultRecordDeliver n w s) := by
  fun_cases Machine.execFaultRecordDeliver n w s
  · exact .next h
  · exact .next h
  · exact .next h.setCell.hostRecord
  · exact .next h.setCell.logFault
  · exact .next h.setCell.logFault
  · exact .next h.setCell.setCell
  · exact .next h

theorem Inv.execRecordDivert {n : Nat} {w : RecFrom} (h : Inv mem tab s) : Lands mem tab (execRecordDivert n w s) := by
  fun_cases Machine.execRecordDivert n w s
  · exact .next h.setCell.logFault
  · exact .next h
  · exact .next h

end Sys2Proof.Invariant
end

section
/-! # Boot, launches, scenes and pre-emption (O60) -/

namespace Sys2Proof.Invariant

open Sys2Proof.Machine Sys2Proof.Safety

-- `fun_cases` starts more threads than the check's memory limit allows when proofs are elaborated side by side.
set_option Elab.async false

variable {mem tab : Prop} {s : State}

/-! ## Boot and signed objects -/

theorem Inv.measure {ty : Nat} {object : List Byte} (h : Inv mem tab s) : Inv mem tab (State.measure s ty object) := h.frame

theorem Inv.setSeq {ty seq : Nat} (h : Inv mem tab s) : Inv mem tab (State.setSeq s ty seq) := h.frame

theorem Inv.setTable {t : List Byte} {seq : Nat} (h : Inv mem tab s) : Inv mem tab (State.setTable s t seq) := by
  unfold State.setTable
  exact h.setSeq.frame.measure

theorem Inv.signCasting (h : Inv mem tab s) : Inv mem tab (State.signCasting s) := h.setTable

theorem Inv.setMod {n : Nat} (h : Inv mem tab s) : Inv mem tab (State.setMod s n) := h.frame

theorem Inv.bootOn {f : BootFinds} {t : List Byte} {k0 : Casting} (h : Inv mem tab s) : Inv mem tab (bootOn f s t k0) := by
  have ht (k : Casting) : Inv mem tab (if k.gen = k0.gen then ({ s with casting := k } : State).setTable t (field t 32 8)
      else ({ s with casting := k } : State).signCasting) := .ite h.frame.setTable h.frame.signCasting
  fun_cases Machine.bootOn f s t k0
  · exact (ht _).setMod
  · exact Inv.setMod ((ht _).measure.withFirn fun hf => Mem.wf_filter hf _)

theorem Inv.execPowerOnBoot {f : BootFinds} (h : Inv mem tab s) : Lands mem tab (execPowerOnBoot f s) := by
  fun_cases Machine.execPowerOnBoot f s
  · exact .next h
  · exact .next h.frame.measure.setMod
  · exact .next h.frame.measure.frame.measure.setMod
  · exact .next h.frame.measure.frame.measure.bootOn

theorem Inv.sobResult {state reason : Nat} (h : Inv mem tab s) : Inv mem tab (State.sobResult s state reason) := h.frame

theorem Inv.execSobSubmit {v : Word} (h : Inv mem tab s) : Lands mem tab (execSobSubmit v s) := .ite (.next h.sobResult) (.next h)

theorem Inv.sobAccept {l : List Byte} (h : Inv mem tab s) : Inv mem tab (sobAccept s l) := by
  fun_cases Machine.sobAccept s l
  · exact h.setSeq.frame.measure.setMod
  · exact h.setSeq.frame.measure
  · exact h.setSeq.frame
  · exact h.setSeq.frame.measure

theorem Inv.execSobCheckDone {testPass : Bool} (h : Inv mem tab s) : Lands mem tab (execSobCheckDone testPass s) := by
  unfold Machine.execSobCheckDone
  refine .ite (.next h) ?_
  dsimp only
  split
  · exact .next h.sobAccept.sobResult
  · exact .next h.setSeq.sobResult
  · exact .next h.sobResult

theorem Inv.outboxPut {l : List Byte} (h : Inv mem tab s) : Inv mem tab (State.outboxPut s l) := h.frame

theorem Inv.execSobOreqCasting (h : Inv mem tab s) : Lands mem tab (execSobOreqCasting s) := .next (.ite h.outboxPut h)

theorem Inv.execSobOreqQuote (h : Inv mem tab s) : Lands mem tab (execSobOreqQuote s) := .next (.ite h.outboxPut h)

theorem Inv.execSobOreqCert (h : Inv mem tab s) : Lands mem tab (execSobOreqCert s) := .next (.ite h.outboxPut h)

/-! ## Launch and placement -/

theorem Inv.setLaunchStat {n : Nat} (h : Inv mem tab s) : Inv mem tab (State.setLaunchStat s n) := h.frame

theorem Inv.refuseLaunch {off reason code : Nat} (h : Inv mem tab s) : Inv mem tab (refuseLaunch s off reason code) :=
  (Inv.ite h.postCe h).setLaunchStat

theorem Inv.acceptLaunch {id : Nat} {r : LaunchRec} {ha : ImageHead} {img : List Word} (h : Inv mem tab s) :
    Inv mem tab (acceptLaunch s id r ha img) := by
  unfold Machine.acceptLaunch
  exact Inv.setLaunchStat (.complete (.foldl h.setStage.frame fun h => h.setEgress))

theorem Inv.execLaunch {off : Nat} (h : Inv mem tab s) : Lands mem tab (execLaunch off s) := by
  fun_cases Machine.execLaunch off s
  · exact .next h
  · exact .next h.refuseLaunch
  · exact .next h.acceptLaunch
  · exact .next h.frame.setLaunchStat

theorem Inv.execLaunchAccept (h : Inv mem tab s) : Lands mem tab (execLaunchAccept s) := by
  fun_cases Machine.execLaunchAccept s
  · exact .next h.frame.refuseLaunch
  · exact .next h.frame.acceptLaunch
  · exact .next h

theorem Inv.zeroFrame {f : Nat} (h : Inv mem tab s) : Inv mem tab (State.zeroFrame s f) := h.withFirn fun hf => Mem.wf_filter hf _

theorem Inv.scrubPrivate (h : Inv mem tab s) : Inv mem tab (State.scrubPrivate s) := h.foldl fun h => h.zeroFrame.frame

theorem Inv.raisePl {cells : List Nat} {smax : Nat} (h : Inv mem tab s) : Inv mem tab (raisePl s cells smax) := h.frame.scrubPrivate

theorem Inv.startSwap {st : Nat} {b : CtrlBank} (h : Inv mem tab s) : Inv mem tab (State.startSwap s st b) := h.frame

theorem Inv.takeRect {id : Nat} {t : Stage} {x0 y0 : Nat} (h : Inv mem tab s) : Inv mem tab (takeRect s id t x0 y0) :=
  h.raisePl.setStage.startSwap

theorem Inv.placeStage {id : Nat} {t : Stage} {x0 y0 : Nat} (h : Inv mem tab s) : Inv mem tab (placeStage s id t x0 y0) :=
  h.takeRect.foldl fun h => h.setCell

theorem Inv.tryPlace {e : Nat × Stage} (h : Inv mem tab s) : Inv mem tab (tryPlace s e) := by
  fun_cases Machine.tryPlace s e
  · exact h
  · exact h.placeStage
  · exact h

theorem Inv.execPlacement (h : Inv mem tab s) : Lands mem tab (execPlacement s) := .next (.ite (h.foldl fun h => h.tryPlace) h)

theorem Inv.execDrainAndSwap {st : Nat} (h : Inv mem tab s) : Lands mem tab (execDrainAndSwap st s) := by
  unfold Machine.execDrainAndSwap
  have hf {t : State} {l : List CtrlItem} (h : Inv mem tab t) :
      Inv mem tab (l.foldl (fun (s : State) (i : CtrlItem) => s.noteSent i.stage (i.src, i.dest)) t) := h.foldl fun h => h.noteSent
  exact .ite (.next h) (.next (.ite (hf h.frame).setStage (hf h.frame)))

/-! ## Scenes -/

theorem Inv.onCtrl {st : Nat} {o : Out} (h : Inv mem tab s) (ho : Lands mem tab o) : Lands mem tab (onCtrl s st o) := by
  fun_cases Machine.onCtrl s st o
  · exact .next h.routerRecord
  · exact ho

theorem Inv.scrub {n : Nat} (h : Inv mem tab s) : Inv mem tab (State.scrub s n) := h.sliceZero.withCells fun k => Rising.del k _

theorem Inv.freeFrames {root : Nat} (h : Inv mem tab s) : Inv mem tab (freeFrames s root) := h.foldl fun h => h.zeroFrame.frame

theorem Inv.unbind {st : Nat} (h : Inv mem tab s) : Inv mem tab (unbind s st) := h.withStages fun k => Rising.map k fun _ => rfl

theorem Inv.logLosses {st : Nat} (h : Inv mem tab s) : Inv mem tab (logLosses s st) := by
  unfold Machine.logLosses
  exact (Inv.ite h.setStage h.setStage.logFault).foldl fun h => h.logFault

theorem Inv.landMarks {st : Nat} (h : Inv mem tab s) : Inv mem tab (landMarks s st) := h.setStage.frame

theorem Inv.endStage {st : Nat} (h : Inv mem tab s) : Inv mem tab (State.endStage s st) := by
  unfold State.endStage
  extract_lets a t cells away b c d e u held _ v
  have hb : Inv mem tab b := h.logLosses.landMarks.foldl fun h => h.send
  have hc : Inv mem tab c := hb.frame
  have hd : Inv mem tab d := hc.foldl fun h => h.scrub
  have he : Inv mem tab e := by
    unfold e
    split
    · exact hd.freeFrames
    · exact hd
  have hv : Inv mem tab v := he.unbind.setStage
  exact .ite hv.startSwap hv

theorem Inv.execStageWithdraw {st : Nat} (h : Inv mem tab s) : Lands mem tab (execStageWithdraw st s) := by
  fun_cases Machine.execStageWithdraw st s
  · exact .next h.endStage
  · exact .next h
  · exact .next h

theorem Inv.installCell {t : Stage} {e : Nat × CellState} (h : Inv mem tab s) : Inv mem tab (installCell t s e) :=
  (Inv.ite h.flush.sliceZero h.flush).setCell

theorem Inv.installFail {st i : Nat} {f : InstallFail} (h : Inv mem tab s) : Inv mem tab (installFail s st i f) := h.hostRecord.endStage

theorem Inv.execSceneInstall {st : Nat} (h : Inv mem tab s) : Lands mem tab (execSceneInstall st s) := by
  unfold Machine.execSceneInstall
  refine .ite (.next h) (h.onCtrl ?_)
  split
  · exact .next h.installFail
  · exact .next (Inv.setStage (h.foldl fun h => h.installCell))

theorem Inv.execCurtainUp {st : Nat} (h : Inv mem tab s) : Lands mem tab (execCurtainUp st s) :=
  .ite (h.onCtrl (.next h.setStage)) (.next h)

theorem Inv.watchdog {st : Nat} (h : Inv mem tab s) : Inv mem tab (watchdog s st) := .ite h.setStage.hostRecord h

theorem Inv.closeScene {st : Nat} (h : Inv mem tab s) : Inv mem tab (closeScene s st) :=
  h.setStage.withCells fun k => Rising.map k fun _ => by split_ifs <;> rfl

theorem Inv.execCurtainDown {st : Nat} (h : Inv mem tab s) : Lands mem tab (execCurtainDown st s) := by
  unfold Machine.execCurtainDown
  refine .ite (h.onCtrl ?_) (.next h)
  have hl : Inv mem tab (Machine.logLosses (Machine.watchdog s st) st) := h.watchdog.logLosses
  refine .ite (.next hl.complete.endStage) ?_
  split
  · exact .next hl.complete.installFail
  · exact .next hl.complete.closeScene

/-! ## Pre-emption and restore -/

theorem Inv.stopStage {st : Nat} (h : Inv mem tab s) : Inv mem tab (State.stopStage s st) :=
  h.setStage.withCells fun k => Rising.map k fun _ => by split_ifs <;> rfl

theorem Inv.orderStop {st : Nat} {t : State} (h : Inv mem tab s) (ht : Inv mem tab t) : Inv mem tab (s.orderStop st t) := by
  unfold State.orderStop
  refine .ite ?_ h
  cases s.stageGap (st) with
  | none => exact ht
  | some g => exact h.routerRecord

theorem Inv.saveCell {st : Nat} {n : Nat} (h : Inv mem tab s) : Inv mem tab (saveCell st s n) := h.flush.setStage.scrub

theorem Inv.saveStage {st : Nat} (h : Inv mem tab s) : Inv mem tab (saveStage s st) := Inv.setStage (h.watchdog.foldl fun h => h.saveCell)

theorem Inv.recastOne {p : Nat × Nat} (h : Inv mem tab s) : Inv mem tab (recastOne s p) := by
  unfold Machine.recastOne
  extract_lets _ _ _ k t u v
  have ht : Inv mem tab t := h.withCells fun r => Rising.map r fun _ => rfl
  have hv : Inv mem tab v := ht.startSwap.signCasting
  exact .ite hv.frame hv

theorem Inv.recastReady (h : Inv mem tab s) : Inv mem tab (recastReady s) := .ite h (h.frame.foldl fun h => h.recastOne)

theorem Inv.execPreempt {st : Nat} (h : Inv mem tab s) : Lands mem tab (execPreempt st s) :=
  .ite (.next h.saveStage.recastReady) (.next h)

theorem Inv.execForcedPreempt {st : Nat} (h : Inv mem tab s) : Lands mem tab (execForcedPreempt st s) :=
  .ite (.next (h.orderStop h.stopStage)) (.next h)

theorem Inv.execRequestAged {st : Nat} (h : Inv mem tab s) : Lands mem tab (execRequestAged st s) := by
  fun_cases Machine.execRequestAged st s
  · exact .next h.setStage
  · exact .next (h.setStage.foldl fun h => h.setStage)
  · exact .next h.setStage.setStage.complete
  · exact .next h

/-- Bytes written one after another keep the canonical form. -/
theorem wf_foldl_write {l : List (Nat × BitVec 8)} {key : Nat → Nat} {m : Mem} (h : m.wf = true) :
    Mem.wf (l.foldl (fun f e => f.write (key e.1) e.2) m) = true := by
  induction l generalizing m with
  | nil => exact h
  | cons e r ih => exact ih (Mem.wf_write h _ _)

theorem Inv.sliceLoad {n : Nat} {m : Mem} (h : Inv mem tab s) : Inv mem tab (State.sliceLoad s n m) :=
  h.withFirn fun hf => wf_foldl_write hf

theorem Inv.dueSaved {st : Nat} (h : Inv mem tab s) : Inv mem tab (dueSaved s st) := .ite h (h.foldl fun h => h.cancelWatch.wakeCell)

theorem Inv.restoreCell {old t : Stage} {e : Nat × CellState × Mem} (h : Inv mem tab s) : Inv mem tab (restoreCell old t s e) :=
  h.setCell.sliceLoad

theorem Inv.restoreStage {st : Nat} {old : Stage} {x0 y0 : Nat} (h : Inv mem tab s) : Inv mem tab (restoreStage s st old x0 y0) := by
  unfold Machine.restoreStage
  extract_lets a b t c d e
  have hb : Inv mem tab b := h.dueSaved.takeRect
  have hc : Inv mem tab c := hb.foldl fun h => h.restoreCell
  have hd : Inv mem tab d := .ite (hc.foldl fun h => h.throttle) hc
  exact Inv.setStage hd.frame

theorem Inv.execRestore {st x0 y0 : Nat} (h : Inv mem tab s) : Lands mem tab (execRestore st x0 y0 s) :=
  .ite (.next h.restoreStage) (.next h)

/-! ## The end of a stage -/

theorem Inv.endOrder {st : Nat} (h : Inv mem tab s) : Inv mem tab (endOrder s st) :=
  h.stopStage.setStage.withCells fun k => Rising.map k fun _ => by split_ifs <;> rfl

theorem Inv.haltGens {n : Nat} (h : Inv mem tab s) : Inv mem tab (haltGens s n) := .ite (h.foldl fun h => h.sgSettle.setCell) h

theorem Inv.logRecords {st : Nat} {c : CellState} (h : Inv mem tab s) : Inv mem tab (logRecords st s c) := h.foldl fun h => h.logFault

theorem Inv.logAll {st : Nat} (h : Inv mem tab s) : Inv mem tab (logAll s st) :=
  (h.foldl fun h => h.logRecords).foldl fun h => h.logRecords

theorem Inv.finishEnd {st : Nat} (h : Inv mem tab s) : Inv mem tab (finishEnd s st) := by
  unfold Machine.finishEnd
  exact h.logAll.watchdog.logLosses.complete.endStage

theorem Inv.execHostEndStage {st : Nat} (h : Inv mem tab s) : Lands mem tab (execHostEndStage st s) := by
  unfold Machine.execHostEndStage
  have hg : Inv mem tab ((s.cellsOf st).foldl (fun s e => Machine.haltGens s e.1) s) := h.foldl fun h => h.haltGens
  exact .ite (.next h.finishEnd) (.ite (.ite (.next (h.orderStop h.endOrder)) (.ite (.next hg.finishEnd.recastReady) (.next hg))) (.next h))

theorem Inv.breakStage {st code x y : Nat} (h : Inv mem tab s) : Inv mem tab (breakStage s st code x y) := by
  unfold Machine.breakStage
  exact h.watchdog.logAll.hostRecord.endStage

theorem Inv.endJob {job code x y : Nat} (h : Inv mem tab s) : Inv mem tab (endJob s job code x y) := h.foldl fun h => h.breakStage

/-! ## Cells that are retired -/

theorem Inv.retire {row col : Nat} (h : Inv mem tab s) : Inv mem tab (retire s row col) := by
  unfold Machine.retire
  extract_lets a right hit b
  have ha : Inv mem tab a := by
    unfold a
    split
    · exact h
    · split
      · exact h.endJob
      · exact h
  have hb : Inv mem tab b := ha.foldl fun h => h.setStage.orderStop h.setStage.stopStage
  exact Inv.recastReady hb.frame

theorem Inv.execHeartbeatPoll {row col : Nat} {answer : Bool} (h : Inv mem tab s) :
    Lands mem tab (execHeartbeatPoll row col answer s) := by
  unfold Machine.execHeartbeatPoll
  refine .ite (.next h) ?_
  extract_lets key at' gap answer a m missed next masked on b
  have ha : Inv mem tab a := by
    unfold a
    cases gap with
    | none => exact h
    | some g => exact h.routerRecord
  have hb : Inv mem tab b := ha.frame
  exact .ite (.next hb.retire) (.next hb)

theorem Inv.execCellSelfTest {row col : Nat} {pass : Bool} (h : Inv mem tab s) : Lands mem tab (execCellSelfTest row col pass s) :=
  .ite (.next h) (.next h.retire)

theorem Inv.execClockStretch {key : Nat} {on : Bool} (h : Inv mem tab s) : Lands mem tab (execClockStretch key on s) :=
  .next (.ite (h.frame.foldl fun h => h.throttle) h.frame)

end Sys2Proof.Invariant
end

section
/-! # Mappings, the host side and the edge (O60) -/

namespace Sys2Proof.Invariant

open Sys2Proof.Machine Sys2Proof.Safety

-- `fun_cases` starts more threads than the check's memory limit allows when proofs are elaborated side by side.
set_option Elab.async false

variable {mem tab : Prop} {s : State}

/-! ## Mappings -/

theorem Inv.execStallReport {st : Nat} (h : Inv mem tab s) : Lands mem tab (execStallReport st s) := by
  fun_cases Machine.execStallReport st s
  · exact .next h
  · exact .next h.setStage.complete.setCell
  · exact .next h.setStage.complete

theorem Inv.allocate {f job : Nat} (h : Inv mem tab s) : Inv mem tab (State.allocate s f job) := h.frame

theorem Inv.withRoot {t : MapTable} {r : TableRef} {f : Nat} {u : State} (h : Inv mem tab s) (e : withRoot s t r = some (f, u)) :
    Inv mem tab u := by
  revert e
  fun_cases Machine.withRoot s t r
  all_goals intro e
  · cases e; exact h
  · cases e
  · cases e; exact h.zeroFrame.allocate.setStage
  · cases e; exact h.zeroFrame.allocate.frame

theorem Inv.takeFrame {job : Nat} {f : Nat} (h : Inv mem tab s) : Inv mem tab (takeFrame job s f) :=
  .ite h (Inv.ite h.zeroFrame h).allocate

theorem Inv.newTable {e : DWord} {level2 : Bool} (h : Inv mem tab s) : Inv mem tab (newTable s e level2) := .ite h.zeroFrame h

theorem Inv.released {job : Nat} {l : List Nat} (h : Inv mem tab s) : Inv mem tab (State.released s job l) := h.foldl fun h => h.frame

theorem Inv.tagOld {key tag : Nat} (h : Inv mem tab s) : Inv mem tab (State.tagOld s key tag) :=
  h.withCells fun k => Rising.map k fun _ => rfl

theorem Inv.mapsDone (h : Inv mem tab s) : Inv mem tab (State.mapsDone s) := h.frame

theorem Inv.execMappingUpdate {t : MapTable} {level2 : Bool} {idx : Nat} {entry : DWord} (h : Inv mem tab s) :
    Lands mem tab (execMappingUpdate t level2 idx entry s) := by
  fun_cases Machine.execMappingUpdate t level2 idx entry s
  case case7 r fs _ root u q f o _ _ key old v =>
    have hv : Inv mem tab v := Inv.tagOld (.newTable ((h.withRoot q).foldl fun h => h.takeFrame))
    exact .next (Inv.mapsDone (.released (hv.withFirn fun hf => Mem.wf_writeN hf _ _ _)))
  all_goals exact .next h

theorem Inv.releaseWrite {st num : Nat} {k : Fin 4} {v : Word} {t : State} (h : Inv mem tab s) (e : releaseWrite s st num k v = some t) :
    Inv mem tab t := by
  unfold Machine.releaseWrite at e
  dsimp only at e
  split_ifs at e
  · cases e; exact h.setCell
  · cases e; exact h.setCell

theorem Inv.landReleases (h : Inv mem tab s) : Inv mem tab (State.landReleases s) := by
  refine h.foldl fun {t e} h => ?_
  dsimp only
  split
  · exact h.frame
  · split
    · exact (h.releaseWrite ‹_›).frame
    · exact h

theorem Inv.execHostRelease {st : Nat} {v : Word} (h : Inv mem tab s) : Lands mem tab (execHostRelease st v s) :=
  .ite (.next h.frame.landReleases) (.next h)

/-! ## Doorbells, apertures and ports of hosts -/

theorem Inv.setChan {k : Nat} {c : Channel} (h : Inv mem tab s) : Inv mem tab (State.setChan s k c) := h.frame

theorem Inv.portRecord {port : Fin 8} {r : Record} (h : Inv mem tab s) : Inv mem tab (State.portRecord s port r) :=
  h.frame.foldl fun h => h.postCe

theorem Inv.badHost {port : Fin 8} {st : Option Nat} (h : Inv mem tab s) : Inv mem tab (State.badHost s port st) := by
  fun_cases State.badHost s port st
  · exact h.frame.hostRecord
  · exact h.frame.portRecord

theorem Inv.execIngressDoorbell {port : Fin 8} {off : Nat} {v : DWord} (h : Inv mem tab s) :
    Lands mem tab (execIngressDoorbell port off v s) :=
  .ite (.next h) (.ite (.next h.badHost) (.ite (.next h.setChan) (.next h.setChan.frame)))

theorem Inv.execTokenDeliver {k : Nat} (h : Inv mem tab s) : Lands mem tab (execTokenDeliver k s) := by
  fun_cases Machine.execTokenDeliver k s
  · exact .next h.setChan.setCell
  · exact .next h
  · exact .next h

theorem Inv.hostWord {k : ReqKind} {port : Fin 8} {off : Nat} (h : Inv mem tab s) : Beside mem tab (hostWord k port off s) := by
  have hp {root : Option Nat} {st o : Nat} {p : Page} {t : State} (q : Machine.pageOf s k 64 st none root o = (p, t)) : Inv mem tab t :=
    (q ▸ h.pageOf : Beside mem tab (p, t))
  fun_cases Machine.hostWord k port off s
  · exact .mk h
  · exact .mk h
  · exact .mk h
  · exact .mk h
  all_goals exact .mk (hp ‹_›)

/-- The state behind one word of a host access. -/
theorem Inv.workWord {w v : HostWork} {i : Nat} {t : State} (h : Inv mem tab s) (e : workWord s w i = some (t, v)) : Inv mem tab t := by
  have hw {k : ReqKind} {o : Nat} {x : HostWord} {u : State} (q : Machine.hostWord k w.port o s = (x, u)) : Inv mem tab u :=
    (q ▸ h.hostWord : Beside mem tab (x, u))
  revert e
  fun_cases Machine.workWord s w i
  all_goals intro e
  · obtain ⟨rfl, -⟩ := Prod.mk.inj (Option.some.inj e)
    exact hw ‹_›
  · obtain ⟨rfl, -⟩ := Prod.mk.inj (Option.some.inj e)
    exact hw ‹_›
  · split at e <;> obtain ⟨rfl, -⟩ := Prod.mk.inj (Option.some.inj e)
    · exact (hw ‹_›).homeWrite
    · exact hw ‹_›
  · exact (Option.some_ne_none _ e.symm).elim

theorem Inv.logRefused {l : List Refused} (h : Inv mem tab s) : Inv mem tab (logRefused s l) := h.foldl fun h => h.logFault

theorem Inv.hostRead {port : Fin 8} {ws : List Word} (h : Inv mem tab s) : Inv mem tab (State.hostRead s port ws) := h.frame

theorem Inv.workDone {w : HostWork} (h : Inv mem tab s) : Inv mem tab (workDone s w) := .ite h.logRefused h.logRefused.hostRead

theorem Inv.hostStep {port : Fin 8} (h : Inv mem tab s) : Lands mem tab (hostStep port s) := by
  fun_cases Machine.hostStep port s
  · exact .next h
  · exact .next h
  · exact .fault
  · exact .next (h.workWord ‹_›).frame.workDone
  · exact .next (h.workWord ‹_›).frame

theorem Inv.hostEnter {port : Fin 8} {off : Nat} {write : Bool} {ws : List Word} (h : Inv mem tab s) :
    Lands mem tab (hostEnter port off write ws s) :=
  .ite (.next h) h.frame.hostStep

theorem Inv.execApertureWrite {port : Fin 8} {off : Nat} {ws : List Word} (h : Inv mem tab s) :
    Lands mem tab (execApertureWrite port off ws s) :=
  .ite (.next h) (.ite (.next h.badHost) h.hostEnter)

theorem Inv.execApertureRead {port : Fin 8} {off : Nat} {n : Nat} (h : Inv mem tab s) : Lands mem tab (execApertureRead port off n s) :=
  .ite (.next h) (.ite (.next h.hostRead) h.hostEnter)

theorem Inv.setPort {port : Fin 8} {up : Bool} (h : Inv mem tab s) : Inv mem tab (State.setPort s port up) := h.frame

theorem Inv.execPciePortDown {port : Fin 8} (h : Inv mem tab s) : Lands mem tab (execPciePortDown port s) := .next h.setPort

theorem Inv.execPciePortUp {port : Fin 8} (h : Inv mem tab s) : Lands mem tab (execPciePortUp port s) :=
  .next (h.setPort.foldl fun h => .ite h.writeHeld h)

theorem Inv.execPcapWrite {v : Word} (h : Inv mem tab s) : Lands mem tab (execPcapWrite v s) := by
  refine .ite (.next h) (.next (h.withStages fun k => ?_))
  split_ifs
  · exact k
  · exact Rising.map k fun _ => rfl

/-! ## Registers -/

theorem Inv.egressWord {q j : Nat} {v : Word} (h : Inv mem tab s) : Inv mem tab (egressWord s q j v) := by
  fun_cases Machine.egressWord s q j v
  case case2 | case4 | case6 => exact h
  all_goals exact h.setEgress

theorem Inv.setReshapeWord {i : Nat} {v : Word} (h : Inv mem tab s) : Inv mem tab (State.setReshapeWord s i v) := h.frame

theorem Inv.setColl {k : Fin 64} {c : Coll} (h : Inv mem tab s) : Inv mem tab (State.setColl s k c) := h.frame

theorem Inv.collWord {k : Fin 64} {j : Nat} {v : Word} (h : Inv mem tab s) : Inv mem tab (collWord s k j v) := by
  fun_cases Machine.collWord s k j v
  case case1 | case11 => exact h
  all_goals exact h.setColl

theorem Inv.mailboxWord {o : Nat} {v : Word} (h : Inv mem tab s) : Inv mem tab (mailboxWord s o v) := by
  unfold Machine.mailboxWord
  exact .ite h.frame (.ite (.ite h h.frame) (.ite h.frame h))

theorem Inv.windowPorts {w : Nat} {v : Word} (h : Inv mem tab s) : Inv mem tab (windowPorts s w v) := h.frame

theorem Inv.registerSet {off : Nat} {v : Word} (h : Inv mem tab s) : Inv mem tab (registerSet s off v) := by
  fun_cases Machine.registerSet s off v
  case case2 => exact h.egressWord
  case case4 => exact h.windowPorts
  case case8 => exact h.collWord
  case case10 => exact h.setReshapeWord
  case case11 => exact h.mailboxWord
  all_goals exact h.frame

theorem Inv.execRegisterWrite {off : Nat} {v : Word} (h : Inv mem tab s) : Lands mem tab (execRegisterWrite off v s) :=
  .ite (.next h) (.next h.registerSet)

/-! ## Domains and collectives -/

theorem Inv.setEdgePort {p : Fin 128} {e : EdgePort} (h : Inv mem tab s) : Inv mem tab (State.setEdgePort s p e) := h.frame

theorem Inv.execDomainCommit {v : Word} {held : Bool} (h : Inv mem tab s) : Lands mem tab (execDomainCommit v held s) :=
  .ite (.next h) (.ite (.next h.frame) (.ite (.next h.frame) (.next h.frame)))

theorem Inv.execPortTraining {p : Fin 128} {m : Byte} {peer : Fin 128} (h : Inv mem tab s) :
    Lands mem tab (execPortTraining p m peer s) :=
  .ite (.next h.setEdgePort) (.next h)

theorem Inv.collJoin {k : Fin 64} {on : Bool} (h : Inv mem tab s) : Inv mem tab (collJoin s k on) := h.send

theorem Inv.execCollectiveEnable {k : Fin 64} {v : Word} (h : Inv mem tab s) : Lands mem tab (execCollectiveEnable k v s) :=
  .ite (.next h) (.ite (.ite (.next h) (.ite (.next h.setColl) (.next h.setColl.collJoin)))
  (.ite (.ite (.next h.setColl.collJoin) (.next h.setColl)) (.next h.setColl)))

theorem Inv.collOver {k : Fin 64} (h : Inv mem tab s) : Inv mem tab (collOver s k) := .ite h.setColl.collJoin h.setColl

theorem Inv.collFail {k : Fin 64} {op : CollOp} (h : Inv mem tab s) : Inv mem tab (collFail s k op) := by
  fun_cases Machine.collFail s k op
  · exact h
  · exact h.setColl
  · exact h.setColl
  · exact h.setColl
  · exact h.collOver

theorem Inv.collGot {k : Fin 64} {op : CollOp} {res : AckRes} (h : Inv mem tab s) : Inv mem tab (collGot s k op res) := by
  cases op with
  | poll =>
    cases res with
    | value v => exact .ite h.setColl h
    | _ => exact h
  | take =>
    cases res with
    | done => exact h.setColl
    | _ => exact h
  | src high =>
    cases high <;> cases res with
    | block d => exact h.setColl
    | _ => exact h
  | dst =>
    cases res with
    | done => exact h.setColl
    | _ => exact h
  | done =>
    cases res with
    | done => exact h.collOver
    | _ => exact h

theorem Inv.collDo {k : Fin 64} {op : CollOp} {a : DWord} {kind : ReqKind} (h : Inv mem tab s) : Inv mem tab (collDo s k op a kind) := by
  fun_cases Machine.collDo s k op a kind
  · exact h.applyAt.collGot
  · exact h.collFail
  · exact h
  · exact h.collFail
  · exact Inv.setColl h.sendRequest
  · exact h
  · exact h.collFail

theorem Inv.collGive {k : Fin 64} {low : Nat} (h : Inv mem tab s) : Inv mem tab (collGive s k low) := by
  unfold Machine.collGive
  exact .ite h.setColl.frame h.setColl.send

theorem Inv.collEnd {k : Fin 64} {ok lost : Bool} {d : VWord} (h : Inv mem tab s) : Inv mem tab (collEnd s k ok lost d) := h.setColl

theorem Inv.collAlone {k : Fin 64} {low : Nat} (h : Inv mem tab s) : Inv mem tab (collAlone s k low) := h.collEnd.frame.setColl

theorem Inv.collFinish {k : Fin 64} {ms : List Nat} {ok lost : Bool} {d : VWord} (h : Inv mem tab s) :
    Inv mem tab (collFinish s k ms ok lost d) :=
  Inv.foldl (.collEnd (Inv.setColl h.frame)) fun h => h.send

theorem Inv.collFold {k : Fin 64} {ms : List Nat} {away : Nat → Bool} (h : Inv mem tab s) : Inv mem tab (collFold s k ms away) := by
  unfold Machine.collFold
  exact .ite h.collFinish (.ite h h.collFinish)

theorem Inv.collStep {k : Fin 64} (h : Inv mem tab s) : Inv mem tab (collStep s k) := by
  fun_cases Machine.collStep s k
  case case7 => exact h.collGive
  case case8 => exact h.collAlone
  case case10 => exact h.collFold
  case case1 | case3 | case9 => exact h
  all_goals exact h.collDo

theorem Inv.collRun {k : Fin 64} {fuel : Nat} (h : Inv mem tab s) : Inv mem tab (collRun s k fuel) := by
  induction fuel generalizing s with
  | zero => exact h
  | succ n ih => exact .ite h.collStep (ih h.collStep)

theorem Inv.collMsg {k : Fin 64} {i : Nat} (h : Inv mem tab s) : Inv mem tab (collMsg s k i) := by
  fun_cases Machine.collMsg s k i
  · exact h.dropInbox.setColl
  · exact h.dropInbox
  · exact h.dropInbox.frame
  · exact h.dropInbox
  · exact h.dropInbox.setColl.collEnd
  · exact h.dropInbox.setColl
  · exact h.dropInbox.setColl.collGot
  · exact h.dropInbox
  · exact h

theorem Inv.execCollectiveRound {k : Fin 64} (h : Inv mem tab s) : Lands mem tab (execCollectiveRound k s) := by
  fun_cases Machine.execCollectiveRound k s
  · exact .next h.collMsg.collRun
  · exact .next h.collRun

/-! ## Reshape and links -/

theorem Inv.setReshape {n : Nat} (h : Inv mem tab s) : Inv mem tab (State.setReshape s n) := h.frame

theorem Inv.execReshapeGo {v : Word} (h : Inv mem tab s) : Lands mem tab (execReshapeGo v s) :=
  .ite (.next h) (.ite (.next h.setReshapeWord) (.ite (.next h.setReshapeWord.setReshape) (.next h.setReshapeWord.frame)))

theorem Inv.resume (h : Inv mem tab s) : Inv mem tab (resume s) := h.frame.tellUnreached.wakeCutOff

theorem Inv.settleReshape (h : Inv mem tab s) : Inv mem tab (settleReshape s) := .ite h.resume h

theorem Inv.execReshapeDrainDone (h : Inv mem tab s) : Lands mem tab (execReshapeDrainDone s) :=
  .ite (.next h.frame.settleReshape) (.next h)

theorem Inv.execReshapeDrainTimeout (h : Inv mem tab s) : Lands mem tab (execReshapeDrainTimeout s) := .ite (.next h.setReshape) (.next h)

theorem Inv.execPortRelock {p : Fin 128} {m : Byte} {peer : Fin 128} (h : Inv mem tab s) : Lands mem tab (execPortRelock p m peer s) :=
  .ite (.next h.setEdgePort.setReshape.settleReshape) (.next h)

theorem Inv.execPortRelockTimeout {p : Fin 128} (h : Inv mem tab s) : Lands mem tab (execPortRelockTimeout p s) :=
  .ite (.next h.frame.settleReshape) (.next h)

theorem Inv.execLinkLoss {p : Fin 128} (h : Inv mem tab s) : Lands mem tab (execLinkLoss p s) := .ite (.next h.setEdgePort) (.next h)

theorem Inv.logOut {q : OutReq} (h : Inv mem tab s) : Inv mem tab (logOut s q) := h.logFault

theorem Inv.execLinkDeclaredDown {p : Fin 128} (h : Inv mem tab s) : Lands mem tab (execLinkDeclaredDown p s) := by
  unfold Machine.execLinkDeclaredDown
  dsimp only
  split
  · exact .next h
  · refine .ite (.next h) ?_
    have hl : Inv mem tab ((Machine.outBy s p.val).foldl Machine.logOut s) := h.foldl fun h => h.logOut
    refine .next (Inv.recastReady (.wakeCutOff (.tellUnreached (.setEdgePort (.frame ?_)))))
    exact (hl.foldl fun h => h.breakStage).foldl fun h => h.send

end Sys2Proof.Invariant
end

section
/-! # Every instruction and every event (O60) -/

namespace Sys2Proof.Invariant

open Sys2Proof.Machine Sys2Proof.Safety

-- `fun_cases` starts more threads than the check's memory limit allows when proofs are elaborated side by side.
set_option Elab.async false

variable {mem tab : Prop} {s : State}

theorem Inv.flt1 {c : Cue} {d : Dst} {a : Src} {p : PAct} {f : Mode → Nat → Nat × Flags} (h : Inv mem tab s) :
    Lands mem tab (flt1 c d a p f s) :=
  h.fire h.result

theorem Inv.flt2 {c : Cue} {d : Dst} {a b : Src} {p : PAct} {f : Mode → Nat → Nat → Nat × Flags} (h : Inv mem tab s) :
    Lands mem tab (flt2 c d a b p f s) :=
  h.fire h.result

theorem Inv.flt3 {c : Cue} {d : Fin 16} {a b : Src} {p : PAct} {f : Mode → Nat → Nat → Nat → Nat × Flags} (h : Inv mem tab s) :
    Lands mem tab (flt3 c d a b p f s) :=
  h.fire h.result

theorem Inv.load0 {c : Cue} {d : Dst} {p : PAct} {f : State → Word} (h : Inv mem tab s) : Lands mem tab (load0 c d p f s) :=
  h.fire h.result

theorem Inv.inspect {c : Cue} {d : Dst} {q : Fin 8} {p : PAct} {f : QWord → Word} (h : Inv mem tab s) :
    Lands mem tab (inspect c d q p f s) :=
  h.fire h.result

theorem Inv.pred2 {c : Cue} {d : Fin 8} {f : Context → Bool} (h : Inv mem tab s) : Lands mem tab (pred2 c d f s) := h.fire h.onCtx

theorem Inv.amoFire {fn : AmoFn} {c : Cue} {ord : Ord} {wr : Fin 4} {off : BitVec 12} {d : Fin 8} {a : Option Src} {p : PAct}
    (h : Inv mem tab s) :
    Lands mem tab (amoFire fn c ord wr off d a p s) :=
  h.reqFire

theorem Inv.amodFire {fn : AmoFn} {c : Cue} {ord : Ord} {wr : Fin 4} {off : BitVec 12} {d : Fin 4} {a : Option (Fin 8)} {p : PAct}
    (h : Inv mem tab s) :
    Lands mem tab (amodFire fn c ord wr off d a p s) :=
  h.reqFire

theorem Inv.redFire {fn : RedFn} {c : Cue} {rel : Bool} {wr : Fin 4} {off : BitVec 12} {a : Src} {p : PAct} (h : Inv mem tab s) :
    Lands mem tab (redFire fn c rel wr off a p s) :=
  h.reqFire

theorem Inv.sendWord {o : Fin 8} {p : PAct} {v : Word} {tag : Byte} {x : Bool} (h : Inv mem tab s) :
    Does mem tab (sendWord o p v tag x s) :=
  .done h.setCur

theorem Inv.execPutr {c : Cue} {k : Fin 4} {r : Fin 8} {a b : Src} {p : PAct} (h : Inv mem tab s) :
    Lands mem tab (execPutr c k r a b p s) :=
  h.fire (.ite .fault h.onCell)

theorem Inv.execPutrNameWalk {n : Nat} (h : Inv mem tab s) : Lands mem tab (execPutrNameWalk n s) := .ite (.next h) (.next h.setCell)

/-- Every instruction and every event keeps the invariants: those that share a firing, and those with a meaning of their own. -/
theorem Inv.exec {i : Instr} (h : Inv mem tab s) : Lands mem tab (exec i s) := by
  cases i <;> unfold Machine.exec
  case add | sub | and | or | xor | sll | srl | sra | mul | mulh | mulhu | min | max | minu | maxu | seq | sne | slt | sltu | lea =>
    exact h.int2
  case sel | insr | madd | decp => exact h.fire h.result
  case div | divu | rem | remu => exact h.divStart
  case addi | andi | ori | xori | slli | srli | srai | slti | sltiu | seqi | mov | not | neg | abs | clz | ctz | popc | brev | sextb
    | sexth | zextb | zexth | fabs | fneg | fclass | addip | addipHi | cmpiEq | cmpiNe | cmpiLt | cmpiLtu | extr | extrS => exact
    h.int1
  case li | qcnt | pmovx | fcrRd | liw | wGet => exact h.load0
  case fadd | fsub | fmul | fmin | fmax | feq | flt | fle => exact h.flt2
  case fma | fnms => exact h.flt3
  case cvtFi | cvtIf | cvtFn | cvtNf | frnd | cvtBf | cvtFb | cvtHf | cvtFh | cvtE4f | cvtFe4 | cvtE5f | cvtFe5 => exact h.flt1
  case tag | xbit => exact h.inspect
  case send | sendi => exact h.fire h.sendWord
  case join | fcrWr => exact h.fire (.done h.setCur)
  case drop | psetx | nop | fenceW | fenceC | fenceAll | phaseEnd | presClr | wSet | wAdd | wAddi => exact h.fire h.onCtx
  case ldw | ldh | ldhu | ldb | ldbu | ldwp | ldhp | ldhup | ldbp | ldbup => exact h.loadOp
  case stw | sth | stb => exact h.storeOp
  case pand | por | pxor | pnot => exact h.pred2
  case vadd | vsub | vmul | vfma | vmin | vmax | vand | vor | vxor | vshl | vshr | vsra | vceq | vclt | vcle | vsel | vcvt | vbcast
    | vext | vins | vperm | vrsum | vrmax | vrmin | vabs | vneg | vmov | vldexp | vdot2 | vclamp => exact h.vecFire
  case sfExp2 | sfLog2 | sfRcp | sfRsq | sfSqrt | sfTanh | sfSigm | sfSin | sfCos => exact h.sfFire
  case mxMma | mxGmma | mxZero | mxLda | mxRda | mxScale => exact h.mxFire
  case scCfg | scReset => exact h.fire h.resetEff
  case scAgg | scAggRel => exact h.fire h.aggEff
  case sgSetBase | sgSetCtl | sgSetLv => exact h.sgSet
  case sgStatCtl | sgStatIdx | sgStatOcc | gStatCnt | gStatHead | gStatTail | cpStatDep | cpStatEng | barStat | pwrRd | timeRdHi |
    cycRdHi | cycRdFired | cycRdIdle | idRd => exact h.stat0
  case gSetW0 | gSetW1 => exact h.gSet
  case gAdvPop | tsend | cpCancel | halt => exact h.fire h.onCell
  case cpArm | cpArmSet => exact h.fire h.armEff
  case cpFire | cpFireNow => exact h.cpFire
  case cpGet | cpPut => exact h.direct
  case wstw | wstd | wstv | waita | wpoke => exact h.reqFire
  case amoAdd | amoAnd | amoOr | amoXor | amoMin | amoMax | amoMinn | amoMaxn | amoSwap | amoCas | amoLd => exact h.amoFire
  case amodAdd | amodAnd | amodOr | amodXor | amodMin | amodMax | amodMinn | amodMaxn | amodSwap | amodCas | amodLd => exact
    h.amodFire
  case redAddI32 | redAddF32 | redAddBf16x2 | redMaxF32 | redMinF32 | redAnd | redOr | redXor => exact h.redFire
  case barArr | barArrRel => exact h.fire h.arriveEff
  case phase | phaseGang => exact h.fire h.phaseEff
  case trap | trapPark => exact h.fire h.trapEff
  case timeRd | cycRd => exact h.latchRead
  case copyBlock => exact h.copyTurn
  case wordDeliver | tileArrive => exact h.deliver
  case putr => exact h.execPutr
  case fenceL => exact h.execFenceL
  case vld => exact h.execVld
  case vst => exact h.execVst
  case mxIssue => exact h.execMxIssue
  case scLocal => exact h.execScLocal
  case scPfx => exact h.execScPfx
  case scApply => exact h.execScApply
  case sgGo => exact h.execSgGo
  case sgHalt => exact h.execSgHalt
  case gAdvPush => exact h.execGAdvPush
  case mark => exact h.execMark
  case phaseEndGang => exact h.execPhaseEndGang
  case bkpt => exact h.execBkpt
  case cfgRd => exact h.execCfgRd
  case cfgWr => exact h.execCfgWr
  case slotLd => exact h.execSlotLd
  case cueWr => exact h.execCueWr
  case cueEn => exact h.execCueEn
  case vectorBeat => exact h.execVectorBeat
  case sliceAccessResume => exact h.execSliceAccessResume
  case divideResult => exact h.execDivideResult
  case sfServiceStart => exact h.execSfServiceStart
  case sfResultWrite => exact h.execSfResultWrite
  case lineFillComplete => exact h.execLineFillComplete
  case fenceLComplete => exact h.execFenceLComplete
  case mergeWindowClose => exact h.execMergeWindowClose
  case sgTransfer => exact h.execSgTransfer
  case mxCommandStart => exact h.execMxCommandStart
  case mxCommandComplete => exact h.execMxCommandComplete
  case copyStart => exact h.execCopyStart
  case copyComplete => exact h.execCopyComplete
  case tsendUnit => exact h.execTsendUnit
  case oqWordSend => exact h.execOqWordSend
  case meshFlitForward => exact h.execMeshFlitForward
  case putrNameWalk => exact h.execPutrNameWalk
  case putrDeliver => exact h.execPutrDeliver
  case releaseStationIssue => exact .next h.stationIssue
  case translationWalk => exact h.execTranslationWalk
  case suuAccept => exact h.execSuuAccept
  case suuApply => exact h.execSuuApply
  case ackReceive => exact h.execAckReceive
  case responseReceive => exact h.execResponseReceive
  case waitaTimeout => exact h.execWaitaTimeout
  case markerRecorded => exact h.execMarkerRecorded
  case barrierComplete => exact h.execBarrierComplete
  case scanCombine => exact h.execScanCombine
  case phaseGrant => exact h.execPhaseGrant
  case phaseWindowEnd => exact h.execPhaseWindowEnd
  case clockMaskApply => exact h.execClockMaskApply
  case faultRecordDeliver => exact h.execFaultRecordDeliver
  case recordDivert => exact h.execRecordDivert
  case launch => exact h.execLaunch
  case launchAccept => exact h.execLaunchAccept
  case placement => exact h.execPlacement
  case requestAged => exact h.execRequestAged
  case forcedPreempt => exact h.execForcedPreempt
  case sceneInstall => exact h.execSceneInstall
  case curtainUp => exact h.execCurtainUp
  case curtainDown => exact h.execCurtainDown
  case stallReport => exact h.execStallReport
  case sceneWatchdog => exact .next h.watchdog
  case heartbeatPoll => exact h.execHeartbeatPoll
  case cellSelfTest => exact h.execCellSelfTest
  case preempt => exact h.execPreempt
  case restore => exact h.execRestore
  case drainAndSwap => exact h.execDrainAndSwap
  case mappingUpdate => exact h.execMappingUpdate
  case stageWithdraw => exact h.execStageWithdraw
  case hostEndStage => exact h.execHostEndStage
  case hostRelease => exact h.execHostRelease
  case ingressDoorbell => exact h.execIngressDoorbell
  case tokenDeliver => exact h.execTokenDeliver
  case apertureWrite => exact h.execApertureWrite
  case apertureRead => exact h.execApertureRead
  case egressEntryWrite => exact h.execEgressEntryWrite
  case pciePortDown => exact h.execPciePortDown
  case pciePortUp => exact h.execPciePortUp
  case pcapWrite => exact h.execPcapWrite
  case domainCommit => exact h.execDomainCommit
  case portTraining => exact h.execPortTraining
  case collectiveEnable => exact h.execCollectiveEnable
  case collectiveRound => exact h.execCollectiveRound
  case reshapeGo => exact h.execReshapeGo
  case reshapeDrainDone => exact h.execReshapeDrainDone
  case reshapeDrainTimeout => exact h.execReshapeDrainTimeout
  case portRelock => exact h.execPortRelock
  case portRelockTimeout => exact h.execPortRelockTimeout
  case linkLoss => exact h.execLinkLoss
  case linkDeclaredDown => exact h.execLinkDeclaredDown
  case sobSubmit => exact h.execSobSubmit
  case sobCheckDone => exact h.execSobCheckDone
  case sobOreqCasting => exact h.execSobOreqCasting
  case sobOreqQuote => exact h.execSobOreqQuote
  case sobOreqCert => exact h.execSobOreqCert
  case powerOnBoot => exact h.execPowerOnBoot
  case registerWrite => exact h.execRegisterWrite
  case clockStretch => exact h.execClockStretch

end Sys2Proof.Invariant
end

section
/-! # A turn of the machine keeps the invariants: O60 -/

namespace Sys2Proof.Invariant

open Sys2Proof.Machine Sys2Proof.Safety

-- `fun_cases` starts more threads than the check's memory limit allows when proofs are elaborated side by side.
set_option Elab.async false

section
variable {mem tab : Prop} {s : State}

/-! ## One turn -/

/-- The same for the instructions that the decoder keeps apart. -/
theorem Inv.execLx {x : Lx} (h : Inv mem tab s) : Lands mem tab (execLx x s) := by
  cases x <;> unfold Machine.execLx
  case addip | addipHi | cmpiEq | cmpiNe | cmpiLt | cmpiLtu | extr | extrS => exact h.int1
  case lea => exact h.int2
  case insr | madd | decp => exact h.fire h.result
  case wSet | wAdd | wAddi => exact h.fire h.onCtx
  case wGet => exact h.load0
  case ldwp | ldhp | ldhup | ldbp | ldbup => exact h.loadOp

theorem Inv.execDecoded {d : Decoded} (h : Inv mem tab s) : Lands mem tab (execDecoded d s) :=
  match d with
  | .inl _ => h.exec
  | .inr _ => h.execLx

/-- A list of meanings that each keep the invariants. -/
theorem Inv.runAll {l : List (State → Out)} (h : Inv mem tab s) (hl : ∀ f ∈ l, ∀ {t}, Inv mem tab t → Lands mem tab (f t)) :
    Lands mem tab (runAll l s) := by
  induction l generalizing s with
  | nil => exact .next h
  | cons f r ih =>
    obtain ⟨hf, hr⟩ := List.forall_mem_cons.mp hl
    exact (hf h).andThen fun ht => ih ht hr

/-- A meaning for each of some numbers. -/
theorem Inv.runMap {α : Type} {l : List α} {f : α → State → Out} (h : Inv mem tab s) (hf : ∀ a {t}, Inv mem tab t → Lands mem tab (f a t)) :
    Lands mem tab (Machine.runAll (l.map f) s) :=
  h.runAll fun _ hm => by obtain ⟨a, -, rfl⟩ := List.mem_map.mp hm; exact hf a

theorem Inv.dueSteps {n : Nat} (h : Inv mem tab s) : Lands mem tab (Machine.runAll (dueSteps n) s) := by
  refine h.runAll fun f hm t ht => ?_
  rcases List.mem_append.mp hm with hm | hm
  · fin_cases hm
    · exact ht.execMxCommandComplete
    · exact ht.execMxCommandStart
    · exact ht.execCopyComplete
    · exact ht.execCopyComplete
    · exact ht.execCopyStart
    · exact ht.execCopyStart
    · exact ht.execFenceLComplete
    · exact ht.execPutrNameWalk
    · exact ht.ownPrefixes
  · obtain ⟨k, -, hk⟩ := List.mem_flatMap.mp hm
    fin_cases hk
    · exact ht.execPhaseWindowEnd
    · exact ht.execPhaseGrant
    · exact ht.execWaitaTimeout

theorem Inv.lateSteps {n : Nat} {c : CellState} (h : Inv mem tab s) : Lands mem tab (Machine.runAll (lateSteps n c) s) := by
  refine h.runAll fun f hm t ht => ?_
  rcases List.mem_append.mp hm with hm | hm
  · fin_cases hm
    · exact ht.execDivideResult
    · exact ht.execSfResultWrite
  · obtain ⟨l, -, rfl⟩ := List.mem_map.mp hm
    exact ht.execLineFillComplete

theorem Inv.badCueRecords {n : Nat} (h : Inv mem tab s) : Inv mem tab (badCueRecords s n) := h.foldl fun h => h.setCell.cellRecord

/-- What a slot fires keeps the invariants: nothing of them speaks of the slot that the machine looks at. -/
theorem Inv.trySlot {n k : Nat} {o : Out} (h : Inv mem tab s) (ho : trySlot s n k = some o) : Lands mem tab o := by
  have run (d : Decoded) (f : Focus) : Lands mem tab (Machine.execDecoded d { s with focus := f }) := h.frame.execDecoded
  revert ho
  fun_cases Machine.trySlot s n k with
  | case1 d x hx hd t ht hf => rintro ⟨⟩; exact ht ▸ run d ⟨n, k, x⟩
  | case2 => exact nofun
  | case3 d x hx hd hn => rintro ⟨⟩; exact run d ⟨n, k, x⟩
  | case4 => exact nofun

theorem Inv.arbitrate {n k fuel : Nat} (h : Inv mem tab s) : Lands mem tab (arbitrate s n k fuel) := by
  induction fuel generalizing k with
  | zero => exact .next h.setCell
  | succ m ih =>
    unfold Machine.arbitrate
    split
    next ho => exact h.trySlot ho
    next => exact ih

theorem Inv.cycleWork {n : Nat} (h : Inv mem tab s) : Lands mem tab (cycleWork s n) := by
  fun_cases Machine.cycleWork s n
  · exact h.arbitrate
  · exact .next h
  · exact .next h.setCell
  · exact h.execVectorBeat
  · exact h.execSliceAccessResume
  · exact .next h.fenceIssue
  · exact .next h.slotLdCycle

theorem Inv.placeRecords {n : Nat} {k : Fin 4} (h : Inv mem tab s) : Inv mem tab (placeRecords s n k) := by
  fun_cases Machine.placeRecords s n k
  · exact h.setCell
  · exact h.setCell
  · exact h
  · exact h

theorem Inv.cycleEnd {n : Nat} {ordered : Bool} {want : List Nat} {portA : Bool} (h : Inv mem tab s) :
    Inv mem tab (cycleEnd s n ordered want portA) :=
  Inv.setCell (((h.foldl fun h => h.stationIssue).foldl fun h => h.putRelease).foldl fun h => h.placeRecords)

theorem Inv.cellFire {n : Nat} (h : Inv mem tab s) : Lands mem tab (cellFire s n) := by
  unfold Machine.cellFire
  refine (h.badCueRecords.ite h).setCell.cycleWork.andThen fun ht => ?_
  exact .ite (ht.lateSteps.andThen fun hu => .next hu.cycleEnd) (.next ht)

theorem Inv.cellCycle {n : Nat} (h : Inv mem tab s) : Lands mem tab (cellCycle s n) :=
  .ite (h.setCell.askPort.dueSteps.andThen fun h => h.cellFire) (.next h)

theorem Inv.closeDue {fuel : Nat} (h : Inv mem tab s) : Lands mem tab (closeDue s fuel) := by
  induction fuel generalizing s with
  | zero => exact .next h
  | succ k ih =>
    unfold Machine.closeDue
    split
    next i _ =>
      refine (Inv.execMergeWindowClose ?_).andThen fun ht => ih ht
      split
      · exact h.serve
      · exact h
    next => exact .next h

theorem Inv.restartStalls (h : Inv mem tab s) : Inv mem tab (restartStalls s) :=
  h.withStages fun hs => Rising.map hs fun e => by dsimp only; split_ifs <;> rfl

theorem Inv.stripEnd (h : Inv mem tab s) : Lands mem tab (stripEnd s) := by
  unfold Machine.stripEnd
  have start : Inv mem tab { s with strip := s.strip + 1, turn := 0, links := [] } := h.frame
  have saved {t} (h : Inv mem tab t) : Inv mem tab (t.stages.foldl (fun s e => Machine.dueSaved s e.1) t) := h.foldl fun h => h.dueSaved
  have h := saved start.landPosted.mapsDone.landReleases.sendWaiting
  refine (Inv.ite h.frame h).closeDue.andThen fun h => ?_
  refine (h.runMap fun _ _ h => h.hostStep).andThen fun h => ?_
  refine (h.runMap fun _ _ h => h.execSfServiceStart).andThen fun h => ?_
  refine Lands.andThen (h.runAll fun f hm t ht => ?_) fun h => ?_
  · obtain ⟨e, -, hk⟩ := List.mem_flatMap.mp hm
    obtain ⟨k, -, rfl⟩ := List.mem_map.mp hk
    exact ht.execWaitaTimeout
  refine (h.runMap fun _ _ h => h.execCurtainDown).andThen fun h => ?_
  exact .next (.ite h.recastReady.restartStalls h.recastReady)

theorem Inv.matrixTurn {n : Nat} (h : Inv mem tab s) : Inv mem tab (matrixTurn s n) := .ite h.setCell h

theorem Inv.portTurn {i : Instr} {n k : Nat} (h : Inv mem tab s) : Lands mem tab (portTurn i n k s) :=
  .ite h.matrixTurn.setCell.exec (.next h.matrixTurn)

theorem Inv.agendaTurn {i : Instr} (h : Inv mem tab s) : Lands mem tab (agendaTurn i s) := by
  unfold Machine.agendaTurn
  split_ifs
  · cases portOf i s with
    | none => exact h.exec
    | some q => exact h.portTurn
  · exact .next h

theorem Inv.cellTurn (h : Inv mem tab s) : Lands mem tab (cellTurn s) := by
  unfold Machine.cellTurn
  split
  · exact h.frame.cellCycle
  · exact h.stripEnd

theorem Inv.step (h : Inv mem tab s) : Lands mem tab (step s) := by
  unfold Machine.step
  split
  · exact h.frame.agendaTurn
  · exact h.cellTurn

end

theorem memOk_step {s t : State} (h : MemOk s) (hs : step s = .next t) : MemOk t :=
  (Inv.step (mem := True) (tab := False) ⟨fun _ => h, nofun⟩ t hs).1 trivial

theorem tablesOk_step {s t : State} (h : TablesOk s) (hs : step s = .next t) : TablesOk t :=
  (Inv.step (mem := False) (tab := True) ⟨nofun, fun _ => h⟩ t hs).2 trivial

/-- Settles O60, function by function: `Inv.step` at the one and at the other invariant. -/
theorem stepKeepsInvariants : Obligations.StepKeepsInvariants :=
  ⟨fun _ _ h hs => memOk_step h hs, fun _ _ h hs => tablesOk_step h hs⟩

end Sys2Proof.Invariant
end

section
/-! # Writes of the host (O50) -/

namespace Sys2Proof.HostWrites

open Sys2Proof.Machine Sys2Proof.Safety

/-! ## The bits that a mask names -/

theorem testBit_setBits {old new mask : Nat} (ho : old < 2 ^ 32) (hm : mask < 2 ^ 32) (i : Nat) :
    (setBits old new mask).testBit i = if mask.testBit i then new.testBit i else old.testBit i := by
  have hf : (0xFFFFFFFF : Nat).testBit i = decide (i < 32) := Nat.testBit_two_pow_sub_one 32 i
  rw [setBits, Nat.testBit_or, Nat.testBit_and, Nat.testBit_and, Nat.testBit_xor, hf]
  by_cases hi : i < 32
  · cases mask.testBit i <;> simp [hi]
  · have above {n : Nat} (hn : n < 2 ^ 32) : n.testBit i = false :=
      Nat.testBit_lt_two_pow (hn.trans_le (Nat.pow_le_pow_right (by decide) (by omega)))
    simp [above ho, above hm]

theorem setBits_lt {old new mask : Nat} (hm : mask < 2 ^ 32) : setBits old new mask < 2 ^ 32 :=
  Nat.or_lt_two_pow (Nat.and_lt_two_pow _ (Nat.xor_lt_two_pow hm (by decide))) (Nat.and_lt_two_pow _ hm)

theorem toNat_setHalf_low {d : DWord} {v mask : Nat} (hm : mask < 2 ^ 32) :
    (setHalf d false v mask).toNat = setBits (d.toNat % 2 ^ 32) v mask + d.toNat / 2 ^ 32 * 2 ^ 32 := by
  have hb : setBits (d.toNat % 2 ^ 32) v mask < 2 ^ 32 := setBits_lt hm
  have hd := d.isLt
  simp only [setHalf, Bool.false_eq_true, if_false, BitVec.toNat_ofNat]
  omega

theorem toNat_setHalf_high {d : DWord} {v mask : Nat} (hm : mask < 2 ^ 32) :
    (setHalf d true v mask).toNat = d.toNat % 2 ^ 32 + setBits (d.toNat / 2 ^ 32) v mask * 2 ^ 32 := by
  have hb : setBits (d.toNat / 2 ^ 32) v mask < 2 ^ 32 := setBits_lt hm
  simp only [setHalf, if_true, BitVec.toNat_ofNat]
  omega

section
variable {s : State}

/-! ## Doorbells -/

theorem serving_iff : s.serving = true ↔ s.host.modState = 1 ∨ s.host.modState = 2 := by
  simp [State.serving]

theorem doorbell_not_ready {port : Fin 8} {off : Nat} {v : DWord} (h1 : s.host.modState ≠ 1) (h2 : s.host.modState ≠ 2) :
    exec (.ingressDoorbell port off v) s = .next s :=
  if_pos (.inl (by simp [State.serving, h1, h2]))

/-- What a doorbell write comes to that nothing stops at the door. -/
theorem doorbell_ready {port : Fin 8} {k : Nat} {v : DWord} (hs : s.host.modState = 1 ∨ s.host.modState = 2)
    (hp : s.portUp port = true) (hk : k < 131072) (hv : v.toNat < 2 ^ 40) :
    exec (.ingressDoorbell port (16 * k) v) s =
      let c := s.chan k
      let w : QWord := ⟨v.setWidth 32, v.extractLsb' 32 8, false⟩
      if s.host.badPayload[port] then .next (s.badHost port (c.bound.map (·.1)))
      else if c.bound.isNone || decide (16 ≤ c.tokens.length) then .next (s.setChan k { c with discards := min (c.discards + 1) 0xFFFF })
      else .next { s with host := { s.host with
        chans := s.host.chans.put k { c with tokens := c.tokens ++ [(w, port, s.host.tokenNo)] }
        tokenNo := s.host.tokenNo + 1 } } := by
  have hd : 16 * k / 16 = k := by omega
  have admitted : ¬ (s.serving = false ∨ s.portUp port = false ∨ 16 * k % 16 ≠ 0 ∨ 131072 ≤ k ∨ v.toNat / 2 ^ 40 ≠ 0) := by
    simp only [serving_iff.mpr hs, hp, Bool.true_eq_false, false_or]
    omega
  show execIngressDoorbell port (16 * k) v s = _
  unfold execIngressDoorbell
  rw [hd]
  exact if_neg admitted

theorem doorbell_taken {port : Fin 8} {k : Nat} {v : DWord} {b : Nat × Nat × Fin 8} (hs : s.host.modState = 1 ∨ s.host.modState = 2)
    (hp : s.portUp port = true) (hk : k < 131072) (hv : v.toNat < 2 ^ 40) (hg : s.host.badPayload[port] = false)
    (hb : (s.chan k).bound = some b) (hr : (s.chan k).tokens.length < 16) :
    exec (.ingressDoorbell port (16 * k) v) s = .next { s with host := { s.host with
      chans := s.host.chans.put k { s.chan k with
        tokens := (s.chan k).tokens ++ [(⟨v.setWidth 32, v.extractLsb' 32 8, false⟩, port, s.host.tokenNo)] }
      tokenNo := s.host.tokenNo + 1 } } := by
  rw [doorbell_ready hs hp hk hv]
  simp [hg, hb, Nat.not_le.mpr hr]

theorem doorbell_discarded {port : Fin 8} {k : Nat} {v : DWord} (hs : s.host.modState = 1 ∨ s.host.modState = 2)
    (hp : s.portUp port = true) (hk : k < 131072) (hv : v.toNat < 2 ^ 40) (hg : s.host.badPayload[port] = false)
    (hd : (s.chan k).bound = none ∨ 16 ≤ (s.chan k).tokens.length) :
    exec (.ingressDoorbell port (16 * k) v) s =
      .next (s.setChan k { s.chan k with discards := min ((s.chan k).discards + 1) 0xFFFF }) := by
  rw [doorbell_ready hs hp hk hv]
  rcases hd with hd | hd <;> simp [hg, hd]

/-! ## A failed check is reported, and nothing of the doorbell side changes -/

/-- What the doorbell side keeps: the channels, and which ports' next write fails its check. -/
def door (s : State) : AMap Channel × Vector Bool 8 := (s.host.chans, s.host.badPayload)

theorem door_writeEntry {q bytes : Nat} {wait : Bool} : door (writeEntry s q bytes wait) = door s := by
  unfold writeEntry
  dsimp only
  split_ifs <;> rfl

theorem door_writeHeld {q : Nat} : door (writeHeld s q) = door s := by
  unfold writeHeld
  dsimp only
  split
  · rfl
  · split_ifs
    · exact door_writeEntry
    · rfl

theorem door_postCe {q : Nat} {l : List Word} : door (postCe s q l) = door s := by
  unfold postCe
  dsimp only
  split_ifs
  · rfl
  · exact door_writeHeld
  · rfl

theorem door_complete {st ty : Nat} {l : List Word} : door (s.complete st ty l) = door s := by
  unfold State.complete
  split_ifs
  · exact door_postCe
  · rfl

theorem door_logFault {id count : Nat} {r : Record} {div : Bool} : door (s.logFault id r count div) = door s := by
  unfold State.logFault
  dsimp only
  split_ifs <;> rfl

theorem door_hostRecord {st : Nat} {r : Record} : door (s.hostRecord st r) = door s :=
  door_complete.trans door_logFault

theorem door_foldl_postCe {l : List (Nat × Egress)} {f : Nat × Egress → List Word} :
    door (l.foldl (fun s e => postCe s e.1 (f e)) s) = door s := by
  induction l generalizing s with
  | nil => rfl
  | cons e r ih => exact ih.trans door_postCe

theorem door_portRecord {port : Fin 8} {r : Record} : door (s.portRecord port r) = door s :=
  door_foldl_postCe.trans rfl

theorem door_badHost {port : Fin 8} {st : Option Nat} :
    door (s.badHost port st) = (s.host.chans, vset s.host.badPayload port false) := by
  cases st with
  | none => exact door_portRecord
  | some id => exact door_hostRecord

theorem doorbell_failed {port : Fin 8} {k : Nat} {v : DWord} (hs : s.host.modState = 1 ∨ s.host.modState = 2)
    (hp : s.portUp port = true) (hk : k < 131072) (hv : v.toNat < 2 ^ 40) (hg : s.host.badPayload[port] = true) :
    ∃ t, exec (.ingressDoorbell port (16 * k) v) s = .next t ∧ t.host.chans = s.host.chans ∧ t.host.badPayload[port] = false := by
  obtain ⟨hc, hb⟩ := Prod.mk.inj (door_badHost (s := s) (port := port) (st := (s.chan k).bound.map (·.1)))
  refine ⟨_, (doorbell_ready hs hp hk hv).trans (if_pos hg), hc, ?_⟩
  rw [hb]
  simp [vset]

/-! ## Tokens -/

theorem tokenBehind_of_alone {k no : Nat} {b : Nat × Nat × Fin 8} {port : Fin 8}
    (h : ∀ e ∈ s.host.chans, e.1 ≠ k → e.2.bound ≠ some b) : tokenBehind s k b port no = false := by
  simp only [tokenBehind, List.any_eq_false, Bool.and_eq_true, decide_eq_true_eq, not_and]
  exact fun e he hb => absurd hb.2 (h e he hb.1)

theorem tokenEarly_of_older {no : Nat} {port : Fin 8} (h : ∀ x ∈ s.host.work, x.port = port → x.write = true → no ≤ x.no) :
    tokenEarly s port no = false := by
  simp only [tokenEarly, List.any_eq_false, Bool.and_eq_true, decide_eq_true_eq, not_and, and_imp]
  exact fun x hx hp hw => Nat.not_lt.mpr (h x hx hp hw)

theorem token_delivered {k st cell no : Nat} {q port : Fin 8} {w : QWord} {rest : List (QWord × Fin 8 × Nat)}
    (hb : (s.chan k).bound = some (st, cell, q)) (ht : (s.chan k).tokens = (w, port, no) :: rest) (hf : s.fed st cell q = true)
    (ha : ∀ e ∈ s.host.chans, e.1 ≠ k → e.2.bound ≠ some (st, cell, q))
    (ho : ∀ x ∈ s.host.work, x.port = port → x.write = true → no ≤ x.no)
    (hr : ((s.cell ((s.stage st).cellNum cell)).iq[q]).length * 4 + s.flying (.queue ((s.stage st).cellNum cell) q) + 4 ≤ 32) :
    exec (.tokenDeliver k) s = .next ((s.setChan k { s.chan k with tokens := rest }).setCell ((s.stage st).cellNum cell)
      { s.cell ((s.stage st).cellNum cell) with
        iq := vset (s.cell ((s.stage st).cellNum cell)).iq q ((s.cell ((s.stage st).cellNum cell)).iq[q] ++ [w]) }) := by
  have room : roomAt s (.queue ((s.stage st).cellNum cell) q) 4 = true := decide_eq_true hr
  show execTokenDeliver k s = _
  unfold execTokenDeliver
  simp only [hb, ht, hf, room, tokenBehind_of_alone ha, tokenEarly_of_older ho, Bool.not_false, Bool.and_self, if_true]
  rfl

/-! ## Register words

`registerSet` looks up the word in the areas of the management window; each lemma below is one area. -/

section Registers
variable {off : Nat} {x : Word}

theorem exec_registerWrite (hr : s.host.modState ≠ 14) (ha : off % 4 = 0) :
    exec (.registerWrite off x) s = .next (registerSet s off x) :=
  if_neg (by simp [ha, hr])

theorem bits_zero (w n : Nat) : bits w 0 n = w % 2 ^ n := by simp [bits]

theorem registerSet_aperture (h : off < 1024) :
    registerSet s (0x10000 + 4 * off) x = { s with host := { s.host with
      aper := s.host.aper.put (off / 2) (setHalf (AMap.getD s.host.aper (off / 2) 0) (decide (off % 2 = 1)) x.toNat
        (if off % 2 = 1 then 0xFFFFFF else 0xC0001FFF)) } } := by
  have hi : (0x10000 + 4 * off - 0x10000) / 8 = off / 2 := by omega
  have hw : (0x10000 + 4 * off) % 8 = 4 ↔ off % 2 = 1 := by omega
  simp (disch := omega) only [registerSet, if_pos, hi, hw, beq_eq_decide]

theorem registerSet_egress (h : off < 16384) :
    registerSet s (0x100000 + 4 * off) x = egressWord s (off / 4) (off % 4) x := by
  have hq : (0x100000 + 4 * off - 0x100000) / 16 = off / 4 := by omega
  have hj : (0x100000 + 4 * off) % 16 / 4 = off % 4 := by omega
  simp (disch := omega) only [registerSet, if_pos, if_neg, hq, hj]

theorem registerSet_window (h : off < 32768) :
    registerSet s (0x400000 + 4 * off) x = { s with host := { s.host with
      wins := s.host.wins.put (off / 2) (setHalf (AMap.getD s.host.wins (off / 2) 0) (decide (off % 2 = 1)) x.toNat
        (if off % 2 = 1 then 0xFFFFFFFF else 0xFFE00001)) } } := by
  have hi : (0x400000 + 4 * off - 0x400000) / 8 = off / 2 := by omega
  have hw : (0x400000 + 4 * off) % 8 = 4 ↔ off % 2 = 1 := by omega
  simp (disch := omega) only [registerSet, if_pos, if_neg, hi, hw, beq_eq_decide]

theorem registerSet_windowPorts (h : off < 4096) : registerSet s (0x600000 + 4 * off) x = windowPorts s (4 * off) x := by
  have hw : 0x600000 + 4 * off - 0x600000 = 4 * off := by omega
  simp (disch := omega) only [registerSet, if_pos, if_neg, hw]

theorem registerSet_domain (h : x.getLsbD 8 = false) :
    registerSet s 0x1000000 x = { s with edge := { s.edge with domNum := x.toNat % 2 ^ 8 } } := by
  simp (disch := omega) only [registerSet, if_pos, if_neg, h, Bool.false_eq_true, if_false, if_true]

theorem registerSet_domainPort (p : Fin 128) :
    registerSet s (0x1000100 + 4 * p.val) x =
      { s with edge := { s.edge with domPorts := vset s.edge.domPorts p (BitVec.ofNat 32 (x.toNat % 2 ^ 16)) } } := by
  have hp : Fin.ofNat 128 ((0x1000100 + 4 * p.val - 0x1000100) / 4) = p := Fin.ext (by simp only [Fin.val_ofNat]; omega)
  simp (disch := omega) only [registerSet, if_pos, if_neg, hp]
  rfl

theorem registerSet_collective (h : off < 1024) :
    registerSet s (0x1001000 + 4 * off) x = collWord s (Fin.ofNat 64 (off / 16)) (off % 16) x := by
  have hk : (0x1001000 + 4 * off - 0x1001000) / 64 = off / 16 := by omega
  have hj : (0x1001000 + 4 * off) % 64 / 4 = off % 16 := by omega
  simp (disch := omega) only [registerSet, if_pos, if_neg, hk, hj]

theorem registerSet_reshape (h : off < 230) (hg : off = 1 → x.getLsbD 16 = false) :
    registerSet s (0x1F00000 + 4 * off) x = s.setReshapeWord off x := by
  have hi : (0x1F00000 + 4 * off - 0x1F00000) / 4 = off := by omega
  have go : off = 1 ∧ x.getLsbD 16 = true → False := fun ⟨ho, hx⟩ => Bool.false_ne_true ((hg ho).symm.trans hx)
  have hw : 0x1F00000 + 4 * off = 0x1F00004 ↔ off = 1 := by omega
  simp (disch := omega) only [registerSet, if_pos, if_neg, hi, hw]

theorem registerSet_mailbox (h : off < 0x2000000) : registerSet s (0x2000000 + off) x = mailboxWord s off x := by
  have ho : 0x2000000 + off - 0x2000000 = off := by omega
  simp (disch := omega) only [registerSet, if_pos, if_neg, ho]

theorem registerSet_launchArea (h : off < 2 ^ 26) :
    registerSet s (0x10000000 + 4 * off) x =
      { s with host := { s.host with launchArea := s.host.launchArea.writeN (4 * off) 4 x.toNat } } := by
  have ho : 0x10000000 + 4 * off - 0x10000000 = 4 * off := by omega
  simp (disch := omega) only [registerSet, if_pos, if_neg, ho]

theorem registerSet_release (h : off < 4096) :
    registerSet s (0x100000010 + 0x800000 * off) x = { s with host := { s.host with release := s.host.release.put off x } } := by
  have ho : (0x100000010 + 0x800000 * off - 0x100000000) / 0x800000 = off := by omega
  simp (disch := omega) only [registerSet, if_pos, if_neg, ho]

/-! ### Egress descriptors (R367) -/

theorem egressWord_free {q j : Nat} (hb : (s.egress q).bound = none) (hj : j < 4) :
    egressWord s q j x = s.setEgress q (
      let e := s.egress q
      let n := x.toNat
      if j < 2 then { e with base := setHalf e.base (decide (j % 2 = 1)) n (if j = 0 then 0xFFFFF000 else 0xFFFFFFFF) }
      else if j = 2 then { e with
        log2n := n % 2 ^ 5, port := Fin.ofNat 8 (n / 2 ^ 5 % 2 ^ 3), cq := n.testBit 8, ien := n.testBit 9, vec := n / 2 ^ 10 % 2 ^ 11 }
      else { e with head := n % 2 ^ 21 }) := by
  simp only [egressWord, hb, Option.isNone_none, if_true, bits_zero]
  interval_cases j <;> rfl

theorem egressWord_head {q : Nat} : egressWord s q 3 x = s.setEgress q { s.egress q with head := x.toNat % 2 ^ 21 } := by
  simp only [egressWord, bits_zero]

theorem egressWord_bound {q j : Nat} (hb : (s.egress q).bound.isSome = true) (hj : j < 2 ∨ j = 2 ∧ s.portUp (s.egress q).port = true) :
    egressWord s q j x = s := by
  have hn : (s.egress q).bound.isNone = false := by simpa using hb
  rcases hj with hj | ⟨rfl, hp⟩
  · obtain rfl | rfl : j = 0 ∨ j = 1 := by omega
    · simp [egressWord, hn]
    · simp [egressWord, hn]
  · simp [egressWord, hn, hp]

theorem egressWord_port {q : Nat} (hb : (s.egress q).bound.isSome = true) (hp : s.portUp (s.egress q).port = false) :
    egressWord s q 2 x = s.setEgress q { s.egress q with port := Fin.ofNat 8 (x.toNat / 2 ^ 5 % 2 ^ 3) } := by
  have hn : (s.egress q).bound.isNone = false := by simpa using hb
  simp only [egressWord, hn, hp, Bool.false_eq_true, if_false]
  rfl

/-! ### Ports of windows (R368) -/

theorem get?_put {α : Type} (m : AMap α) (k j : Nat) (a : α) : AMap.get? (m.put k a) j = if j = k then some a else AMap.get? m j := by
  split_ifs with h
  · rw [h, AMap.get?_put_same]
  · exact AMap.get?_put_ne m a h

/-- Entries put at `w`, `w + 1`, … in turn. -/
theorem get?_foldl_put {α : Type} (m : AMap α) (w n i : Nat) (f : Nat → α) :
    AMap.get? ((List.range n).foldl (fun (m : AMap α) k => m.put (w + k) (f k)) m) i =
      if w ≤ i ∧ i < w + n then some (f (i - w)) else AMap.get? m i := by
  induction n with
  | zero => rw [if_neg (by omega)]; rfl
  | succ n ih =>
    rw [List.range_succ, List.foldl_append]
    simp only [List.foldl_cons, List.foldl_nil, get?_put, ih]
    by_cases hi : i = w + n
    · rw [if_pos hi, if_pos (by omega), hi, Nat.add_sub_cancel_left]
    · rw [if_neg hi]
      exact if_congr (by omega) rfl rfl

theorem get?_windowPorts (i : Nat) :
    AMap.get? (windowPorts s (4 * off) x).host.winPort i =
      if i / 4 = off then some (x.toNat / 2 ^ (8 * (i % 4)) % 8) else AMap.get? s.host.winPort i := by
  rw [windowPorts, get?_foldl_put]
  by_cases hi : i / 4 = off
  · have hm : i - 4 * off = i % 4 := by omega
    rw [if_pos hi, if_pos (by omega), hm]
  · rw [if_neg hi, if_neg (by omega)]

/-! ### Collective descriptors (R377) -/

theorem collWord_running {k : Fin 64} {j : Nat} (hv : (s.coll k).v = true) : collWord s k j x = s := if_pos hv

theorem collWord_open {k : Fin 64} {j : Nat} (hv : (s.coll k).v = false) (h1 : 1 ≤ j) (h9 : j ≤ 9) :
    collWord s k j x = s.setColl k (
      let c := s.coll k
      let half (d : DWord) : DWord := setHalf d (decide (j % 2 = 1)) x.toNat (if j % 2 = 1 then 0xFFFFFF else 0xFFFFFFFF)
      if j = 1 then { c with expect := x.toNat % 2 ^ 21 }
      else if j < 4 then { c with src := half c.src }
      else if j < 6 then { c with dst := half c.dst }
      else if j < 8 then { c with start := half c.start }
      else { c with doneA := half c.doneA }) := by
  simp only [collWord, hv, Bool.false_eq_true, if_false]
  interval_cases j
  · rw [← bits_zero]; rfl
  all_goals rfl

/-! ### The reshape order (R403) -/

theorem setReshapeWord_eq (h : 1 ≤ off) :
    s.setReshapeWord off x = { s with edge := { s.edge with reshape := { s.edge.reshape with
      words := s.edge.reshape.words.put off (BitVec.ofNat 32 (setBits (AMap.getD s.edge.reshape.words off 0).toNat x.toNat (
        if off = 1 then 0xFFFF else if off < 6 then 0xFFFFFFFF else if off < 38 then 0xFFFF0FFF
        else if off < 166 then 0xFFFF else 0xFFFFFFFF))) } } } := by
  have hm : reshapeMask off = if off = 1 then 0xFFFF else if off < 6 then 0xFFFFFFFF else if off < 38 then 0xFFFF0FFF
      else if off < 166 then 0xFFFF else 0xFFFFFFFF := if_neg (by omega)
  rw [State.setReshapeWord, hm]
  rfl

/-! ### The mailbox (R380) -/

theorem registerSet_ilen :
    registerSet s 0x2000000 x = { s with host := { s.host with mbox := { s.host.mbox with ilen := x.toNat % 2 ^ 24 } } } :=
  registerSet_mailbox (off := 0) (by decide)

theorem registerSet_inbox (h : off < 2 ^ 21) :
    registerSet s (0x2100000 + 4 * off) x =
      { s with host := { s.host with mbox := { s.host.mbox with inbox := s.host.mbox.inbox.writeN (4 * off) 4 x.toNat } } } := by
  have ha : 0x2100000 + 4 * off = 0x2000000 + (0x100000 + 4 * off) := by omega
  have ho : 0x100000 + 4 * off - 0x100000 = 4 * off := by omega
  rw [ha, registerSet_mailbox (by omega)]
  simp (disch := omega) only [mailboxWord, if_pos, if_neg, ho]

/-- The nonce with its word `i` replaced. -/
def setNonce (y : BitVec 256) (i : Nat) (x : Word) : BitVec 256 :=
  (y &&& ~~~(BitVec.ofNat 256 (0xFFFFFFFF * 2 ^ (32 * i)))) ||| BitVec.ofNat 256 (x.toNat * 2 ^ (32 * i))

theorem registerSet_nonce (hr : s.host.modState ≠ 14) (h : off < 8) :
    registerSet s (0x2000040 + 4 * off) x =
      { s with host := { s.host with mbox := { s.host.mbox with nonce := setNonce s.host.mbox.nonce off x } } } := by
  have ha : 0x2000040 + 4 * off = 0x2000000 + (0x40 + 4 * off) := by omega
  have ho : (0x40 + 4 * off - 0x40) * 8 = 32 * off := by omega
  rw [ha, registerSet_mailbox (by omega)]
  simp (disch := omega) only [mailboxWord, if_pos, if_neg, ho, hr]
  rfl

theorem getLsbD_setNonce {y : BitVec 256} {i j : Nat} (hj : j < 256) :
    (setNonce y i x).getLsbD j = if j / 32 = i then x.getLsbD (j % 32) else y.getLsbD j := by
  have hf (n : Nat) : (0xFFFFFFFF : Nat).testBit n = decide (n < 32) := Nat.testBit_two_pow_sub_one 32 n
  simp only [setNonce, BitVec.getLsbD_or, BitVec.getLsbD_and, BitVec.getLsbD_not, BitVec.getLsbD_ofNat, Nat.testBit_mul_two_pow, hf, hj,
    decide_true, Bool.true_and]
  by_cases hi : j / 32 = i
  · have hm : j - 32 * i = j % 32 := by omega
    have hlo : 32 * i ≤ j := by omega
    rw [if_pos hi, hm]
    simp [hlo, BitVec.getLsbD, Nat.mod_lt]
  · rw [if_neg hi]
    rcases Nat.lt_or_ge j (32 * i) with hlt | hge
    · simp [Nat.not_le.mpr hlt]
    · have hx : x.toNat.testBit (j - 32 * i) = false := BitVec.getLsbD_of_ge x _ (by omega)
      have hn : ¬ j - 32 * i < 32 := by omega
      simp [hx, hn]

end Registers

end

/-! ## O50 -/

/-- Settles O50, area by area: the bits of a masked write, doorbells, tokens, and one lemma for each area of the management window. -/
theorem hostWritesArrive : Obligations.HostWritesArrive := by
  refine ⟨fun _ _ _ i ho _ hm => testBit_setBits ho hm i, fun _ _ _ _ hm => ⟨toNat_setHalf_low hm, toNat_setHalf_high hm⟩, ?_⟩
  intro s port k st cell off q v w no rest
  refine ⟨doorbell_not_ready, fun hs hp hk hv => ⟨fun hg => ⟨doorbell_taken hs hp hk hv hg, doorbell_discarded hs hp hk hv hg⟩,
    doorbell_failed hs hp hk hv⟩, token_delivered, fun x hr => ?_⟩
  have written {a : Nat} {t : State} (ha : a % 4 = 0) (ht : registerSet s a x = t) : exec (.registerWrite a x) s = .next t :=
    (exec_registerWrite hr ha).trans (congrArg _ ht)
  refine ⟨?aperture, ?egress, ?egressBound, ?egressPort, ?egressHead, ?window, ?windowPorts, ?domain, ?domainPort, ?collectiveRunning,
    ?collective, ?reshape, ?ilen, ?nonce, ?inbox, ?launchArea, ?release⟩
  case aperture => exact fun h => written (by omega) (registerSet_aperture h)
  case egress =>
    intro h hb
    refine written (by omega) ((registerSet_egress h).trans ((egressWord_free hb (Nat.mod_lt _ (by decide))).trans ?_))
    have hm : off % 4 % 2 = off % 2 := by omega
    rw [hm]
  case egressBound => exact fun h hb hj => written (by omega) ((registerSet_egress h).trans (egressWord_bound hb hj))
  case egressPort =>
    intro h hb hj hp
    refine written (by omega) ((registerSet_egress h).trans ?_)
    rw [hj]
    exact egressWord_port hb hp
  case egressHead =>
    intro h hj
    refine written (by omega) ((registerSet_egress h).trans ?_)
    rw [hj]
    exact egressWord_head
  case window => exact fun h => written (by omega) (registerSet_window h)
  case windowPorts => exact fun h => ⟨_, written (by omega) (registerSet_windowPorts h), rfl, get?_windowPorts⟩
  case domain => exact fun h => written (by omega) (registerSet_domain h)
  case domainPort => exact fun p => written (by omega) (registerSet_domainPort p)
  case collectiveRunning => exact fun h hv _ => written (by omega) ((registerSet_collective h).trans (collWord_running hv))
  case collective =>
    intro h hv h1 h9
    refine written (by omega) ((registerSet_collective h).trans ((collWord_open hv h1 h9).trans ?_))
    have hm : off % 16 % 2 = off % 2 := by omega
    rw [hm]
  case reshape => exact fun h1 h hg => written (by omega) ((registerSet_reshape h hg).trans (setReshapeWord_eq h1))
  case ilen => exact written (by decide) registerSet_ilen
  case nonce => exact fun h => ⟨_, written (by omega) (registerSet_nonce hr h), fun _ => getLsbD_setNonce⟩
  case inbox => exact fun h => written (by omega) (registerSet_inbox h)
  case launchArea => exact fun h => written (by omega) (registerSet_launchArea h)
  case release => exact fun h => written (by omega) (registerSet_release h)

end Sys2Proof.HostWrites
end

section
/-! # Rules that several statements share -/

namespace Sys2Proof.Rules

open Sys2Proof.Machine Sys2Proof.Safety

/-! ## Tables -/

theorem put_put {α : Type} (m : AMap α) (k : Nat) (a b : α) : (m.put k a).put k b = m.put k b := by
  induction m with
  | nil => simp [AMap.put]
  | cons e r ih =>
    obtain ⟨j, c⟩ := e
    simp only [AMap.put]
    split_ifs with h1 h2
    · simp [AMap.put]
    · simp [AMap.put]
    · simp [AMap.put, h1, h2, ih]

@[simp] theorem setCell_setCell (s : State) (n : Nat) (c d : CellState) : (s.setCell n c).setCell n d = s.setCell n d := by
  simp [State.setCell, put_put]

@[simp] theorem vset_vset {α : Type} {n : Nat} (v : Vector α n) (i : Fin n) (a b : α) : vset (vset v i a) i b = vset v i b := by
  simp [vset]

@[simp] theorem ctx_setCtx (c : CellState) (k : Fin 4) (t : Context) : (c.setCtx k t).ctx k = t := by
  simp [CellState.ctx, CellState.setCtx]

@[simp] theorem setCtx_setCtx (c : CellState) (k : Fin 4) (t u : Context) : (c.setCtx k t).setCtx k u = c.setCtx k u := by
  simp [CellState.setCtx]

/-! ## Firing -/

/-- A ready instruction without further words fires with its effect. -/
theorem fire_fires {s s1 : State} {cue : Cue} {l : List Src} {d : Option Dst} {ok : Bool} {eff : State → Effect}
    (hr : Ready s cue ⟨l, d, ok, []⟩) (he : eff s = .done s1) (hf : s1.focus = s.focus) (hs : s1.strip = s.strip) :
    ∃ t, fire s cue ⟨l, d, ok, []⟩ eff = .next t ∧ Fired s s1 t cue (deqs l) := by
  obtain ⟨t, h1, h2⟩ := fire_fired hr he hf hs
  have : (fun q => (Needs.takes ⟨l, d, ok, []⟩).count q) = deqs l := by
    funext q; rw [takes_count]; simp
  exact ⟨t, h1, this ▸ h2⟩

/-- What a ready instruction finds of its context. -/
theorem running_of_ready {s : State} {cue : Cue} {n : Needs} (hr : Ready s cue n) : s.here.status = .running := by
  have h := hr.1
  simp only [canFire, Bool.and_eq_true, decide_eq_true_eq] at h
  exact h.1.2

end Sys2Proof.Rules
end

section
/-! # Fences, markers and arrivals (O33) -/

namespace Sys2Proof.FencesMarks

open Sys2Proof.Machine Sys2Proof.Safety

/-- A running cell that bears the number of the director's endpoint. R8 numbers no cell so; the statement does not exclude it. -/
def atDirector : State :=
  { State.reset with
    cells := [(directorAt, benchCell 0 0)], stages := [(0, benchStage)], focus := ⟨directorAt, 0, 0⟩ }

theorem atDirector_ready : Ready atDirector 0 ⟨[], none, !(atDirector.cur.bars[(0 : Fin 16)]).arr, []⟩ := by
  unfold Ready; decide +kernel

/-- The hops at which the CTRL items of a next state start. -/
def startHops (o : Host.Outcome State Fault Refusal) : List Hop :=
  match o with
  | .next t => t.items.map (·.hop)
  | _ => []

/-- The model lets the arrival start at the director's own router. -/
theorem atDirector_starts : startHops (exec (.barArr 0 0 ⟨0, 0⟩) atDirector) = [Hop.at 0 0] := by decide +kernel

/-- Refutes O33: in a cell that bears the number of the director's endpoint, 163,840, which the statement admits, an arrival starts at
router 0 (`endRouter`), where the statement lets it start at the place of that number. -/
theorem not_fencesMarksArrivals : ¬ Obligations.FencesMarksArrivals := by
  intro h
  obtain ⟨-, -, -, -, arr, -⟩ := h atDirector 0 (.reg 0) 0 ⟨0, 0⟩
  obtain ⟨t, ht, hf⟩ := arr atDirector_ready
  have hops := atDirector_starts
  rw [ht] at hops
  have items := congrArg (fun s : State => s.items.map (·.hop)) hf.1
  change t.items.map (·.hop) = [Hop.at 0 0] at hops
  change t.items.map (·.hop) = [Hop.mk 0 0 512 [] 0] at items
  exact absurd (hops.symm.trans items) (by decide)

end Sys2Proof.FencesMarks
end

section
/-! # Slice accesses and the line cache in the firing cycle (O14) -/

namespace Sys2Proof.SliceLoads

open Sys2Proof.Machine Sys2Proof.Safety Sys2Proof.Rules

/-! ## Lines and miss entries -/

theorem filling_iff {c : CellState} {l : Nat} : c.filling l = true ↔ ∃ f ∈ c.fills, f.line = l := by
  simp [CellState.filling]

theorem not_filling {c : CellState} {l : Nat} (h : ∀ f ∈ c.fills, f.line ≠ l) : c.filling l = false := by
  simpa [CellState.filling] using h

/-- The one line of a number is the line that is found. -/
theorem findLine_only {c : CellState} {l : Nat} {x : Line} (hx : x ∈ c.cache) (hl : x.line = l)
    (h1 : ∀ y ∈ c.cache, y.line = l → y = x) : c.findLine l = some x := by
  obtain ⟨y, hy⟩ := Option.isSome_iff_exists.mp (List.find?_isSome (p := fun e : Line => decide (e.line = l)).mpr ⟨x, hx, by simp [hl]⟩)
  have hy1 : y.line = l := by simpa using List.find?_some hy
  exact hy.trans (congrArg some (h1 y (List.mem_of_find?_eq_some hy) hy1))

theorem findLine_none {c : CellState} {l : Nat} (h : ∀ x ∈ c.cache, x.line ≠ l) : c.findLine l = none := by
  simpa [CellState.findLine] using h

/-! ## A scalar slice access -/

section
variable {s : State} {n : Nat} {a : Access} {held : Bool}

theorem sliceAccess_hit {e : Line} (hf : ∀ f ∈ (s.cell n).fills, f.line ≠ lineOf a.addr) (he : (s.cell n).findLine (lineOf a.addr) = some e) :
    sliceAccess s n a held = some (s.setCell n (sliceHit (if held then (s.cell n).unreserve a.dst else s.cell n) a e)) := by
  simp [sliceAccess, not_filling hf, he]

theorem sliceAccess_held (h : (∃ f ∈ (s.cell n).fills, f.line = lineOf a.addr) ∨
    (∀ x ∈ (s.cell n).cache, x.line ≠ lineOf a.addr) ∧ 4 ≤ (s.cell n).fills.length) : sliceAccess s n a held = none := by
  rcases h with h | ⟨h, h4⟩
  · simp [sliceAccess, filling_iff.mpr h]
  · simp [sliceAccess, findLine_none h, h4]

theorem sliceAccess_storeMiss (hc : ∀ x ∈ (s.cell n).cache, x.line ≠ lineOf a.addr) (hf : ∀ f ∈ (s.cell n).fills, f.line ≠ lineOf a.addr)
    (h4 : (s.cell n).fills.length < 4) (hs : a.store = true) :
    sliceAccess s n a held = some (s.setCell n { s.cell n with fills := (s.cell n).fills ++ [⟨lineOf a.addr, .store a, false, none⟩] }) := by
  simp [sliceAccess, findLine_none hc, not_filling hf, Nat.not_le.mpr h4, hs, State.startFills]

theorem sliceAccess_loadMiss (hc : ∀ x ∈ (s.cell n).cache, x.line ≠ lineOf a.addr) (hf : ∀ f ∈ (s.cell n).fills, f.line ≠ lineOf a.addr)
    (h4 : (s.cell n).fills.length < 4) (hs : a.store = false) (hr : ((s.cell n).ctx a.ctx).status = .running) :
    let c := if held then s.cell n else (s.cell n).reserve a.dst
    sliceAccess s n a held = some (s.setCell n { c.setCtx a.ctx { (s.cell n).ctx a.ctx with status := .parkMiss } with
      fills := (s.cell n).fills ++ [⟨lineOf a.addr, .load a, false, none⟩] }) := by
  have miss : ¬ 4 ≤ (s.cell n).fills.length := Nat.not_le.mpr h4
  cases held
  · cases hd : a.dst <;>
      simp only [sliceAccess, not_filling hf, findLine_none hc, miss, hs, hd, CellState.reserve, State.startFills, State.cell_setCell_same,
        setCell_setCell, List.map_cons, List.map_nil, Bool.false_eq_true, if_false] <;>
      exact congrArg _ (if_pos hr ▸ rfl)
  · simp only [sliceAccess, not_filling hf, findLine_none hc, miss, hs, State.startFills, State.cell_setCell_same,
      setCell_setCell, List.map_cons, List.map_nil, Bool.false_eq_true, if_false, if_true, hr]
    rfl

/-! ## The effect in the firing cycle -/

/-- An aligned access of the slice has its effect by the line cache, or holds the arbiter. -/
theorem accessEff_slice (ha : a.addr % a.size = 0) (h1 : 0x40000000 ≤ a.addr)
    (h2 : a.addr + a.size ≤ 0x40000000 + (s.cur.sliceMiB * 2 ^ 20 - 2 ^ 19)) :
    accessEff a s = match sliceAccess s s.focus.cell a false with
      | some t => .done t
      | none => .done (s.setCur { (if a.store then s.cur else s.cur.reserve a.dst) with hold := .slice a }) := by
  have hs : inSram a.addr a.size = false := by
    rw [inSram, decide_eq_false_iff_not]
    omega
  have hp : s.cur.inPrivate a.addr a.size = true := by
    rw [CellState.inPrivate, CellState.inSlice, Bool.or_eq_true, Bool.and_eq_true]
    exact .inr ⟨decide_eq_true h1, decide_eq_true h2⟩
  simp only [accessEff, ha, hs, hp, ne_eq, not_true, if_false, Bool.not_true, Bool.false_eq_true]
  rfl

end

/-! ## Loads -/

theorem loadValue_lineRead (a : Access) (d : BitVec 256) (o : Nat) :
    loadValue a (lineRead d o a.size) =
      let m := d.toNat / 2 ^ (8 * o) % 2 ^ (8 * a.size)
      if a.signed ∧ 2 ^ (8 * a.size - 1) ≤ m then BitVec.ofInt 32 ((m : Int) - 2 ^ (8 * a.size)) else BitVec.ofNat 32 m :=
  if_congr (by rw [Bool.and_eq_true, decide_eq_true_iff]; rfl) rfl rfl

section
variable {s : State} {c : Cue} {d : Dst} {a : Src} {n : Nat} {signed : Bool} {off : Int} {p : PAct}

/-- The access that a load makes. -/
def loadAccess (s : State) (d : Dst) (a : Src) (n : Nat) (signed : Bool) (off : Int) (p : PAct) : Access :=
  { store := false, size := n, signed := signed, addr := effAddr (s.src a) off, data := 0, dst := d, p := p, x := srcX s.cur a
    ctx := s.focus.ctx, slot := s.focus.slot }

/-- The reservations of a cell's output queues with one more for a destination. -/
def reserved (c : CellState) (d : Dst) : Vector Nat 8 :=
  match d with
  | .oq q => vset c.oqResv q (c.oqResv[q] + 1)
  | .reg _ => c.oqResv

theorem reserve_eq (c : CellState) (d : Dst) : c.reserve d = { c with oqResv := reserved c d } := by
  cases d <;> rfl

theorem loadOp_eq : loadOp n signed c d a off p s = fire s c ⟨[a], some d, true, []⟩
    fun s => accessEff (loadAccess s d a n signed off p) s := rfl

variable (hr : Ready s c ⟨[a], some d, true, []⟩) (ha : effAddr (s.src a) off % n = 0) (h1 : 0x40000000 ≤ effAddr (s.src a) off)
  (h2 : effAddr (s.src a) off + n ≤ 0x40000000 + (s.cur.sliceMiB * 2 ^ 20 - 2 ^ 19))
include hr ha h1 h2

theorem load_hit {x : Line} (hx : x ∈ s.cur.cache) (hl : x.line = lineOf (effAddr (s.src a) off))
    (hu : ∀ y ∈ s.cur.cache, y.line = lineOf (effAddr (s.src a) off) → y = x)
    (hf : ∀ f ∈ s.cur.fills, f.line ≠ lineOf (effAddr (s.src a) off)) :
    ∃ t u, loadOp n signed c d a off p s = .next t ∧
      Settles { s.cur with cache := x :: s.cur.cache.filter (fun y => decide (y.line ≠ lineOf (effAddr (s.src a) off))) } u s.focus.ctx d p
        (let m := x.data.toNat / 2 ^ (8 * ((effAddr (s.src a) off - sliceBase) % 32)) % 2 ^ (8 * n)
          if signed ∧ 2 ^ (8 * n - 1) ≤ m then BitVec.ofInt 32 ((m : Int) - 2 ^ (8 * n)) else BitVec.ofNat 32 m) (srcX s.cur a) 0 ∧
      Fired s (s.setCur u) t c (deqs [a]) := by
  have he : accessEff (loadAccess s d a n signed off p) s = .done (s.setCur
      (loadDone (s.cur.touch x) (loadAccess s d a n signed off p) (lineRead x.data ((effAddr (s.src a) off - sliceBase) % 32) n))) := by
    rw [accessEff_slice (a := loadAccess s d a n signed off p) ha h1 h2,
      sliceAccess_hit (a := loadAccess s d a n signed off p) hf (findLine_only hx hl hu)]
    rfl
  obtain ⟨t, ht, hF⟩ := fire_fires (eff := fun s => accessEff (loadAccess s d a n signed off p) s) hr he rfl rfl
  have hS := settle_settles (s.cur.touch x) s.focus.ctx d p (loadValue (loadAccess s d a n signed off p)
    (lineRead x.data ((effAddr (s.src a) off - sliceBase) % 32) n)) (srcX s.cur a) 0
  have hv := loadValue_lineRead (loadAccess s d a n signed off p) x.data ((effAddr (s.src a) off - sliceBase) % 32)
  exact ⟨t, _, ht, hl ▸ hv ▸ hS, hF⟩

theorem load_miss (hc : ∀ x ∈ s.cur.cache, x.line ≠ lineOf (effAddr (s.src a) off))
    (hf : ∀ f ∈ s.cur.fills, f.line ≠ lineOf (effAddr (s.src a) off)) (h4 : s.cur.fills.length < 4) :
    ∃ t, loadOp n signed c d a off p s = .next t ∧
      Fired s (s.setCur { withHere s { s.here with status := .parkMiss } with
        oqResv := reserved s.cur d
        fills := s.cur.fills ++ [⟨lineOf (effAddr (s.src a) off), .load (loadAccess s d a n signed off p), false, none⟩] }) t c (deqs [a]) := by
  refine fire_fires (eff := fun s => accessEff (loadAccess s d a n signed off p) s) hr ?_ rfl rfl
  show accessEff (loadAccess s d a n signed off p) s = _
  rw [accessEff_slice (a := loadAccess s d a n signed off p) ha h1 h2,
    sliceAccess_loadMiss (a := loadAccess s d a n signed off p) hc hf h4 rfl (running_of_ready hr)]
  cases d <;> rfl

theorem load_holds (h : (∃ f ∈ s.cur.fills, f.line = lineOf (effAddr (s.src a) off)) ∨
      (∀ x ∈ s.cur.cache, x.line ≠ lineOf (effAddr (s.src a) off)) ∧ 4 ≤ s.cur.fills.length) :
    ∃ t, loadOp n signed c d a off p s = .next t ∧
      Fired s (s.setCur { s.cur with oqResv := reserved s.cur d, hold := .slice (loadAccess s d a n signed off p) }) t c (deqs [a]) := by
  refine fire_fires (eff := fun s => accessEff (loadAccess s d a n signed off p) s) hr ?_ rfl rfl
  show accessEff (loadAccess s d a n signed off p) s = _
  rw [accessEff_slice (a := loadAccess s d a n signed off p) ha h1 h2, sliceAccess_held (a := loadAccess s d a n signed off p) h]
  cases d <;> rfl

end

/-! ## Stores -/

theorem testBit_byte (v k i : Nat) : (v / 2 ^ (8 * k) % 256).testBit i = (decide (i < 8) && v.testBit (i + 8 * k)) := by
  rw [show (256 : Nat) = 2 ^ 8 from rfl, Nat.testBit_mod_two_pow, Nat.testBit_div_two_pow]

/-- The bytes of a line after a store. -/
theorem lineWrite_byte {d : BitVec 256} {o n v k : Nat} (hk : k < 32) :
    (lineWrite d o n v).toNat / 2 ^ (8 * k) % 256 =
      if o ≤ k ∧ k < o + n then v / 2 ^ (8 * (k - o)) % 256 else d.toNat / 2 ^ (8 * k) % 256 := by
  have hbit (j : Nat) (hj : j < 256) : (lineWrite d o n v).toNat.testBit j =
      if 8 * o ≤ j ∧ j < 8 * (o + n) then v.testBit (j - 8 * o) else d.toNat.testBit j := by
    have hm : (BitVec.ofNat 256 ((2 ^ (8 * n) - 1) * 2 ^ (8 * o))).getLsbD j = decide (8 * o ≤ j ∧ j < 8 * (o + n)) := by
      rw [BitVec.getLsbD_ofNat, Nat.testBit_mul_two_pow, Nat.testBit_two_pow_sub_one, decide_eq_true hj, Bool.true_and, ← Bool.decide_and]
      exact decide_eq_decide.mpr (by omega)
    have hv : (BitVec.ofNat 256 (v * 2 ^ (8 * o))).getLsbD j = (decide (8 * o ≤ j) && v.testBit (j - 8 * o)) := by
      rw [BitVec.getLsbD_ofNat, Nat.testBit_mul_two_pow, decide_eq_true hj, Bool.true_and]
    show (lineWrite d o n v).getLsbD j = _
    rw [lineWrite, BitVec.getLsbD_or, BitVec.getLsbD_and, BitVec.getLsbD_and, BitVec.getLsbD_not, hm, hv, decide_eq_true hj]
    show _ = if 8 * o ≤ j ∧ j < 8 * (o + n) then v.testBit (j - 8 * o) else d.getLsbD j
    by_cases h : 8 * o ≤ j ∧ j < 8 * (o + n)
    · simp [h]
    · simp [h]
  refine Nat.eq_of_testBit_eq fun i => ?_
  rw [apply_ite (Nat.testBit · i), testBit_byte, testBit_byte, testBit_byte]
  by_cases hi : i < 8
  · rw [hbit _ (by omega)]
    by_cases h : o ≤ k ∧ k < o + n
    · rw [if_pos h, if_pos (by omega), show i + 8 * k - 8 * o = i + 8 * (k - o) by omega]
    · rw [if_neg h, if_neg (by omega)]
  · simp [hi]

section
variable {s : State} {c : Cue} {d a : Src} {n : Nat} {off : Int}

/-- The access that a store makes. -/
def storeAccess (s : State) (d a : Src) (n : Nat) (off : Int) : Access :=
  { store := true, size := n, signed := false, addr := effAddr (s.src a) off, data := s.src d, dst := .reg 0, p := ⟨0, 0⟩, x := false
    ctx := s.focus.ctx, slot := s.focus.slot }

variable (hr : Ready s c ⟨[d, a], none, true, []⟩) (ha : effAddr (s.src a) off % n = 0) (h1 : 0x40000000 ≤ effAddr (s.src a) off)
  (h2 : effAddr (s.src a) off + n ≤ 0x40000000 + (s.cur.sliceMiB * 2 ^ 20 - 2 ^ 19))
include hr ha h1 h2

theorem store_hit {x : Line} (hx : x ∈ s.cur.cache) (hl : x.line = lineOf (effAddr (s.src a) off))
    (hu : ∀ y ∈ s.cur.cache, y.line = lineOf (effAddr (s.src a) off) → y = x)
    (hf : ∀ f ∈ s.cur.fills, f.line ≠ lineOf (effAddr (s.src a) off)) :
    let o := (effAddr (s.src a) off - sliceBase) % 32
    let byte (v k : Nat) : Nat := v / 2 ^ (8 * k) % 256
    ∃ t v, storeOp n c d a off s = .next t ∧
      (∀ k, k < 32 → byte v.toNat k = if o ≤ k ∧ k < o + n then byte (s.src d).toNat (k - o) else byte x.data.toNat k) ∧
      Fired s (s.setCur { s.cur with
        cache := { x with data := v, dirty := true } :: s.cur.cache.filter (fun y => decide (y.line ≠ lineOf (effAddr (s.src a) off))) })
        t c (deqs [d, a]) := by
  intro o byte
  have he : accessEff (storeAccess s d a n off) s = .done (s.setCur { s.cur with
      cache := { x with data := lineWrite x.data o n (s.src d).toNat, dirty := true } ::
        s.cur.cache.filter (fun y => decide (y.line ≠ lineOf (effAddr (s.src a) off))) }) := by
    rw [accessEff_slice (a := storeAccess s d a n off) ha h1 h2,
      sliceAccess_hit (a := storeAccess s d a n off) hf (findLine_only hx hl hu), ← hl]
    rfl
  obtain ⟨t, ht, hF⟩ := fire_fires (eff := fun s => accessEff (storeAccess s d a n off) s) hr he rfl rfl
  exact ⟨t, _, ht, fun k hk => lineWrite_byte hk, hF⟩

theorem store_miss (hc : ∀ x ∈ s.cur.cache, x.line ≠ lineOf (effAddr (s.src a) off))
    (hf : ∀ f ∈ s.cur.fills, f.line ≠ lineOf (effAddr (s.src a) off)) (h4 : s.cur.fills.length < 4) :
    ∃ t, storeOp n c d a off s = .next t ∧
      Fired s (s.setCur { s.cur with
        fills := s.cur.fills ++ [⟨lineOf (effAddr (s.src a) off), .store (storeAccess s d a n off), false, none⟩] }) t c (deqs [d, a]) := by
  refine fire_fires (eff := fun s => accessEff (storeAccess s d a n off) s) hr ?_ rfl rfl
  show accessEff (storeAccess s d a n off) s = _
  rw [accessEff_slice (a := storeAccess s d a n off) ha h1 h2, sliceAccess_storeMiss (a := storeAccess s d a n off) hc hf h4 rfl]
  rfl

theorem store_holds (h : (∃ f ∈ s.cur.fills, f.line = lineOf (effAddr (s.src a) off)) ∨
      (∀ x ∈ s.cur.cache, x.line ≠ lineOf (effAddr (s.src a) off)) ∧ 4 ≤ s.cur.fills.length) :
    ∃ t, storeOp n c d a off s = .next t ∧
      Fired s (s.setCur { s.cur with hold := .slice (storeAccess s d a n off) }) t c (deqs [d, a]) := by
  refine fire_fires (eff := fun s => accessEff (storeAccess s d a n off) s) hr ?_ rfl rfl
  show accessEff (storeAccess s d a n off) s = _
  rw [accessEff_slice (a := storeAccess s d a n off) ha h1 h2, sliceAccess_held (a := storeAccess s d a n off) h]
  rfl

end

/-! ## Requests at the strip port (R14, R407) -/

/-- Whether a request of a cell for a line joins a window. -/
def Joins (s : State) (n line : Nat) (write : Bool) (m : Merge) : Prop :=
  m.half = s.stripOf n * 2 + s.halfOf n ∧ m.line = line ∧ m.write = write ∧ ∀ w ∈ m.who, w.2.1 ≠ s.posOf n

section
variable {s : State} {n line : Nat} {write : Bool} {u : PortUser} {d : BitVec 256}

/-- The test of `State.join`. -/
def joinTest (s : State) (n line : Nat) (write : Bool) (m : Merge) : Bool :=
  decide (m.half = s.stripOf n * 2 + s.halfOf n) && decide (m.line = line) && m.write == write && !m.who.any (fun w => w.2.1 == s.posOf n)

theorem joinTest_iff {m : Merge} : joinTest s n line write m = true ↔ Joins s n line write m := by
  simp [joinTest, Joins, and_assoc]

theorem join_eq : s.join n line write u d = match s.merges.findIdx? (joinTest s n line write) with
    | some i => { s with merges := s.merges.modify i fun m => { m with who := m.who ++ [(n, s.posOf n, u, d)] } }
    | none => { s with merges := s.merges ++ [⟨s.stripOf n * 2 + s.halfOf n, line, write, s.strip, [(n, s.posOf n, u, d)]⟩] } := rfl

theorem modify_append_cons {α : Type} (a : List α) (x : α) (b : List α) (f : α → α) : (a ++ x :: b).modify a.length f = a ++ f x :: b := by
  induction a with
  | nil => rfl
  | cons y a ih => simp [ih]

theorem join_opens (h : ∀ m ∈ s.merges, ¬ Joins s n line write m) : s.join n line write u d =
    { s with merges := s.merges ++ [⟨s.stripOf n * 2 + s.halfOf n, line, write, s.strip, [(n, s.posOf n, u, d)]⟩] } := by
  rw [join_eq, List.findIdx?_eq_none_iff.mpr fun m hm => Bool.eq_false_iff.mpr fun e => h m hm (joinTest_iff.mp e)]

theorem join_joins {a b : List Merge} {m : Merge} (hm : s.merges = a ++ m :: b) (ha : ∀ x ∈ a, ¬ Joins s n line write x)
    (hj : Joins s n line write m) : s.join n line write u d =
    { s with merges := a ++ { m with who := m.who ++ [(n, s.posOf n, u, d)] } :: b } := by
  have hi : s.merges.findIdx? (joinTest s n line write) = some a.length := by
    rw [hm, List.findIdx?_append,
      List.findIdx?_eq_none_iff.mpr fun x hx => Bool.eq_false_iff.mpr fun e => ha x hx (joinTest_iff.mp e),
      List.findIdx?_cons, if_pos (joinTest_iff.mpr hj)]
    simp
  rw [join_eq, hi, hm]
  simp only [modify_append_cons]

end

/-- The next cycle of a cell with one request of a fill that has not asked. -/
theorem askPort_one {s : State} {n : Nat} {g : Fill} (hg : ((s.cell n).fills.filter fun f => !f.asked) = [g])
    (hw : ∀ w ∈ (s.cell n).wbs, w.asked = true) :
    askPort s n = (s.setCell n { s.cell n with
      fills := (s.cell n).fills.map fun f => { f with asked := true }
      wbs := (s.cell n).wbs.map fun w => { w with asked := true } }).join n g.line false .cache 0 := by
  have hwb : ((s.cell n).wbs.filter fun w => !w.asked) = [] := by simpa using hw
  simp only [askPort, hg, hwb, List.map_cons, List.map_nil, List.foldl_cons, List.foldl_nil]

/-! ## FENCE.L (R251) -/

theorem fenceClear_iff {c : CellState} : fenceClear c = true ↔ c.fills = [] ∧ c.wbs = [] ∧ ∀ x ∈ c.cache, x.dirty = false := by
  simp [fenceClear, and_assoc]

theorem fenceL_fires {s : State} {c : Cue} (hr : Ready s c ⟨[], none, true, []⟩) :
    ∃ t, exec (.fenceL c) s = .next t ∧
      Fired s (s.setCur (if fenceClear s.cur then { s.cur with cache := [] } else { s.cur with hold := .fenceL })) t c (fun _ => 0) := by
  refine fire_fires hr ?_ rfl rfl
  split <;> simp [*]

/-- Settles O14: hits, misses and holds of loads and of stores, the merge window of a fill, FENCE.L. -/
theorem sliceLoadsAndFence : Obligations.SliceLoadsAndFence := by
  refine ⟨fun s c d a i j p hr => ?loads, fun s c d a i hr => ?stores, fun s n g => ?port, fun s c hr => ?fence⟩
  case loads =>
    intro e he
    simp only [List.mem_cons, List.not_mem_nil, or_false] at he
    rcases he with rfl | rfl | rfl | rfl | rfl | rfl | rfl | rfl | rfl | rfl <;>
      exact fun ha h1 h2 => ⟨fun x hx hl hu hf => load_hit hr ha h1 h2 hx hl hu hf, load_miss hr ha h1 h2, load_holds hr ha h1 h2⟩
  case stores =>
    intro e he
    simp only [List.mem_cons, List.not_mem_nil, or_false] at he
    have one : i.toInt * ((1 : Nat) : Int) = i.toInt := mul_one _
    rcases he with rfl | rfl | rfl <;> simp only [one] <;>
      exact fun ha h1 h2 => ⟨fun x hx hl hu hf => store_hit hr ha h1 h2 hx hl hu hf, store_miss hr ha h1 h2, store_holds hr ha h1 h2⟩
  case port =>
    intro c me fits after hg hw
    rw [askPort_one hg hw]
    exact ⟨fun h => join_opens h, fun a m b hm ha hj => join_joins hm ha hj⟩
  case fence =>
    obtain ⟨t, ht, hf⟩ := fenceL_fires hr
    refine ⟨fun h => ⟨t, ht, ?_⟩, fun h => ⟨t, ht, ?_⟩⟩
    · rwa [if_pos (fenceClear_iff.mpr h)] at hf
    · rwa [if_neg (fenceClear_iff.not.mpr h)] at hf

end Sys2Proof.SliceLoads
end

section
/-! # The bytes of a slice (R13) -/

namespace Sys2Proof.Rules

open Sys2Proof.Machine Sys2Proof.Safety

/-- A store into a slice changes the DRAM wafer alone. -/
theorem sliceWrite_frame (s : State) (n o k v : Nat) : s.sliceWrite n o k v = { s with firn := (s.sliceWrite n o k v).firn } := by
  induction k generalizing s o v with
  | zero => rfl
  | succ j ih =>
    have h := ih { s with firn := s.firn.write (s.sliceKey n o) (BitVec.ofNat 8 v) } (o + 1) (v / 256)
    exact h

@[simp] theorem sliceWrite_cell (s : State) (n o k v m : Nat) : (s.sliceWrite n o k v).cell m = s.cell m := by
  rw [sliceWrite_frame]
  generalize (s.sliceWrite n o k v).firn = f
  rfl

theorem sliceKey_inj (s : State) (n : Nat) {o p : Nat} : s.sliceKey n o = s.sliceKey n p ↔ o = p := by
  have hp : s.posOf n < 8 := Nat.mod_lt _ (by decide)
  unfold State.sliceKey
  omega

/-- A store into a slice leaves every byte alone that is none of its own. -/
theorem sliceWrite_read_ne (s : State) (n o k v : Nat) {key : Nat} (h : ∀ j < k, key ≠ s.sliceKey n (o + j)) :
    (s.sliceWrite n o k v).firn.read key = s.firn.read key := by
  induction k generalizing s o v with
  | zero => rfl
  | succ j ih =>
    refine (ih _ (o + 1) (v / 256) fun i hi => ?_).trans (Mem.read_write_ne _ _ (h 0 (Nat.succ_pos j)))
    exact (by rw [Nat.add_assoc, Nat.add_comm 1 i]; exact h (i + 1) (by omega))

/-- What a store into a slice leaves in its bytes. -/
theorem sliceWrite_read (s : State) (hw : s.firn.wf = true) (n o k v : Nat) {j : Nat} (hj : j < k) :
    (s.sliceWrite n o k v).firn.read (s.sliceKey n (o + j)) = BitVec.ofNat 8 (v / 256 ^ j) := by
  induction k generalizing s o v j with
  | zero => omega
  | succ m ih =>
    cases j with
    | zero =>
      refine (sliceWrite_read_ne _ n (o + 1) m (v / 256) fun i _ => ?_).trans ?_
      · exact (sliceKey_inj s n).not.mpr (by omega)
      · rw [pow_zero, Nat.div_one]
        exact Mem.read_write_same hw _ _
    | succ i =>
      have h := ih { s with firn := s.firn.write (s.sliceKey n o) (BitVec.ofNat 8 v) } (Mem.wf_write hw _ _) (o + 1) (v / 256) (j := i) (by omega)
      rw [Nat.div_div_eq_div_mul, ← pow_succ'] at h
      rw [show o + (i + 1) = o + 1 + i by omega]
      exact h

end Sys2Proof.Rules
end

section
/-! # Held accesses, fills, FENCE.L and merge windows (O38) -/

namespace Sys2Proof.LineCache

open Sys2Proof.Machine Sys2Proof.Safety Sys2Proof.Rules Sys2Proof.SliceLoads

/-! ## Results -/

/-- A result changes contexts and output queues alone, so that any other change of the cell commutes with it. -/
theorem settle_holdNone (c : CellState) (k : Fin 4) (d : Dst) (p : PAct) (v : Word) (x : Bool) (f : Flags) :
    { settle c k d p v x f with hold := .none } = settle { c with hold := .none } k d p v x f := by
  cases d <;> rfl

/-- A result leaves the status of its context and the answers that wait for it. -/
theorem settle_status (c : CellState) (k : Fin 4) (d : Dst) (p : PAct) (v : Word) (x : Bool) (f : Flags) :
    ((settle c k d p v x f).ctx k).status = (c.ctx k).status ∧ ((settle c k d p v x f).ctx k).respFaults = (c.ctx k).respFaults := by
  have ha (t : Context) (b : Bool) : ((t.act p b).raise f).status = t.status ∧ ((t.act p b).raise f).respFaults = t.respFaults := by
    unfold Context.act Context.raise
    split_ifs <;> exact ⟨rfl, rfl⟩
  have hx (t : Context) (r : Fin 16) : (t.setX r v).status = t.status ∧ (t.setX r v).respFaults = t.respFaults := by
    unfold Context.setX
    split_ifs <;> exact ⟨rfl, rfl⟩
  cases d with
  | reg r => simp only [settle, writeDst, ctx_setCtx, ha, hx, and_self]
  | oq q => simp only [settle, writeDst, ctx_setCtx, ha]; exact ⟨rfl, rfl⟩

theorem unreserve_ctx (c : CellState) (d : Dst) (k : Fin 4) : (c.unreserve d).ctx k = c.ctx k := by cases d <;> rfl

section
variable {s : State} {n : Nat} {a : Access}

/-! ## An access that holds the arbiter -/

theorem resume_performed {t : State} (hh : (s.cell n).hold = .slice a) (ht : sliceAccess s n a true = some t) :
    exec (.sliceAccessResume n) s = .next (t.setCell n { t.cell n with hold := .none }) := by
  show execSliceAccessResume n s = _
  simp only [execSliceAccessResume, hh, ht]

theorem resume_waits (hh : (s.cell n).hold = .slice a) (ht : sliceAccess s n a true = none) : exec (.sliceAccessResume n) s = .next s := by
  show execSliceAccessResume n s = _
  simp only [execSliceAccessResume, hh, ht]

theorem resume_hit {e : Line} (hh : (s.cell n).hold = .slice a) (hf : ∀ f ∈ (s.cell n).fills, f.line ≠ lineOf a.addr)
    (he : (s.cell n).findLine (lineOf a.addr) = some e) : exec (.sliceAccessResume n) s =
      .next (s.setCell n { sliceHit ((s.cell n).unreserve a.dst) a e with hold := .none }) := by
  rw [resume_performed hh (sliceAccess_hit hf he), State.cell_setCell_same, setCell_setCell]
  rfl

theorem touch_line {c : CellState} {e : Line} {l : Nat} (hl : e.line = l) :
    c.touch e = { c with cache := e :: c.cache.filter fun x => decide (x.line ≠ l) } := hl ▸ rfl

/-- The reservations of a cell's output queues with one fewer for a destination. -/
def unreserved (c : CellState) (d : Dst) : Vector Nat 8 :=
  match d with
  | .oq q => vset c.oqResv q (c.oqResv[q] - 1)
  | .reg _ => c.oqResv

theorem unreserve_eq (c : CellState) (d : Dst) : c.unreserve d = { c with oqResv := unreserved c d } := by
  cases d <;> rfl

theorem resume_store {e : Line} (hh : (s.cell n).hold = .slice a) (hf : ∀ f ∈ (s.cell n).fills, f.line ≠ lineOf a.addr)
    (he : (s.cell n).findLine (lineOf a.addr) = some e) (hl : e.line = lineOf a.addr) (hs : a.store = true) :
    exec (.sliceAccessResume n) s = .next (s.setCell n { (s.cell n).unreserve a.dst with
      hold := .none
      cache := { e with data := lineWrite e.data ((a.addr - sliceBase) % 32) a.size a.data.toNat, dirty := true } ::
        (s.cell n).cache.filter fun x => decide (x.line ≠ lineOf a.addr) }) := by
  rw [resume_hit hh hf he, sliceHit, if_pos hs, touch_line (by exact hl), unreserve_eq]

theorem resume_load {e : Line} (hh : (s.cell n).hold = .slice a) (hf : ∀ f ∈ (s.cell n).fills, f.line ≠ lineOf a.addr)
    (he : (s.cell n).findLine (lineOf a.addr) = some e) (hl : e.line = lineOf a.addr) (hs : a.store = false) :
    exec (.sliceAccessResume n) s = .next (s.setCell n (loadDone { (s.cell n).unreserve a.dst with
      hold := .none, cache := e :: (s.cell n).cache.filter fun x => decide (x.line ≠ lineOf a.addr) } a
      (lineRead e.data ((a.addr - sliceBase) % 32) a.size))) := by
  rw [resume_hit hh hf he, sliceHit, hs, if_neg Bool.false_ne_true, touch_line hl, unreserve_eq, loadDone, settle_holdNone]
  rfl

theorem resume_storeMiss (hh : (s.cell n).hold = .slice a) (hf : ∀ f ∈ (s.cell n).fills, f.line ≠ lineOf a.addr)
    (hc : ∀ x ∈ (s.cell n).cache, x.line ≠ lineOf a.addr) (h4 : (s.cell n).fills.length < 4) (hs : a.store = true) :
    exec (.sliceAccessResume n) s = .next (s.setCell n { s.cell n with
      hold := .none, fills := (s.cell n).fills ++ [⟨lineOf a.addr, .store a, false, none⟩] }) := by
  rw [resume_performed hh (sliceAccess_storeMiss hc hf h4 hs), State.cell_setCell_same, setCell_setCell]

theorem resume_loadMiss (hh : (s.cell n).hold = .slice a) (hf : ∀ f ∈ (s.cell n).fills, f.line ≠ lineOf a.addr)
    (hc : ∀ x ∈ (s.cell n).cache, x.line ≠ lineOf a.addr) (h4 : (s.cell n).fills.length < 4) (hs : a.store = false)
    (hr : ((s.cell n).ctx a.ctx).status = .running) :
    exec (.sliceAccessResume n) s = .next (s.setCell n { (s.cell n).setCtx a.ctx { (s.cell n).ctx a.ctx with status := .parkMiss } with
      hold := .none, fills := (s.cell n).fills ++ [⟨lineOf a.addr, .load a, false, none⟩] }) := by
  rw [resume_performed hh (sliceAccess_loadMiss hc hf h4 hs hr), State.cell_setCell_same, setCell_setCell, if_pos rfl]

/-! ## Fills -/

theorem fill_early {l t : Nat} {u : FillUse} {b : Bool} (hf : (s.cell n).fills = [⟨l, u, b, some t⟩]) (ht : s.strip < t) :
    exec (.lineFillComplete n l) s = .next s := by
  show execLineFillComplete n l s = _
  simp [execLineFillComplete, hf, Nat.not_le.mpr ht]

theorem fill_arrived {l t : Nat} {u : FillUse} {b : Bool} (hf : (s.cell n).fills = [⟨l, u, b, some t⟩]) (ht : t ≤ s.strip) :
    exec (.lineFillComplete n l) s = .next (fillDone s n ⟨l, u, b, some t⟩) := by
  show execLineFillComplete n l s = _
  simp [execLineFillComplete, hf, ht]

/-- A line whose set has room comes in as the most recently used. -/
theorem install_room {e : Line} (h : ((s.cell n).cache.filter fun x => decide (x.line % 128 = e.line % 128)).length < 4) :
    s.install n e = s.setCell n ((s.cell n).touch e) := if_pos h

theorem fillData_slice {l : Nat} (hw : (s.cell n).wbs = []) : fillData s n l = BitVec.ofNat 256 (s.sliceRead n (l * 32) 32) := by
  simp [fillData, hw]

/-- The cell that a sound line comes to whose set has room. -/
def filled (c : CellState) (l : Nat) (d : BitVec 256) (dirty : Bool) : CellState :=
  { c with fills := [], cache := ⟨l, d, dirty, false⟩ :: c.cache.filter fun x => decide (x.line ≠ l) }

theorem unreserve_filled (c : CellState) (l : Nat) (d : BitVec 256) (dirty : Bool) (e : Dst) :
    (filled c l d dirty).unreserve e =
      { c.unreserve e with fills := [], cache := ⟨l, d, dirty, false⟩ :: c.cache.filter fun x => decide (x.line ≠ l) } := by
  cases e <;> rfl

theorem install_filled {l : Nat} {d : BitVec 256} {dirty : Bool}
    (hr : ((s.cell n).cache.filter fun x => decide (x.line % 128 = l % 128)).length < 4) :
    (s.setCell n { s.cell n with fills := [] }).install n ⟨l, d, dirty, false⟩ = s.setCell n (filled (s.cell n) l d dirty) := by
  rw [install_room (by rw [State.cell_setCell_same]; exact hr), State.cell_setCell_same, setCell_setCell]
  rfl

variable {l t : Nat} {u : FillUse} {b : Bool} (hb : l ∉ (s.cell n).badLines) (hw : (s.cell n).wbs = [])
  (hr : ((s.cell n).cache.filter fun x => decide (x.line % 128 = l % 128)).length < 4) (hf : (s.cell n).fills = [⟨l, u, b, some t⟩])
include hb hw hr hf

theorem fillDone_beat (hu : u = .beat) :
    fillDone s n ⟨l, u, b, some t⟩ = s.setCell n (filled (s.cell n) l (BitVec.ofNat 256 (s.sliceRead n (l * 32) 32)) false) := by
  have sound : (s.cell n).badLines.contains l = false := by simpa using hb
  have empty : ((s.cell n).fills.filter fun g => decide (g.line ≠ l)) = [] := by simp [hf]
  simp only [fillDone, hu, sound, empty, fillData_slice hw]
  exact install_filled hr

theorem fillDone_store (hu : u = .store a) :
    fillDone s n ⟨l, u, b, some t⟩ = s.setCell n (filled (s.cell n) l
      (lineWrite (BitVec.ofNat 256 (s.sliceRead n (l * 32) 32)) ((a.addr - sliceBase) % 32) a.size a.data.toNat) true) := by
  have sound : (s.cell n).badLines.contains l = false := by simpa using hb
  have empty : ((s.cell n).fills.filter fun g => decide (g.line ≠ l)) = [] := by simp [hf]
  simp only [fillDone, hu, sound, empty, fillData_slice hw]
  exact install_filled hr

/-- The cell in which the value of a load that waited has reached its destination. -/
def loaded (c : CellState) (a : Access) (l : Nat) (d : BitVec 256) : CellState :=
  loadDone ((filled c l d false).unreserve a.dst) a (lineRead d ((a.addr - sliceBase) % 32) a.size)

theorem fillDone_load (hu : u = .load a) (hs : ((s.cell n).ctx a.ctx).status = .parkMiss) (h0 : ((s.cell n).ctx a.ctx).respFaults = 0) :
    let x := loaded (s.cell n) a l (BitVec.ofNat 256 (s.sliceRead n (l * 32) 32))
    fillDone s n ⟨l, u, b, some t⟩ = s.setCell n (x.setCtx a.ctx { x.ctx a.ctx with status := .running }) := by
  intro x
  have sound : (s.cell n).badLines.contains l = false := by simpa using hb
  have empty : ((s.cell n).fills.filter fun g => decide (g.line ≠ l)) = [] := by simp [hf]
  have same : ((filled (s.cell n) l (BitVec.ofNat 256 (s.sliceRead n (l * 32) 32)) false).unreserve a.dst).ctx a.ctx = (s.cell n).ctx a.ctx :=
    unreserve_ctx _ _ _
  obtain ⟨hs', h0'⟩ := settle_status ((filled (s.cell n) l (BitVec.ofNat 256 (s.sliceRead n (l * 32) 32)) false).unreserve a.dst) a.ctx a.dst a.p
    (loadValue a (lineRead (BitVec.ofNat 256 (s.sliceRead n (l * 32) 32)) ((a.addr - sliceBase) % 32) a.size)) a.x 0
  have unparked : (x.ctx a.ctx).unpark .parkMiss = { x.ctx a.ctx with status := .running } := by
    have parked : (x.ctx a.ctx).status = .parkMiss := hs'.trans (same ▸ hs)
    have none : ¬ 0 < (x.ctx a.ctx).respFaults := by
      have := h0'.trans (same ▸ h0)
      exact this ▸ Nat.lt_irrefl 0
    rw [Context.unpark, if_pos parked, if_neg none]
  simp only [fillDone, hu, sound, empty, fillData_slice hw, Bool.false_eq_true, if_false]
  rw [install_filled hr, State.cell_setCell_same, setCell_setCell]
  exact congrArg (fun v => s.setCell n (x.setCtx a.ctx v)) unparked

end

/-! ## Merge windows (R14) -/

section
variable {s : State} {i : Nat} {m : Merge} (hm : s.merges[i]? = some m)
include hm

theorem close_waits (h8 : m.who.length ≠ 8) (ho : s.strip < m.opened + 64) : exec (.mergeWindowClose i) s = .next s := by
  show execMergeWindowClose i s = _
  simp only [execMergeWindowClose, hm]
  exact if_neg (by omega)

theorem close_closes (h : m.who.length = 8 ∨ m.opened + 64 ≤ s.strip) : exec (.mergeWindowClose i) s =
    .next (m.who.foldl (closeOne m.line m.write) { s with merges := s.merges.eraseIdx i }) := by
  show execMergeWindowClose i s = _
  simp only [execMergeWindowClose, hm]
  exact if_pos h

end

theorem closeOne_merges (line : Nat) (write : Bool) (s : State) (w : Nat × Nat × PortUser × BitVec 256) :
    (closeOne line write s w).merges = s.merges := by
  unfold closeOne
  split
  · split
    · rw [sliceWrite_frame]; rfl
    · rfl
  · rfl

theorem foldl_closeOne_merges (line : Nat) (write : Bool) (l : List (Nat × Nat × PortUser × BitVec 256)) (s : State) :
    (l.foldl (closeOne line write) s).merges = s.merges := by
  induction l generalizing s with
  | nil => rfl
  | cons w l ih => exact (ih _).trans (closeOne_merges line write s w)

theorem closeOne_engine {line : Nat} {write : Bool} {s : State} {n pos : Nat} {u : PortUser} {d : BitVec 256} (hu : u ≠ .cache) :
    closeOne line write s (n, pos, u, d) = s.setCell n { s.cell n with
      port := (s.cell n).port.map fun r => if r.user = u ∧ r.line = line ∧ r.write = write then { r with served := true } else r } := by
  cases u with
  | cache => exact absurd rfl hu
  | _ => rfl

/-- The cell whose write-back of a line has been applied. -/
def written (c : CellState) (line : Nat) (d : BitVec 256) : CellState :=
  { c with wbs := dropWb c.wbs line d, badLines := c.badLines.filter fun l => decide (l ≠ line) }

/-- The bytes of a number that a write-back carries. -/
theorem ofNat_div_eq_extract (d : BitVec 256) (j : Nat) : BitVec.ofNat 8 (d.toNat / 256 ^ j) = d.extractLsb' (8 * j) 8 := by
  rw [BitVec.extractLsb', Nat.shiftRight_eq_div_pow, pow_mul]
  rfl

/-- What the closing of a window leaves for a write-back. -/
theorem closeOne_writeBack {s : State} (hw : s.firn.wf = true) (line n pos : Nat) (d : BitVec 256) :
    let t := closeOne line true s (n, pos, .cache, d)
    (∀ j, j < 32 → t.firn.read (s.sliceKey n (line * 32 + j)) = d.extractLsb' (8 * j) 8) ∧
    (∀ key, (∀ j, j < 32 → key ≠ s.sliceKey n (line * 32 + j)) → t.firn.read key = s.firn.read key) ∧
    t.cell n = written (s.cell n) line d := by
  have hkey (o : Nat) : s.sliceKey n o = (s.setCell n (written (s.cell n) line d)).sliceKey n o := rfl
  have ht : closeOne line true s (n, pos, .cache, d) = (s.setCell n (written (s.cell n) line d)).sliceWrite n (line * 32) 32 d.toNat := rfl
  simp only [hkey, ht]
  refine ⟨fun j hj => ?_, fun key hk => ?_, ?_⟩
  · exact (sliceWrite_read (s.setCell n (written (s.cell n) line d)) hw n (line * 32) 32 d.toNat hj).trans (ofNat_div_eq_extract d j)
  · exact sliceWrite_read_ne _ n (line * 32) 32 d.toNat hk
  · rw [sliceWrite_cell, State.cell_setCell_same]

/-- Settles O38: accesses that hold the arbiter, fills that arrive, FENCE.L, and the closing of a merge window. -/
theorem lineCacheAndMerges : Obligations.LineCacheAndMerges := by
  refine ⟨fun s n a e t => ?_, fun s i m hm => ⟨fun h => ⟨_, close_closes hm h, foldl_closeOne_merges _ _ _ _⟩, close_waits hm, ?_⟩⟩
  · intro c o l rest d val unres
    refine ⟨fun hh hf he hl => ⟨fun hs => ?heldStore, fun hs => ?heldLoad⟩, fun hh h => resume_waits hh (sliceAccess_held h),
      fun hh hf hc h4 => ⟨fun hs => ?storeMiss, fun hs hr => ?loadMiss⟩, fun u b => fill_early, fun u b hf ht hb hw hr => ?_, ?fence⟩
    case heldStore => exact resume_store hh hf he hl hs
    case heldLoad =>
      refine ⟨_, resume_load hh hf he hl hs, ?_⟩
      rw [loadDone, loadValue_lineRead]
      exact settle_settles _ _ _ _ _ _ _
    case storeMiss => exact resume_storeMiss hh hf hc h4 hs
    case loadMiss => exact resume_loadMiss hh hf hc h4 hs hr
    case fence =>
      intro hh hf hw hd
      exact if_pos ⟨hh, fenceClear_iff.mpr ⟨hf, hw, hd⟩⟩
    · refine ⟨fun hu => ?_, fun hu => ?_, fun hu hs h0 => ⟨loaded c a l d, ?_, ?_⟩⟩
      · exact (fill_arrived hf ht).trans (congrArg _ (fillDone_beat hb hw hr hf hu))
      · exact (fill_arrived hf ht).trans (congrArg _ (fillDone_store hb hw hr hf hu))
      · have hS := settle_settles ((filled c l d false).unreserve a.dst) a.ctx a.dst a.p (loadValue a (lineRead d o a.size)) a.x 0
        rw [loadValue_lineRead, unreserve_filled] at hS
        rw [loaded, loadDone, unreserve_filled, loadValue_lineRead]
        exact hS
      · exact (fill_arrived hf ht).trans (congrArg _ (fillDone_load hb hw hr hf hu hs h0))
  · intro n pos u d hw ho hok c closed
    have one : exec (.mergeWindowClose i) s = .next (closeOne m.line m.write { s with merges := s.merges.eraseIdx i } (n, pos, u, d)) := by
      rw [close_closes hm (.inr ho), hw]
      rfl
    refine ⟨fun hu hr => ?_, fun hu hr => ⟨_, one, ?_⟩, fun hu => ?_⟩
    · rw [one, hu, closeOne, hr]
      rfl
    · obtain ⟨own, other, cell⟩ := closeOne_writeBack (s := { s with merges := s.merges.eraseIdx i }) hok.1 m.line n pos d
      rw [hu, hr]
      exact ⟨own, other, congrArg CellState.wbs cell⟩
    · exact one.trans (congrArg _ (closeOne_engine hu))

end Sys2Proof.LineCache
end

section
/-! # What stands on the mesh, and what leaves it (R20 to R22) -/

namespace Sys2Proof.Rules

open Sys2Proof.Machine Sys2Proof.Safety

variable {s : State} {f : Flit}

theorem mem_indexed {α : Type} {l : List α} {i : Nat} {a : α} : (i, a) ∈ indexed l ↔ l[i]? = some a := by
  rw [indexed, List.mem_iff_getElem?]
  constructor
  · rintro ⟨j, hj⟩
    rw [List.getElem?_zip_eq_some] at hj
    obtain ⟨h1, h2⟩ := hj
    have : j = i := by
      have := List.getElem?_eq_some_iff.mp h1
      obtain ⟨_, h⟩ := this
      simpa using h
    exact this ▸ h2
  · intro h
    have hi : i < l.length := (List.getElem?_eq_some_iff.mp h).1
    exact ⟨i, List.getElem?_zip_eq_some.mpr ⟨by simp [hi], h⟩⟩

/-! ## Flits by kind -/

theorem mem_flits_packet {i : Nat} : (FlitRef.packet i, f) ∈ s.flits ↔ ∃ p, s.packets[i]? = some p ∧ packetFlit s i p = f := by
  simp [State.flits, mem_indexed]

theorem mem_flits_req {i : Nat} : (FlitRef.req i, f) ∈ s.flits ↔ ∃ r, s.reqs[i]? = some r ∧ reqFlit s r = some f := by
  simp [State.flits, mem_indexed]

theorem mem_flits_ack {i : Nat} : (FlitRef.ack i, f) ∈ s.flits ↔ ∃ a, s.acks[i]? = some a ∧ ackFlit a = f := by
  simp [State.flits, mem_indexed]

theorem mem_flits_item {i : Nat} : (FlitRef.item i, f) ∈ s.flits ↔ ∃ t, s.items[i]? = some t ∧ itemFlit s t = some f := by
  simp [State.flits, mem_indexed]

/-! ## Leaving -/

/-- What leaves is a flit of the mesh at its goal, which has its turn at the local port. -/
theorem leaving_some {ref : FlitRef} (h : s.leaving ref = some f) :
    (ref, f) ∈ s.flits ∧ f.there = true ∧ hasTurn s s.takes ref f none = true := by
  rw [State.leaving, Option.bind_eq_some_iff] at h
  obtain ⟨⟨ref', g⟩, he, hg⟩ := h
  have test := List.find?_some he
  obtain rfl : ref' = ref := of_decide_eq_true test
  rw [Option.ite_none_right_eq_some] at hg
  obtain ⟨ht, hg⟩ := hg
  obtain rfl : g = f := Option.some.inj hg
  have hm := List.mem_of_find?_eq_some he
  rw [Bool.and_eq_true] at ht
  exact ⟨hm, ht⟩

theorem leaving_ack {i : Nat} {a : Ack} (ha : s.acks[i]? = some a) (h : s.leaving (.ack i) = some f) :
    f.cls = 2 ∧ a.hop.router = a.goal := by
  obtain ⟨hm, ht, -⟩ := leaving_some h
  obtain ⟨b, hb, rfl⟩ := mem_flits_ack.mp hm
  obtain rfl : a = b := Option.some.inj (ha.symm.trans hb)
  exact ⟨rfl, of_decide_eq_true ht⟩

theorem itemFlit_cls {t : CtrlItem} (h : itemFlit s t = some f) : f.cls = 3 := by
  unfold itemFlit at h
  split at h
  · cases h
  · cases h; rfl

theorem leaving_item {i : Nat} (h : s.leaving (.item i) = some f) : f.cls = 3 := by
  obtain ⟨hm, -, -⟩ := leaving_some h
  obtain ⟨t, -, ht⟩ := mem_flits_item.mp hm
  exact itemFlit_cls ht

end Sys2Proof.Rules
end

section
/-! # The fields of a record (R342) -/

namespace Sys2Proof.Rules

open Sys2Proof.Machine Sys2Proof.Safety

/-- The fields of the first word. -/
theorem mkRecord_w1 (s : State) (c : CellState) (k : Fin 4) (slot : Nat) (async : Bool) (f : FaultInfo) (dest : RecDest) :
    let w := (mkRecord s c k slot async f dest).w1.toNat
    bits w 0 4 = f.cls % 16 ∧ bits w 4 5 = f.code % 32 ∧ bits w 9 2 = k.val ∧ bits w 11 7 = slot % 128 ∧ bits w 18 1 = async.toNat ∧
    bits w 19 5 = f.unit % 32 ∧ bits w 24 8 = f.modNum % 256 := by
  have hk := k.isLt
  have ha : async.toNat < 2 := Bool.toNat_lt async
  intro w
  refine ⟨?_, ?_, ?_, ?_, ?_, ?_, ?_⟩ <;> refine (bits_word _ _ _ (by norm_num)).trans ?_ <;> unfold bits <;> omega

/-- The fields of the second and the fourth word. -/
theorem mkRecord_w2_w4 (s : State) (c : CellState) (k : Fin 4) (slot : Nat) (async : Bool) (f : FaultInfo) (dest : RecDest) :
    let r := mkRecord s c k slot async f dest
    bits r.w2.toNat 0 9 = c.cx % 512 ∧ bits r.w2.toNat 9 9 = c.cy % 512 ∧ bits r.w2.toNat 18 14 = f.ahi % 2 ^ 14 ∧
    bits r.w4.toNat 0 8 = (s.stage c.stage).scene % 256 ∧ bits r.w4.toNat 8 24 = s.tick % 2 ^ 24 := by
  intro r
  refine ⟨?_, ?_, ?_, ?_, ?_⟩ <;> refine (bits_word _ _ _ (by norm_num)).trans ?_ <;> unfold bits <;> omega

/-- A record that names the place of an instruction. -/
theorem mkRecord_isRecord (s : State) (n slot : Nat) (k : Fin 4) (f : FaultInfo) (dest : RecDest) :
    IsRecord { s with focus := ⟨n, slot, k⟩ } f dest (mkRecord s (s.cell n) k slot false f dest) := by
  obtain ⟨h1, h2, h3, h4, h5, h6, h7⟩ := mkRecord_w1 s (s.cell n) k slot false f dest
  obtain ⟨g1, g2, g3, g4, g5⟩ := mkRecord_w2_w4 s (s.cell n) k slot false f dest
  exact ⟨h1, h2, h3, h4, h5, h6, h7, g1, g2, g3, rfl, g4, g5, rfl⟩

/-- A record of asynchronous work of a context. -/
theorem mkRecord_isAsyncRecord (s : State) (n slot : Nat) (k : Fin 4) (f : FaultInfo) :
    IsAsyncRecord s n k slot f (mkRecord s (s.cell n) k slot true f .trap) := by
  obtain ⟨h1, h2, h3, h4, h5, h6, h7⟩ := mkRecord_w1 s (s.cell n) k slot true f .trap
  obtain ⟨g1, g2, g3, g4, g5⟩ := mkRecord_w2_w4 s (s.cell n) k slot true f .trap
  exact ⟨h1, h2, h3, h4, h5, h6, h7, g1, g2, g3, rfl, g4, g5, rfl⟩

end Sys2Proof.Rules
end

section
/-! # Answers, watches and markers (O42) -/

namespace Sys2Proof.Answers

open Sys2Proof.Machine Sys2Proof.Safety Sys2Proof.Rules

variable {s : State}

/-! ## Answers that leave the mesh -/

/-- The state in which answer `i` has left the mesh in its turn. -/
def ackTaken (s : State) (i : Nat) (f : Flit) : State :=
  { s with rr := s.rr.put (arbKey 2 f.hop.router none) f.port, acks := s.acks.eraseIdx i }

/-- A request that its cell has outstanding. -/
def Awaited (s : State) (r : Req) : Prop :=
  AMap.get? s.cells r.cell = some (s.cell r.cell) ∧ (s.cell r.cell).stage = r.stage ∧ 0 < ((s.cell r.cell).ctx r.ctx).uack

theorem cell_of_get {n : Nat} {c : CellState} (h : AMap.get? s.cells n = some c) : s.cell n = c := by
  simp [State.cell, AMap.getD, h]

theorem ackMatches_iff {r : Req} : ackMatches s r = true ↔ Awaited s r := by
  unfold ackMatches
  split
  · next c h =>
    have hc := cell_of_get h
    simp [Awaited, hc, h]
  · next h => simp [Awaited, h]

section
variable {i : Nat} {a : Ack} {f : Flit} {amo : Bool} {g : State → Req → AckRes → State}

theorem takeAck_stays (h : s.leaving (.ack i) = none) : takeAck i s amo g = s := by
  unfold takeAck
  split
  · next h2 => rw [h] at h2; cases h2
  · rfl

theorem takeAck_leaves (ha : s.acks[i]? = some a) (hl : s.leaving (.ack i) = some f) (ho : a.req.origin = none)
    (hk : a.req.kind.isAmo = amo) : takeAck i s amo g =
      if ackMatches s a.req then g (ackTaken s i f) a.req a.result else (ackTaken s i f).routerRecord a.req.cell 4 := by
  have hc := (leaving_ack ha hl).1
  simp only [takeAck, ha, hl, ho, hk, ne_eq, not_true, if_false, State.turned, hc]
  rfl

/-- An answer away from its cell does not leave the mesh. -/
theorem leaving_away (ha : s.acks[i]? = some a) (ho : a.req.origin = none) (hr : a.hop.router ≠ a.req.cell) : s.leaving (.ack i) = none := by
  by_contra h
  obtain ⟨f, hf⟩ := Option.ne_none_iff_exists'.mp h
  have := (leaving_ack ha hf).2
  rw [Ack.goal, ho] at this
  exact hr this

end

/-! ## Acknowledgements -/

section
variable {r : Req} {res : AckRes}

/-- An acknowledgement that tells of no fault lowers the counter of its context. -/
theorem ackDone_done : ackDone s r .done = s.setCell r.cell ((s.cell r.cell).setCtx r.ctx
    { (s.cell r.cell).ctx r.ctx with uack := ((s.cell r.cell).ctx r.ctx).uack - 1 }) := rfl

end

/-! ## Mailboxes and wakes (R49) -/

theorem post6_eq (c : CellState) (w : QWord) : c.post6 w =
    if c.mail6 = [] ∧ (c.iq[(6 : Fin 8)]).length < 8 then { c with iq := vset c.iq 6 (c.iq[(6 : Fin 8)] ++ [w]) }
    else { c with mail6 := c.mail6 ++ [w] } :=
  if_congr (by rw [Bool.and_eq_true, List.isEmpty_iff, decide_eq_true_iff]; rfl) rfl rfl

/-- A posted word stands behind all that waited for the mailbox. -/
theorem post6_line (c : CellState) (w : QWord) :
    (c.post6 w).iq[(6 : Fin 8)] ++ (c.post6 w).mail6 = c.iq[(6 : Fin 8)] ++ c.mail6 ++ [w] := by
  rw [post6_eq]
  split
  · next h =>
    exact (congrArg (· ++ c.mail6) (vset_same c.iq 6 _)).trans (by simp [h.1])
  · exact (List.append_assoc _ _ _).symm

theorem post6_ctx (c : CellState) (w : QWord) (k : Fin 4) : (c.post6 w).ctx k = c.ctx k := by
  rw [post6_eq]
  split <;> rfl

/-- The context whose watch has ended with its event. -/
def woken (u : Context) : Context := { u with wake := true, watchOut := false, watch := none, watchId := none }

theorem wakeUp_ctx (c : CellState) (k : Fin 4) (code : Nat) : (c.wakeUp k code).ctx k = woken (c.ctx k) := by
  rw [CellState.wakeUp, post6_ctx, ctx_setCtx]
  rfl

theorem wakeCell_placed {st n code : Nat} {k : Fin 4} (h : (s.stage st).status ≠ .preempted) :
    s.wakeCell st n k code = s.setCell n ((s.cell n).wakeUp k code) := if_neg h

/-- The watches of a list but those of one context. -/
def watchesBut (l : List Watch) (st n : Nat) (k : Fin 4) : List Watch :=
  l.filter fun w => !(decide (w.stage = st) && decide (w.cell = n) && decide (w.ctx = k) && w.origin.isNone)

theorem cancelWatch_here (st n : Nat) (k : Fin 4) : ∃ reqs acks,
    cancelWatch s st n k none = { s with reqs := reqs, acks := acks, watches := watchesBut s.watches st n k } := ⟨_, _, rfl⟩

/-- A watch that is called off and told. -/
theorem cancel_wake {st n code : Nat} {k : Fin 4} (h : (s.stage st).status ≠ .preempted) :
    let t := (cancelWatch s st n k none).wakeCell st n k code
    t.cell n = (s.cell n).wakeUp k code ∧ (∀ m, m ≠ n → AMap.get? t.cells m = AMap.get? s.cells m) ∧
      t.watches = watchesBut s.watches st n k := by
  obtain ⟨reqs, acks, hc⟩ := cancelWatch_here (s := s) st n k
  intro t
  have ht : t = ({ s with reqs := reqs, acks := acks, watches := watchesBut s.watches st n k } : State).setCell n ((s.cell n).wakeUp k code) := by
    simp only [t, hc]
    exact wakeCell_placed h
  rw [ht]
  exact ⟨State.cell_setCell_same _ _ _, fun m hm => AMap.get?_put_ne _ _ hm, rfl⟩

/-! ## Records of asynchronous work -/

/-- Where a record of a context's asynchronous work goes: to its cell, or to its stage's log. -/
theorem asyncRecord_cases (n : Nat) (k : Fin 4) (slot : Nat) (f : FaultInfo) :
    (∃ l, s.asyncRecord n k slot f = s.setCell n { s.cell n with asyncRecs := l }) ∨
    ∃ t, s.asyncRecord n k slot f = s.setStage (s.cell n).stage t ∧ t.status = (s.stage (s.cell n).stage).status := by
  have log (r : Record) : ∃ t, s.logFault (s.cell n).stage r 1 true = s.setStage (s.cell n).stage t ∧
      t.status = (s.stage (s.cell n).stage).status := by
    rw [State.logFault]
    split
    · exact ⟨_, rfl, rfl⟩
    · exact ⟨_, rfl, rfl⟩
  rw [State.asyncRecord]
  split
  · exact .inr (log _)
  · rw [State.cellRecord]
    split
    · exact .inl ⟨_, rfl⟩
    · exact .inr (log _)

theorem stage_setStage_status {st id : Nat} {t : Stage} (h : t.status = (s.stage id).status) :
    ((s.setStage id t).stage st).status = (s.stage st).status := by
  by_cases e : st = id
  · subst e; simp [State.stage, State.setStage, h]
  · simp [State.stage, State.setStage, AMap.getD_put_ne _ _ _ e]

/-- What a record leaves alone: contexts and mailboxes of the cell, watches, the status of every stage. -/
theorem asyncRecord_keeps (n : Nat) (k : Fin 4) (slot : Nat) (f : FaultInfo) :
    let t := s.asyncRecord n k slot f
    (t.cell n).ctxs = (s.cell n).ctxs ∧ (t.cell n).iq = (s.cell n).iq ∧ (t.cell n).mail6 = (s.cell n).mail6 ∧ t.watches = s.watches ∧
      ∀ st, (t.stage st).status = (s.stage st).status := by
  intro t
  rcases asyncRecord_cases (s := s) n k slot f with ⟨l, h⟩ | ⟨u, h, hu⟩
  · rw [show t = _ from h, State.cell_setCell_same]
    exact ⟨rfl, rfl, rfl, rfl, fun _ => rfl⟩
  · rw [show t = _ from h]
    exact ⟨rfl, rfl, rfl, rfl, fun st => stage_setStage_status hu⟩

/-! ## A registration that failed (R277) -/

section
variable {r : Req} {dbl : Bool} {cmp : DWord} {cls code : Nat} (hk : r.kind = .waita dbl cmp true)
  (ho : ((s.cell r.cell).ctx r.ctx).watchOut = true) (hi : ((s.cell r.cell).ctx r.ctx).watchId = none)
include hk ho hi

/-- The state before a failed registration ends its watch. -/
def failed (s : State) (r : Req) (cls code : Nat) : State :=
  (s.setCell r.cell ((s.cell r.cell).setCtx r.ctx { (s.cell r.cell).ctx r.ctx with uack := ((s.cell r.cell).ctx r.ctx).uack - 1 })).asyncRecord
    r.cell r.ctx r.slot (waferFault cls code r.addr)

omit hk ho hi in
theorem failed_keeps (s : State) (r : Req) (cls code : Nat) : let t := failed s r cls code
    (t.cell r.cell).ctx r.ctx = { (s.cell r.cell).ctx r.ctx with uack := ((s.cell r.cell).ctx r.ctx).uack - 1 } ∧
    (t.cell r.cell).iq = (s.cell r.cell).iq ∧ (t.cell r.cell).mail6 = (s.cell r.cell).mail6 ∧ t.watches = s.watches ∧
    ∀ st, (t.stage st).status = (s.stage st).status := by
  intro t
  obtain ⟨h1, h2, h3, h4, h5⟩ := asyncRecord_keeps
    (s := s.setCell r.cell ((s.cell r.cell).setCtx r.ctx { (s.cell r.cell).ctx r.ctx with uack := ((s.cell r.cell).ctx r.ctx).uack - 1 }))
    r.cell r.ctx r.slot (waferFault cls code r.addr)
  rw [State.cell_setCell_same] at h1 h2 h3
  refine ⟨?_, h2, h3, h4, h5⟩
  exact (congrArg (·[r.ctx]) h1).trans (ctx_setCtx _ _ _)

theorem ackDone_failed : ackDone s r (.fault cls code) =
    if r.serial + 1 = ((s.cell r.cell).ctx r.ctx).watchNo then
      (cancelWatch (failed s r cls code) r.stage r.cell r.ctx none).wakeCell r.stage r.cell r.ctx 3
    else failed s r cls code := by
  have step : ackDone s r (.fault cls code) =
      let u := (s.cell r.cell).ctx r.ctx
      if u.watchOut && decide (r.serial + 1 = u.watchNo) then
        (cancelWatch (failed s r cls code) r.stage r.cell r.ctx u.watchId).wakeCell r.stage r.cell r.ctx 3
      else failed s r cls code := by
    simp only [ackDone, hk]
    rfl
  exact step.trans (if_congr (by rw [ho, Bool.true_and, decide_eq_true_iff]) (by rw [hi]) rfl)

/-- A registration that failed ends its watch where that is still the one outstanding. -/
theorem ackDone_ends (hp : (s.stage r.stage).status ≠ .preempted) :
    let t := ackDone s r (.fault cls code)
    let c := s.cell r.cell
    let u := c.ctx r.ctx
    let v := (t.cell r.cell).ctx r.ctx
    v.uack = u.uack - 1 ∧
    (r.serial + 1 = u.watchNo → v.watchOut = false ∧ v.wake = true ∧
      (t.cell r.cell).iq[(6 : Fin 8)] ++ (t.cell r.cell).mail6 = c.iq[(6 : Fin 8)] ++ c.mail6 ++ [⟨3, boxTag r.ctx 2, false⟩] ∧
      t.watches = watchesBut s.watches r.stage r.cell r.ctx) ∧
    (r.serial + 1 ≠ u.watchNo → v.watchOut = true ∧ t.watches = s.watches) := by
  obtain ⟨hctx, hiq, hmail, hwatch, hstat⟩ := failed_keeps s r cls code
  by_cases hs : r.serial + 1 = ((s.cell r.cell).ctx r.ctx).watchNo
  · obtain ⟨h1, -, h3⟩ := cancel_wake (s := failed s r cls code) (st := r.stage) (n := r.cell) (k := r.ctx) (code := 3) (by rw [hstat]; exact hp)
    rw [(ackDone_failed hk ho hi).trans (if_pos hs)]
    dsimp only
    rw [h1, wakeUp_ctx, hctx]
    refine ⟨rfl, fun _ => ⟨rfl, rfl, ?_, h3.trans (congrArg (watchesBut · r.stage r.cell r.ctx) hwatch)⟩, fun h => absurd hs h⟩
    rw [CellState.wakeUp, post6_line]
    exact congrArg (· ++ _) (congrArg₂ (fun (q : Vector (List QWord) 8) m => q[(6 : Fin 8)] ++ m) hiq hmail)
  · rw [(ackDone_failed hk ho hi).trans (if_neg hs)]
    dsimp only
    rw [hctx]
    exact ⟨rfl, fun h => absurd h hs, fun _ => ⟨ho, hwatch⟩⟩

end

/-! ## Responses (R275, R282) -/

/-- The context that a response reaches: reservations, counter and the wait for an acquiring atomic. -/
def responded (u : Context) (dbl acq : Bool) (d : Fin 8) : Context :=
  { u with
    resv := if dbl then setBit (setBit u.resv d false) (Fin.ofNat 8 (d.val + 1)) false else setBit u.resv d false
    uack := u.uack - 1, acq := u.acq && !acq }

theorem fin8_succ (d : Fin 8) : d + 1 = Fin.ofNat 8 (d.val + 1) := by
  revert d; decide

theorem presReg_ne (d : Fin 8) : presReg d ≠ 0 := by
  revert d; decide

section
variable {r : Req} {fn : AmoFn} {acq : Bool} {x y : DWord} {d : Fin 8} {p : PAct}

theorem respond_amo {dbl : Bool} {res : AckRes} (hk : r.kind = .amo fn dbl acq x y d p) : respond s r res = amoDone s r dbl acq d p res := by
  rw [respond, hk]

theorem amoDone_word (old : DWord) : amoDone s r false acq d p (.value old) =
    let u := (s.cell r.cell).ctx r.ctx
    s.setCell r.cell ((s.cell r.cell).setCtx r.ctx ({ u with
      x := vset u.x (presReg d) (old.setWidth 32), pres := setBit u.pres d true, resv := setBit u.resv d false
      uack := u.uack - 1, acq := u.acq && !acq : Context }.act p (decide (old ≠ 0)))) := by
  simp only [amoDone, Context.setX, if_neg (presReg_ne d)]
  rfl

theorem amoDone_pair (old : DWord) : amoDone s r true acq d p (.value old) =
    let u := (s.cell r.cell).ctx r.ctx
    let e : Fin 8 := Fin.ofNat 8 (d.val + 1)
    s.setCell r.cell ((s.cell r.cell).setCtx r.ctx ({ u with
      x := vset (vset u.x (presReg d) (old.setWidth 32)) (presReg e) (old.extractLsb' 32 32)
      pres := setBit (setBit u.pres d true) e true, resv := setBit (setBit u.resv d false) e false
      uack := u.uack - 1, acq := u.acq && !acq : Context }.act p (decide (old ≠ 0)))) := by
  simp only [amoDone, Context.setX, if_neg (presReg_ne _)]
  rfl

theorem amoDone_fault {dbl : Bool} (cls code : Nat) : amoDone s r dbl acq d p (.fault cls code) =
    failAmo s r (responded ((s.cell r.cell).ctx r.ctx) dbl acq d) (waferFault cls code r.addr) := by
  cases dbl <;> rfl

end

theorem addRecord_eq (t : Context) (o : Record) (tick : Nat) : t.addRecord o tick =
    if t.record.isNone = true ∧ t.beside = [] then { t with record := some (o, tick) } else { t with beside := t.beside ++ [o] } :=
  if_congr (by rw [Bool.and_eq_true, List.isEmpty_iff]) rfl rfl

theorem waferFault_eq (cls code : Nat) (a : DWord) : waferFault cls code a =
    { cls := cls, code := code, opnd := BitVec.ofNat 32 (a.toNat / 4), modNum := modOf a, ahi := a.toNat / 2 ^ 34 % 2 ^ 14 } := by
  have h : word (bits a.toNat 2 32) = BitVec.ofNat 32 (a.toNat / 4) := BitVec.eq_of_toNat_eq (by simp [word, bits])
  rw [waferFault, h]
  rfl

/-- What a record leaves of its context. -/
theorem addRecord_frame (t : Context) (o : Record) (tick : Nat) : (t.addRecord o tick).status = t.status ∧
    (t.addRecord o tick).pres = t.pres ∧ (t.addRecord o tick).respFaults = t.respFaults := by
  rw [addRecord_eq]
  split <;> exact ⟨rfl, rfl, rfl⟩

/-- A failed response: its record goes to the stage of a halted context, parks a running one, and waits behind the park of another. -/
theorem failAmo_eq (r : Req) (v : Context) (f : FaultInfo) {o : Record} (ho : o = mkRecord s (s.cell r.cell) r.ctx r.slot false f .trap) :
    failAmo s r v f =
    if v.status = .halted then (s.setCell r.cell ((s.cell r.cell).setCtx r.ctx v)).logFault (s.cell r.cell).stage o 1 true
    else if v.status = .running then s.setCell r.cell ((s.cell r.cell).setCtx r.ctx { v.addRecord o s.tick with
      status := .parkFault, pres := setBit v.pres 7 false, parkDeq := [], parkCue := none })
    else s.setCell r.cell ((s.cell r.cell).setCtx r.ctx { v.addRecord o s.tick with respFaults := v.respFaults + 1 }) := by
  obtain ⟨hs, hp, hr⟩ := addRecord_frame v o s.tick
  rw [failAmo, ← ho]
  dsimp only
  rw [hs]
  split_ifs
  · rfl
  · rw [← hp]
    rfl
  · rw [← hr]

/-! ## Deadlines (R277) -/

theorem savedTimeout_none {n : Nat} {k : Fin 4} {e : Nat × Stage} (h : e.2.status ≠ .preempted) : savedTimeout n k s e = s :=
  if_neg fun hp => h hp.1

theorem foldl_savedTimeout {n : Nat} {k : Fin 4} {l : List (Nat × Stage)} (h : ∀ e ∈ l, e.2.status ≠ .preempted) :
    l.foldl (savedTimeout n k) s = s := by
  induction l with
  | nil => rfl
  | cons e l ih =>
    rw [List.foldl_cons, savedTimeout_none (h e List.mem_cons_self)]
    exact ih fun x hx => h x (List.mem_cons_of_mem _ hx)

theorem waitaTimeout_due {n : Nat} {k : Fin 4} {c : CellState} {due : Nat} (hc : AMap.get? s.cells n = some c) (ho : (c.ctx k).watchOut = true)
    (hd : (c.ctx k).watch = some due) (ht : due ≤ s.tick) (hi : (c.ctx k).watchId = none) (hs : ∀ e ∈ s.stages, e.2.status ≠ .preempted) :
    exec (.waitaTimeout n k) s = .next ((cancelWatch s c.stage n k none).wakeCell c.stage n k 2) := by
  have due' : watchDue s (c.ctx k) = some none := by
    simp only [watchDue, hd]
    exact (if_pos ⟨ho, ht⟩).trans (congrArg some hi)
  show execWaitaTimeout n k s = _
  simp only [execWaitaTimeout, foldl_savedTimeout hs, hc, due']

/-! ## Drain markers (R281) -/

theorem markerRecorded_taken {i st n d num : Nat} {k : Fin 4} {held : Bool} {h : Hop} {f : Flit}
    (hi : s.items[i]? = some ⟨st, n, d, .mark k num, held, h⟩) (hl : s.leaving (.item i) = some f) :
    exec (.markerRecorded i) s = .next ((({ s with
      rr := s.rr.put (arbKey 3 f.hop.router none) f.port, items := s.items.eraseIdx i } : State).setStage st
      { s.stage st with markers := (s.stage st).markers ++ [num] }).setCell n ((s.cell n).post6 ⟨word num, boxTag k 3, false⟩)) := by
  have hc := leaving_item hl
  show execMarkerRecorded i s = _
  simp only [execMarkerRecorded, hi, hl, State.turned, hc]
  rfl

/-- Settles O42: acknowledgements, failed registrations, answers on their way, responses, deadlines, markers. -/
theorem answersWatchesMarkers : Obligations.AnswersWatchesMarkers := by
  intro s i n k r c u posted tag taken awaited hn hk ho
  subst hn hk
  have haw : ackMatches s r = true ↔ awaited := ackMatches_iff
  have responds {res : AckRes} {h : Hop} {f : Flit} {t : State} (ha : s.acks[i]? = some ⟨r, res, h, true⟩) (hl : s.leaving (.ack i) = some f)
      (hm : r.kind.isAmo = true) (hw : awaited) (ht : respond (ackTaken s i f) r res = t) :
      exec (.responseReceive (.own i)) s = .next t := by
    show Host.Outcome.next (takeAck i s true respond) = _
    rw [takeAck_leaves ha hl ho hm, if_pos (haw.mpr hw)]
    exact congrArg _ ht
  refine ⟨?acked, ?failed, ?waits, ?word, ?pair, ?fault, ?deadline, ?marker⟩
  case acked =>
    intro h f ha hl hm
    have run : exec (.ackReceive (.own i)) s = .next (takeAck i s false ackDone) := rfl
    rw [run, takeAck_leaves ha hl ho hm]
    exact ⟨fun hw => by rw [if_pos (haw.mpr hw)]; rfl, fun hw => by rw [if_neg (haw.not.mpr hw)]; rfl⟩
  case failed =>
    intro cls code h f dbl cmp ha hl hm hw hout hid hp
    have amo : r.kind.isAmo = false := by rw [hm]; rfl
    have run : exec (.ackReceive (.own i)) s = .next (ackDone (ackTaken s i f) r (.fault cls code)) := by
      show Host.Outcome.next (takeAck i s false ackDone) = _
      rw [takeAck_leaves ha hl ho amo, if_pos (haw.mpr hw)]
      rfl
    exact ⟨_, run, ackDone_ends (s := ackTaken s i f) hm hout hid hp⟩
  case waits =>
    intro a ha hr
    subst hr
    exact ⟨leaving_away ha ho, fun h => ⟨congrArg _ (takeAck_stays h), congrArg _ (takeAck_stays h)⟩⟩
  case word =>
    intro fn acq x y d p old h f ha hl hm hw
    exact responds ha hl (by rw [hm]; rfl) hw ((respond_amo hm).trans (amoDone_word old))
  case pair =>
    intro fn acq x y d p old h f ha hl hm _ hw
    rw [fin8_succ]
    exact responds ha hl (by rw [hm]; rfl) hw ((respond_amo hm).trans (amoDone_pair old))
  case fault =>
    intro fn dbl acq x y d p cls code h f ha hl hm hw v kept
    refine ⟨_, mkRecord_isRecord s r.cell r.slot r.ctx _ .trap, ?_⟩
    refine responds ha hl (by rw [hm]; rfl) hw ((respond_amo hm).trans ((amoDone_fault cls code).trans ?_))
    rw [waferFault_eq]
    refine (failAmo_eq r _ _ rfl).trans ?_
    rw [addRecord_eq]
    rfl
  case deadline =>
    intro due hc hout hd ht hi hs hp
    obtain ⟨h1, h2, h3⟩ := cancel_wake (s := s) (n := r.cell) (k := r.ctx) (code := 2) hp
    refine ⟨_, waitaTimeout_due hc hout hd ht hi hs, ?_, h2, h3⟩
    rw [h1, CellState.wakeUp, post6_eq]
    rfl
  case marker =>
    intro st d num held h f hi hl
    rw [markerRecorded_taken hi hl, post6_eq]
    rfl

end Sys2Proof.Answers
end

section
/-! # Barriers, windows, masks (O43) -/

namespace Sys2Proof.Barriers

open Sys2Proof.Machine Sys2Proof.Safety

/-- A cell of stage 0 that bears the number of the director's endpoint and is a member of group 0, where the arrivals of the group's
members are in and the CTRL tables of set 4608, a row that the module does not have, wait for their swap. R8 numbers no cell so; the
statement does not exclude it. -/
def farMember : State :=
  { State.reset with
    cells := [(directorAt, { benchCell 0 0 with bars := Vector.replicate 16 { Bar.blank with member := true } })]
    stages := [(0, { benchStage with arr := [(0, 0)] })]
    ctrl := [(4608, { CtrlTables.blank with pending := true })] }

/-- Which of the CTRL items of a next state are held. -/
def heldItems (o : Host.Outcome State Fault Refusal) : List Bool :=
  match o with
  | .next t => t.items.map (·.held)
  | _ => []

/-- The model sends the completion at once: no row's tables serve the director's endpoint (`rowSet`). -/
theorem farMember_sends : heldItems (exec (.barrierComplete 0 0) farMember) = [false] := by decide +kernel

/-- Refutes O43: the completion for a cell that bears the number of the director's endpoint, 163,840, which the statement admits, leaves at
once, where the statement holds it back for the tables of row 512. -/
theorem not_barriersWindowsMasks : ¬ Obligations.BarriersWindowsMasks := by
  intro h
  obtain ⟨complete, -⟩ := h farMember 0 0 0 0
  obtain ⟨t, ht, -, -, items⟩ := complete (by decide +kernel) (by decide +kernel) (by decide +kernel)
  have sent := farMember_sends
  rw [ht] at sent
  change t.items.map (·.held) = [false] at sent
  rw [items] at sent
  exact absurd sent (by decide +kernel)

end Sys2Proof.Barriers
end

section
/-! # Egress queues, ports and the power cap (O52) -/

namespace Sys2Proof.Egress

open Sys2Proof.Machine Sys2Proof.Safety

/-- An unmarked word for egress queue 0 that stands where it leaves the mesh, and whose end-to-end check fails (R20, R351). -/
def broken : Packet :=
  { stage := 0, src := 0, oq := 0, target := .egress 0, data := .word zeroWord
    hop := ⟨0, 0, 0, [], 0⟩, goal := 0, item := 0, good := false }

/-- The module with that word alone on its mesh, and every port up. -/
def carrying : State :=
  { State.reset with packets := [broken], host := { HostSide.reset with pcieUp := Vector.replicate 8 true } }

/-- The data of the writes that a next state has sent to its hosts. -/
def sentData (o : Host.Outcome State Fault Refusal) : List Nat :=
  match o with
  | .next t => t.host.posted.map (·.data)
  | _ => []

/-- The model writes the word with its mark, bit 40: the interface that consumes a word whose check fails marks it (R351; log 46). -/
theorem carrying_marks : sentData (exec (.egressEntryWrite 0) carrying) = [2 ^ 40 + 2 ^ 63] := by decide +kernel

/-- The packets that leave the mesh for queue 0 are the first one. -/
theorem carrying_first (j : Nat) (x : Packet) (h : carrying.packets[j]? = some x) : j = 0 := by
  have : j < 1 := (List.getElem?_eq_some_iff.mp h).choose
  omega

/-- Refutes O52: a word whose end-to-end check fails, which the statement does not exclude, is written with its mark set, where the
statement writes the word's own clear mark. -/
theorem not_egressPortsPower : ¬ Obligations.EgressPortsPower := by
  intro h
  obtain ⟨-, -, word, -⟩ := h carrying 0 0 broken ⟨0, broken.hop, 0, 1, []⟩ zeroWord 0 0
  obtain ⟨up, -⟩ := word rfl rfl (by decide +kernel) (fun j ⟨_, x, hx, _⟩ => carrying_first j x hx) rfl
  have sent := carrying_marks
  rw [up (by decide +kernel)] at sent
  exact absurd sent (by decide +kernel)

end Sys2Proof.Egress
end

section
/-! # Signed objects, boot and the outbox (O55) -/

namespace Sys2Proof.Sealed

open Sys2Proof.Machine Sys2Proof.Safety

/-! ## Envelopes and casting tables -/

theorem take_append_drop_take (l : List Byte) (a m : Nat) :
    l = l.take a ++ (l.drop a).take m ++ l.drop (a + ((l.drop a).take m).length) := by
  conv_lhs => rw [← List.take_append_drop a l, ← List.prefix_iff_eq_append.mp (List.take_prefix m (l.drop a)), List.drop_drop]
  rw [List.append_assoc]

theorem body_vacant (k : Casting) (rows : List Nat) : ({ k with vacant := rows } : Casting).body = k.body := rfl

theorem ofBody_body {l : List Byte} {k : Casting} (h : Casting.ofBody l = some k) : k.body = l := by
  unfold Casting.ofBody at h
  split at h
  · exact nomatch h
  · obtain ⟨ok, eq⟩ := Option.ite_none_right_eq_some.mp h
    obtain ⟨-, body⟩ := Bool.and_eq_true_iff.mp ok
    rw [← Option.some.inj eq, body_vacant]
    exact of_decide_eq_true body

theorem sound_cols {k : Casting} (h : k.sound = true) (r : Nat) (hr : r < 512) : 320 ≤ (k.cols r).length := by
  obtain ⟨-, rows⟩ := Bool.and_eq_true_iff.mp h
  exact of_decide_eq_true (List.all_eq_true.mp rows r (List.mem_range.mpr hr))

theorem without_eq (k : Casting) (back : List (Nat × Nat)) :
    k.without back = { k with dead := k.dead.filter fun d => decide ((d.1, d.2.1) ∉ back) } := by
  unfold Casting.without
  congr 2
  funext d
  simp

/-- A table is accepted exactly when its body is one, and its header, signature, serial and sequence number and its rows are in order. -/
theorem tableOk_some {s : State} {l : List Byte} {k : Casting} (h : tableOk s l = some k) :
    Casting.ofBody (bodyOf l) = some k ∧ headOk l = true ∧ field l 4 1 = 2 ∧
    signedBy l (if k.gen = 0 then Config.rootKey else deviceKey) = true ∧ serialOk s l = true ∧
    (l = s.host.mbox.table ∨ ∀ q, lastSeq s 2 = some q → q < field l 32 8) ∧ (k.without s.casting.back).sound = true := by
  unfold tableOk at h
  split at h
  · exact nomatch h
  next k' body =>
    obtain ⟨ok, eq⟩ := Option.ite_none_right_eq_some.mp h
    obtain rfl := Option.some.inj eq
    obtain ⟨ok, rows⟩ := Bool.and_eq_true_iff.mp ok
    obtain ⟨ok, order⟩ := Bool.and_eq_true_iff.mp ok
    obtain ⟨ok, serial⟩ := Bool.and_eq_true_iff.mp ok
    obtain ⟨ok, signed⟩ := Bool.and_eq_true_iff.mp ok
    obtain ⟨head, type⟩ := Bool.and_eq_true_iff.mp ok
    refine ⟨body, head, of_decide_eq_true type, signed, serial, ?_, rows⟩
    refine (Bool.or_eq_true_iff.mp order).imp of_decide_eq_true fun new q hq => ?_
    rw [hq] at new
    exact of_decide_eq_true new

theorem headOk_iff (l : List Byte) : headOk l = true ↔ field l 0 4 = 0xA64C5A01 ∧ field l 4 4 / 2 ^ 8 = 1 ∧ field l 8 4 % 4 = 0 ∧
    l.length = 172 + field l 8 4 ∧ field l 12 4 = 0 := by
  have length : l.length = 40 + field l 8 4 + 132 ↔ l.length = 172 + field l 8 4 := by omega
  unfold headOk
  rw [Bool.and_eq_true_iff, Bool.and_eq_true_iff, Bool.and_eq_true_iff, Bool.and_eq_true_iff, decide_eq_true_iff, decide_eq_true_iff,
    decide_eq_true_iff, decide_eq_true_iff, decide_eq_true_iff, length]
  tauto

theorem signedBy_iff (l key : List Byte) : signedBy l key = true ↔ field l 16 8 = keyId key ∧
    Crypto.verify key (Crypto.sha512 (l.take (l.length - 132))) (l.drop (l.length - 132)) = true := by
  unfold signedBy
  rw [Bool.and_eq_true_iff, decide_eq_true_iff]

/-- The first clause of O55: what an accepted casting table is. -/
theorem accepted_table {s : State} {l : List Byte} {k : Casting} (h : tableOk s l = some k) :
    let key := if k.gen = 0 then Config.rootKey else deviceKey
    l = l.take 40 ++ k.body ++ l.drop (40 + k.body.length) ∧ field l 0 4 = 0xA64C5A01 ∧ field l 4 1 = 2 ∧
    field l 16 8 = natOf ((digestBytes (Crypto.sha512 key)).take 8) ∧
    Crypto.verify key (Crypto.sha512 (l.take (l.length - 132))) (l.drop (l.length - 132)) = true ∧
    (l = s.host.mbox.table ∨ ∀ q, lastSeq s 2 = some q → q < field l 32 8) ∧
    ∀ r, r < 512 → 320 ≤ (({ k with dead := k.dead.filter fun d => decide ((d.1, d.2.1) ∉ s.casting.back) } : Casting).cols r).length := by
  obtain ⟨body, head, type, signed, -, order, rows⟩ := tableOk_some h
  obtain ⟨magic, -⟩ := (headOk_iff l).mp head
  obtain ⟨signer, verified⟩ := (signedBy_iff _ _).mp signed
  refine ⟨?_, magic, type, signer, verified, order, fun r hr => ?_⟩
  · rw [ofBody_body body]
    exact take_append_drop_take l 40 _
  · exact without_eq k _ ▸ sound_cols rows r hr

/-! ## Boot -/

theorem mem_clockChoice (f : BootFinds) (row col : Nat) (d : Dir) :
    d ∈ clockChoice f row col ↔ ∃ q, besideOf row col d = some q ∧ q ∉ f.osc ∧ q ∉ f.dead := by
  have all : d ∈ [Dir.north, .east, .south, .west] := by cases d <;> decide
  unfold clockChoice
  rw [List.mem_filter, Option.any_eq_true]
  simp [all]

/-- One position takes a clock of its choice. -/
def takeClock (f : BootFinds) (n : Nat) (m : AMap Dir) (p : Nat × Nat) : AMap Dir :=
  match (clockChoice f p.1 p.2)[Config.pick n % (clockChoice f p.1 p.2).length]? with
  | some d => m.put (pollKey p.1 p.2) d
  | none => m

theorem clocksOf_eq (f : BootFinds) (n : Nat) : clocksOf f n = f.osc.foldl (takeClock f n) [] := rfl

theorem takeClock_same (f : BootFinds) (n : Nat) (m : AMap Dir) (p : Nat × Nat) (h : clockChoice f p.1 p.2 ≠ []) :
    ∃ d ∈ clockChoice f p.1 p.2, AMap.get? (takeClock f n m p) (pollKey p.1 p.2) = some d := by
  have lt := Nat.mod_lt (Config.pick n) (List.length_pos_iff.mpr h)
  unfold takeClock
  rw [List.getElem?_eq_getElem lt]
  exact ⟨_, List.getElem_mem lt, AMap.get?_put_same ..⟩

theorem takeClock_ne (f : BootFinds) (n : Nat) (m : AMap Dir) (p : Nat × Nat) {key : Nat} (h : key ≠ pollKey p.1 p.2) :
    AMap.get? (takeClock f n m p) key = AMap.get? m key := by
  unfold takeClock
  split
  · exact AMap.get?_put_ne m _ h
  · rfl

theorem pollKey_inj {p q : Nat × Nat} (hp : p.2 < 384) (hq : q.2 < 384) (h : pollKey p.1 p.2 = pollKey q.1 q.2) : p = q := by
  unfold pollKey at h
  exact Prod.ext (by omega) (by omega)

theorem foldl_takeClock (f : BootFinds) (n : Nat) (p : Nat × Nat) (hp : p.2 < 384) (h : clockChoice f p.1 p.2 ≠ []) (l : List (Nat × Nat)) :
    ∀ m : AMap Dir, (∀ q ∈ l, q.2 < 384) →
      p ∈ l ∨ (∃ d ∈ clockChoice f p.1 p.2, AMap.get? m (pollKey p.1 p.2) = some d) →
      ∃ d ∈ clockChoice f p.1 p.2, AMap.get? (l.foldl (takeClock f n) m) (pollKey p.1 p.2) = some d := by
  induction l with
  | nil => exact fun m _ hm => hm.resolve_left List.not_mem_nil
  | cons q l ih =>
    intro m cols hm
    refine ih _ (fun r hr => cols r (List.mem_cons_of_mem _ hr)) ?_
    by_cases eq : q = p
    · exact .inr (eq ▸ takeClock_same f n m p h)
    · have ne : pollKey p.1 p.2 ≠ pollKey q.1 q.2 := fun key => eq (pollKey_inj hp (cols q List.mem_cons_self) key).symm
      rw [takeClock_ne f n m q ne]
      exact hm.imp_left fun mem => (List.mem_cons.mp mem).resolve_left (Ne.symm eq)

/-- A position without an oscillator, beside a working one, runs from such a neighbour's clock. -/
theorem clocksOf_get (f : BootFinds) (n : Nat) (cols : ∀ p ∈ f.osc, p.2 < 384) {p : Nat × Nat} (hp : p ∈ f.osc)
    (h : ∃ d q, besideOf p.1 p.2 d = some q ∧ q ∉ f.osc ∧ q ∉ f.dead) :
    ∃ d q, AMap.get? (clocksOf f n) (p.1 * 384 + p.2) = some d ∧ besideOf p.1 p.2 d = some q ∧ q ∉ f.osc ∧ q ∉ f.dead := by
  obtain ⟨d, q, beside⟩ := h
  have some := List.ne_nil_of_mem ((mem_clockChoice f p.1 p.2 d).mpr ⟨q, beside⟩)
  obtain ⟨d, mem, get⟩ := foldl_takeClock f n p (cols p hp) some f.osc [] cols (.inl hp)
  obtain ⟨q, beside⟩ := (mem_clockChoice f p.1 p.2 d).mp mem
  exact ⟨d, q, get, beside⟩

theorem notWorking_of_dead (f : BootFinds) {p : Nat × Nat} (h : p ∈ f.dead) : p ∈ notWorking f := List.mem_append_left _ h

theorem notWorking_of_osc (f : BootFinds) {p : Nat × Nat} (h : p ∈ f.osc)
    (alone : ∀ d q, besideOf p.1 p.2 d = some q → ¬ (q ∉ f.osc ∧ q ∉ f.dead)) : p ∈ notWorking f := by
  refine List.mem_append_right _ (List.mem_filter.mpr ⟨h, List.isEmpty_iff.mpr (List.eq_nil_iff_forall_not_mem.mpr fun d hd => ?_)⟩)
  obtain ⟨q, beside, works⟩ := (mem_clockChoice f p.1 p.2 d).mp hd
  exact alone d q beside works

/-- A position that does not work is not live in the table of the boot: it stands in it, or in a dead field. -/
theorem castAtBoot_live (k : Casting) (back bad : List (Nat × Nat)) {p : Nat × Nat} (h : p ∈ bad) :
    (castAtBoot k back bad).live p.2 p.1 = false := by
  unfold Casting.live
  by_cases field : k.deadFields.contains (p.1 / 64, p.2 / 48) = true
  · have : (castAtBoot k back bad).deadFields.contains (p.1 / 64, p.2 / 48) = true := field
    rw [this]
    rfl
  · suffices (castAtBoot k back bad).dead.any (fun d => d.1 == p.1 && d.2.1 == p.2) = true by
      rw [this]
      exact Bool.and_false _
    show ((k.dead.filter fun d => !back.contains (d.1, d.2.1) || bad.contains (d.1, d.2.1)) ++ _).any _ = true
    rw [List.any_append, Bool.or_eq_true_iff]
    by_cases kept : (k.dead.filter fun d => !back.contains (d.1, d.2.1) || bad.contains (d.1, d.2.1)).any
        (fun e => decide (e.1 = p.1 ∧ e.2.1 = p.2)) = true
    · left
      obtain ⟨d, mem, eq⟩ := List.any_eq_true.mp kept
      obtain ⟨row, col⟩ := of_decide_eq_true eq
      exact List.any_eq_true.mpr ⟨d, mem, by rw [row, col, beq_self_eq_true, beq_self_eq_true]; rfl⟩
    · right
      refine List.any_eq_true.mpr ⟨(p.1, p.2, true), List.mem_map.mpr ⟨p, List.mem_filter.mpr ⟨h, ?_⟩, rfl⟩, ?_⟩
      · rw [Bool.eq_false_of_not_eq_true kept, Bool.eq_false_of_not_eq_true field]
        rfl
      · rw [beq_self_eq_true, beq_self_eq_true]
        rfl

/-- A boot that finds nothing leaves the table and its generation. -/
theorem castAtBoot_nothing (k : Casting) : (castAtBoot k [] []).gen = k.gen ∧ (castAtBoot k [] []).dead = k.dead := by
  have kept : (k.dead.filter fun d => !([] : List (Nat × Nat)).contains (d.1, d.2.1) || ([] : List (Nat × Nat)).contains (d.1, d.2.1)) = k.dead :=
    List.filter_eq_self.mpr fun d _ => rfl
  exact ⟨if_pos ⟨kept, rfl⟩, (List.append_nil _).trans kept⟩

/-- The module as a boot begins: its serial number, its owner key, an empty measurement log. -/
def powered (f : BootFinds) (s : State) : State :=
  { s with host := { s.host with
    serial := f.serial
    mbox := { s.host.mbox with owner := if s.host.mbox.owner = [] then Config.ownerKey else s.host.mbox.owner, log := [] } } }

/-- The module once its boot firmware is measured. -/
def measured (f : BootFinds) (s : State) : State := (powered f s).measure 1 ((powered f s).image false)

/-- The module once its positions have their clocks and its second firmware is measured. -/
def clocked (f : BootFinds) (s : State) : State :=
  ({ measured f s with clocks := clocksOf f s.strip } : State).measure 1 ((powered f s).image true)

/-- The casting table that a boot reads. -/
def bootTable (f : BootFinds) (s : State) : List Byte := if s.host.mbox.table = [] then f.table else s.host.mbox.table

/-- The module with the serial number of the boot alone, by which the statement tests images and table. -/
def numbered (f : BootFinds) (s : State) : State := { s with host := { s.host with serial := f.serial } }

theorem imageOk_measured (f : BootFinds) (s : State) : imageOk (measured f s) false = imageOk (numbered f s) false := rfl
theorem imageOk_clocked (f : BootFinds) (s : State) : imageOk (clocked f s) true = imageOk (numbered f s) true := rfl
theorem tableOk_clocked (f : BootFinds) (s : State) (l : List Byte) : tableOk (clocked f s) l = tableOk (numbered f s) l := rfl

theorem boot_eq (f : BootFinds) (s : State) (h : s.host.modState = 0) :
    exec (.powerOnBoot f) s =
      if (!imageOk (measured f s) false) = true then .next ((measured f s).setMod 14)
      else .next ((tableOk (clocked f s) (bootTable f s)).elim ((clocked f s).setMod 3) (bootOn f (clocked f s) (bootTable f s))) := by
  show execPowerOnBoot f s = _
  unfold execPowerOnBoot
  rw [if_neg (not_not_intro h)]
  refine if_congr Iff.rfl rfl ?_
  show (match tableOk (clocked f s) (bootTable f s) with
    | none => Host.Outcome.next ((clocked f s).setMod 3)
    | some k => .next (bootOn f (clocked f s) (bootTable f s) k)) = _
  cases tableOk (clocked f s) (bootTable f s) <;> rfl

theorem boot_recovery {f : BootFinds} {s : State} (h : s.host.modState = 0) (bad : imageOk (numbered f s) false = false) :
    exec (.powerOnBoot f) s = .next ((measured f s).setMod 14) := by
  rw [boot_eq f s h, imageOk_measured, bad]
  rfl

theorem boot_on {f : BootFinds} {s : State} (h : s.host.modState = 0) (good : imageOk (numbered f s) false = true) :
    exec (.powerOnBoot f) s =
      .next ((tableOk (numbered f s) (bootTable f s)).elim ((clocked f s).setMod 3) (bootOn f (clocked f s) (bootTable f s))) := by
  rw [boot_eq f s h, imageOk_measured, tableOk_clocked, good]
  rfl

/-- The module once the table of its boot is in force, as it was read or signed anew. -/
def tabled (f : BootFinds) (s : State) (t : List Byte) (k : Casting) : State :=
  if (castAtBoot k s.casting.back (notWorking f)).gen = k.gen then
    State.setTable { s with casting := castAtBoot k s.casting.back (notWorking f) } t (field t 32 8)
  else State.signCasting { s with casting := castAtBoot k s.casting.back (notWorking f) }

theorem tabled_eq (f : BootFinds) (s : State) (t : List Byte) (k : Casting) :
    ∃ x seq, tabled f s t k = State.setTable { s with casting := castAtBoot k s.casting.back (notWorking f) } x seq ∧
      ((castAtBoot k s.casting.back (notWorking f)).gen = k.gen → x = t) := by
  unfold tabled
  split
  case isTrue => exact ⟨_, _, rfl, fun _ => rfl⟩
  case isFalse new => exact ⟨_, _, rfl, fun same => absurd same new⟩

/-- What a boot does with a table in force: the second firmware image decides between recovery and readiness. -/
def readied (s : State) : State :=
  if (!imageOk s true) = true then s.setMod 14
  else
    ({ s.measure 5 s.host.mbox.owner with
      firn := s.firn.filter fun e => decide (e.1 % 2 ^ 26 < 8 * (s.pl.getD (e.1 / 2 ^ 26) 4) * 2 ^ 20) } : State).setMod (bootState s.casting)

theorem bootOn_eq (f : BootFinds) (s : State) (t : List Byte) (k : Casting) : bootOn f s t k = readied (tabled f s t k) := by
  by_cases same : (castAtBoot k s.casting.back (notWorking f)).gen = k.gen
  · simp only [bootOn, tabled, if_pos same]
    rfl
  · simp only [bootOn, tabled, if_neg same]
    rfl

theorem readied_state (s : State) :
    (readied s).host.modState = (if imageOk s true = false then 14 else if s.casting.sound then 1 else 2) ∧
    (readied s).host.mbox.log.length = s.host.mbox.log.length + (if imageOk s true then 1 else 0) := by
  unfold readied
  cases imageOk s true
  · exact ⟨rfl, rfl⟩
  · exact ⟨rfl, List.length_append⟩

theorem readied_keeps (s : State) :
    (readied s).host.serial = s.host.serial ∧ (readied s).casting = s.casting ∧ (readied s).clocks = s.clocks ∧
    (readied s).host.mbox.table = s.host.mbox.table := by
  unfold readied
  split <;> exact ⟨rfl, rfl, rfl, rfl⟩

/-- What a boot with good images and a good table leaves, of the module that has its clocks. -/
theorem bootOn_leaves (f : BootFinds) (s : State) (t : List Byte) (k : Casting) :
    let u := bootOn f s t k
    u.host.serial = s.host.serial ∧ u.casting = castAtBoot k s.casting.back (notWorking f) ∧ u.clocks = s.clocks ∧
    u.host.modState = (if imageOk s true = false then 14 else if u.casting.sound then 1 else 2) ∧
    u.host.mbox.log.length = s.host.mbox.log.length + (if imageOk s true then 2 else 1) ∧
    (u.casting.gen = k.gen → u.host.mbox.table = t) := by
  obtain ⟨x, seq, eq, same⟩ := tabled_eq f s t k
  rw [bootOn_eq, eq]
  set e := State.setTable { s with casting := castAtBoot k s.casting.back (notWorking f) } x seq with he
  obtain ⟨state, log⟩ := readied_state e
  obtain ⟨serial, casting, clocks, table⟩ := readied_keeps e
  have length : e.host.mbox.log.length = s.host.mbox.log.length + 1 := List.length_append
  refine ⟨serial, casting, clocks, ?_, ?_, fun gen => table.trans (same ((congrArg Casting.gen casting).symm.trans gen))⟩
  · rw [casting]
    exact state
  · rw [log, length, Nat.add_assoc]
    have image : imageOk e true = imageOk s true := rfl
    rw [image]
    cases imageOk s true <;> rfl

/-- The clauses of O55 about a boot. -/
theorem boots (s : State) (f : BootFinds) (k : Casting) (h : s.host.modState = 0) :
    let s0 : State := { s with host := { s.host with serial := f.serial } }
    let table := if s.host.mbox.table = [] then f.table else s.host.mbox.table
    let works (p : Nat × Nat) : Prop := p ∉ f.osc ∧ p ∉ f.dead
    (imageOk s0 false = false →
      ∃ t, exec (.powerOnBoot f) s = .next t ∧ t.host.modState = 14 ∧ t.host.mbox.log.length = 1 ∧ t.cells = s.cells) ∧
    (imageOk s0 false = true → tableOk s0 table = none →
      ∃ t, exec (.powerOnBoot f) s = .next t ∧ t.host.modState = 3 ∧ t.host.mbox.log.length = 2) ∧
    (imageOk s0 false = true → tableOk s0 table = some k →
      ∃ t, exec (.powerOnBoot f) s = .next t ∧ t.host.serial = f.serial ∧ t.casting.deadFields = k.deadFields ∧
        t.host.modState = (if imageOk s0 true = false then 14 else if t.casting.sound then 1 else 2) ∧
        t.host.mbox.log.length = (if imageOk s0 true then 4 else 3) ∧
        (∀ p ∈ f.dead, t.casting.live p.2 p.1 = false) ∧
        (∀ p ∈ f.osc, (∀ d q, besideOf p.1 p.2 d = some q → ¬ works q) → t.casting.live p.2 p.1 = false) ∧
        ((∀ p ∈ f.osc, p.2 < 384) → ∀ p ∈ f.osc, (∃ d q, besideOf p.1 p.2 d = some q ∧ works q) →
          ∃ d q, AMap.get? t.clocks (p.1 * 384 + p.2) = some d ∧ besideOf p.1 p.2 d = some q ∧ works q) ∧
        (f.dead = [] → f.osc = [] → s.casting.back = [] → t.casting.gen = k.gen ∧ t.casting.dead = k.dead ∧ t.host.mbox.table = table)) := by
  intro s0 table works
  refine ⟨fun bad => ⟨_, boot_recovery h bad, rfl, rfl, rfl⟩, fun good none => ⟨(clocked f s).setMod 3, ?_, rfl, rfl⟩,
    fun good some => ⟨bootOn f (clocked f s) (bootTable f s) k, ?_, ?_⟩⟩
  · exact (boot_on h good).trans (congrArg (fun o : Option Casting => Host.Outcome.next (o.elim _ _)) none)
  · exact (boot_on h good).trans (congrArg (fun o : Option Casting => Host.Outcome.next (o.elim _ _)) some)
  · obtain ⟨serial, casting, clocks, state, log, table⟩ := bootOn_leaves f (clocked f s) (bootTable f s) k
    refine ⟨serial, by rw [casting]; rfl, state, ?_, fun p hp => ?_, fun p hp alone => ?_, fun cols p hp beside => ?_,
      fun dead osc back => ?_⟩
    · rw [log, imageOk_clocked]
      show _ = if imageOk (numbered f s) true then 4 else 3
      cases imageOk (numbered f s) true <;> rfl
    · rw [casting]
      exact castAtBoot_live _ _ _ (notWorking_of_dead f hp)
    · rw [casting]
      exact castAtBoot_live _ _ _ (notWorking_of_osc f hp alone)
    · rw [clocks]
      exact clocksOf_get f _ cols hp beside
    · have nothing : notWorking f = [] := by unfold notWorking; rw [dead, osc]; rfl
      have same := castAtBoot_nothing k
      rw [nothing, show (clocked f s).casting.back = [] from back] at casting
      rw [← casting] at same
      exact ⟨same.1, same.2, table same.1⟩

/-! ## The mailbox -/

theorem signerOf_known (s : State) {ty : Nat} (h : ty = 1 ∨ ty = 3 ∨ ty = 5) :
    signerOf s ty = some (if ty = 1 then Config.rootKey else s.host.mbox.owner) := by
  rcases h with rfl | rfl | rfl <;> rfl

theorem signerOf_other (s : State) {ty : Nat} (h1 : ty ≠ 1) (h3 : ty ≠ 3) (h5 : ty ≠ 5) : signerOf s ty = none := by
  unfold signerOf
  split <;> first | rfl | contradiction

theorem reason_head {s : State} {l : List Byte} (h : headOk l = false) (pass : Bool) : sobReason s l pass = some 5 := by
  unfold sobReason
  rw [h]
  rfl

theorem reason_type {s : State} {l : List Byte} (h : headOk l = true) (unknown : signerOf s (field l 4 1) = none) (pass : Bool) :
    sobReason s l pass = some 7 := by
  unfold sobReason
  simp only [h, unknown]
  rfl

/-- The checks of an object of a known type, in their order. -/
theorem reason_known {s : State} {l : List Byte} (h : headOk l = true) {key : List Byte} (known : signerOf s (field l 4 1) = some key) (pass : Bool) :
    sobReason s l pass =
      if field l 16 8 ≠ keyId key then some 2
      else if (!Crypto.verify key (Crypto.sha512 (l.take (l.length - 132))) (l.drop (l.length - 132))) = true then some 1
      else if (!serialOk s l || (decide (field l 4 1 = 3) && decide (field l 24 8 ≠ s.host.serial))) = true then some 3
      else if field l 4 1 ≠ 1 ∧ (lastSeq s (field l 4 1)).any (fun q => decide (field l 32 8 ≤ q)) = true then some 4
      else bodyBad s (field l 4 1) (bodyOf l) pass := by
  unfold sobReason
  simp only [h, known]
  rfl

theorem serialOk_iff (s : State) (l : List Byte) (ty : Nat) :
    (!serialOk s l || (decide (ty = 3) && decide (field l 24 8 ≠ s.host.serial))) = true ↔
      ¬ (field l 24 8 = s.host.serial ∨ field l 24 8 = 0 ∧ ty ≠ 3) := by
  unfold serialOk
  rw [Bool.or_eq_true_iff, Bool.not_eq_true', decide_eq_false_iff_not, Bool.and_eq_true_iff, decide_eq_true_iff, decide_eq_true_iff]
  tauto

theorem seqOld_iff (s : State) (l : List Byte) (ty : Nat) :
    ty ≠ 1 ∧ (lastSeq s ty).any (fun q => decide (field l 32 8 ≤ q)) = true ↔
      ¬ (ty = 1 ∨ ∀ q, lastSeq s ty = some q → q < field l 32 8) := by
  rw [not_or]
  refine and_congr_right fun _ => ?_
  cases lastSeq s ty <;> simp

/-- The body of an object has the form of its type. -/
def Formed (ty : Nat) (body : List Byte) : Prop :=
  ty = 1 ∨ ty = 5 ∧ body.length = 136 ∧ field body 133 3 = 0 ∨
    ty = 3 ∧ body.length = 16 ∧ field body 0 4 < 2 ^ 18 ∧ field body 8 4 < 256 ∧ field body 12 4 = 0

/-- A reinstatement names a retired position at a generation that has come, and its self-test passes. -/
def Usable (s : State) (ty : Nat) (body : List Byte) (pass : Bool) : Prop :=
  ty ≠ 3 ∨ (field body 0 4 / 2 ^ 9 % 2 ^ 9, field body 0 4 % 2 ^ 9, true) ∈ s.casting.dead ∧
    (field body 0 4 / 2 ^ 9 % 2 ^ 9, field body 0 4 % 2 ^ 9) ∉ s.casting.back ∧ field body 4 4 ≤ s.casting.gen ∧ pass = true

theorem bodyBad_reinstate (s : State) (body : List Byte) (pass : Bool) :
    bodyBad s 3 body pass =
      if body.length ≠ 16 ∨ 2 ^ 18 ≤ field body 0 4 ∨ 256 ≤ field body 8 4 ∨ field body 12 4 ≠ 0 then some 5
      else if (!s.casting.dead.contains (field body 0 4 / 2 ^ 9 % 2 ^ 9, field body 0 4 % 2 ^ 9, true)
          || s.casting.back.contains (field body 0 4 / 2 ^ 9 % 2 ^ 9, field body 0 4 % 2 ^ 9)
          || decide (s.casting.gen < field body 4 4) || !pass) = true then some 6
      else none := rfl

theorem bodyBad_owner (s : State) (body : List Byte) (pass : Bool) :
    bodyBad s 5 body pass = if body.length = 136 ∧ field body 133 3 = 0 then none else some 5 := rfl

theorem unusable_iff (s : State) (body : List Byte) (pass : Bool) :
    (!s.casting.dead.contains (field body 0 4 / 2 ^ 9 % 2 ^ 9, field body 0 4 % 2 ^ 9, true)
      || s.casting.back.contains (field body 0 4 / 2 ^ 9 % 2 ^ 9, field body 0 4 % 2 ^ 9)
      || decide (s.casting.gen < field body 4 4) || !pass) = true ↔ ¬ Usable s 3 body pass := by
  unfold Usable
  rw [Bool.or_eq_true_iff, Bool.or_eq_true_iff, Bool.or_eq_true_iff, Bool.not_eq_true', Bool.not_eq_true', decide_eq_true_iff,
    List.contains_iff_mem, ← Bool.not_eq_true, List.contains_iff_mem, ← Bool.not_eq_true, ← not_le]
  tauto

/-- The reason that the body of an object gives: 5 for its form, then 6 for its use. -/
theorem bodyBad_cases (s : State) {ty : Nat} (h : ty = 1 ∨ ty = 3 ∨ ty = 5) (body : List Byte) (pass : Bool) :
    (¬ Formed ty body → bodyBad s ty body pass = some 5) ∧
    (Formed ty body → ¬ Usable s ty body pass → bodyBad s ty body pass = some 6) ∧
    (Formed ty body → Usable s ty body pass → bodyBad s ty body pass = none) := by
  classical
  rcases h with rfl | rfl | rfl
  · exact ⟨fun bad => absurd (.inl rfl) bad, fun _ bad => absurd (.inl (by decide)) bad, fun _ _ => rfl⟩
  · have malformed : body.length ≠ 16 ∨ 2 ^ 18 ≤ field body 0 4 ∨ 256 ≤ field body 8 4 ∨ field body 12 4 ≠ 0 ↔ ¬ Formed 3 body := by
      unfold Formed
      omega
    rw [bodyBad_reinstate, if_congr malformed rfl (if_congr (unusable_iff s body pass) rfl rfl)]
    exact ⟨fun bad => if_pos bad, fun good bad => (if_neg (not_not_intro good)).trans (if_pos bad),
      fun good use => (if_neg (not_not_intro good)).trans (if_neg (not_not_intro use))⟩
  · have formed : Formed 5 body ↔ body.length = 136 ∧ field body 133 3 = 0 := by
      unfold Formed
      omega
    rw [bodyBad_owner, formed]
    exact ⟨fun bad => if_neg bad, fun _ bad => absurd (.inl (by decide)) bad, fun good _ => if_pos good⟩

/-- The clause of O55 about the order of the reasons. -/
theorem reasons (s : State) (obj : List Byte) (pass : Bool) :
    let ty := field obj 4 1
    let body := (obj.drop 40).take (obj.length - 172)
    let head : Prop := field obj 0 4 = 0xA64C5A01 ∧ field obj 4 4 / 2 ^ 8 = 1 ∧ field obj 8 4 % 4 = 0 ∧
      obj.length = 172 + field obj 8 4 ∧ field obj 12 4 = 0
    (¬ head → sobReason s obj pass = some 5) ∧
    (head → ty ≠ 1 → ty ≠ 3 → ty ≠ 5 → sobReason s obj pass = some 7) ∧
    (head → ty = 1 ∨ ty = 3 ∨ ty = 5 →
      let key := if ty = 1 then Config.rootKey else s.host.mbox.owner
      let signer : Prop := field obj 16 8 = natOf ((digestBytes (Crypto.sha512 key)).take 8)
      let signed : Prop := Crypto.verify key (Crypto.sha512 (obj.take (obj.length - 132))) (obj.drop (obj.length - 132)) = true
      let serial : Prop := field obj 24 8 = s.host.serial ∨ field obj 24 8 = 0 ∧ ty ≠ 3
      let new : Prop := ty = 1 ∨ ∀ q, lastSeq s ty = some q → q < field obj 32 8
      (¬ signer → sobReason s obj pass = some 2) ∧
      (signer → ¬ signed → sobReason s obj pass = some 1) ∧
      (signer → signed → ¬ serial → sobReason s obj pass = some 3) ∧
      (signer → signed → serial → ¬ new → sobReason s obj pass = some 4) ∧
      (signer → signed → serial → new → ¬ Formed ty body → sobReason s obj pass = some 5) ∧
      (signer → signed → serial → new → Formed ty body → ¬ Usable s ty body pass → sobReason s obj pass = some 6) ∧
      (signer → signed → serial → new → Formed ty body → Usable s ty body pass → sobReason s obj pass = none)) := by
  classical
  intro ty body head
  refine ⟨fun bad => reason_head (Bool.eq_false_of_not_eq_true fun ok => bad ((headOk_iff obj).mp ok)) pass,
    fun good h1 h3 h5 => reason_type ((headOk_iff obj).mpr good) (signerOf_other s h1 h3 h5) pass,
    fun good known => ?_⟩
  intro key signer signed serial new
  have unsigned : (!Crypto.verify key (Crypto.sha512 (obj.take (obj.length - 132))) (obj.drop (obj.length - 132))) = true ↔ ¬ signed := by
    rw [Bool.not_eq_true', ← Bool.not_eq_true]
  have order : sobReason s obj pass = if ¬ signer then some 2 else if ¬ signed then some 1 else if ¬ serial then some 3
      else if ¬ new then some 4 else bodyBad s ty body pass := by
    rw [reason_known ((headOk_iff obj).mpr good) (signerOf_known s known) pass]
    exact if_congr Iff.rfl rfl (if_congr unsigned rfl (if_congr (serialOk_iff s obj ty) rfl (if_congr (seqOld_iff s obj ty) rfl rfl)))
  have upTo (b : Option Nat) (hb : bodyBad s ty body pass = b) (h1 : signer) (h2 : signed) (h3 : serial) (h4 : new) :
      sobReason s obj pass = b := by
    rw [order, if_neg (not_not_intro h1), if_neg (not_not_intro h2), if_neg (not_not_intro h3), if_neg (not_not_intro h4), hb]
  obtain ⟨malformed, useless, fine⟩ := bodyBad_cases s known body pass
  refine ⟨fun h1 => ?_, fun h1 h2 => ?_, fun h1 h2 h3 => ?_, fun h1 h2 h3 h4 => ?_, fun h1 h2 h3 h4 bad => upTo _ (malformed bad) h1 h2 h3 h4,
    fun h1 h2 h3 h4 good bad => upTo _ (useless good bad) h1 h2 h3 h4, fun h1 h2 h3 h4 good use => upTo _ (fine good use) h1 h2 h3 h4⟩
  · rw [order, if_pos h1]
  · rw [order, if_neg (not_not_intro h1), if_pos h2]
  · rw [order, if_neg (not_not_intro h1), if_neg (not_not_intro h2), if_pos h3]
  · rw [order, if_neg (not_not_intro h1), if_neg (not_not_intro h2), if_neg (not_not_intro h3), if_pos h4]

theorem submit_starts {s : State} {v : Word} (go : v.getLsbD 0 = true) (idle : s.host.mbox.istat ≠ 1) :
    exec (.sobSubmit v) s = .next (s.sobResult 1 0) := if_pos ⟨go, idle⟩

theorem submit_waits {s : State} {v : Word} (busy : s.host.mbox.istat = 1) : exec (.sobSubmit v) s = .next s :=
  if_neg fun h => h.2 busy

section CheckDone
variable {s : State} {pass : Bool} (busy : s.host.mbox.istat = 1)
include busy

theorem check_accepts (good : sobReason s (inboxBytes s) pass = none) :
    exec (.sobCheckDone pass) s = .next ((sobAccept s (inboxBytes s)).sobResult 2 0) := by
  show execSobCheckDone pass s = _
  unfold execSobCheckDone
  rw [if_neg (not_not_intro busy)]
  dsimp only
  rw [good]

theorem check_refuses {reason : Nat} (bad : sobReason s (inboxBytes s) pass = some reason)
    (always : (sobReason s (inboxBytes s) true).isSome = true) : exec (.sobCheckDone pass) s = .next (s.sobResult 3 reason) := by
  obtain ⟨r, always⟩ := Option.isSome_iff_exists.mp always
  show execSobCheckDone pass s = _
  unfold execSobCheckDone
  rw [if_neg (not_not_intro busy)]
  dsimp only
  rw [bad, always]

/-- A reinstatement whose self-test fails uses its sequence number. -/
theorem check_spends {reason : Nat} (bad : sobReason s (inboxBytes s) pass = some reason) (good : sobReason s (inboxBytes s) true = none) :
    exec (.sobCheckDone pass) s =
      .next ((s.setSeq (field (inboxBytes s) 4 1) (field (inboxBytes s) 32 8)).sobResult 3 reason) := by
  show execSobCheckDone pass s = _
  unfold execSobCheckDone
  rw [if_neg (not_not_intro busy)]
  dsimp only
  rw [bad, good]

end CheckDone

/-! What an accepted object does, by its type. -/

/-- A firmware image is measured, and lets a module in recovery boot. -/
def takeFirmware (s : State) (l : List Byte) : State :=
  let t := ({ s with host := { s.host with mbox := { s.host.mbox with
    images := (Config.firmwareSlot (bodyOf l), l) :: s.host.mbox.images.filter fun e => e.1 != Config.firmwareSlot (bodyOf l) } } } : State).measure 1 l
  if t.host.modState = 14 then t.setMod 0 else t

/-- A position becomes an understudy again, and its reason is recorded. -/
def takeBack (s : State) (body : List Byte) : State :=
  { s with
    casting := { s.casting with back := s.casting.back ++ [(field body 0 4 / 2 ^ 9 % 2 ^ 9, field body 0 4 % 2 ^ 9)] }
    host := { s.host with mbox := { s.host.mbox with
      reasons := s.host.mbox.reasons ++ [(field body 0 4 / 2 ^ 9 % 2 ^ 9, field body 0 4 % 2 ^ 9, field body 8 4)] } } }

/-- An owner key is enrolled and measured. -/
def takeOwner (s : State) (key : List Byte) : State :=
  ({ s with host := { s.host with mbox := { s.host.mbox with owner := key } } } : State).measure 5 key

theorem takeOwner_owner (s : State) (key : List Byte) : (takeOwner s key).host.mbox.owner = key := rfl

theorem sobAccept_eq (s : State) (l : List Byte) :
    sobAccept s l =
      let t := s.setSeq (field l 4 1) (field l 32 8)
      if field l 4 1 = 1 then takeFirmware t l else if field l 4 1 = 3 then takeBack t (bodyOf l) else takeOwner t ((bodyOf l).take 133) := by
  unfold sobAccept
  generalize field l 4 1 = ty
  match ty with
  | 0 => rfl
  | 1 => rfl
  | 2 => rfl
  | 3 => rfl
  | n + 4 => rfl

theorem takeFirmware_state (s : State) (l : List Byte) (h : s.host.modState = 14) : (takeFirmware s l).host.modState = 0 := by
  unfold takeFirmware
  exact (congrArg (fun t : State => t.host.modState) (if_pos h)).trans rfl

theorem takeFirmware_keeps (s : State) (l : List Byte) : (takeFirmware s l).cells = s.cells ∧ (takeFirmware s l).firn = s.firn := by
  unfold takeFirmware
  dsimp only
  split <;> exact ⟨rfl, rfl⟩

theorem accept_keeps (s : State) (l : List Byte) : (sobAccept s l).cells = s.cells ∧ (sobAccept s l).firn = s.firn := by
  rw [sobAccept_eq]
  dsimp only
  split
  · exact takeFirmware_keeps _ _
  · split <;> exact ⟨rfl, rfl⟩

theorem setSeq_mem (s : State) (ty seq : Nat) : (ty, seq) ∈ (s.setSeq ty seq).host.mbox.seqs :=
  List.mem_append_right _ (List.mem_singleton_self _)

theorem accept_firmware {s : State} {l : List Byte} (h : field l 4 1 = 1) (recovery : s.host.modState = 14) :
    (sobAccept s l).host.modState = 0 := by
  rw [sobAccept_eq, h]
  exact takeFirmware_state _ _ recovery

theorem accept_back {s : State} {l : List Byte} (h : field l 4 1 = 3) : sobAccept s l = takeBack (s.setSeq 3 (field l 32 8)) (bodyOf l) := by
  rw [sobAccept_eq, h]
  rfl

theorem accept_owner {s : State} {l : List Byte} (h : field l 4 1 = 5) : (sobAccept s l).host.mbox.owner = (bodyOf l).take 133 := by
  rw [sobAccept_eq]
  dsimp only
  rw [if_neg (by omega), if_neg (by omega), takeOwner_owner]

/-- An object without a reason against it has the form of its type, and can be used. -/
theorem bodyBad_of_reason {s : State} {l : List Byte} {pass : Bool} (h : sobReason s l pass = none) : bodyBad s (field l 4 1) (bodyOf l) pass = none := by
  cases head : headOk l
  · exact nomatch (reason_head head pass).symm.trans h
  cases known : signerOf s (field l 4 1) with
  | none => exact nomatch (reason_type head known pass).symm.trans h
  | some key =>
    rw [reason_known head known] at h
    split_ifs at h
    exact h

/-- The reinstatement that a body asks for, with its self-test failed, differs by reason 6 alone. -/
theorem reason_test {s : State} {l : List Byte} (h : field l 4 1 = 3) (good : sobReason s l true = none) : sobReason s l false = some 6 := by
  cases head : headOk l
  · exact nomatch (reason_head head true).symm.trans good
  have known := signerOf_known s (.inr (.inl h) : field l 4 1 = 1 ∨ field l 4 1 = 3 ∨ field l 4 1 = 5)
  have body : bodyBad s (field l 4 1) (bodyOf l) false = some 6 := by
    have := bodyBad_of_reason good
    rw [h] at this ⊢
    refine (bodyBad_cases s (.inr (.inl rfl)) _ _).2.1 ?_ fun use => ?_
    · by_contra bad
      exact nomatch this.symm.trans ((bodyBad_cases s (.inr (.inl rfl)) _ _).1 bad)
    · rcases use with use | ⟨-, -, -, use⟩
      · exact use rfl
      · exact nomatch use
  rw [reason_known head known] at good ⊢
  split_ifs at good ⊢
  all_goals exact body

/-- The bytes of a body at their place in the object. -/
theorem field_body (l : List Byte) (n : Nat) (h : n ≤ l.length - 172) : field (bodyOf l) 0 n = field l 40 n := by
  unfold field bodyOf
  rw [List.drop_zero, List.take_take, Nat.min_eq_left h]

theorem formed_of_reason {s : State} {l : List Byte} {pass : Bool} (known : field l 4 1 = 1 ∨ field l 4 1 = 3 ∨ field l 4 1 = 5)
    (h : sobReason s l pass = none) : Formed (field l 4 1) (bodyOf l) := by
  by_contra bad
  exact nomatch (bodyBad_of_reason h).symm.trans ((bodyBad_cases s known _ _).1 bad)

theorem reinstate_length {s : State} {l : List Byte} {pass : Bool} (type : field l 4 1 = 3) (h : sobReason s l pass = none) :
    (bodyOf l).length = 16 := by
  rcases formed_of_reason (.inr (.inl type)) h with one | ⟨five, -⟩ | ⟨-, length, -⟩
  · omega
  · omega
  · exact length

theorem owner_length {s : State} {l : List Byte} {pass : Bool} (type : field l 4 1 = 5) (h : sobReason s l pass = none) :
    (bodyOf l).length = 136 := by
  rcases formed_of_reason (.inr (.inr type)) h with one | ⟨-, length, -⟩ | ⟨three, -⟩
  · omega
  · exact length
  · omega

theorem bodyOf_length_le (l : List Byte) : (bodyOf l).length ≤ l.length - 172 := by
  unfold bodyOf
  rw [List.length_take]
  exact Nat.min_le_left _ _

/-- Settles O55: each clause by the lemma of its step, an object's reasons by the order of the checks, an accepted object's effect by its
type. -/
theorem signedObjects : Obligations.SignedObjects := by
  refine ⟨fun s l k => accepted_table, fun s f v pass reason k => ?_⟩
  intro m obj s0 table state outbox works
  refine ⟨boots s f k, fun h => if_pos h, submit_starts, submit_waits, fun busy bad always => check_refuses busy bad always,
    fun busy good type => ⟨?_, ?_⟩, fun busy good => ?_, reasons s obj pass, fun ready => ?_, fun recovery => ?_⟩
  · refine ⟨_, check_spends busy (reason_test type good) good, rfl, rfl, rfl, ?_⟩
    show (3, field obj 32 8) ∈ (s.setSeq (field obj 4 1) (field obj 32 8)).host.mbox.seqs
    rw [type]
    exact setSeq_mem s 3 _
  · have short := reinstate_length type good
    have first := field_body obj 4 (by have := bodyOf_length_le obj; omega)
    refine ⟨_, check_accepts busy good, rfl, ?_, ?_⟩
    · show (3, field obj 32 8) ∈ (sobAccept s obj).host.mbox.seqs
      rw [accept_back type]
      exact setSeq_mem s 3 _
    · show (sobAccept s obj).casting.back = _
      rw [accept_back type, ← first]
      rfl
  · obtain ⟨cells, firn⟩ := accept_keeps s obj
    refine ⟨_, check_accepts busy good, rfl, rfl, cells, firn, fun type => ?_, fun type recovery => accept_firmware type recovery⟩
    have long := owner_length type good
    have le := bodyOf_length_le obj
    refine (accept_owner type).trans ?_
    unfold bodyOf
    rw [List.take_take, Nat.min_eq_left (by omega)]
  · have serves : (!s.inRecovery) = true := congrArg (! ·) (decide_eq_false ready)
    exact ⟨congrArg Host.Outcome.next (if_pos serves), congrArg Host.Outcome.next (if_pos serves), congrArg Host.Outcome.next (if_pos serves)⟩
  · have closed : ¬ (!s.inRecovery) = true := Bool.not_eq_true _ ▸ congrArg (! ·) (decide_eq_true recovery)
    exact ⟨congrArg Host.Outcome.next (if_neg closed), congrArg Host.Outcome.next (if_neg closed), congrArg Host.Outcome.next (if_neg closed)⟩

end Sys2Proof.Sealed
end

section
/-! # Stream generators (O26) -/

namespace Sys2Proof.Streams

open Sys2Proof.Machine Sys2Proof.Safety Sys2Proof.Rules

/-! ## Instructions that set, start and stop a generator -/

/-- An instruction without a destination whose effect is a change of its cell. -/
theorem fire_cell {s : State} {cue : Cue} {l : List Src} {ok : Bool} {eff : State → Effect} {p : PAct} {f : CellState → CellState}
    (hr : Ready s cue ⟨l, none, ok, []⟩) (he : eff s = onCell p f s) :
    ∃ t, fire s cue ⟨l, none, ok, []⟩ eff = .next t ∧ Acts s t cue (deqs l) p (f s.cur) :=
  fire_fires hr he rfl rfl

theorem deqs_nil : deqs [] = fun _ => 0 := funext fun _ => if_neg List.not_mem_nil

section
variable {s : State} {c : Cue} {g : Fin 4} {p : PAct}

theorem sgSet_sets {l : List Src} {opnd : State → Word} {f : State → Gen → Gen} (idle : (s.cur.gens[g]).active = false)
    (hr : Ready s c ⟨l, none, true, []⟩) :
    ∃ t, sgSet c g l p opnd f s = .next t ∧ Acts s t c (deqs l) p (s.cur.setGen g (f s s.cur.gens[g])) := by
  refine fire_cell (p := p) (f := fun c => c.setGen g (f s s.cur.gens[g])) hr ?_
  exact if_neg (Bool.eq_false_iff.mp idle)

theorem sgSet_faults {l : List Src} {opnd : State → Word} {f : State → Gen → Gen} (busy : (s.cur.gens[g]).active = true)
    (hr : Ready s c ⟨l, none, true, []⟩) :
    ∃ t, sgSet c g l p opnd f s = .next t ∧ Faults s t { cls := 2, code := 3, opnd := opnd s } :=
  fire_faults hr (if_pos busy)

theorem sgGo_starts (idle : (s.cur.gens[g]).active = false)
    (own : ¬ ((s.cur.gens[g]).rgen = true ∧ (s.cur.gens[g]).dir = false ∧
      ((s.cur.rings[(s.cur.gens[g]).rg]).prod ≠ 2 ∨ (s.cur.rings[(s.cur.gens[g]).rg]).pidx ≠ g.val)))
    (hr : Ready s c ⟨[], none, true, []⟩) :
    ∃ t, exec (.sgGo c g p) s = .next t ∧ Acts s t c (fun _ => 0) p (s.cur.setGen g { s.cur.gens[g] with
      lv := (s.cur.gens[g]).lv.map (fun l => { l with idx := 0 }), done := false, fault := false, active := true
      ctx := s.focus.ctx, slot := s.focus.slot, start := s.cur.cyc + 2 }) := by
  rw [← deqs_nil]
  refine fire_cell (p := p) (f := fun c => c.setGen g { s.cur.gens[g] with
    lv := (s.cur.gens[g]).lv.map (fun l => { l with idx := 0 }), done := false, fault := false, active := true
    ctx := s.focus.ctx, slot := s.focus.slot, start := s.cur.cyc + 2 }) hr ?_
  exact (if_neg (Bool.eq_false_iff.mp idle)).trans (if_neg own)

theorem sgGo_refuses (idle : (s.cur.gens[g]).active = false)
    (other : (s.cur.gens[g]).rgen = true ∧ (s.cur.gens[g]).dir = false ∧
      ((s.cur.rings[(s.cur.gens[g]).rg]).prod ≠ 2 ∨ (s.cur.rings[(s.cur.gens[g]).rg]).pidx ≠ g.val))
    (hr : Ready s c ⟨[], none, true, []⟩) :
    ∃ t, exec (.sgGo c g p) s = .next t ∧ Faults s t { cls := 2, code := 4, opnd := 0 } :=
  fire_faults hr ((if_neg (Bool.eq_false_iff.mp idle)).trans (if_pos other))

theorem sgGo_busy (busy : (s.cur.gens[g]).active = true) (hr : Ready s c ⟨[], none, true, []⟩) :
    ∃ t, exec (.sgGo c g p) s = .next t ∧ Faults s t { cls := 2, code := 3, opnd := 0 } :=
  fire_faults hr (if_pos busy)

end

theorem portAsked_false {c : CellState} {u : PortUser} : c.portAsked u = false ↔ ∀ r ∈ c.port, r.user ≠ u := by
  unfold CellState.portAsked
  rw [List.any_eq_false]
  exact forall₂_congr fun r _ => by rw [decide_eq_true_iff]

theorem sgSettle_idle {s : State} {n : Nat} {g : Fin 4} (h : ∀ r ∈ (s.cell n).port, r.user ≠ .gen g) : sgSettle s n g = s := by
  unfold sgSettle
  exact if_neg (Bool.eq_false_iff.mp (portAsked_false.mpr h))

theorem sgHalt_stops {s : State} {c : Cue} {g : Fin 4} {p : PAct} (h : ∀ r ∈ s.cur.port, r.user ≠ .gen g)
    (hr : Ready s c ⟨[], none, true, []⟩) :
    ∃ t, exec (.sgHalt c g p) s = .next t ∧ Acts s t c (fun _ => 0) p (s.cur.setGen g { s.cur.gens[g] with active := false }) := by
  rw [← deqs_nil]
  refine fire_cell (p := p) (f := fun c => c.setGen g { s.cur.gens[g] with active := false }) hr ?_
  exact congrArg (onCell p fun c => c.setGen g { c.gens[g] with active := false }) (sgSettle_idle h)

/-! ## What a transfer leaves alone -/

/-- The focus, the strip cycle and the strip port of a cell are as before. -/
def KeepsPort (n : Nat) (s t : State) : Prop := t.focus = s.focus ∧ t.strip = s.strip ∧ (t.cell n).port = (s.cell n).port

theorem KeepsPort.rfl {n : Nat} {s : State} : KeepsPort n s s := ⟨.refl _, .refl _, .refl _⟩

theorem KeepsPort.trans {n : Nat} {s t u : State} (h : KeepsPort n s t) (g : KeepsPort n t u) : KeepsPort n s u :=
  ⟨g.1.trans h.1, g.2.1.trans h.2.1, g.2.2.trans h.2.2⟩

theorem keepsPort_setCell {n : Nat} {s : State} {c : CellState} (h : c.port = (s.cell n).port) : KeepsPort n s (s.setCell n c) :=
  ⟨.refl _, .refl _, (congrArg CellState.port (State.cell_setCell_same s n c)).trans h⟩

theorem keepsPort_active (n : Nat) (s : State) : KeepsPort n s (s.active n) := keepsPort_setCell (.refl _)

theorem keepsPort_asyncRecord (n : Nat) (s : State) (k : Fin 4) (slot : Nat) (f : FaultInfo) : KeepsPort n s (s.asyncRecord n k slot f) := by
  rcases Answers.asyncRecord_cases (s := s) n k slot f with ⟨l, h⟩ | ⟨u, h, -⟩
  · exact h ▸ keepsPort_setCell (.refl _)
  · exact h ▸ KeepsPort.rfl

theorem keepsPort_sgFault (n : Nat) (s : State) (g : Fin 4) (cls code : Nat) : KeepsPort n s (sgFault s n g cls code) := by
  refine KeepsPort.trans ?_ (keepsPort_asyncRecord ..)
  exact keepsPort_setCell rfl

theorem keepsPort_engineEcc (n : Nat) (s : State) (k : Fin 4) (slot unit : Nat) (w : Option Nat) : KeepsPort n s (engineEcc s n k slot unit w) := by
  cases w with
  | none => exact .rfl
  | some w => exact keepsPort_asyncRecord ..

theorem keepsPort_sliceWrite (n : Nat) (s : State) (m o k v : Nat) : KeepsPort n s (s.sliceWrite m o k v) := by
  rw [sliceWrite_frame]
  exact .rfl

theorem keepsPort_engineWrite (n : Nat) (s : State) (a v : Nat) : KeepsPort n s (engineWrite s n a v) := by
  unfold engineWrite
  dsimp only
  split
  · exact keepsPort_setCell rfl
  · refine KeepsPort.trans ?_ (keepsPort_sliceWrite ..)
    exact keepsPort_setCell rfl

theorem setRing_port (c : CellState) (g : Fin 8) (r : Ring) : (c.setRing g r).port = c.port := rfl
theorem setGen_port (c : CellState) (g : Fin 4) (v : Gen) : (c.setGen g v).port = c.port := rfl
theorem mend_port (c : CellState) (a n : Nat) : (c.mend a n).port = c.port := rfl

theorem popRing_port (c : CellState) (g : Fin 8) : (c.popRing g).port = c.port := by
  unfold CellState.popRing
  dsimp only
  split <;> rfl

/-- A cell whose generator has read 64 bytes `d` from `a`: behind its stream queue, or in the tail tile of its ring. -/
def readIn (c : CellState) (g : Fin 4) (a d : Nat) (bad : Bool) : CellState :=
  let v := c.gens[g]
  let r := c.rings[v.rg]
  let e := (if inSram a 64 then c.mend a 64 else c).setGen g v.next
  if v.rgen then
    ({ e with sram := e.sram.writeN (r.tile r.tail + r.part * 64) 64 d } : CellState).setRing v.rg
      (if r.part = r.tsz then r.push (r.acc || bad) else { r with part := r.part + 1, acc := r.acc || bad })
  else { e with sq := vset e.sq g (e.sq[g] ++ [⟨BitVec.ofNat 512 d, bad⟩]) }

/-- A cell whose generator has written 64 bytes of the head tile of its ring. -/
def drained (c : CellState) (g : Fin 4) (v : Gen) (r : Ring) : CellState :=
  let e := (c.mend (r.tile r.head + r.drain * 64) 64).setGen g v.next
  if r.drain = r.tsz then e.popRing v.rg else e.setRing v.rg { r with drain := r.drain + 1 }

/-- A cell whose generator has written the head of its write queue. -/
def written (c : CellState) (g : Fin 4) (v : Gen) : CellState :=
  ({ c with so := vset c.so g (c.so[g]).tail, soAt := vset c.soAt g (c.soAt[g] - 1) } : CellState).setGen g v.next

section
variable {s : State} {n : Nat} {g : Fin 4}

theorem sgMove_bad (dir : ((s.cell n).gens[g]).dir = false) (bad : badBlock (s.cell n) ((s.cell n).gens[g]).addr = true) :
    sgMove s n g = sgFault s n g 10 3 := by
  unfold sgMove
  simp only [dir, bad]
  rfl

theorem sgMove_read (dir : ((s.cell n).gens[g]).dir = false) (good : badBlock (s.cell n) ((s.cell n).gens[g]).addr = false) :
    sgMove s n g =
      let v := (s.cell n).gens[g]
      let w := if inSram v.addr 64 then (s.cell n).badWord v.addr 64 else none
      (engineEcc (s.setCell n (readIn (s.cell n) g v.addr (engineRead s n v.addr) w.isSome)) n v.ctx v.slot g.val w).active n := by
  unfold sgMove
  simp only [dir, good]
  rfl

theorem sgMove_drain (dir : ((s.cell n).gens[g]).dir = true) (ring : ((s.cell n).gens[g]).rgen = true) :
    sgMove s n g =
      let c := s.cell n
      let v := c.gens[g]
      let r := c.rings[v.rg]
      let e := r.tile r.head + r.drain * 64
      let t := engineWrite s n v.addr (c.sram.readN e 64)
      (engineEcc (t.setCell n (drained (t.cell n) g v r)) n v.ctx v.slot g.val (c.badWord e 64)).active n := by
  unfold sgMove
  simp only [dir, ring]
  rfl

theorem sgMove_write (dir : ((s.cell n).gens[g]).dir = true) (queue : ((s.cell n).gens[g]).rgen = false) :
    sgMove s n g =
      let c := s.cell n
      let v := c.gens[g]
      let t := engineWrite s n v.addr ((((c.so[g]).head?).map fun e : SEnt => e.data).getD 0).toNat
      (t.setCell n (written (t.cell n) g v)).active n := by
  unfold sgMove
  simp only [dir, queue]
  rfl

end

theorem readIn_port (c : CellState) (g : Fin 4) (a d : Nat) (bad : Bool) : (readIn c g a d bad).port = c.port := by
  unfold readIn
  dsimp only
  split_ifs <;> rfl

theorem drained_port (c : CellState) (g : Fin 4) (v : Gen) (r : Ring) : (drained c g v r).port = c.port := by
  unfold drained
  dsimp only
  split
  · rw [popRing_port, setGen_port, mend_port]
  · rw [setRing_port, setGen_port, mend_port]

theorem written_port (c : CellState) (g : Fin 4) (v : Gen) : (written c g v).port = c.port := rfl

theorem keepsPort_sgMove (n : Nat) (s : State) (g : Fin 4) : KeepsPort n s (sgMove s n g) := by
  cases dir : ((s.cell n).gens[g]).dir
  · cases bad : badBlock (s.cell n) ((s.cell n).gens[g]).addr
    · rw [sgMove_read dir bad]
      exact (keepsPort_setCell (readIn_port ..)).trans ((keepsPort_engineEcc ..).trans (keepsPort_active ..))
    · rw [sgMove_bad dir bad]
      exact keepsPort_sgFault ..
  · cases ring : ((s.cell n).gens[g]).rgen
    · rw [sgMove_write dir ring]
      exact (keepsPort_engineWrite ..).trans ((keepsPort_setCell (written_port ..)).trans (keepsPort_active ..))
    · rw [sgMove_drain dir ring]
      exact (keepsPort_engineWrite ..).trans ((keepsPort_setCell (drained_port ..)).trans ((keepsPort_engineEcc ..).trans (keepsPort_active ..)))

theorem portDone_port (s : State) (n : Nat) (u : PortUser) : ((s.portDone n u).cell n).port = (s.cell n).port.filter fun r => !decide (r.user = u) :=
  congrArg CellState.port (State.cell_setCell_same s n _)

theorem sgSettle_keeps (s : State) (n : Nat) (g : Fin 4) :
    (sgSettle s n g).focus = s.focus ∧ (sgSettle s n g).strip = s.strip ∧ ∀ r ∈ ((sgSettle s n g).cell n).port, r.user ≠ .gen g := by
  by_cases asked : (s.cell n).portAsked (.gen g) = true
  · have done : KeepsPort n (s.portDone n (.gen g)) (sgSettle s n g) := by
      unfold sgSettle
      rw [if_pos asked]
      split
      · exact keepsPort_sgMove ..
      · exact .rfl
    obtain ⟨focus, strip, port⟩ := done
    refine ⟨focus, strip, fun r hr => ?_⟩
    rw [port, portDone_port] at hr
    exact of_decide_eq_false (Bool.not_eq_true' _ ▸ (List.mem_filter.mp hr).2)
  · have idle := portAsked_false.mp (Bool.eq_false_iff.mpr asked)
    rw [sgSettle_idle idle]
    exact ⟨rfl, rfl, idle⟩

/-- A firing that changes its cell by `f` after a step that keeps focus and strip cycle leaves what `f` gives, but for contexts and input
queues. -/
theorem fire_after {s u : State} {cue : Cue} {p : PAct} {eff : State → Effect} {f : CellState → CellState}
    (hr : Ready s cue ⟨[], none, true, []⟩)
    (he : eff s = onCell p f u) (focus : u.focus = s.focus) (strip : u.strip = s.strip) :
    ∃ t, fire s cue ⟨[], none, true, []⟩ eff = .next t ∧ (t.cell s.focus.cell).gens = (f (u.cell s.focus.cell)).gens ∧
      (t.cell s.focus.cell).port = (f (u.cell s.focus.cell)).port := by
  obtain ⟨t, run, -, -, cell, -⟩ := fire_fires hr he focus strip
  have cur : u.cur = u.cell s.focus.cell := by rw [State.cur, focus]
  have now : (u.setCur (afterAct (f u.cur) u.focus.ctx p)).cell s.focus.cell = afterAct (f (u.cell s.focus.cell)) u.focus.ctx p := by
    rw [State.setCur, focus, State.cell_setCell_same, cur]
  exact ⟨t, run, (congrArg CellState.gens cell).trans ((congrArg CellState.gens now).trans rfl),
    (congrArg CellState.port cell).trans ((congrArg CellState.port now).trans rfl)⟩

/-- A halt leaves the generator inactive, and no slice transfer of it under way. -/
theorem sgHalt_ends {s : State} {c : Cue} {g : Fin 4} {p : PAct} (hr : Ready s c ⟨[], none, true, []⟩) :
    ∃ t, exec (.sgHalt c g p) s = .next t ∧ ((t.cell s.focus.cell).gens[g]).active = false ∧
      ∀ r ∈ (t.cell s.focus.cell).port, r.user ≠ .gen g := by
  obtain ⟨focus, strip, port⟩ := sgSettle_keeps s s.focus.cell g
  obtain ⟨t, run, gens, same⟩ := fire_after (eff := fun s => onCell p (fun c => c.setGen g { c.gens[g] with active := false })
    (sgSettle s s.focus.cell g)) hr rfl focus strip
  refine ⟨t, run, ?_, same ▸ port⟩
  rw [gens]
  exact congrArg Gen.active (vset_same ..)

/-! ## Transfers -/

theorem addr_eq (v : Gen) : v.addr =
    ((v.base.toNat + (v.lv[0]).idx.toNat * (v.lv[0]).stride.toInt + (v.lv[1]).idx.toNat * (v.lv[1]).stride.toInt
      + (v.lv[2]).idx.toNat * (v.lv[2]).stride.toInt + (v.lv[3]).idx.toNat * (v.lv[3]).stride.toInt) % 2 ^ 32 : Int).toNat := by
  unfold Gen.addr
  rw [BitVec.toNat_ofInt]
  rfl

theorem aligned_iff (v : Gen) : v.aligned = true ↔ v.base.toNat % 64 = 0 ∧ ∀ i : Fin 4, (v.lv[i]).stride.toNat % 64 = 0 := by
  unfold Gen.aligned
  rw [Bool.and_eq_true_iff, decide_eq_true_iff, Vector.all_eq_true]
  exact and_congr_right fun _ => ⟨fun h i => of_decide_eq_true (h i.val i.isLt), fun h i hi => decide_eq_true (h ⟨i, hi⟩)⟩

theorem mend_eq (c : CellState) (a n : Nat) : c.mend a n = mended c a n := by
  unfold CellState.mend mended
  simp only [Bool.decide_and]

theorem active_setCell (s : State) (n : Nat) (c : CellState) : (s.setCell n c).active n = s.setCell n { c with lastAct := s.tick } := by
  rw [State.active, State.cell_setCell_same, setCell_setCell]
  rfl

section
variable {s : State} {n : Nat} {g : Fin 4} (active : ((s.cell n).gens[g]).active = true) (start : ((s.cell n).gens[g]).start ≤ (s.cell n).cyc)
  (going : (s.stage (s.cell n).stage).stopping = false)
include active start going

/-- A transfer of an active generator whose time has come, in a stage that no order stops. -/
theorem transfer_eq : exec (.sgTransfer n g) s =
    if (!((s.cell n).gens[g]).aligned) = true then .next (sgFault s n g 4 0)
    else if (!(s.cell n).inPrivate ((s.cell n).gens[g]).addr 64) = true then .next (sgFault s n g 3 0)
    else if (!sgCan (s.cell n) g) = true then .next s
    else if (sgLines ((s.cell n).gens[g]).addr).isEmpty = true then .next (sgMove s n g)
    else if (!(s.cell n).portAsked (.gen g)) = true then
      .next (s.portAsk n (.gen g) (sgLines ((s.cell n).gens[g]).addr) ((s.cell n).gens[g]).dir)
    else if (s.cell n).portServed (.gen g) (sgLines ((s.cell n).gens[g]).addr) ((s.cell n).gens[g]).dir = true then
      .next (sgMove (s.portDone n (.gen g)) n g)
    else .next s := by
  have paused : genPaused s n = false := by
    unfold genPaused
    rw [going]
    rfl
  refine if_neg ?_
  rw [active, decide_eq_false (Nat.not_lt.mpr start), paused]
  exact Bool.false_ne_true

theorem transfer_misaligned (odd : ((s.cell n).gens[g]).aligned = false) : exec (.sgTransfer n g) s = .next (sgFault s n g 4 0) := by
  rw [transfer_eq active start going, odd]
  rfl

variable (even : ((s.cell n).gens[g]).aligned = true)
include even

theorem transfer_outside (out : (s.cell n).inPrivate ((s.cell n).gens[g]).addr 64 = false) :
    exec (.sgTransfer n g) s = .next (sgFault s n g 3 0) := by
  rw [transfer_eq active start going, even, out]
  rfl

variable (inside : (s.cell n).inPrivate ((s.cell n).gens[g]).addr 64 = true)
include inside

theorem transfer_waits (full : sgCan (s.cell n) g = false) : exec (.sgTransfer n g) s = .next s := by
  rw [transfer_eq active start going, even, inside, full]
  rfl

variable (can : sgCan (s.cell n) g = true)
include can

theorem transfer_moves (sram : inSram ((s.cell n).gens[g]).addr 64 = true) : exec (.sgTransfer n g) s = .next (sgMove s n g) := by
  rw [transfer_eq active start going, even, inside, can, sgLines, if_pos sram]
  rfl

theorem transfer_asks (slice : inSram ((s.cell n).gens[g]).addr 64 = false) (new : (s.cell n).portAsked (.gen g) = false) :
    exec (.sgTransfer n g) s = .next (s.portAsk n (.gen g) [lineOf ((s.cell n).gens[g]).addr, lineOf ((s.cell n).gens[g]).addr + 1]
      ((s.cell n).gens[g]).dir) := by
  rw [transfer_eq active start going, even, inside, can, sgLines, slice, new]
  rfl

theorem transfer_served (slice : inSram ((s.cell n).gens[g]).addr 64 = false) (asked : (s.cell n).portAsked (.gen g) = true)
    (served : (s.cell n).portServed (.gen g) [lineOf ((s.cell n).gens[g]).addr, lineOf ((s.cell n).gens[g]).addr + 1]
      ((s.cell n).gens[g]).dir = true) : exec (.sgTransfer n g) s = .next (sgMove (s.portDone n (.gen g)) n g) := by
  rw [transfer_eq active start going, even, inside, can, sgLines, slice, asked]
  exact if_pos served

end

/-! ## Transfers from and to SRAM -/

theorem inSram_iff (a n : Nat) : inSram a n = true ↔ a + n ≤ 0x40000 := decide_eq_true_iff

theorem inPrivate_of_sram {c : CellState} {a n : Nat} (h : inSram a n = true) : c.inPrivate a n = true := by
  unfold CellState.inPrivate
  rw [h]
  rfl

theorem badBlock_of_sram {c : CellState} {a : Nat} (h : inSram a 64 = true) : badBlock c a = false := by
  unfold badBlock
  rw [h]
  rfl

theorem badWord_none {c : CellState} (h : c.badSram = []) (a n : Nat) : c.badWord a n = none := by
  unfold CellState.badWord
  rw [h]
  rfl

theorem written_sram (c : CellState) (g : Fin 4) (v : Gen) (m : Mem) (t : Nat) :
    { written { c with sram := m } g v with lastAct := t } =
      { c with so := vset c.so g (c.so[g]).tail, soAt := vset c.soAt g (c.soAt[g] - 1), sram := m, gens := vset c.gens g v.next, lastAct := t } :=
  rfl

section
variable {s : State} {n : Nat} {g : Fin 4} (sram : inSram ((s.cell n).gens[g]).addr 64 = true) (whole : (s.cell n).badSram = [])
include sram

theorem engineWrite_sram (v : Nat) :
    engineWrite s n ((s.cell n).gens[g]).addr v = s.setCell n { s.cell n with sram := (s.cell n).sram.writeN ((s.cell n).gens[g]).addr 64 v } :=
  if_pos sram

theorem write_sram (dir : ((s.cell n).gens[g]).dir = true) (queue : ((s.cell n).gens[g]).rgen = false) :
    let c := s.cell n
    sgMove s n g = s.setCell n { c with
      so := vset c.so g (c.so[g]).tail, soAt := vset c.soAt g (c.soAt[g] - 1)
      sram := c.sram.writeN (c.gens[g]).addr 64 ((((c.so[g]).head?).map fun e : SEnt => e.data).getD 0).toNat
      gens := vset c.gens g (c.gens[g]).next, lastAct := s.tick } := by
  rw [sgMove_write dir queue]
  dsimp only
  rw [engineWrite_sram sram, State.cell_setCell_same, setCell_setCell, active_setCell]
  exact congrArg (s.setCell n) (written_sram ..)

include whole

theorem read_sram (dir : ((s.cell n).gens[g]).dir = false) :
    let c := s.cell n
    let v := c.gens[g]
    sgMove s n g = s.setCell n { readIn c g v.addr (c.sram.readN v.addr 64) false with lastAct := s.tick } := by
  intro c v
  have word : (if inSram v.addr 64 then c.badWord v.addr 64 else none) = none := (if_pos sram).trans (badWord_none whole _ _)
  have data : engineRead s n v.addr = c.sram.readN v.addr 64 := if_pos sram
  rw [sgMove_read dir (badBlock_of_sram sram)]
  dsimp only
  rw [word, data]
  exact active_setCell ..

theorem drain_sram (dir : ((s.cell n).gens[g]).dir = true) (ring : ((s.cell n).gens[g]).rgen = true) :
    let c := s.cell n
    let v := c.gens[g]
    let r := c.rings[v.rg]
    sgMove s n g = s.setCell n { drained { c with sram := c.sram.writeN v.addr 64 (c.sram.readN (r.tile r.head + r.drain * 64) 64) } g v r with
      lastAct := s.tick } := by
  rw [sgMove_drain dir ring]
  dsimp only
  rw [badWord_none whole, engineWrite_sram sram, State.cell_setCell_same, setCell_setCell]
  exact active_setCell ..

end

/-- A cell whose stream queue has taken 64 bytes. -/
theorem readIn_queue {c : CellState} {g : Fin 4} {a : Nat} (sram : inSram a 64 = true) (queue : (c.gens[g]).rgen = false) (d : Nat) (bad : Bool) :
    readIn c g a d bad = { mended c a 64 with
      gens := vset c.gens g (c.gens[g]).next, sq := vset c.sq g (c.sq[g] ++ [⟨BitVec.ofNat 512 d, bad⟩]) } := by
  unfold readIn
  simp only [sram, queue, mend_eq]
  rfl

/-- A ring that has taken 64 bytes of a generator. -/
def filledRing (r : Ring) (x : Bool) : Ring := if r.part = r.tsz then r.push x else { r with part := r.part + 1, acc := x }

theorem readIn_ring {c : CellState} {g : Fin 4} (ring : (c.gens[g]).rgen = true) (a d : Nat) (bad : Bool) :
    readIn c g a d bad =
      ({ (if inSram a 64 then c.mend a 64 else c).setGen g (c.gens[g]).next with
        sram := ((if inSram a 64 then c.mend a 64 else c).setGen g (c.gens[g]).next).sram.writeN
          ((c.rings[(c.gens[g]).rg]).tile (c.rings[(c.gens[g]).rg]).tail + (c.rings[(c.gens[g]).rg]).part * 64) 64 d } : CellState).setRing
        (c.gens[g]).rg (filledRing c.rings[(c.gens[g]).rg] ((c.rings[(c.gens[g]).rg]).acc || bad)) :=
  if_pos ring

theorem setRing_setGen (c : CellState) (g : Fin 4) (v : Gen) (m : Mem) (i : Fin 8) (r : Ring) :
    ({ c.setGen g v with sram := m } : CellState).setRing i r =
      { c with gens := vset c.gens g v, sram := m, rings := vset c.rings i r } := rfl

theorem readIn_ring_sram {c : CellState} {g : Fin 4} {a : Nat} (sram : inSram a 64 = true) (ring : (c.gens[g]).rgen = true) (d : Nat) :
    readIn c g a d false =
      let v := c.gens[g]
      let r := c.rings[v.rg]
      { mended c a 64 with
        gens := vset c.gens g v.next, sram := c.sram.writeN (r.tile r.tail + r.part * 64) 64 d
        rings := vset c.rings v.rg (filledRing r r.acc) } := by
  rw [readIn_ring ring, if_pos sram, mend_eq, Bool.or_false]
  exact setRing_setGen ..

theorem readIn_ring_slice {c : CellState} {g : Fin 4} {a : Nat} (slice : inSram a 64 = false) (ring : (c.gens[g]).rgen = true) (d : Nat) :
    readIn c g a d false =
      let v := c.gens[g]
      let r := c.rings[v.rg]
      { c with
        gens := vset c.gens g v.next, sram := c.sram.writeN (r.tile r.tail + r.part * 64) 64 d
        rings := vset c.rings v.rg (filledRing r r.acc) } := by
  rw [readIn_ring ring, if_neg (Bool.eq_false_iff.mp slice), Bool.or_false]
  exact setRing_setGen ..

/-- A cell whose ring has given 64 bytes to a generator. -/
theorem drained_eq (c : CellState) (g : Fin 4) (v : Gen) (r : Ring) (hr : c.rings[v.rg] = r) :
    drained c g v r =
      let d := { mended c (r.tile r.head + r.drain * 64) 64 with gens := vset c.gens g v.next }
      if r.drain = r.tsz then { d with
        readCnt := if r.prod = 3 then vset c.readCnt (Fin.ofNat 4 r.pidx) (c.readCnt[Fin.ofNat 4 r.pidx] - 1) else c.readCnt
        ringAt := vset c.ringAt v.rg (c.ringAt[v.rg] - 1), rings := vset c.rings v.rg r.pop }
      else { d with rings := vset c.rings v.rg { r with drain := r.drain + 1 } } := by
  subst hr
  unfold drained
  rw [mend_eq]
  refine if_congr .rfl ?_ rfl
  unfold CellState.popRing
  by_cases out : (c.rings[v.rg]).prod = 3
  · simp only [if_pos out]
    exact if_pos out
  · simp only [if_neg out]
    exact if_neg out

/-! ## The indices (R54) -/

theorem stepIdx_none {l : List SgLevel} (h : ∀ a ∈ l, a.idx = a.cntm1) : stepIdx l = none := by
  induction l with
  | nil => rfl
  | cons a l ih =>
    rw [stepIdx, if_pos (h a List.mem_cons_self), ih fun b hb => h b (List.mem_cons_of_mem _ hb)]
    rfl

/-- A level after a step at level `k`: those below return to 0. -/
def steppedLevel (k j : Nat) (a : SgLevel) : SgLevel := { a with idx := if j < k then 0 else if j = k then a.idx + 1 else a.idx }

theorem steppedLevel_succ (k j : Nat) : steppedLevel (k + 1) (j + 1) = steppedLevel k j := by
  funext a
  simp [steppedLevel]

theorem steppedLevel_later (j : Nat) : steppedLevel 0 (j + 1) = id := by
  funext a
  simp [steppedLevel]

/-- The first level that is not at its end steps. -/
theorem stepIdx_some {l : List SgLevel} {k : Nat} {b : SgLevel} (ends : ∀ j a, j < k → l[j]? = some a → a.idx = a.cntm1) (at' : l[k]? = some b)
    (open' : b.idx ≠ b.cntm1) : ∃ q, stepIdx l = some q ∧ ∀ j, q[j]? = (l[j]?).map (steppedLevel k j) := by
  induction l generalizing k with
  | nil => exact nomatch at'
  | cons a l ih =>
    cases k with
    | zero =>
      obtain rfl : a = b := Option.some.inj at'
      refine ⟨_, by rw [stepIdx, if_neg open'], fun j => ?_⟩
      cases j with
      | zero => rfl
      | succ j => simp [steppedLevel_later]
    | succ k =>
      obtain ⟨q, step, levels⟩ := ih (k := k) (fun j c hj hc => ends (j + 1) c (Nat.succ_lt_succ hj) hc) at'
      refine ⟨{ a with idx := 0 } :: q, by rw [stepIdx, if_pos (ends 0 a (Nat.succ_pos k) rfl), step]; rfl, fun j => ?_⟩
      cases j with
      | zero => rfl
      | succ j => simp [levels j, steppedLevel_succ]

theorem next_last {v : Gen} (h : ∀ i : Fin 4, (v.lv[i]).idx = (v.lv[i]).cntm1) : v.next = { v with active := false, done := true } := by
  have none : stepIdx v.lv.toList = none := stepIdx_none fun a ha => by
    obtain ⟨i, hi, rfl⟩ := List.getElem_of_mem ha
    exact h ⟨i, by simpa using hi⟩
  unfold Gen.next
  rw [none]

theorem next_step {v : Gen} {k : Fin 4} (ends : ∀ j : Fin 4, j < k → (v.lv[j]).idx = (v.lv[j]).cntm1) (open' : (v.lv[k]).idx ≠ (v.lv[k]).cntm1) :
    v.next = { v with lv := v.next.lv } ∧ ∀ j : Fin 4, v.next.lv[j] = steppedLevel k.val j.val v.lv[j] := by
  have get (j : Nat) (hj : j < 4) : v.lv.toList[j]? = some v.lv[j] := by simp [hj]
  obtain ⟨q, step, levels⟩ := stepIdx_some (l := v.lv.toList) (k := k.val) (b := v.lv[k])
    (fun j a hj ha => by
      rw [get j (by omega)] at ha
      exact Option.some.inj ha ▸ ends ⟨j, by omega⟩ hj) (get k.val k.isLt) open'
  have next : v.next = { v with lv := Vector.ofFn fun i => (q[i.val]?).getD SgLevel.blank } := by
    unfold Gen.next
    rw [step]
  rw [next]
  refine ⟨rfl, fun j => ?_⟩
  show (Vector.ofFn fun i : Fin 4 => (q[i.val]?).getD SgLevel.blank)[j.val] = _
  rw [Vector.getElem_ofFn, levels, get j.val j.isLt]
  rfl


end Sys2Proof.Streams
end

section
namespace Sys2Proof.Streams
open Sys2Proof.Machine Sys2Proof.Safety Sys2Proof.Rules

/-! ## Faults -/

/-- An asynchronous record of a context that has not halted takes a free place of its cell's queue. -/
theorem asyncRecord_adds {s : State} {n : Nat} {k : Fin 4} (room : (s.cell n).asyncRecs.length < 8)
    (alive : ((s.cell n).ctx k).status ≠ .halted) (slot : Nat) (f : FaultInfo) :
    s.asyncRecord n k slot f = s.setCell n { s.cell n with
      asyncRecs := (s.cell n).asyncRecs ++ [(mkRecord s (s.cell n) k slot true f .trap, s.tick)] } :=
  (if_neg alive).trans (if_pos room)

/-- A generator that faults stops, and its record stands in the queue of its cell. -/
theorem sgFault_stops {s : State} {n : Nat} {g : Fin 4} (room : (s.cell n).asyncRecs.length < 8)
    (alive : ((s.cell n).ctx ((s.cell n).gens[g]).ctx).status ≠ .halted) (cls code : Nat) :
    let c := s.cell n
    let v := c.gens[g]
    let t := sgFault s n g cls code
    stateWith t s.cells = s ∧ (∀ m, m ≠ n → AMap.get? t.cells m = AMap.get? s.cells m) ∧
    Reports s n v.ctx v.slot
      { cls := cls, code := code, opnd := BitVec.ofNat 32 ((v.lv[1]).idx.toNat * 2 ^ 16 + (v.lv[0]).idx.toNat), unit := g.val }
      { c with gens := vset c.gens g { v with active := false, fault := true } } (t.cell n) := by
  intro c v t
  set f : FaultInfo := { cls := cls, code := code, opnd := word ((v.lv[1]).idx.toNat * 2 ^ 16 + (v.lv[0]).idx.toNat), unit := g.val } with hf
  set d : CellState := c.setGen g { v with active := false, fault := true } with hd
  have cell : (s.setCell n d).cell n = d := State.cell_setCell_same s n d
  have record : t = s.setCell n { d with asyncRecs := d.asyncRecs ++ [(mkRecord (s.setCell n d) d v.ctx v.slot true f .trap, s.tick)] } := by
    refine (asyncRecord_adds (s := s.setCell n d) (by rw [cell]; exact room) (by rw [cell]; exact alive) v.slot f).trans ?_
    rw [cell, setCell_setCell]
    rfl
  have made := mkRecord_isAsyncRecord (s.setCell n d) n v.slot v.ctx f
  rw [cell] at made
  rw [record]
  refine ⟨rfl, fun m ne => AMap.get?_put_ne _ _ ne, _, ?_, State.cell_setCell_same ..⟩
  unfold IsAsyncRecord at made ⊢
  rw [cell] at made
  exact made

/-! ## Transfers of the slice -/

theorem sliceRead_congr {s t : State} {n : Nat} (firn : t.firn = s.firn) (key : ∀ o, t.sliceKey n o = s.sliceKey n o) (o k : Nat) :
    t.sliceRead n o k = s.sliceRead n o k := by
  induction k generalizing o with
  | zero => rfl
  | succ k ih => rw [State.sliceRead, State.sliceRead, firn, key, ih]

theorem sliceWrite_congr {s t : State} {n : Nat} (firn : t.firn = s.firn) (key : ∀ o, t.sliceKey n o = s.sliceKey n o) (o k v : Nat) :
    (t.sliceWrite n o k v).firn = (s.sliceWrite n o k v).firn := by
  induction k generalizing s t o v with
  | zero => exact firn
  | succ k ih =>
    refine ih (s := { s with firn := s.firn.write (s.sliceKey n o) (BitVec.ofNat 8 v) })
      (t := { t with firn := t.firn.write (t.sliceKey n o) (BitVec.ofNat 8 v) }) ?_ key _ _
    show t.firn.write (t.sliceKey n o) _ = s.firn.write (s.sliceKey n o) _
    rw [firn, key]

theorem portDone_cell (s : State) (n : Nat) (u : PortUser) :
    (s.portDone n u).cell n = { s.cell n with port := (s.cell n).port.filter fun r => !decide (r.user = u) } :=
  State.cell_setCell_same s n _

theorem setCell_key (s : State) (n : Nat) (c : CellState) (m o : Nat) : (s.setCell n c).sliceKey m o = s.sliceKey m o := rfl
theorem portDone_key (s : State) (n : Nat) (u : PortUser) (o : Nat) : (s.portDone n u).sliceKey n o = s.sliceKey n o := rfl
theorem portDone_firn (s : State) (n : Nat) (u : PortUser) : (s.portDone n u).firn = s.firn := rfl

theorem portDone_gone (s : State) (n : Nat) (u : PortUser) : ∀ r ∈ ((s.portDone n u).cell n).port, r.user ≠ u := fun r hr => by
  rw [portDone_port] at hr
  exact of_decide_eq_false (Bool.not_eq_true' _ ▸ (List.mem_filter.mp hr).2)

theorem popRing_fields (c : CellState) (g : Fin 8) : (c.popRing g).gens = c.gens ∧ (c.popRing g).sram = c.sram ∧
    (c.popRing g).rings = vset c.rings g (c.rings[g]).pop := by
  unfold CellState.popRing
  dsimp only
  split <;> exact ⟨rfl, rfl, rfl⟩

theorem drained_fields (c : CellState) (g : Fin 4) (v : Gen) (r : Ring) (hr : c.rings[v.rg] = r) :
    (drained c g v r).gens = vset c.gens g v.next ∧ (drained c g v r).sram = c.sram ∧
    (drained c g v r).rings = vset c.rings v.rg (if r.drain = r.tsz then r.pop else { r with drain := r.drain + 1 }) := by
  subst hr
  unfold drained
  dsimp only
  obtain ⟨gens, sram, rings⟩ := popRing_fields ((c.mend (c.rings[v.rg].tile c.rings[v.rg].head + c.rings[v.rg].drain * 64) 64).setGen g v.next) v.rg
  split
  · exact ⟨gens, sram, rings⟩
  · exact ⟨rfl, rfl, rfl⟩

/-- A cell whose slice lines of a 64-byte block are whole again. -/
def relined (c : CellState) (a : Nat) : CellState := { c with badLines := c.badLines.filter fun b => decide (b ≠ lineOf a ∧ b ≠ lineOf a + 1) }

section
variable {s : State} {n : Nat} {g : Fin 4} (slice : inSram ((s.cell n).gens[g]).addr 64 = false)
include slice

theorem badBlock_of_slice (l0 : lineOf ((s.cell n).gens[g]).addr ∉ (s.cell n).badLines)
    (l1 : lineOf ((s.cell n).gens[g]).addr + 1 ∉ (s.cell n).badLines) : badBlock (s.cell n) ((s.cell n).gens[g]).addr = false := by
  unfold badBlock
  rw [slice, Bool.eq_false_iff.mpr fun h => l0 (List.contains_iff_mem.mp h), Bool.eq_false_iff.mpr fun h => l1 (List.contains_iff_mem.mp h)]
  rfl

end

section
variable {s : State} {n : Nat} {g : Fin 4} {c : CellState} (hc : s.cell n = c) (slice : inSram (c.gens[g]).addr 64 = false)
include hc slice

/-- A slice transfer that fills a ring. -/
theorem read_slice (dir : (c.gens[g]).dir = false) (ring : (c.gens[g]).rgen = true) (good : badBlock c (c.gens[g]).addr = false) :
    let v := c.gens[g]
    let r := c.rings[v.rg]
    let t := sgMove s n g
    t.firn = s.firn ∧ (t.cell n).gens = vset c.gens g v.next ∧
    (t.cell n).sram = c.sram.writeN (r.tile r.tail + r.part * 64) 64 (s.sliceRead n (v.addr - sliceBase) 64) ∧
    (t.cell n).rings = vset c.rings v.rg (filledRing r r.acc) := by
  intro v r t
  have move : t = s.setCell n { readIn c g v.addr (s.sliceRead n (v.addr - sliceBase) 64) false with lastAct := s.tick } := by
    subst hc
    have data : engineRead s n v.addr = s.sliceRead n (v.addr - sliceBase) 64 := if_neg (Bool.eq_false_iff.mp slice)
    have word : (if inSram v.addr 64 then (s.cell n).badWord v.addr 64 else none) = none := if_neg (Bool.eq_false_iff.mp slice)
    refine (sgMove_read dir good).trans ?_
    dsimp only
    rw [data, word]
    exact active_setCell ..
  rw [move, State.cell_setCell_same, readIn_ring_slice slice ring]
  dsimp only
  exact ⟨rfl, rfl, rfl, rfl⟩

/-- A slice transfer that drains a ring. -/
theorem drain_slice (dir : (c.gens[g]).dir = true) (ring : (c.gens[g]).rgen = true) (whole : c.badSram = []) :
    let v := c.gens[g]
    let r := c.rings[v.rg]
    let t := sgMove s n g
    t.firn = (s.sliceWrite n (v.addr - sliceBase) 64 (c.sram.readN (r.tile r.head + r.drain * 64) 64)).firn ∧
    (t.cell n).gens = vset c.gens g v.next ∧ (t.cell n).sram = c.sram ∧
    (t.cell n).rings = vset c.rings v.rg (if r.drain = r.tsz then r.pop else { r with drain := r.drain + 1 }) := by
  intro v r t
  obtain ⟨bytes, hb⟩ : ∃ b, b = c.sram.readN (r.tile r.head + r.drain * 64) 64 := ⟨_, rfl⟩
  obtain ⟨u, hu⟩ : ∃ u, u = engineWrite s n v.addr bytes := ⟨_, rfl⟩
  have store : u = (s.setCell n (relined c v.addr)).sliceWrite n (v.addr - sliceBase) 64 bytes :=
    by
    subst hc
    exact hu.trans (if_neg (Bool.eq_false_iff.mp slice))
  have cell : u.cell n = relined c v.addr := by rw [store, sliceWrite_cell, State.cell_setCell_same]
  have firn : u.firn = (s.sliceWrite n (v.addr - sliceBase) 64 bytes).firn := by
    rw [store]
    exact sliceWrite_congr (s := s) (t := s.setCell n (relined c v.addr)) rfl (setCell_key s n (relined c v.addr) n) _ _ _
  have move : t = u.setCell n { drained (relined c v.addr) g v r with lastAct := u.tick } := by
    subst hc
    refine (sgMove_drain dir ring).trans ?_
    dsimp only
    rw [← hb, ← hu, cell, badWord_none whole]
    exact active_setCell ..
  obtain ⟨gens, sram, rings⟩ := drained_fields (relined c v.addr) g v r rfl
  rw [← hb, move, State.cell_setCell_same]
  exact ⟨firn, gens, sram, rings⟩

end

end Sys2Proof.Streams
end

section
namespace Sys2Proof.Streams
open Sys2Proof.Machine Sys2Proof.Safety Sys2Proof.Rules

/-! ## When a transfer can take place -/

theorem sgCan_queue {c : CellState} {g : Fin 4} (queue : (c.gens[g]).rgen = false) :
    sgCan c g = true ↔ if (c.gens[g]).dir then c.so[g] ≠ [] ∧ 1 ≤ c.soAt[g] else (c.sq[g]).length < 8 := by
  unfold sgCan
  simp only [queue]
  cases (c.gens[g]).dir
  · exact decide_eq_true_iff
  · simp

theorem sgCan_ring {c : CellState} {g : Fin 4} (ring : (c.gens[g]).rgen = true) :
    sgCan c g = true ↔ if (c.gens[g]).dir then 1 ≤ (c.rings[(c.gens[g]).rg]).count ∧ 1 ≤ c.ringAt[(c.gens[g]).rg]
      else (c.rings[(c.gens[g]).rg]).count ≤ (c.rings[(c.gens[g]).rg]).depth := by
  unfold sgCan
  simp only [ring]
  cases (c.gens[g]).dir
  · exact decide_eq_true_iff
  · simp

theorem slice_of_place {c : CellState} {a : Nat} (low : 0x40000000 ≤ a) (high : a + 64 ≤ 0x40000000 + (c.sliceMiB * 2 ^ 20 - 2 ^ 19)) :
    inSram a 64 = false ∧ c.inPrivate a 64 = true ∧ lineOf a = (a - 0x40000000) / 32 := by
  have out : inSram a 64 = false := by
    rw [inSram, decide_eq_false_iff_not]
    omega
  refine ⟨out, ?_, rfl⟩
  unfold CellState.inPrivate CellState.inSlice CellState.sliceReach sliceBase
  rw [out, Bool.false_or, Bool.and_eq_true_iff, decide_eq_true_iff, decide_eq_true_iff]
  exact ⟨low, high⟩

theorem private_outside {c : CellState} {a : Nat} (sram : 0x40000 < a + 64)
    (slice : ¬ (0x40000000 ≤ a ∧ a + 64 ≤ 0x40000000 + (c.sliceMiB * 2 ^ 20 - 2 ^ 19))) : c.inPrivate a 64 = false := by
  unfold CellState.inPrivate inSram CellState.inSlice CellState.sliceReach sliceBase
  rw [decide_eq_false (Nat.not_le.mpr sram), Bool.false_or, Bool.and_eq_false_iff, decide_eq_false_iff_not, decide_eq_false_iff_not]
  exact not_and_or.mp slice

theorem served_asked {c : CellState} {g : Fin 4} {l : Nat} {dir : Bool}
    (h : ∀ x ∈ [l, l + 1], ∃ q ∈ c.port, q.user = .gen g ∧ q.line = x ∧ q.write = dir ∧ q.served = true) :
    c.portAsked (.gen g) = true ∧ c.portServed (.gen g) [l, l + 1] dir = true := by
  constructor
  · obtain ⟨q, mem, user, -⟩ := h l List.mem_cons_self
    exact List.any_eq_true.mpr ⟨q, mem, decide_eq_true user⟩
  · refine List.all_eq_true.mpr fun x hx => ?_
    obtain ⟨q, mem, user, line, write, served⟩ := h x hx
    refine List.any_eq_true.mpr ⟨q, mem, ?_⟩
    rw [decide_eq_true ⟨user, line⟩, write, served]
    simp

theorem steppedLevel_fin (lv : Vector SgLevel 4) (k j : Fin 4) : steppedLevel k.val j.val lv[j] =
    { lv[j] with idx := if j < k then 0 else if j = k then (lv[k]).idx + 1 else (lv[j]).idx } := by
  unfold steppedLevel
  by_cases same : j = k
  · subst same
    simp
  · simp only [Fin.lt_def, same, Fin.val_eq_val, if_false]

section
variable {s : State} {c : Cue} {g : Fin 4} {a b : Src} {p : PAct}

theorem sgSetBase_sets (idle : (s.cur.gens[g]).active = false) (hr : Ready s c ⟨[a], none, true, []⟩) :
    ∃ t, exec (.sgSetBase c g a p) s = .next t ∧
      Acts s t c (deqs [a]) p { s.cur with gens := vset s.cur.gens g { s.cur.gens[g] with base := s.src a } } :=
  sgSet_sets (opnd := fun s => s.src a) (f := fun s v => { v with base := s.src a }) idle hr

theorem ring_bits (n : Nat) : Fin.ofNat 8 (bits n 7 3) = Fin.ofNat 8 (n / 2 ^ 7) := Fin.ext (Nat.mod_mod _ _)

theorem sgSetCtl_sets (idle : (s.cur.gens[g]).active = false) (hr : Ready s c ⟨[a], none, true, []⟩) :
    ∃ t, exec (.sgSetCtl c g a p) s = .next t ∧
      Acts s t c (deqs [a]) p { s.cur with gens := vset s.cur.gens g { s.cur.gens[g] with
        dir := (s.src a).getLsbD 0, rgen := (s.src a).getLsbD 6, rg := Fin.ofNat 8 ((s.src a).toNat / 2 ^ 7)
        done := (s.cur.gens[g]).done && !(s.src a).getLsbD 2 } } := by
  rw [← ring_bits]
  exact sgSet_sets (opnd := fun s => s.src a) (f := fun s v => { v with
    dir := (s.src a).toNat.testBit 0, rgen := (s.src a).toNat.testBit 6, rg := Fin.ofNat 8 (bits (s.src a).toNat 7 3)
    done := v.done && !(s.src a).toNat.testBit 2 }) idle hr

theorem sgSetLv_sets {lv : Fin 4} (idle : (s.cur.gens[g]).active = false) (hr : Ready s c ⟨[a, b], none, true, []⟩) :
    ∃ t, exec (.sgSetLv c g a b lv p) s = .next t ∧
      Acts s t c (deqs [a, b]) p { s.cur with gens := vset s.cur.gens g { s.cur.gens[g] with
        lv := vset (s.cur.gens[g]).lv lv { (s.cur.gens[g]).lv[lv] with
          stride := (s.src a).setWidth 24, cntm1 := (s.src b).setWidth 16 } } } :=
  sgSet_sets (opnd := fun s => s.src a) (f := fun s v =>
    { v with lv := vset v.lv lv { v.lv[lv] with stride := (s.src a).setWidth 24, cntm1 := (s.src b).setWidth 16 } }) idle hr

theorem sgSetBase_faults (busy : (s.cur.gens[g]).active = true) (hr : Ready s c ⟨[a], none, true, []⟩) :
    ∃ t, exec (.sgSetBase c g a p) s = .next t ∧ Faults s t { cls := 2, code := 3, opnd := s.src a } :=
  sgSet_faults (opnd := fun s => s.src a) (f := fun s v => { v with base := s.src a }) busy hr

end


end Sys2Proof.Streams
end

section
namespace Sys2Proof.Streams
open Sys2Proof.Machine Sys2Proof.Safety Sys2Proof.Rules

/-- A cell whose generator has made a transfer at a tick. -/
def movedOn (d : CellState) (g : Fin 4) (v : Gen) (tick : Nat) : CellState := { d with gens := vset d.gens g v.next, lastAct := tick }

theorem queue_cell {c : CellState} {g : Fin 4} {a : Nat} (sram : inSram a 64 = true) (queue : (c.gens[g]).rgen = false) (d tick : Nat) :
    { readIn c g a d false with lastAct := tick } =
      movedOn { mended c a 64 with sq := vset c.sq g (c.sq[g] ++ [⟨BitVec.ofNat 512 d, false⟩]) } g c.gens[g] tick := by
  rw [readIn_queue sram queue]
  rfl

theorem ring_cell {c : CellState} {g : Fin 4} {a : Nat} (sram : inSram a 64 = true) (ring : (c.gens[g]).rgen = true) (d tick : Nat) :
    let v := c.gens[g]
    let r := c.rings[v.rg]
    { readIn c g a d false with lastAct := tick } =
      movedOn { { mended c a 64 with sram := c.sram.writeN (r.tile r.tail + r.part * 64) 64 d } with rings := vset c.rings v.rg (filledRing r r.acc) } g v tick := by
  dsimp only
  rw [readIn_ring_sram sram ring]
  rfl

theorem written_cell (c : CellState) (g : Fin 4) (v : Gen) (so : Vector (List SEnt) 4) (at' : Vector Nat 4) (m : Mem) (tick : Nat) :
    { c with so := so, soAt := at', sram := m, gens := vset c.gens g v.next, lastAct := tick } =
      movedOn { c with so := so, soAt := at', sram := m } g v tick := rfl

theorem filled_cell (d : CellState) (rings : Vector Ring 8) (i : Fin 8) (r : Ring) (g : Fin 4) (v : Gen) (tick : Nat) :
    movedOn { d with rings := vset rings i (filledRing r r.acc) } g v tick =
      if r.part = r.tsz then movedOn { d with rings := vset rings i (r.push r.acc) } g v tick
      else movedOn { d with rings := vset rings i { r with part := r.part + 1 } } g v tick := by
  unfold filledRing
  split <;> rfl

theorem mended_sram (c : CellState) (m : Mem) (a n : Nat) : mended { c with sram := m } a n = { mended c a n with sram := m } := rfl

theorem drained_cell (c : CellState) (g : Fin 4) (v : Gen) (r : Ring) (hr : c.rings[v.rg] = r) (m : Mem) (tick : Nat) :
    { drained { c with sram := m } g v r with lastAct := tick } =
      let d := { mended c (r.tile r.head + r.drain * 64) 64 with sram := m }
      if r.drain = r.tsz then movedOn { { d with
        readCnt := if r.prod = 3 then vset c.readCnt (Fin.ofNat 4 r.pidx) (c.readCnt[Fin.ofNat 4 r.pidx] - 1) else c.readCnt
        ringAt := vset c.ringAt v.rg (c.ringAt[v.rg] - 1) } with rings := vset c.rings v.rg r.pop } g v tick
      else movedOn { d with rings := vset c.rings v.rg { r with drain := r.drain + 1 } } g v tick := by
  rw [drained_eq { c with sram := m } g v r hr, mended_sram]
  dsimp only
  split <;> rfl

section
variable {s : State} {n : Nat} {g : Fin 4} (active : ((s.cell n).gens[g]).active = true) (start : ((s.cell n).gens[g]).start ≤ (s.cell n).cyc)
  (going : (s.stage (s.cell n).stage).stopping = false) (even : ((s.cell n).gens[g]).aligned = true)
  (near : inSram ((s.cell n).gens[g]).addr 64 = true) (can : sgCan (s.cell n) g = true)
include active start going even near can

theorem sram_moves : exec (.sgTransfer n g) s = .next (sgMove s n g) :=
  transfer_moves active start going even (inPrivate_of_sram near) can near

theorem sram_writes (dir : ((s.cell n).gens[g]).dir = true) (queue : ((s.cell n).gens[g]).rgen = false) {e : SEnt} {q : List SEnt}
    (head : (s.cell n).so[g] = e :: q) :
    let c := s.cell n
    exec (.sgTransfer n g) s = .next (s.setCell n (movedOn { c with
      so := vset c.so g q, soAt := vset c.soAt g (c.soAt[g] - 1), sram := c.sram.writeN (c.gens[g]).addr 64 e.data.toNat } g c.gens[g] s.tick)) := by
  dsimp only
  rw [sram_moves active start going even near can, write_sram near dir queue, head]
  exact congrArg (fun e => Host.Outcome.next (s.setCell n e)) (written_cell ..)

variable (whole : (s.cell n).badSram = [])
include whole

theorem sram_reads (dir : ((s.cell n).gens[g]).dir = false) (queue : ((s.cell n).gens[g]).rgen = false) :
    let c := s.cell n
    exec (.sgTransfer n g) s = .next (s.setCell n (movedOn { mended c (c.gens[g]).addr 64 with
      sq := vset c.sq g (c.sq[g] ++ [⟨BitVec.ofNat 512 (c.sram.readN (c.gens[g]).addr 64), false⟩]) } g c.gens[g] s.tick)) := by
  dsimp only
  rw [sram_moves active start going even near can, read_sram near whole dir, queue_cell near queue]

theorem sram_fills (dir : ((s.cell n).gens[g]).dir = false) (ring : ((s.cell n).gens[g]).rgen = true) :
    let c := s.cell n
    let v := c.gens[g]
    let r := c.rings[v.rg]
    exec (.sgTransfer n g) s = .next (s.setCell n (movedOn { { mended c v.addr 64 with
      sram := c.sram.writeN (r.tile r.tail + r.part * 64) 64 (c.sram.readN v.addr 64) } with
        rings := vset c.rings v.rg (filledRing r r.acc) } g v s.tick)) := by
  dsimp only
  rw [sram_moves active start going even near can, read_sram near whole dir, ring_cell near ring]

theorem sram_drains (dir : ((s.cell n).gens[g]).dir = true) (ring : ((s.cell n).gens[g]).rgen = true) :
    let c := s.cell n
    let v := c.gens[g]
    let r := c.rings[v.rg]
    let e := r.tile r.head + r.drain * 64
    let d := { mended c e 64 with sram := c.sram.writeN v.addr 64 (c.sram.readN e 64) }
    exec (.sgTransfer n g) s = .next (s.setCell n
      (if r.drain = r.tsz then movedOn { { d with
        readCnt := if r.prod = 3 then vset c.readCnt (Fin.ofNat 4 r.pidx) (c.readCnt[Fin.ofNat 4 r.pidx] - 1) else c.readCnt
        ringAt := vset c.ringAt v.rg (c.ringAt[v.rg] - 1) } with rings := vset c.rings v.rg r.pop } g v s.tick
      else movedOn { d with rings := vset c.rings v.rg { r with drain := r.drain + 1 } } g v s.tick)) := by
  dsimp only
  rw [sram_moves active start going even near can, drain_sram near whole dir ring, drained_cell _ _ _ _ rfl]

end

section
variable {s : State} {n : Nat} {g : Fin 4} (active : ((s.cell n).gens[g]).active = true) (start : ((s.cell n).gens[g]).start ≤ (s.cell n).cyc)
  (going : (s.stage (s.cell n).stage).stopping = false) (even : ((s.cell n).gens[g]).aligned = true)
  (inside : (s.cell n).inPrivate ((s.cell n).gens[g]).addr 64 = true) (far : inSram ((s.cell n).gens[g]).addr 64 = false)
  (can : sgCan (s.cell n) g = true) (asked : (s.cell n).portAsked (.gen g) = true)
  (served : (s.cell n).portServed (.gen g) [lineOf ((s.cell n).gens[g]).addr, lineOf ((s.cell n).gens[g]).addr + 1] ((s.cell n).gens[g]).dir = true)
include active start going even inside far can asked served

theorem slice_moves : exec (.sgTransfer n g) s = .next (sgMove (s.portDone n (.gen g)) n g) ∧
    ∀ q ∈ ((sgMove (s.portDone n (.gen g)) n g).cell n).port, q.user ≠ .gen g := by
  refine ⟨transfer_served active start going even inside can far asked served, ?_⟩
  rw [(keepsPort_sgMove n (s.portDone n (.gen g)) g).2.2]
  exact portDone_gone s n _

variable (ring : ((s.cell n).gens[g]).rgen = true)
include ring

theorem slice_fills (dir : ((s.cell n).gens[g]).dir = false)
    (good : badBlock (s.cell n) ((s.cell n).gens[g]).addr = false) :
    let c := s.cell n
    let v := c.gens[g]
    let r := c.rings[v.rg]
    ∃ t, exec (.sgTransfer n g) s = .next t ∧ t.firn = s.firn ∧ (t.cell n).gens = vset c.gens g v.next ∧
      (t.cell n).sram = c.sram.writeN (r.tile r.tail + r.part * 64) 64 (s.sliceRead n (v.addr - sliceBase) 64) ∧
      (t.cell n).rings = vset c.rings v.rg (filledRing r r.acc) ∧ ∀ q ∈ (t.cell n).port, q.user ≠ .gen g := by
  intro c v r
  obtain ⟨run, gone⟩ := slice_moves active start going even inside far can asked served
  obtain ⟨firn, gens, sram, rings⟩ := read_slice (portDone_cell s n (.gen g)) far dir ring good
  rw [sliceRead_congr (portDone_firn s n _) (portDone_key s n _)] at sram
  exact ⟨_, run, firn, gens, sram, rings, gone⟩

theorem slice_drains (dir : ((s.cell n).gens[g]).dir = true) (whole : (s.cell n).badSram = []) :
    let c := s.cell n
    let v := c.gens[g]
    let r := c.rings[v.rg]
    ∃ t, exec (.sgTransfer n g) s = .next t ∧ (t.cell n).gens = vset c.gens g v.next ∧ (t.cell n).sram = c.sram ∧
      t.firn = (s.sliceWrite n (v.addr - sliceBase) 64 (c.sram.readN (r.tile r.head + r.drain * 64) 64)).firn ∧
      (t.cell n).rings = vset c.rings v.rg (if r.drain = r.tsz then r.pop else { r with drain := r.drain + 1 }) ∧
      ∀ q ∈ (t.cell n).port, q.user ≠ .gen g := by
  intro c v r
  obtain ⟨run, gone⟩ := slice_moves active start going even inside far can asked served
  obtain ⟨firn, gens, sram, rings⟩ := drain_slice (portDone_cell s n (.gen g)) far dir ring whole
  rw [sliceWrite_congr (portDone_firn s n _) (portDone_key s n _)] at firn
  exact ⟨_, run, gens, sram, firn, rings, gone⟩

end

end Sys2Proof.Streams
end

section
namespace Sys2Proof.Streams
open Sys2Proof.Machine Sys2Proof.Safety Sys2Proof.Rules

/-- Settles O26: each clause by the lemma of its instruction or of its kind of transfer, with the address of the transfer read as the wrapped
sum. -/
theorem streamGenerators : Obligations.StreamGenerators := by
  refine ⟨fun s c g lv a b p => ?_, fun s n g => ?_, fun s n g k => ?_⟩
  · intro v x put
    refine ⟨fun idle => ⟨fun hr => ⟨sgSetBase_sets idle hr, sgSetCtl_sets idle hr⟩, fun hr => sgSetLv_sets idle hr, fun hr =>
        ⟨fun own => sgGo_starts idle ?_ hr, fun ring dir other => sgGo_refuses idle ⟨ring, dir, not_and_or.mp other⟩ hr⟩⟩,
      fun busy => ⟨fun hr => sgSetBase_faults busy hr, fun hr => sgGo_busy busy hr⟩, fun hr => ⟨fun none => sgHalt_stops none hr, sgHalt_ends hr⟩⟩
    rintro ⟨ring, dir, other⟩
    rcases own with own | own | ⟨prod, idx⟩
    · exact Bool.false_ne_true (own.symm.trans ring)
    · exact Bool.false_ne_true (dir.symm.trans own)
    · exact other.elim (· prod) (· idx)
  · intro c v sum ad stepped r tile ring runs active start base strides going
    have addr : v.addr = ad := addr_eq v
    clear_value ad
    subst addr
    have even : v.aligned = true := (aligned_iff v).mpr ⟨base, strides⟩
    refine ⟨fun queue low high new can => ?_, fun queue sram whole => ?_, fun isRing sram whole => ?_, fun ends => ?_, fun open' => ?_⟩
    · obtain ⟨slice, inside, -⟩ := slice_of_place low high
      exact transfer_asks active start going even inside ((sgCan_queue queue).mpr can) slice (portAsked_false.mpr new)
    · have near := (inSram_iff v.addr 64).mpr sram
      have inside := inPrivate_of_sram (c := c) near
      have can (b : Bool) (dir : v.dir = b) : sgCan c g = true ↔ if b then c.so[g] ≠ [] ∧ 1 ≤ c.soAt[g] else (c.sq[g]).length < 8 := by
        rw [← dir]
        exact sgCan_queue queue
      refine ⟨fun dir room => ?_, fun e q dir head one => ?_, fun dir empty => ?_, fun dir full => ?_⟩
      · exact sram_reads active start going even near ((can _ dir).mpr room) whole dir queue
      · exact sram_writes active start going even near ((can _ dir).mpr ⟨head ▸ List.cons_ne_nil e q, one⟩) dir queue head
      · exact transfer_waits active start going even inside (Bool.eq_false_iff.mpr fun h => absurd ((can _ dir).mp h).2 (by omega))
      · exact transfer_waits active start going even inside (Bool.eq_false_iff.mpr fun h => absurd ((can _ dir).mp h) (Nat.not_lt.mpr full))
    · have near := (inSram_iff v.addr 64).mpr sram
      have inside := inPrivate_of_sram (c := c) near
      have can (b : Bool) (dir : v.dir = b) : sgCan c g = true ↔ if b then 1 ≤ r.count ∧ 1 ≤ c.ringAt[v.rg] else r.count ≤ r.depth := by
        rw [← dir]
        exact sgCan_ring isRing
      refine ⟨fun dir room => ?_, fun dir one at' => ?_, fun dir full => ?_, fun dir empty => ?_⟩
      · refine (sram_fills active start going even near ((can _ dir).mpr room) whole dir isRing).trans ?_
        exact congrArg (fun e => Host.Outcome.next (s.setCell n e)) (filled_cell ..)
      · exact sram_drains active start going even near ((can _ dir).mpr ⟨one, at'⟩) whole dir isRing
      · exact transfer_waits active start going even inside (Bool.eq_false_iff.mpr fun h => absurd ((can _ dir).mp h) (Nat.not_le.mpr full))
      · exact transfer_waits active start going even inside (Bool.eq_false_iff.mpr fun h => by
          obtain ⟨one, at'⟩ := (can _ dir).mp h
          omega)
    · rw [next_last ends]
      exact ⟨rfl, rfl⟩
    · obtain ⟨eq, levels⟩ := next_step (k := 0) (fun j hj => absurd hj (Nat.not_lt_zero _)) open'
      refine ⟨(congrArg Gen.active eq).trans active, ?_⟩
      exact (congrArg SgLevel.idx (levels 0)).trans rfl
  · intro c v sum ad r tile runs aligned inSlice off l stops
    have addr : v.addr = ad := addr_eq v
    clear_value ad
    subst addr
    have even_iff : aligned ↔ v.aligned = true := (aligned_iff v).symm
    refine ⟨fun ends open' => ⟨(next_step ends open').1, fun j => ((next_step ends open').2 j).trans (steppedLevel_fin v.lv k j)⟩, fun ends => next_last ends, fun active start going => ⟨fun room alive => ⟨fun odd => ?_, fun even sram slice => ?_⟩,
      fun even isRing slice whole l0 l1 => ⟨fun can new => ?_, fun served => ⟨fun dir room => ?_, fun dir one at' => ?_⟩⟩⟩⟩
    · exact ⟨_, transfer_misaligned active start going (Bool.eq_false_iff.mpr fun h => odd (even_iff.mpr h)), sgFault_stops room alive 4 0⟩
    · exact ⟨_, transfer_outside active start going (even_iff.mp even) (private_outside sram slice), sgFault_stops room alive 3 0⟩
    · obtain ⟨out, inside, -⟩ := slice_of_place slice.1 slice.2
      exact transfer_asks active start going (even_iff.mp even) inside ((sgCan_ring isRing).mpr can) out (portAsked_false.mpr new)
    · obtain ⟨out, inside, -⟩ := slice_of_place slice.1 slice.2
      obtain ⟨asked, done⟩ := served_asked served
      have can := (sgCan_ring isRing).mpr (by rw [show (c.gens[g]).dir = false from dir]; exact room)
      exact slice_fills active start going (even_iff.mp even) inside out can asked done isRing dir (badBlock_of_slice out l0 l1)
    · obtain ⟨out, inside, -⟩ := slice_of_place slice.1 slice.2
      obtain ⟨asked, done⟩ := served_asked served
      have can := (sgCan_ring isRing).mpr (by rw [show (c.gens[g]).dir = true from dir]; exact ⟨one, at'⟩)
      exact slice_drains active start going (even_iff.mp even) inside out can asked done isRing dir whole

end Sys2Proof.Streams
end

section
/-! # Completion entries -/

namespace Sys2Proof.Rules

open Sys2Proof.Machine Sys2Proof.Safety

/-- Two states differ at most in what the module has written, or holds, for its hosts. -/
def HostWrites (s t : State) : Prop :=
  t = { s with host := { s.host with
    egress := t.host.egress, heldCe := t.host.heldCe, posted := t.host.posted, postNo := t.host.postNo } }

theorem HostWrites.refl (s : State) : HostWrites s s := rfl

theorem HostWrites.trans {s t u : State} (h : HostWrites s t) (g : HostWrites t u) : HostWrites s u := by
  unfold HostWrites at *
  rw [g, h]

theorem hostWrites_setEgress (s : State) (q : Nat) (e : Egress) : HostWrites s (s.setEgress q e) := rfl

theorem hostWrites_postOn (s : State) (port : Fin 8) (addr size v : Nat) (vec : Option Nat) (wait : Bool) :
    HostWrites s (s.postOn port addr size v vec wait) := rfl

theorem hostWrites_writeEntry (s : State) (q bytes : Nat) (wait : Bool) : HostWrites s (writeEntry s q bytes wait) := by
  unfold writeEntry
  dsimp only
  split
  · exact ((hostWrites_postOn ..).trans (hostWrites_postOn ..)).trans (hostWrites_setEgress ..)
  · exact (hostWrites_postOn ..).trans (hostWrites_setEgress ..)

theorem hostWrites_writeHeld (s : State) (q : Nat) : HostWrites s (writeHeld s q) := by
  unfold writeHeld
  dsimp only
  split
  · exact .refl s
  · split
    · exact HostWrites.trans (t := { s with host := { s.host with heldCe := s.host.heldCe.erase _ } }) rfl (hostWrites_writeEntry ..)
    · exact .refl s

theorem hostWrites_postCe (s : State) (q : Nat) (l : List Word) : HostWrites s (postCe s q l) := by
  unfold postCe
  dsimp only
  split
  · exact hostWrites_setEgress ..
  · have held : HostWrites s { s with host := { s.host with heldCe := s.host.heldCe ++ [(q, l)] } } := rfl
    split
    · exact held.trans (hostWrites_writeHeld ..)
    · exact held

theorem hostWrites_complete (s : State) (st ty : Nat) (l : List Word) : HostWrites s (s.complete st ty l) := by
  unfold State.complete
  split
  · exact hostWrites_postCe ..
  · exact .refl s

/-! What such a difference leaves alone. -/

section
variable {s t : State} (h : HostWrites s t)
include h

theorem HostWrites.cells : t.cells = s.cells := by unfold HostWrites at h; rw [h]
theorem HostWrites.stages : t.stages = s.stages := by unfold HostWrites at h; rw [h]
theorem HostWrites.stage (st : Nat) : t.stage st = s.stage st := congrArg (fun m => AMap.getD m st Stage.blank) h.stages
theorem HostWrites.cell (n : Nat) : t.cell n = s.cell n := by unfold HostWrites at h; rw [h]; rfl

end

/-! What a posted entry is. -/

/-- A ring entry with its phase. -/
theorem writeEntry_host (s : State) (q bytes : Nat) (wait : Bool) :
    let e := s.egress q
    let h := s.host
    let due (i : Nat) : Nat := s.strip + Config.linkDelay (h.postNo + i)
    (writeEntry s q bytes wait).host = { h with
      posted := h.posted ++ ⟨e.port, e.addr % 2 ^ 64, e.size, bytes, none, due 0, wait⟩ :: if e.ien then [⟨e.port, 0, 0, 0, some e.vec, due 1, false⟩] else []
      postNo := h.postNo + if e.ien then 2 else 1
      egress := h.egress.put q { e with count := (e.count + 1) % 2 ^ 21 } } := by
  intro e h due
  unfold writeEntry
  dsimp only
  split
  case isTrue ien =>
    show { h with posted := (h.posted ++ [_]) ++ [_], postNo := _, egress := _ } = _
    rw [List.append_assoc]
    rfl
  case isFalse => rfl

theorem filter_eq_nil_iff_find {α : Type} (l : List α) (p : α → Bool) : l.filter p = [] ↔ l.find? p = none := by
  rw [List.filter_eq_nil_iff, List.find?_eq_none]

/-- The oldest held entry of a queue is written where its port is up and its ring has room. -/
theorem writeHeld_eq (s : State) (q : Nat) {x : Nat × List Word} (h : s.host.heldCe.find? (fun h => decide (h.1 = q)) = some x) :
    writeHeld s q = if s.portUp (s.egress q).port && (s.egress q).room 0 then
      writeEntry { s with host := { s.host with heldCe := s.host.heldCe.erase x } } q (ceEntry (s.egress q) (ceNow s x.2)) (x.2.head? == some 1)
    else s := by
  unfold writeHeld
  rw [h]

theorem writeHeld_none (s : State) (q : Nat) (h : s.host.heldCe.find? (fun h => decide (h.1 = q)) = none) : writeHeld s q = s := by
  unfold writeHeld
  rw [h]

/-- A queue with a held entry of its own. -/
def withHeld (s : State) (q : Nat) (l : List Word) : State := { s with host := { s.host with heldCe := s.host.heldCe ++ [(q, l)] } }

theorem postCe_eq (s : State) (q : Nat) (l : List Word) :
    postCe s q l =
      if s.host.pcieUp[(s.egress q).port] = false ∧ 256 ≤ (s.host.heldCe.filter fun h => decide (h.1 = q)).length then
        s.setEgress q { s.egress q with lost := min ((s.egress q).lost + 1) 2047 }
      else if (s.host.heldCe.filter fun h => decide (h.1 = q)) = [] then writeHeld (withHeld s q l) q else withHeld s q l := by
  unfold postCe
  refine if_congr ?_ rfl (if_congr List.length_eq_zero_iff rfl rfl)
  rw [Bool.and_eq_true_iff, Bool.not_eq_true', decide_eq_true_iff]
  rfl

/-- An entry behind no other of its queue is written at once where port and ring allow. -/
theorem writeHeld_withHeld {s : State} {q : Nat} {l : List Word} (first : (s.host.heldCe.filter fun h => decide (h.1 = q)) = []) :
    writeHeld (withHeld s q l) q = if s.portUp (s.egress q).port && (s.egress q).room 0 then
      writeEntry s q (ceEntry (s.egress q) (ceNow s l)) (l.head? == some 1)
    else withHeld s q l := by
  have before := (filter_eq_nil_iff_find _ _).mp first
  have find : (withHeld s q l).host.heldCe.find? (fun h => decide (h.1 = q)) = some (q, l) := by
    show (s.host.heldCe ++ [(q, l)]).find? _ = _
    rw [List.find?_append, before]
    simp
  have erase : (withHeld s q l).host.heldCe.erase (q, l) = s.host.heldCe := by
    show (s.host.heldCe ++ [(q, l)]).erase (q, l) = _
    rw [List.erase_append_right _ fun mem => by simpa using List.find?_eq_none.mp before _ mem]
    simp
  rw [writeHeld_eq _ q find]
  refine if_congr .rfl ?_ rfl
  rw [erase]
  rfl

/-- A posted completion entry, but for one of TYPE 5, whose word 9 is filled in as it is written. -/
theorem postCe_posts (s : State) (q : Nat) (l : List Word) (h5 : l.head? ≠ some 5) : Posts s (postCe s q l) q l := by
  have now : ceNow s l = l := if_neg h5
  have room : (s.portUp (s.egress q).port && (s.egress q).room 0) = true ↔ s.host.pcieUp[(s.egress q).port] = true ∧
      ((s.egress q).count + 2 ^ 21 - (s.egress q).head) % 2 ^ 21 < 2 ^ (s.egress q).log2n := by
    rw [Bool.and_eq_true_iff, Egress.room, decide_eq_true_iff, Nat.add_zero]
    exact Iff.rfl
  have entry : ceEntry (s.egress q) l = wordsNat l % 2 ^ 511 + (decide ((s.egress q).count / 2 ^ (s.egress q).log2n % 2 = 0)).toNat * 2 ^ 511 := by
    rw [ceEntry, Egress.phase]
  rw [postCe_eq]
  unfold Posts
  dsimp only
  split
  · rfl
  · by_cases first : (s.host.heldCe.filter fun h => decide (h.1 = q)) = []
    · rw [if_pos first, writeHeld_withHeld first, now]
      by_cases fits : (s.portUp (s.egress q).port && (s.egress q).room 0) = true
      · rw [if_pos fits, if_pos ⟨first, room.mp fits⟩, writeEntry_host, entry, Egress.addr, Egress.size]
      · rw [if_neg fits, if_neg fun h => fits (room.mpr h.2)]
        rfl
    · rw [if_neg first, if_neg fun h => first h.1]
      rfl

/-- The same for an entry of a stage whose completion queue is its own. -/
theorem complete_posts {s : State} {st : Nat} (own : (s.egress (s.stage st).cqn).bound = some st) (ty : Nat) (l : List Word)
    (h5 : word ty ≠ 5) : Posts s (s.complete st ty l) (s.stage st).cqn (ceWords ty l) := by
  unfold State.complete
  rw [if_pos (by rw [own]; exact decide_eq_true rfl)]
  exact postCe_posts s _ _ fun h => h5 (Option.some.inj h)

end Sys2Proof.Rules
end

section
/-! # Tables -/

namespace Sys2Proof.Rules

open Sys2Proof.Machine Sys2Proof.Safety

theorem mem_of_get? {α : Type} {m : AMap α} {k : Nat} {a : α} (h : AMap.get? m k = some a) : (k, a) ∈ m := by
  induction m with
  | nil => cases h
  | cons e r ih =>
    obtain ⟨j, b⟩ := e
    rw [AMap.get?] at h
    split at h
    case isTrue eq =>
      obtain rfl := Option.some.inj h
      exact eq ▸ List.mem_cons_self
    case isFalse => exact List.mem_cons_of_mem _ (ih h)

/-- A table in order lists each number once. -/
theorem get?_of_mem {α : Type} {m : AMap α} (rising : Rising m) {e : Nat × α} (mem : e ∈ m) : AMap.get? m e.1 = some e.2 := by
  induction m with
  | nil => cases mem
  | cons b r ih =>
    obtain ⟨above, rising⟩ := List.pairwise_cons.mp rising
    rcases List.mem_cons.mp mem with rfl | mem
    · exact if_pos rfl
    · have lt : b.1 < e.1 := above _ (List.mem_map_of_mem (f := fun e => e.1) mem)
      exact (if_neg (Nat.ne_of_gt lt)).trans (ih rising mem)

theorem mem_iff_get? {α : Type} {m : AMap α} (rising : Rising m) {k : Nat} {a : α} : (k, a) ∈ m ↔ AMap.get? m k = some a :=
  ⟨fun mem => get?_of_mem rising mem, mem_of_get?⟩

/-- Every entry changed by its number. -/
theorem get?_map {α β : Type} (f : Nat → α → β) (m : AMap α) (k : Nat) :
    AMap.get? (m.map fun e => (e.1, f e.1 e.2) : AMap β) k = (AMap.get? m k).map (f k) := by
  induction m with
  | nil => rfl
  | cons e r ih =>
    rw [List.map_cons, AMap.get?, AMap.get?]
    split
    case isTrue eq => rw [eq]; rfl
    case isFalse => exact ih

theorem get?_filter {α : Type} (p : Nat → Bool) (m : AMap α) (k : Nat) :
    AMap.get? (m.filter fun e => p e.1) k = if p k then AMap.get? m k else none := by
  induction m with
  | nil => exact (ite_self none).symm
  | cons e r ih =>
    obtain ⟨j, b⟩ := e
    rw [List.filter_cons]
    by_cases keep : p j = true
    · rw [if_pos keep, AMap.get?, AMap.get?, ih]
      by_cases eq : k = j
      · rw [if_pos eq, if_pos eq, eq, if_pos keep]
      · rw [if_neg eq, if_neg eq]
    · rw [if_neg keep, ih, AMap.get?]
      by_cases eq : k = j
      · rw [eq, if_neg keep, if_neg keep]
      · rw [if_neg eq]

theorem get?_del_same {α : Type} (m : AMap α) (k : Nat) : AMap.get? (m.del k) k = none := by
  refine (get?_filter (fun j => decide (j ≠ k)) m k).trans (if_neg ?_)
  simp

theorem get?_del_ne {α : Type} (m : AMap α) {k j : Nat} (ne : j ≠ k) : AMap.get? (m.del k) j = AMap.get? m j :=
  (get?_filter (fun j => decide (j ≠ k)) m j).trans (if_pos (decide_eq_true ne))

end Sys2Proof.Rules
end

section
/-! # Launches and placement -/

namespace Sys2Proof.Placing

open Sys2Proof.Machine Sys2Proof.Safety Sys2Proof.Rules

/-! ## The launch record -/

/-- A stage that a launch enters is queued with what its record and image ask for. -/
def Entered (s t : State) (id : Nat) (r : LaunchRec) (h : ImageHead) (img : List Word) : Prop :=
  let u := t.stage id
  u.status = .queued ∧ u.w = h.w ∧ u.h = h.h ∧ u.job = r.job ∧ u.prio = r.prio ∧ u.cqn = r.cqn ∧ u.image = img ∧ u.scene = 0 ∧
  u.ordinal = s.host.nextOrdinal ∧ t.cells = s.cells ∧ (∀ m, m ≠ id → AMap.get? t.stages m = AMap.get? s.stages m) ∧
  t.host.launchStat = BitVec.ofNat 32 (1 + 2 ^ 11 + id * 2 ^ 16)

/-- Binding queues to a stage changes the module's egress table alone. -/
theorem hostWrites_bind (queues : List Nat) (f : State → Nat → Egress) (s : State) :
    HostWrites s (queues.foldl (fun s q => s.setEgress q (f s q)) s) := by
  induction queues generalizing s with
  | nil => exact .refl s
  | cons q l ih => exact (hostWrites_setEgress ..).trans (ih (s.setEgress q (f s q)))

/-- The block of a stage that a launch enters. -/
def launched (s : State) (r : LaunchRec) (h : ImageHead) (img : List Word) : Stage :=
  { Stage.blank with
    w := h.w, h := h.h, job := r.job, prio := r.prio, debug := r.debug, swd := r.swd, ubl := r.ubl, qp := r.qp
    qs := r.qs, wq := r.wq, cqn := r.cqn, image := img, reloc := h.reloc, smax := h.smax, nsc := h.nsc
    arrived := s.tick, ordinal := s.host.nextOrdinal, egress := r.egress ++ r.portals.map (·.1) ++ [r.cqn]
    channels := r.chans.map (·.1), portals := r.portals }

/-- The module with the block of a new stage, its channels bound, and no completion entry held for its queues. -/
def withLaunched (s : State) (id : Nat) (r : LaunchRec) (h : ImageHead) (img : List Word) : State :=
  { s.setStage id (launched s r h img) with host := { s.host with
    nextOrdinal := s.host.nextOrdinal + 1
    heldCe := s.host.heldCe.filter fun e => !(r.egress ++ r.portals.map (·.1) ++ [r.cqn]).contains e.1
    chans := r.portals.foldl (fun (m : AMap Channel) (p : Nat × Nat) => m.put p.2 { m.getD p.2 Channel.blank with portal := true })
      (r.chans.foldl (fun (m : AMap Channel) (c : Nat × Nat × Nat) =>
        m.put c.1 { m.getD c.1 Channel.blank with bound := some (id, c.2.1, Fin.ofNat 8 c.2.2) }) s.host.chans) } }

theorem acceptLaunch_via (s : State) (id : Nat) (r : LaunchRec) (h : ImageHead) (img : List Word) :
    ∃ w : State, HostWrites (withLaunched s id r h img) w ∧
      acceptLaunch s id r h img = w.setLaunchStat (1 + 2 ^ 11 + id * 2 ^ 16) :=
  ⟨_, (hostWrites_bind (r.egress ++ r.portals.map (·.1) ++ [r.cqn])
    (fun s q => { s.egress q with bound := some id, head := 0, count := 0 }) (withLaunched s id r h img)).trans
      (hostWrites_complete _ id 5 [word id, 0xFFFFFFFF]), rfl⟩

theorem acceptLaunch_entered (s : State) (id : Nat) (r : LaunchRec) (h : ImageHead) (img : List Word) :
    Entered s (acceptLaunch s id r h img) id r h img ∧ (acceptLaunch s id r h img).host.heldLaunch = s.host.heldLaunch := by
  obtain ⟨w, writes, eq⟩ := acceptLaunch_via s id r h img
  rw [eq]
  have wstages : w.stages = s.stages.put id (launched s r h img) := writes.stages
  have stage : (w.setLaunchStat (1 + 2 ^ 11 + id * 2 ^ 16)).stage id = launched s r h img := by
    show AMap.getD w.stages id Stage.blank = _
    rw [wstages]
    exact AMap.getD_put_same ..
  refine ⟨?_, ?_⟩
  · unfold Entered
    rw [stage]
    refine ⟨rfl, rfl, rfl, rfl, rfl, rfl, rfl, rfl, rfl, writes.cells, fun m hm => ?_, rfl⟩
    show AMap.get? w.stages m = _
    rw [wstages]
    exact AMap.get?_put_ne _ _ hm
  · show w.host.heldLaunch = _
    unfold HostWrites at writes
    rw [writes]
    rfl

/-- A refused launch leaves every stage and cell; its reason stands in LAUNCH.STAT. -/
theorem refuseLaunch_spec (s : State) (off reason code : Nat) :
    ∃ posted : Nat, posted ≤ 1 ∧ (refuseLaunch s off reason code).stages = s.stages ∧ (refuseLaunch s off reason code).cells = s.cells ∧
      (refuseLaunch s off reason code).host.launchStat = BitVec.ofNat 32 (2 + reason * 2 ^ 2 + code * 2 ^ 6 + posted * 2 ^ 11) := by
  unfold refuseLaunch
  dsimp only
  refine ⟨_, Bool.toNat_le _, ?_, ?_, rfl⟩
  · show (ite _ (postCe _ _ _) s).stages = _
    split
    · exact (hostWrites_postCe ..).stages
    · rfl
  · show (ite _ (postCe _ _ _) s).cells = _
    split
    · exact (hostWrites_postCe ..).cells
    · rfl

theorem serving_iff (s : State) : s.serving = true ↔ s.host.modState = 1 ∨ s.host.modState = 2 := by
  unfold State.serving
  rw [Bool.or_eq_true_iff, decide_eq_true_iff, decide_eq_true_iff]

/-! ## Origins -/

theorem firstNat_eq_some {p : Nat → Bool} {n : Nat} : ∀ {fuel i : Nat},
    firstNat p i fuel = some n ↔ (i ≤ n ∧ n < i + fuel) ∧ p n = true ∧ ∀ m, i ≤ m → m < n → p m = false
  | 0, i => by
    unfold firstNat
    constructor
    · intro h; cases h
    · intro h; omega
  | k + 1, i => by
    unfold firstNat
    split
    case isTrue hp =>
      constructor
      · intro h
        obtain rfl := Option.some.inj h
        exact ⟨⟨Nat.le_refl _, by omega⟩, hp, fun m h1 h2 => absurd h1 (by omega)⟩
      · rintro ⟨⟨le, -⟩, -, none⟩
        rcases Nat.lt_or_ge i n with lt | ge
        · rw [none i (Nat.le_refl _) lt] at hp
          cases hp
        · rw [Nat.le_antisymm ge le]
    case isFalse hp =>
      rw [firstNat_eq_some]
      refine ⟨?_, ?_⟩
      · rintro ⟨⟨le, lt⟩, pn, none⟩
        refine ⟨⟨by omega, by omega⟩, pn, fun m h1 h2 => ?_⟩
        rcases Nat.lt_or_ge i m with lt | ge
        · exact none m lt h2
        · rw [Nat.le_antisymm ge h1]; exact Bool.eq_false_iff.mpr hp
      · rintro ⟨⟨le, lt⟩, pn, none⟩
        have ne : i ≠ n := fun e => hp (e ▸ pn)
        exact ⟨⟨by omega, by omega⟩, pn, fun m h1 h2 => none m (by omega) h2⟩

theorem firstNat_eq_none {p : Nat → Bool} : ∀ {fuel i : Nat},
    firstNat p i fuel = none ↔ ∀ m, i ≤ m → m < i + fuel → p m = false
  | 0, i => by
    unfold firstNat
    exact ⟨fun _ m h1 h2 => absurd h1 (by omega), fun _ => rfl⟩
  | k + 1, i => by
    unfold firstNat
    split
    case isTrue hp =>
      refine ⟨(fun h => by cases h), fun h => ?_⟩
      rw [h i (Nat.le_refl _) (by omega)] at hp
      cases hp
    case isFalse hp =>
      rw [firstNat_eq_none]
      refine ⟨fun h m h1 h2 => ?_, fun h m h1 h2 => h m (by omega) (by omega)⟩
      rcases Nat.lt_or_ge i m with lt | ge
      · exact h m lt (by omega)
      · rw [Nat.le_antisymm ge h1]; exact Bool.eq_false_iff.mpr hp

/-- What a rectangle's cells have in common, by columns and rows. -/
theorem rectCells_all {w h x y : Nat} (p : Nat → Bool) :
    (rectCells w h x y).all p = true ↔ ∀ i j, i < w → j < h → p ((y + j) * 320 + (x + i)) = true := by
  unfold rectCells
  rw [List.all_map, List.all_eq_true]
  constructor
  · intro all i j hi hj
    have lt : i + j * w < w * h := by nlinarith
    have at' := all (i + j * w) (List.mem_range.mpr lt)
    dsimp only [Function.comp] at at'
    rwa [Nat.add_mul_div_right _ _ (by omega), Nat.div_eq_of_lt hi, Nat.zero_add, Nat.add_mul_mod_self_right, Nat.mod_eq_of_lt hi] at at'
  · intro all n mem
    have lt := List.mem_range.mp mem
    have pos : 0 < w := by
      rcases Nat.eq_zero_or_pos w with rfl | pos
      · rw [Nat.zero_mul] at lt; omega
      · exact pos
    exact all (n % w) (n / w) (Nat.mod_lt _ pos) (Nat.div_lt_of_lt_mul lt)

theorem cellFree_iff (s : State) (n : Nat) :
    cellFree s n = true ↔ n % 320 < (s.casting.cols (n / 320)).length ∧ ∀ e ∈ s.stages, e.2.owns n = false := by
  unfold cellFree
  rw [Bool.and_eq_true_iff, decide_eq_true_iff, Bool.not_eq_true', List.any_eq_false]
  simp only [Bool.not_eq_true]

theorem allocated_iff (s : State) (f : Nat) :
    s.allocated f = true ↔ AMap.get? s.frames f ≠ none ∨ ∃ m ∈ s.maps, f ∈ m.frames := by
  unfold State.allocated State.leaves
  rw [Bool.or_eq_true_iff, Option.isSome_iff_ne_none, List.any_eq_true]
  simp only [List.contains_iff_mem]

theorem canHold_iff (s : State) (smax n : Nat) :
    canHold s smax n = true ↔ ∀ f, f < 32 → f + 4 * s.plOf (s.halfNum n) ≤ 31 → 31 < f + 4 * smax →
      ¬ (AMap.get? s.frames (f * 24576 + s.halfNum n) ≠ none ∨ ∃ m ∈ s.maps, f * 24576 + s.halfNum n ∈ m.frames) := by
  unfold canHold
  dsimp only
  rw [List.all_eq_true]
  refine forall_congr' fun f => ?_
  rw [List.mem_range, Bool.or_eq_true_iff, Bool.or_eq_true_iff, decide_eq_true_iff, decide_eq_true_iff, Bool.not_eq_true',
    ← Bool.not_eq_true, allocated_iff]
  constructor
  · rintro h lt low high
    rcases h lt with (h | h) | h
    · omega
    · omega
    · exact h
  · intro h lt
    by_cases low : f + 4 * s.plOf (s.halfNum n) ≤ 31
    · by_cases high : 31 < f + 4 * smax
      · exact .inr (h lt low high)
      · exact .inl (.inr (by omega))
    · exact .inl (.inl (by omega))

theorem kept_iff (s : State) (n : Nat) :
    s.kept n = false ↔ ∀ e ∈ s.stages, ¬ (e.2.status = .preempted ∧ e.2.recast = true ∧ e.2.covers n = true) := by
  unfold State.kept
  rw [List.any_eq_false]
  refine forall_congr' fun e => forall_congr' fun _ => not_congr ?_
  rw [Bool.and_eq_true_iff, Bool.and_eq_true_iff, decide_eq_true_iff, and_assoc]

/-- A rectangle that a stage may take. -/
def Fits (s : State) (u : Stage) (x y : Nat) : Prop :=
  x + u.w ≤ 320 ∧ y + u.h ≤ 512 ∧ ∀ i j, i < u.w → j < u.h →
    let m := (y + j) * 320 + (x + i)
    m % 320 < (s.casting.cols (m / 320)).length ∧
    (∀ e ∈ s.stages, e.2.owns m = false ∧ ¬ (e.2.status = .preempted ∧ e.2.recast = true ∧ e.2.covers m = true)) ∧
    ∀ f, f < 32 → f + 4 * s.plOf (s.halfNum m) ≤ 31 → 31 < f + 4 * u.smax →
      ¬ (AMap.get? s.frames (f * 24576 + s.halfNum m) ≠ none ∨ ∃ n ∈ s.maps, f * 24576 + s.halfNum m ∈ n.frames)

theorem originOk_iff (s : State) (u : Stage) (x y : Nat) : originOk s u x y = true ↔ Fits s u x y := by
  unfold originOk fitsAt
  rw [Bool.and_eq_true_iff, Bool.and_eq_true_iff, Bool.and_eq_true_iff, decide_eq_true_iff, decide_eq_true_iff, rectCells_all, rectCells_all]
  constructor
  · rintro ⟨⟨⟨hx, hy⟩, cells⟩, free⟩
    refine ⟨hx, hy, fun i j hi hj => ?_⟩
    obtain ⟨cell, hold⟩ := Bool.and_eq_true_iff.mp (cells i j hi hj)
    obtain ⟨cols, owns⟩ := (cellFree_iff ..).mp cell
    have kept := (kept_iff ..).mp (Bool.not_eq_true' _ ▸ free i j hi hj)
    exact ⟨cols, fun e mem => ⟨owns e mem, kept e mem⟩, (canHold_iff ..).mp hold⟩
  · rintro ⟨hx, hy, all⟩
    refine ⟨⟨⟨hx, hy⟩, fun i j hi hj => ?_⟩, fun i j hi hj => ?_⟩
    · obtain ⟨cols, owns, hold⟩ := all i j hi hj
      exact Bool.and_eq_true_iff.mpr ⟨(cellFree_iff ..).mpr ⟨cols, fun e mem => (owns e mem).1⟩, (canHold_iff ..).mpr hold⟩
    · obtain ⟨-, owns, -⟩ := all i j hi hj
      rw [(kept_iff ..).mpr fun e mem => (owns e mem).2]
      rfl

theorem findOrigin_eq_some (s : State) (u : Stage) (x0 y0 : Nat) :
    findOrigin s u = some (x0, y0) ↔ x0 < 320 ∧ y0 < 512 ∧ Fits s u x0 y0 ∧
      ∀ x y, x < 320 → y < 512 → (y < y0 ∨ y = y0 ∧ x < x0) → ¬ Fits s u x y := by
  unfold findOrigin
  rw [Option.map_eq_some_iff]
  constructor
  · rintro ⟨i, first, eq⟩
    obtain ⟨⟨-, lt⟩, ok, before⟩ := firstNat_eq_some.mp first
    obtain ⟨rfl, rfl⟩ := Prod.mk.inj eq
    refine ⟨Nat.mod_lt _ (by omega), by omega, (originOk_iff ..).mp ok, fun x y hx hy lt fits => ?_⟩
    have no := before (y * 320 + x) (Nat.zero_le _) (by omega)
    rw [show (y * 320 + x) % 320 = x by omega, show (y * 320 + x) / 320 = y by omega, (originOk_iff ..).mpr fits] at no
    cases no
  · rintro ⟨hx, hy, fits, before⟩
    refine ⟨y0 * 320 + x0, firstNat_eq_some.mpr ⟨⟨Nat.zero_le _, by omega⟩, ?_, fun m _ lt => ?_⟩, ?_⟩
    · rw [show (y0 * 320 + x0) % 320 = x0 by omega, show (y0 * 320 + x0) / 320 = y0 by omega]
      exact (originOk_iff ..).mpr fits
    · rw [← Bool.not_eq_true, originOk_iff]
      exact before _ _ (by omega) (by omega) (by omega)
    · rw [show (y0 * 320 + x0) % 320 = x0 by omega, show (y0 * 320 + x0) / 320 = y0 by omega]

theorem findOrigin_eq_none (s : State) (u : Stage) : findOrigin s u = none ↔ ∀ x y, x < 320 → y < 512 → ¬ Fits s u x y := by
  unfold findOrigin
  rw [Option.map_eq_none_iff, firstNat_eq_none]
  constructor
  · intro none x y hx hy fits
    have no := none (y * 320 + x) (Nat.zero_le _) (by omega)
    rw [show (y * 320 + x) % 320 = x by omega, show (y * 320 + x) / 320 = y by omega, (originOk_iff ..).mpr fits] at no
    cases no
  · intro none m _ lt
    rw [← Bool.not_eq_true, originOk_iff]
    exact none _ _ (by omega) (by omega)

/-! ## The request that waits -/

/-- Raising a PL leaves cells, stages and CTRL tables. -/
theorem scrubFold_keeps (l : List (Nat × Nat)) (s : State) :
    let t := l.foldl (fun s e => { s.zeroFrame e.1 with dirty := s.dirty.del e.1 }) s
    t.cells = s.cells ∧ t.stages = s.stages ∧ t.ctrl = s.ctrl := by
  induction l generalizing s with
  | nil => exact ⟨rfl, rfl, rfl⟩
  | cons e l ih => exact ih _

theorem takeRect_stages (s : State) (id : Nat) (t : Stage) (x0 y0 : Nat) :
    (takeRect s id t x0 y0).stages = s.stages.put id { t with
      status := .placed, x0 := x0, y0 := y0, placedOnce := true, unplaceable := false } := by
  obtain ⟨-, stages, -⟩ := scrubFold_keeps _ { s with pl := (rectCells t.w t.h x0 y0).foldl (fun (m : AMap Nat) n =>
    if m.getD (s.halfNum n) 4 < t.smax then m.put (s.halfNum n) t.smax else m) s.pl }
  exact congrArg (fun m => AMap.put m id _) stages

theorem takeRect_cells (s : State) (id : Nat) (t : Stage) (x0 y0 : Nat) : (takeRect s id t x0 y0).cells = s.cells :=
  (scrubFold_keeps _ { s with pl := (rectCells t.w t.h x0 y0).foldl (fun (m : AMap Nat) n =>
    if m.getD (s.halfNum n) 4 < t.smax then m.put (s.halfNum n) t.smax else m) s.pl }).1

theorem startSwap_swapped (s : State) (st : Nat) (b : CtrlBank) : (s.startSwap st b).swapped st = false := by
  unfold State.swapped State.ctrlHeld State.ctrlOf State.startSwap
  dsimp only
  rw [AMap.getD_put_same]
  rfl

/-- Cells that are set one after another at distinct numbers. -/
theorem setCells_cell {f : Nat → Nat} {g : Nat → CellState} : ∀ (l : List Nat) (s : State), (l.map f).Nodup → ∀ i ∈ l,
    (l.foldl (fun s i => s.setCell (f i) (g i)) s).cell (f i) = g i
  | [], _, _, i, mem => absurd mem List.not_mem_nil
  | a :: l, s, nodup, i, mem => by
    rw [List.map_cons, List.nodup_cons] at nodup
    obtain ⟨fresh, nodup⟩ := nodup
    have kept : ∀ (l : List Nat) (s : State), f a ∉ l.map f → (l.foldl (fun s i => s.setCell (f i) (g i)) s).cell (f a) = s.cell (f a) := by
      intro l
      induction l with
      | nil => intro s _; rfl
      | cons b l ih =>
        intro s out
        rw [List.map_cons, List.mem_cons, not_or] at out
        exact (ih _ out.2).trans (State.cell_setCell_ne _ _ out.1)
    rcases List.mem_cons.mp mem with rfl | mem
    · exact (kept l _ fresh).trans (State.cell_setCell_same ..)
    · exact setCells_cell l _ nodup i mem

theorem setCells_keeps {f : Nat → Nat} {g : Nat → CellState} (l : List Nat) (s : State) :
    let t := l.foldl (fun s i => s.setCell (f i) (g i)) s
    t.stages = s.stages ∧ t.ctrl = s.ctrl := by
  induction l generalizing s with
  | nil => exact ⟨rfl, rfl⟩
  | cons e l ih => exact ih (s.setCell (f e) (g e))

/-- A rectangle on the grid names each cell once. -/
theorem rectNum_inj {w x0 y0 i j : Nat} (fit : x0 + w ≤ 320) (pos : 0 < w)
    (eq : (y0 + i / w) * 320 + (x0 + i % w) = (y0 + j / w) * 320 + (x0 + j % w)) : i = j := by
  have hi := Nat.mod_lt i pos
  have hj := Nat.mod_lt j pos
  have rows : i / w = j / w := by omega
  have cols : i % w = j % w := by omega
  rw [← Nat.div_add_mod i w, ← Nat.div_add_mod j w, rows, cols]

theorem placeStage_stages (s : State) (id : Nat) (t : Stage) (x0 y0 : Nat) :
    (placeStage s id t x0 y0).stages = s.stages.put id { t with
      status := .placed, x0 := x0, y0 := y0, placedOnce := true, unplaceable := false } :=
  (setCells_keeps _ _).1.trans (takeRect_stages ..)

theorem placeStage_cell (s : State) (id : Nat) (t : Stage) {x0 y0 x y : Nat} (fit : x0 + t.w ≤ 320) (hx : x < t.w) (hy : y < t.h) :
    (placeStage s id t x0 y0).cell ((y0 + y) * 320 + (x0 + x)) = CellState.blank id x y := by
  have nodup : ((List.range (t.w * t.h)).map fun i => (y0 + i / t.w) * 320 + (x0 + i % t.w)).Nodup :=
    List.nodup_range.map fun i j eq => rectNum_inj fit (by omega) eq
  have lt : x + y * t.w < t.w * t.h := by nlinarith
  have at' := setCells_cell (g := fun i => CellState.blank id (i % t.w) (i / t.w)) _ (takeRect s id t x0 y0) nodup _ (List.mem_range.mpr lt)
  rwa [Nat.add_mul_div_right _ _ (by omega), Nat.div_eq_of_lt hx, Nat.zero_add, Nat.add_mul_mod_self_right, Nat.mod_eq_of_lt hx] at at'

theorem placeStage_swapped (s : State) (id : Nat) (t : Stage) (x0 y0 : Nat) : (placeStage s id t x0 y0).swapped id = false := by
  have ctrl : (placeStage s id t x0 y0).ctrl = (takeRect s id t x0 y0).ctrl := (setCells_keeps _ _).2
  unfold State.swapped State.ctrlHeld State.ctrlOf
  rw [ctrl]
  exact startSwap_swapped ..

/-- A request that alone waits is held back by no aged one. -/
theorem heldBack_alone {s : State} {st : Nat} {u : Stage} (entry : AMap.get? s.stages st = some u) (tables : TablesOk s)
    (alone : ∀ e ∈ s.stages, e.2.status = .queued → e.1 = st) : heldBack s u = false := by
  unfold heldBack State.agedOne
  rw [List.any_eq_false]
  intro e mem aged
  rw [Bool.and_eq_true_iff, Bool.and_eq_true_iff, Bool.and_eq_true_iff, decide_eq_true_iff, decide_eq_true_iff] at aged
  obtain ⟨⟨⟨queued, -⟩, -⟩, older⟩ := aged
  have same : AMap.get? s.stages e.1 = some e.2 := get?_of_mem tables.2 mem
  rw [alone e mem queued, entry] at same
  rw [Option.some.inj same] at older
  omega

theorem tryPlace_first {s : State} {st x0 y0 : Nat} {u : Stage} (first : heldBack s u = false) (origin : findOrigin s u = some (x0, y0)) :
    tryPlace s (st, u) = placeStage s st u x0 y0 := by
  unfold tryPlace
  rw [if_neg (by rw [first]; exact Bool.false_ne_true), origin]

theorem tryPlace_none {s : State} {st : Nat} {u : Stage} (origin : findOrigin s u = none) : tryPlace s (st, u) = s := by
  unfold tryPlace
  rw [origin]
  exact ite_self s

/-- An aged request is entered as such; stages that are ordered to move, or a report, leave that. -/
theorem aged_moved (st : Nat) (l : List (Nat × Stage)) (r : State → Option Nat) (o : Option Nat) : ∀ s : State, (s.stage st).aged = true →
    let t := l.foldl (fun s e => s.setStage e.1 { (s.stage e.1) with regroup := r s, movedFor := o }) s
    (t.stage st).aged = true ∧ t.cells = s.cells := by
  induction l with
  | nil => exact fun s aged => ⟨aged, rfl⟩
  | cons e l ih =>
    intro s aged
    refine ih (s.setStage e.1 _) ?_
    by_cases eq : st = e.1
    · rw [eq]
      exact (congrArg Stage.aged (AMap.getD_put_same s.stages e.1 _ _)).trans (eq ▸ aged)
    · exact (congrArg Stage.aged (AMap.getD_put_ne s.stages _ _ eq)).trans aged

theorem setStage_aged (s : State) (st : Nat) {t : Stage} (h : t.aged = true) : ((s.setStage st t).stage st).aged = true :=
  (congrArg Stage.aged (AMap.getD_put_same s.stages st t Stage.blank)).trans h

theorem requestAged_aged {s : State} {st : Nat} (queued : (s.stage st).status = .queued) (entry : (AMap.get? s.stages st).isSome = true)
    (waited : (s.stage st).arrived + 5000000 ≤ s.tick) :
    ∃ t, exec (.requestAged st) s = .next t ∧ (t.stage st).aged = true ∧ t.cells = s.cells := by
  suffices all : ∀ o, execRequestAged st s = o → ∃ t, o = .next t ∧ (t.stage st).aged = true ∧ t.cells = s.cells from all _ rfl
  intro o run
  unfold execRequestAged at run
  extract_lets t s1 at run
  rw [if_pos ⟨queued, entry, waited⟩] at run
  generalize bestSet s1 t none 0 (320 * 512) = best at run
  subst run
  split
  · exact ⟨_, rfl, setStage_aged _ _ rfl, rfl⟩
  · cases best with
    | some l => exact ⟨_, rfl, aged_moved st _ (fun s => some s.tick) _ _ (setStage_aged _ _ rfl)⟩
    | none =>
      have writes := hostWrites_complete ((s.setStage st { s.stage st with aged := true }).setStage st
        { s.stage st with aged := true, unplaceable := true }) st 3 [word st]
      refine ⟨_, rfl, ?_, writes.cells⟩
      rw [writes.stage]
      exact setStage_aged _ _ rfl

/-! ## The statement -/

theorem stopStage_becomes (s : State) (st : Nat) :
    CellsBecome (s.setStage st { s.stage st with stopping := true }) (s.stopStage st)
      (fun _ (e : CellState) => if e.stage = st then { e with live := false } else e) := by
  refine ⟨rfl, fun n => ?_⟩
  have each : (s.stopStage st).cells = s.cells.map fun (e : Nat × CellState) => (e.1, if e.2.stage = st then { e.2 with live := false } else e.2) := by
    refine List.map_congr_left fun e _ => ?_
    split <;> rfl
  rw [each]
  exact get?_map (fun _ (e : CellState) => if e.stage = st then { e with live := false } else e) _ n

theorem forcedPreempt_stops {s : State} {st r : Nat} (moves : (s.stage st).regroup = some r) (placed : (s.stage st).status = .placed)
    (goes : (s.stage st).stopping = false) (due : r + 20000000 ≤ s.tick) (swapped : s.swapped st = true)
    (rows : s.rowsOpen (s.stage st) = true) (way : s.stageGap st = none) :
    exec (.forcedPreempt st) s = .next (s.stopStage st) := by
  have run : exec (.forcedPreempt st) s = execForcedPreempt st s := rfl
  have forced : ((s.stage st).recast || (s.stage st).regroup.any fun r => decide (r + 20000000 ≤ s.tick)) = true := by
    rw [moves, Bool.or_eq_true_iff, Option.any_some, decide_eq_true_iff]
    exact .inr due
  rw [run]
  unfold execForcedPreempt State.orderStop
  dsimp only
  rw [if_pos ⟨placed, goes, forced⟩, if_pos ⟨swapped, rows⟩, way]
  rfl

theorem endStage_ended (s : State) (st : Nat) : ((s.endStage st).stage st).status = .ended := by
  unfold State.endStage
  dsimp only
  split <;> exact congrArg Stage.status (AMap.getD_put_same _ st _ Stage.blank)

theorem withdraw_ends {s : State} {st : Nat} {u : Stage} (queued : u.status = .queued) (entry : AMap.get? s.stages st = some u) :
    exec (.stageWithdraw st) s = .next (s.endStage st) := by
  have run : exec (.stageWithdraw st) s = execStageWithdraw st s := rfl
  rw [run]
  unfold execStageWithdraw
  rw [entry]
  exact if_pos queued

section
variable {s : State} {off id : Nat} {r : LaunchRec} {h : ImageHead} {img : List Word}

theorem launch_run (serving : s.host.modState = 1 ∨ s.host.modState = 2) :
    exec (.launch off) s = match launchCheck s off with
      | .error (reason, code) => .next (refuseLaunch s off reason code)
      | .ok (r, h, img) =>
        match s.host.heldLaunch, s.freeId with
        | [], some id => .next (acceptLaunch s id r h img)
        | _, _ => .next (({ s with host := { s.host with heldLaunch := s.host.heldLaunch ++ [off] } } : State).setLaunchStat 3) := by
  show execLaunch off s = _
  unfold execLaunch
  rw [(serving_iff s).mpr serving]
  rfl

theorem launch_idle (boot : s.host.modState ≠ 1) (fails : s.host.modState ≠ 2) : exec (.launch off) s = .next s := by
  have idle : s.serving = false := by
    rw [← Bool.not_eq_true, serving_iff, not_or]
    exact ⟨boot, fails⟩
  show execLaunch off s = _
  unfold execLaunch
  rw [idle]
  rfl

theorem launch_accepted (serving : s.host.modState = 1 ∨ s.host.modState = 2) (ok : launchCheck s off = .ok (r, h, img))
    (held : s.host.heldLaunch = []) (free : s.freeId = some id) : exec (.launch off) s = .next (acceptLaunch s id r h img) := by
  rw [launch_run serving, ok, held, free]

theorem launch_held (serving : s.host.modState = 1 ∨ s.host.modState = 2) (ok : launchCheck s off = .ok (r, h, img))
    (free : s.freeId = none) :
    exec (.launch off) s = .next { s with host := { s.host with heldLaunch := s.host.heldLaunch ++ [off], launchStat := 3 } } := by
  rw [launch_run serving, ok, free]
  generalize s.host.heldLaunch = l
  cases l <;> rfl

theorem launchAccept_accepted {rest : List Nat} (held : s.host.heldLaunch = off :: rest) (free : s.freeId = some id)
    (ok : launchCheck { s with host := { s.host with heldLaunch := rest } } off = .ok (r, h, img)) :
    exec .launchAccept s = .next (acceptLaunch { s with host := { s.host with heldLaunch := rest } } id r h img) := by
  show execLaunchAccept s = _
  unfold execLaunchAccept
  rw [held, free]
  dsimp only
  rw [ok]

/-- A record with a field out of range, or a reserved bit set, is none. -/
theorem launchCheck_field (s : State) (off : Nat) :
    let w := s.launchWord off
    let share (v hi : Nat) : Prop := v = 0 ∨ hi < v
    w 0 ≠ 0xA64C4C01 ∨ 8 ≤ w 1 ∨ 2 ^ 24 ≤ w 4 ∨ share (w 4 % 2 ^ 7) 64 ∨ share (w 4 / 2 ^ 8 % 2 ^ 7) 64 ∨ share (w 4 / 2 ^ 16 % 2 ^ 8) 128 ∨
      w 5 % 8 ≠ 0 ∨ 2 ^ 28 ≤ w 5 ∨ 4096 ≤ w 6 ∨ 131072 < w 7 ∨ 4096 < w 8 ∨ 4096 < w 9 ∨ (∃ i, i < 6 ∧ w (10 + i) ≠ 0) →
    launchCheck s off = .error (1, 0) := by
  intro w share bad
  have none : launchRec s off = none := by
    unfold launchRec
    dsimp only
    rw [if_pos]
    rw [Bool.not_eq_true', ← Bool.not_eq_true]
    simp only [Bool.and_eq_true_iff, decide_eq_true_iff, List.all_eq_true, List.mem_range]
    rintro ⟨⟨⟨⟨⟨⟨⟨⟨⟨⟨⟨⟨⟨⟨magic, prio⟩, shares⟩, -⟩, -⟩, qp⟩, qs⟩, wq⟩, image⟩, queue⟩, chans⟩, egress⟩, portals⟩, zero⟩, -⟩
    have within (v hi : Nat) (h : 1 ≤ v ∧ v ≤ hi) : ¬ share v hi := by
      rintro (rfl | lt)
      · exact absurd h.1 (by omega)
      · exact absurd h.2 (by omega)
    have byte0 := within _ _ qp
    have byte1 := within _ _ qs
    have byte2 := within _ _ wq
    rw [bits, Nat.pow_zero, Nat.div_one] at byte0
    rcases bad with h | h | h | h | h | h | h | h | h | h | h | h | ⟨i, lt, h⟩
    · exact h magic
    · exact absurd prio (Nat.not_lt.mpr h)
    · exact absurd shares (Nat.not_lt.mpr h)
    · exact byte0 h
    · exact byte1 h
    · exact byte2 h
    · exact h image.1
    · exact absurd image.2 (Nat.not_lt.mpr h)
    · exact absurd queue (Nat.not_lt.mpr h)
    · exact absurd chans (Nat.not_le.mpr h)
    · exact absurd egress (Nat.not_le.mpr h)
    · exact absurd portals (Nat.not_le.mpr h)
    · exact h (zero i lt)
  unfold launchCheck
  rw [none]

theorem launchCheck_image {f : InstallFail} (record : launchRec s off = some r)
    (bad : imageHead (imageWords s.host.launchArea r.img) = .error f) : launchCheck s off = .error (2, f.code) := by
  unfold launchCheck
  rw [record]
  dsimp only
  rw [bad]

end

/-- Settles O45: a launch changes but its stage's block and the host side; the first origin is the least number that meets the
conditions; and a placement sets the cells of a rectangle one by one. -/
theorem launchAndPlacement : Obligations.LaunchAndPlacement := by
  unfold Obligations.LaunchAndPlacement
  refine ⟨fun s off id rest r h img => ⟨fun serving => ⟨?_, ?_, ?_⟩, ?_, ?_, launchCheck_field s off, ?_⟩, fun s st x0 y0 => ?_⟩
  · intro ok held free
    exact ⟨_, launch_accepted serving ok held free, (acceptLaunch_entered ..).1⟩
  · intro reason code refused
    obtain ⟨posted, few, spec⟩ := refuseLaunch_spec s off reason code
    refine ⟨_, posted, few, ?_, spec⟩
    rw [launch_run serving, refused]
  · exact launch_held serving
  · intro held free ok
    exact ⟨_, launchAccept_accepted held free ok, acceptLaunch_entered ..⟩
  · exact launch_idle
  · intro f
    exact launchCheck_image
  · refine ⟨findOrigin_eq_some s _ x0 y0, findOrigin_eq_none s _, ?_, ?_, ?_, ?_, ?_⟩
    · intro serving one queued entry alone tables origin
      refine ⟨placeStage s st (s.stage st) x0 y0, ?_, ?_, ?_, ?_, placeStage_swapped ..⟩
      · show Host.Outcome.next (if s.serving = true then (waiting s).foldl tryPlace s else s) = _
        rw [if_pos ((serving_iff s).mpr serving), one]
        exact congrArg Host.Outcome.next (tryPlace_first (heldBack_alone entry tables alone) origin)
      · show AMap.getD (placeStage s st (s.stage st) x0 y0).stages st Stage.blank = _
        rw [placeStage_stages]
        exact AMap.getD_put_same ..
      · intro fit x y hx hy
        exact placeStage_cell s st _ fit hx hy
      · intro m other
        rw [placeStage_stages]
        exact AMap.get?_put_ne _ _ other
    · intro none one
      refine ⟨s, ?_, rfl, rfl⟩
      show Host.Outcome.next (if s.serving = true then (waiting s).foldl tryPlace s else s) = _
      rw [one]
      exact congrArg Host.Outcome.next ((congrArg (fun t => if s.serving = true then t else s) (tryPlace_none none)).trans (ite_self s))
    · intro queued entry waited
      exact requestAged_aged queued (by rw [entry]; rfl) waited
    · intro r moves placed goes due swapped rows way
      exact ⟨_, forcedPreempt_stops moves placed goes due swapped rows way, stopStage_becomes s st⟩
    · intro queued entry
      exact ⟨_, withdraw_ends queued entry, endStage_ended s st⟩

end Sys2Proof.Placing
end

section
/-! # The end of a stage -/

namespace Sys2Proof.Rules

open Sys2Proof.Machine Sys2Proof.Safety

/-! ## Blocks of stages -/

theorem stage_setStage_same (s : State) (st : Nat) (t : Stage) : (s.setStage st t).stage st = t :=
  AMap.getD_put_same s.stages st t Stage.blank

theorem stage_setStage_ne (s : State) {st i : Nat} (t : Stage) (ne : i ≠ st) : (s.setStage st t).stage i = s.stage i :=
  AMap.getD_put_ne s.stages t Stage.blank ne

theorem stage_of_stages {s t : State} (h : t.stages = s.stages) (i : Nat) : t.stage i = s.stage i :=
  congrArg (fun m => AMap.getD m i Stage.blank) h

theorem stage_of_get? {s : State} {st : Nat} {u : Stage} (h : AMap.get? s.stages st = some u) : s.stage st = u := by
  unfold State.stage AMap.getD
  rw [h]
  rfl

/-- Every block changed in one way that leaves the blank block. -/
theorem stage_map {s t : State} (f : Stage → Stage) (blank : f Stage.blank = Stage.blank)
    (h : t.stages = s.stages.map fun e => (e.1, f e.2)) (i : Nat) : t.stage i = f (s.stage i) := by
  unfold State.stage AMap.getD
  rw [h, get?_map (fun _ => f)]
  cases AMap.get? s.stages i with
  | none => exact blank.symm
  | some a => rfl

/-- Of the blocks only that of one stage differs, and no cell. -/
structure Logs (st : Nat) (s t : State) : Prop where
  others : ∀ i, i ≠ st → t.stage i = s.stage i
  cells : t.cells = s.cells
  strip : t.strip = s.strip
  casting : t.casting = s.casting

/-- The posted entries of two states are the same. -/
def SamePosts (s t : State) : Prop :=
  t.host.posted = s.host.posted ∧ t.host.heldCe = s.host.heldCe ∧ t.host.postNo = s.host.postNo

theorem Logs.refl (st : Nat) (s : State) : Logs st s s := ⟨fun _ _ => rfl, rfl, rfl, rfl⟩

theorem Logs.trans {st : Nat} {s t u : State} (h : Logs st s t) (g : Logs st t u) : Logs st s u :=
  ⟨fun i ne => (g.others i ne).trans (h.others i ne), g.cells.trans h.cells, g.strip.trans h.strip, g.casting.trans h.casting⟩

theorem Logs.of_setStage (s : State) (st : Nat) (t : Stage) : Logs st s (s.setStage st t) :=
  ⟨fun _ ne => stage_setStage_ne s t ne, rfl, rfl, rfl⟩

theorem Logs.of_hostWrites {st : Nat} {s t : State} (h : HostWrites s t) : Logs st s t :=
  ⟨fun i _ => h.stage i, h.cells, by unfold HostWrites at h; rw [h], by unfold HostWrites at h; rw [h]⟩

theorem foldl_logs {α : Type} {st : Nat} {f : State → α → State} (step : ∀ s a, Logs st s (f s a)) (l : List α) :
    ∀ s, Logs st s (l.foldl f s) := by
  induction l with
  | nil => exact fun s => .refl st s
  | cons a l ih => exact fun s => (step s a).trans (ih _)

theorem SamePosts.trans {s t u : State} (h : SamePosts s t) (g : SamePosts t u) : SamePosts s u :=
  ⟨g.1.trans h.1, g.2.1.trans h.2.1, g.2.2.trans h.2.2⟩

theorem foldl_samePosts {α : Type} {f : State → α → State} (step : ∀ s a, SamePosts s (f s a)) (l : List α) :
    ∀ s, SamePosts s (l.foldl f s) := by
  induction l with
  | nil => exact fun s => ⟨rfl, rfl, rfl⟩
  | cons a l ih => exact fun s => (step s a).trans (ih _)

/-! ## Reports of a stage -/

/-- An entry of the stage fault log, which may overflow. -/
theorem logFault_eq (s : State) (st : Nat) (r : Record) (count : Nat) (div : Bool) : s.logFault st r count div =
    if (s.stage st).flog.length < 4096 then
      s.setStage st { s.stage st with
        flog := (s.stage st).flog ++ [flogEntry st r count div], stat := { (s.stage st).stat with flog := (s.stage st).stat.flog + 1 } }
    else s.setStage st { s.stage st with flogOvf := min ((s.stage st).flogOvf + 1) 0xFFFFFFFF } := rfl

theorem logFault_setStage (s : State) (st : Nat) (r : Record) (count : Nat) (div : Bool) : ∃ t, s.logFault st r count div = s.setStage st t := by
  rw [logFault_eq]
  split <;> exact ⟨_, rfl⟩

theorem logs_logFault (s : State) (st : Nat) (r : Record) (count : Nat) (div : Bool) : Logs st s (s.logFault st r count div) := by
  obtain ⟨t, h⟩ := logFault_setStage s st r count div
  exact h ▸ .of_setStage s st t

theorem samePosts_logFault (s : State) (st : Nat) (r : Record) (count : Nat) (div : Bool) : SamePosts s (s.logFault st r count div) := by
  obtain ⟨t, h⟩ := logFault_setStage s st r count div
  exact h ▸ ⟨rfl, rfl, rfl⟩

theorem logs_hostRecord (s : State) (st : Nat) (r : Record) : Logs st s (s.hostRecord st r) :=
  (logs_logFault s st r 1 false).trans (.of_hostWrites (hostWrites_complete ..))

theorem logs_watchdog (s : State) (st : Nat) : Logs st s (watchdog s st) := by
  unfold watchdog
  dsimp only
  split
  · exact (Logs.of_setStage s st _).trans (logs_hostRecord ..)
  · exact .refl st s

/-- A stage whose watchdog does not count, or has reported, makes no record. -/
theorem watchdog_done {s : State} {st : Nat} (done : (s.stage st).swd = 0 ∨ (s.stage st).stat.wdog = true) : watchdog s st = s := by
  unfold watchdog
  dsimp only
  rw [if_neg]
  rintro ⟨-, counts, fresh, -⟩
  rcases done with zero | told
  · exact counts zero
  · rw [told] at fresh
    cases fresh

theorem logs_logAll (s : State) (st : Nat) : Logs st s (logAll s st) := by
  have each (t : State) (c : CellState) : Logs st t (logRecords st t c) := foldl_logs (fun t r => logs_logFault t st r 1 true) c.records t
  exact (foldl_logs (fun t (e : Nat × CellState) => each t e.2) (s.cellsOf st) s).trans (foldl_logs (fun t (e : Nat × (CellState × Mem)) => each t e.2.1) _ _)

/-- With no record in a cell that stands or is saved there is nothing to log. -/
theorem logAll_none {s : State} {st : Nat} (here : ∀ e ∈ s.cellsOf st, e.2.records = [])
    (away : ∀ e ∈ (s.stage st).saved, e.2.1.records = []) : logAll s st = s := by
  have none {α : Type} (f : α → CellState) (l : List α) (h : ∀ e ∈ l, (f e).records = []) (t : State) :
      l.foldl (fun s e => logRecords st s (f e)) t = t := by
    induction l with
    | nil => rfl
    | cons e l ih =>
      rw [List.foldl_cons, logRecords, h e List.mem_cons_self]
      exact ih fun e mem => h e (List.mem_cons_of_mem _ mem)
  unfold logAll
  rw [none (fun e : Nat × CellState => e.2) _ here s, none (fun e : Nat × (CellState × Mem) => e.2.1) _ away s]

theorem logs_logLosses (s : State) (st : Nat) : Logs st s (logLosses s st) := by
  unfold logLosses
  dsimp only
  refine Logs.trans ?_ (foldl_logs (fun t e => logs_logFault t st _ _ _) _ _)
  split
  · exact .of_setStage s st _
  · exact (Logs.of_setStage s st _).trans (logs_logFault ..)

theorem samePosts_logLosses (s : State) (st : Nat) : SamePosts s (logLosses s st) := by
  unfold logLosses
  dsimp only
  refine SamePosts.trans ?_ (foldl_samePosts (fun t e => samePosts_logFault t st _ _ _) _ _)
  split
  · exact ⟨rfl, rfl, rfl⟩
  · exact SamePosts.trans (t := s.setStage st _) ⟨rfl, rfl, rfl⟩ (samePosts_logFault ..)

/-- With no discarded word the block is as it was. -/
theorem logLosses_none {s : State} {st : Nat} (portal : (s.stage st).stat.portalLost = 0) (egress : (s.stage st).stat.egressLost = []) :
    logLosses s st = s.setStage st (s.stage st) := by
  unfold logLosses
  dsimp only
  rw [if_pos portal, egress]
  have same : { (s.stage st).stat with portalLost := 0, egressLost := [] } = (s.stage st).stat := by
    rw [← portal, ← egress]
  rw [same]
  rfl

/-! ## What the end of a stage removes -/

/-- Nothing of stages and cells, and nothing posted. -/
structure Inner (s t : State) : Prop where
  stages : t.stages = s.stages
  cells : t.cells = s.cells
  strip : t.strip = s.strip
  casting : t.casting = s.casting
  posts : SamePosts s t

theorem Inner.trans {s t u : State} (h : Inner s t) (g : Inner t u) : Inner s u :=
  ⟨g.stages.trans h.stages, g.cells.trans h.cells, g.strip.trans h.strip, g.casting.trans h.casting, h.posts.trans g.posts⟩

theorem foldl_inner {α : Type} {f : State → α → State} (step : ∀ s a, Inner s (f s a)) (l : List α) :
    ∀ s, Inner s (l.foldl f s) := by
  induction l with
  | nil => exact fun s => ⟨rfl, rfl, rfl, rfl, rfl, rfl, rfl⟩
  | cons a l ih => exact fun s => (step s a).trans (ih _)

theorem inner_send (s : State) (m : EdgeMsg) : Inner s (s.send m) := by
  unfold State.send
  split <;> exact ⟨rfl, rfl, rfl, rfl, rfl, rfl, rfl⟩

theorem inner_freeFrames (s : State) (root : Nat) : Inner s (freeFrames s root) :=
  foldl_inner (f := fun s f => { s.zeroFrame f with frames := s.frames.del f }) (fun _ _ => ⟨rfl, rfl, rfl, rfl, rfl, rfl, rfl⟩) _ s

theorem scrub_cells (l : List Nat) : ∀ s : State, (l.foldl State.scrub s).cells = s.cells.filter fun e => !l.contains e.1 := by
  induction l with
  | nil => exact fun s => (List.filter_eq_self.mpr fun _ _ => rfl).symm
  | cons n l ih =>
    intro s
    rw [List.foldl_cons, ih]
    show (s.cells.filter fun e => decide (e.1 ≠ n)).filter _ = _
    rw [List.filter_filter]
    refine List.filter_congr fun e _ => ?_
    rw [List.contains_cons]
    by_cases eq : e.1 = n <;> simp [eq]

theorem scrub_stages (l : List Nat) : ∀ s : State, (l.foldl State.scrub s).stages = s.stages ∧ (l.foldl State.scrub s).strip = s.strip ∧
    (l.foldl State.scrub s).casting = s.casting ∧ SamePosts s (l.foldl State.scrub s) := by
  induction l with
  | nil => exact fun s => ⟨rfl, rfl, rfl, rfl, rfl, rfl⟩
  | cons n l ih =>
    intro s
    obtain ⟨stages, strip, casting, posts⟩ := ih (s.scrub n)
    exact ⟨stages, strip, casting, SamePosts.trans (t := s.scrub n) ⟨rfl, rfl, rfl⟩ posts⟩

/-- What becomes of the block of a stage that ends. -/
def Stage.over (u : Stage) : Stage :=
  { u with
    status := .ended, stopping := false, ending := false, recast := false, regroup := none, installed := false
    upAt := none, mask := none, arr := [], aggs := [], carries := [], root := none, saved := [], heldWakes := [] }

/-- The end of a stage in one view: its losses are logged, its block is over, its cells go, and other blocks keep all but portals. -/
structure Ends (st : Nat) (s t : State) : Prop where
  block : ∃ (m : List Nat) (p : List (Nat × Nat)), t.stage st = Stage.over { (logLosses s st).stage st with markers := m, portals := p }
  others : ∀ i, i ≠ st → ∃ p, t.stage i = { s.stage i with portals := p }
  cells : t.cells = s.cells.filter fun e => !((s.cellsOf st).map (·.1)).contains e.1
  strip : t.strip = s.strip
  casting : t.casting = s.casting
  posts : SamePosts s t

theorem unbind_stage (s : State) (st i : Nat) : ∃ p, (unbind s st).stage i = { s.stage i with portals := p } := by
  let mine : List Nat := (s.host.chans.filter (fun e => e.2.bound.any fun b => decide (b.1 = st))).map (·.1)
  exact ⟨_, stage_map (fun u => { u with portals := u.portals.map fun p => if mine.contains p.2 then (p.1, closedPortal) else p }) rfl rfl i⟩

/-- What a stage leaves behind on CTRL goes with it: a change of its block, and of CTRL. -/
theorem landMarks_spec (s : State) (st : Nat) : ∃ m, (landMarks s st).stages = s.stages.put st { s.stage st with markers := m } ∧
    (landMarks s st).cells = s.cells ∧ (landMarks s st).strip = s.strip ∧ (landMarks s st).casting = s.casting ∧ SamePosts s (landMarks s st) :=
  ⟨_, rfl, rfl, rfl, rfl, rfl, rfl, rfl⟩

theorem endStage_ends (s : State) (st : Nat) : Ends st s (s.endStage st) := by
  have logged := logs_logLosses s st
  have loggedPosts := samePosts_logLosses s st
  obtain ⟨m, landed, cells1, strip1, casting1, posts1⟩ := landMarks_spec (logLosses s st) st
  unfold State.endStage
  extract_lets s1 t mem away s2 s3 s4 s5 s6 held block s7
  change s1.stages = _ at landed
  change s1.cells = _ at cells1
  change s1.strip = _ at strip1
  change s1.casting = _ at casting1
  change SamePosts _ s1 at posts1
  clear_value s1
  have block1 : s1.stage st = { (logLosses s st).stage st with markers := m } := by
    unfold State.stage
    rw [landed]
    exact AMap.getD_put_same ..
  have others1 (i : Nat) (ne : i ≠ st) : s1.stage i = s.stage i := by
    rw [← logged.others i ne]
    unfold State.stage
    rw [landed]
    exact AMap.getD_put_ne _ _ _ ne
  have mem_eq : mem = (s.cellsOf st).map (·.1) :=
    congrArg (fun m : AMap CellState => (m.filter (fun e => decide (e.2.stage = st))).map (·.1)) (cells1.trans logged.cells)
  have gone : Inner s1 s3 := (foldl_inner (fun s w => inner_send s _) away s1).trans ⟨rfl, rfl, rfl, rfl, rfl, rfl, rfl⟩
  clear_value s3
  obtain ⟨stages4, strip4, casting4, posts4⟩ := scrub_stages mem s3
  have cells4 : s4.cells = s3.cells.filter fun e => !mem.contains e.1 := scrub_cells mem s3
  change s4.stages = _ at stages4
  change s4.strip = _ at strip4
  change s4.casting = _ at casting4
  change SamePosts _ s4 at posts4
  clear_value s4
  have freed : Inner s4 s5 := by
    show Inner s4 (match t.root with | some r => freeFrames s4 r | none => s4)
    cases t.root with
    | none => exact ⟨rfl, rfl, rfl, rfl, rfl, rfl, rfl⟩
    | some r => exact inner_freeFrames s4 r
  clear_value s5
  have block6 (i : Nat) : ∃ p, s6.stage i = { s1.stage i with portals := p } := by
    obtain ⟨p, h⟩ := unbind_stage s5 st i
    exact ⟨p, by rw [h, stage_of_stages ((freed.stages.trans stages4).trans gone.stages) i]⟩
  have cells6 : s6.cells = s.cells.filter fun e => !mem.contains e.1 := by
    show s5.cells = _
    rw [freed.cells, cells4, gone.cells, cells1, logged.cells]
  have strip6 : s6.strip = s.strip := (((freed.strip.trans strip4).trans gone.strip).trans strip1).trans logged.strip
  have casting6 : s6.casting = s.casting := (((freed.casting.trans casting4).trans gone.casting).trans casting1).trans logged.casting
  have posts6 : SamePosts s s6 := ((((loggedPosts.trans posts1).trans gone.posts).trans posts4).trans freed.posts).trans ⟨rfl, rfl, rfl⟩
  have hs7 : s7 = s6.setStage st (Stage.over (s6.stage st)) := rfl
  clear_value s7 s6
  have last : Ends st s s7 := by
    rw [hs7]
    refine ⟨?_, fun i ne => ?_, mem_eq ▸ cells6, strip6, casting6, posts6⟩
    · obtain ⟨p, h⟩ := block6 st
      refine ⟨m, p, (stage_setStage_same ..).trans ?_⟩
      rw [h, block1]
    · obtain ⟨p, h⟩ := block6 i
      refine ⟨p, (stage_setStage_ne s6 _ ne).trans ?_⟩
      rw [h, others1 i ne]
  split
  · exact ⟨last.block, last.others, last.cells, last.strip, last.casting, last.posts⟩
  · exact last

theorem Ends.status {st : Nat} {s t : State} (h : Ends st s t) : (t.stage st).status = .ended := by
  obtain ⟨m, p, eq⟩ := h.block
  rw [eq]
  rfl

/-- No cell of the stage is left, and no cell is new. -/
theorem Ends.mem_cells {st : Nat} {s t : State} (h : Ends st s t) {e : Nat × CellState} (mem : e ∈ t.cells) :
    e ∈ s.cells ∧ e.2.stage ≠ st := by
  rw [h.cells, List.mem_filter] at mem
  obtain ⟨mem, out⟩ := mem
  refine ⟨mem, fun eq => ?_⟩
  have here : ((s.cellsOf st).map (·.1)).contains e.1 = true :=
    List.contains_iff_mem.mpr (List.mem_map_of_mem (f := (·.1)) (List.mem_filter.mpr ⟨mem, decide_eq_true eq⟩))
  rw [here] at out
  cases out

end Sys2Proof.Rules
end

section
/-! # What the director watches -/

namespace Sys2Proof.Watches

open Sys2Proof.Machine Sys2Proof.Safety Sys2Proof.Rules

/-! ## Stalls -/

theorem foldl_max_le {α : Type} (f : α → Nat) (b : Nat) : ∀ (l : List α) (m : Nat),
    l.foldl (fun m e => max m (f e)) m ≤ b ↔ m ≤ b ∧ ∀ e ∈ l, f e ≤ b
  | [], m => by simp
  | a :: l, m => by
    rw [List.foldl_cons, foldl_max_le f b l, Nat.max_le]
    simp only [List.mem_cons, forall_eq_or_imp, and_assoc]

theorem lastProgress_le (s : State) (st b : Nat) :
    lastProgress s st ≤ b ↔ (s.stage st).stat.lastAct ≤ b ∧ ∀ e ∈ s.cellsOf st, e.2.lastAct ≤ b :=
  foldl_max_le (fun e : Nat × CellState => e.2.lastAct) b _ _

theorem firedSince_iff (s : State) (st r : Nat) :
    firedSince s st r = true ↔ ∃ e ∈ s.cellsOf st, ∃ f, e.2.lastFired = some f ∧ r ≤ f.2 := by
  unfold firedSince
  simp only [List.any_eq_true, Option.any_eq_true, decide_eq_true_iff]

theorem vector_any_iff {α : Type} {n : Nat} (v : Vector α n) (p : α → Bool) : v.any p = true ↔ ∃ i : Fin n, p v[i] = true := by
  rw [Vector.any_eq_true]
  exact ⟨fun ⟨i, h, e⟩ => ⟨⟨i, h⟩, e⟩, fun ⟨i, e⟩ => ⟨i.1, i.2, e⟩⟩

theorem holds_iff (c : CellState) : c.holds = true ↔
    (∃ q : Fin 8, c.iq[q] ≠ []) ∨ (∃ q : Fin 8, c.oq[q] ≠ []) ∨ (∃ g : Fin 8, 0 < (c.rings[g]).count) ∨ c.putSend ≠ [] ∨ c.putHeld ≠ [] ∨
      (∃ k : Fin 4, (c.ctx k).station ≠ none) ∨ ∃ b : Fin 16, (c.bars[b]).arr = true := by
  unfold CellState.holds
  simp only [Bool.or_eq_true_iff, vector_any_iff, decide_eq_true_iff, Bool.not_eq_true', List.isEmpty_eq_false_iff,
    Option.isSome_iff_ne_none, or_assoc]
  rfl

theorem stageHolds_iff (s : State) (st : Nat) : stageHolds s st = true ↔
    (s.stage st).carries ≠ [] ∨ (s.stage st).arr ≠ [] ∨ ∃ e ∈ s.cellsOf st, e.2.holds = true := by
  unfold stageHolds
  simp only [Bool.or_eq_true_iff, List.any_eq_true, Bool.not_eq_true', List.isEmpty_eq_false_iff]
  rw [or_assoc, or_comm, or_assoc]

theorem stalled_iff (s : State) (st : Nat) :
    let u := s.stage st
    stalled s st = true ↔ u.status = .placed ∧ u.upAt ≠ none ∧ u.startAt ≤ s.tick ∧
      (∀ r, u.stat.reportAt = some r → ∃ e ∈ s.cellsOf st, ∃ f, e.2.lastFired = some f ∧ r ≤ f.2) ∧
      u.stat.lastAct + 1000 ≤ s.tick ∧ (∀ e ∈ s.cellsOf st, e.2.lastAct + 1000 ≤ s.tick) ∧
      (u.carries ≠ [] ∨ u.arr ≠ [] ∨ ∃ e ∈ s.cellsOf st,
        let c := e.2
        (∃ q : Fin 8, c.iq[q] ≠ []) ∨ (∃ q : Fin 8, c.oq[q] ≠ []) ∨ (∃ g : Fin 8, 0 < (c.rings[g]).count) ∨ c.putSend ≠ [] ∨ c.putHeld ≠ [] ∨
          (∃ k : Fin 4, (c.ctx k).station ≠ none) ∨ ∃ b : Fin 16, (c.bars[b]).arr = true) := by
  intro u
  have quiet : lastProgress s st + 1000 ≤ s.tick ↔
      u.stat.lastAct + 1000 ≤ s.tick ∧ ∀ e ∈ s.cellsOf st, e.2.lastAct + 1000 ≤ s.tick := by
    have le := lastProgress_le s st (s.tick - 1000)
    by_cases early : 1000 ≤ s.tick
    · have sub (n : Nat) : n + 1000 ≤ s.tick ↔ n ≤ s.tick - 1000 := by omega
      simp only [sub]
      exact le
    · exact ⟨fun h => absurd h (by omega), fun h => absurd h.1 (by omega)⟩
  have again : (u.stat.reportAt.all (firedSince s st)) = true ↔
      ∀ r, u.stat.reportAt = some r → ∃ e ∈ s.cellsOf st, ∃ f, e.2.lastFired = some f ∧ r ≤ f.2 := by
    simp only [Option.all_eq_true, firedSince_iff]
  unfold stalled
  dsimp only
  rw [Bool.and_eq_true_iff, Bool.and_eq_true_iff, Bool.and_eq_true_iff, Bool.and_eq_true_iff, Bool.and_eq_true_iff, decide_eq_true_iff,
    decide_eq_true_iff, decide_eq_true_iff, Option.isSome_iff_ne_none, stageHolds_iff, again, quiet]
  simp only [holds_iff, and_assoc]
  rfl

/-- The state of a stage's stall report but for its entry and its word for the trap cell. -/
def reported (s : State) (st : Nat) : State :=
  s.setStage st { s.stage st with
    stallLog := (s.cellsOf st).map fun e => snapshot e.2
    stat := { (s.stage st).stat with stalls := (s.stage st).stat.stalls + 1, reportAt := some s.tick } }

theorem stallReport_eq {s : State} {st : Nat} (h : stalled s st = true) :
    exec (.stallReport st) s = .next (match trapCell s st with
      | some m =>
        let t := (reported s st).complete st 4 [word (summaryCell s st)]
        t.setCell m ((t.cell m).post7 [⟨word (summaryCell s st), 0x29, false⟩])
      | none => (reported s st).complete st 4 [word (summaryCell s st)]) := by
  show execStallReport st s = _
  unfold execStallReport
  rw [h]
  show (match trapCell s st with | some m => _ | none => _) = _
  cases trapCell s st <;> rfl

/-- What a posted entry is depends on the host side and the time alone. -/
theorem posts_congr {s t v : State} (host : t.host = s.host) (strip : t.strip = s.strip) {q : Nat} {l : List Word} (h : Posts t v q l) :
    Posts s v q l := by
  have same : s = { s with host := t.host, strip := t.strip } := by rw [host, strip]
  rw [same]
  unfold Posts at h ⊢
  exact h

/-- A completion entry of a stage whose queue is its own, whatever else of the stage has changed before. -/
theorem complete_posts_of {s t : State} {st : Nat} (host : t.host = s.host) (strip : t.strip = s.strip)
    (queue : (t.stage st).cqn = (s.stage st).cqn) (own : (s.egress (s.stage st).cqn).bound = some st) (ty : Nat) (l : List Word)
    (h5 : word ty ≠ 5) : Posts s (t.complete st ty l) (s.stage st).cqn (ceWords ty l) := by
  have bound : (t.egress (t.stage st).cqn).bound = some st := by
    rw [queue]
    exact (congrArg (fun h : HostSide => (AMap.getD h.egress (s.stage st).cqn Egress.blank).bound) host).trans own
  exact queue ▸ posts_congr host strip (complete_posts bound ty l h5)

theorem stallReport_spec {s : State} {st : Nat} (h : stalled s st = true) :
    let u := s.stage st
    ∃ t, exec (.stallReport st) s = .next t ∧
      t.stage st = { u with
        stallLog := (s.cellsOf st).map fun e => snapshot e.2
        stat := { u.stat with stalls := u.stat.stalls + 1, reportAt := some s.tick } } ∧
      ((s.egress u.cqn).bound = some st → Posts s t u.cqn (ceWords 4 [BitVec.ofNat 32 (summaryCell s st)])) ∧
      (trapCell s st = none → t.cells = s.cells) ∧
      (∀ m, trapCell s st = some m →
        t.cells = s.cells.put m { s.cell m with mail7 := (s.cell m).mail7 ++ [[⟨BitVec.ofNat 32 (summaryCell s st), 0x29, false⟩]] }) := by
  intro u
  have writes := hostWrites_complete (reported s st) st 4 [word (summaryCell s st)]
  have block : ((reported s st).complete st 4 [word (summaryCell s st)]).stage st = _ :=
    (writes.stage st).trans (stage_setStage_same ..)
  have posts (own : (s.egress u.cqn).bound = some st) :
      Posts s ((reported s st).complete st 4 [word (summaryCell s st)]) u.cqn (ceWords 4 [word (summaryCell s st)]) :=
    complete_posts_of (s := s) (t := reported s st) rfl rfl (by rw [reported, stage_setStage_same]) own 4 _ (by decide)
  rw [stallReport_eq h]
  cases eq : trapCell s st with
  | none => exact ⟨_, rfl, block, posts, fun _ => writes.cells, fun m h => nomatch h⟩
  | some m =>
    refine ⟨_, rfl, block, posts, (fun h => nomatch h), fun n hn => ?_⟩
    obtain rfl := Option.some.inj hn
    show AMap.put ((reported s st).complete st 4 _).cells m (CellState.post7 (((reported s st).complete st 4 _).cell m) _) = _
    rw [writes.cells, writes.cell]
    rfl

/-! ## The scene watchdog -/

theorem hostRecord_flog {s : State} {st : Nat} (r : Record) (room : (s.stage st).flog.length < 4096) :
    ((s.hostRecord st r).stage st) = { s.stage st with
      flog := (s.stage st).flog ++ [flogEntry st r 1 false], stat := { (s.stage st).stat with flog := (s.stage st).stat.flog + 1 } } := by
  refine ((hostWrites_complete ..).stage st).trans ?_
  rw [logFault_eq, if_pos room]
  exact stage_setStage_same ..

/-- The low fields of a record's first word. -/
theorem mkRecord_class (s : State) (c : CellState) (slot : Nat) (async : Bool) (f : FaultInfo) (dest : RecDest) :
    (mkRecord s c 0 slot async f dest).w1.toNat % 2 ^ 9 = f.cls % 16 + f.code % 32 * 2 ^ 4 := by
  obtain ⟨cls, code, -⟩ := mkRecord_w1 s c 0 slot async f dest
  unfold bits at cls code
  omega

/-- The WATCHDOG record of a scene, as the fault log lists it. -/
def watchdogEntry (s : State) (st : Nat) : List Word := flogEntry st (stageRecord s st (s.stage st).scene 12 1 true 0 0 0 0 .host) 1 false

theorem watchdogEntry_fields (s : State) (st : Nat) :
    (((watchdogEntry s st)[0]?).getD 0).toNat % 2 ^ 9 = 12 + 1 * 2 ^ 4 ∧
      ((watchdogEntry s st)[4]?).getD 0 = BitVec.ofNat 32 ((s.stage st).scene % 2 ^ 16 + 2 ^ 16) ∧
      ((watchdogEntry s st)[7]?).getD 0 = BitVec.ofNat 32 (st % 4096) := by
  refine ⟨mkRecord_class _ _ 0 true _ .host, ?_, rfl⟩
  show word ((stageRecord s st (s.stage st).scene 12 1 true 0 0 0 0 .host).scene % 2 ^ 16 + min 1 0xFFFF * 2 ^ 16) = _
  have scene : (stageRecord s st (s.stage st).scene 12 1 true 0 0 0 0 .host).scene = (s.stage st).scene :=
    congrArg Stage.scene (stage_setStage_same s st _)
  rw [scene]
  rfl

theorem sceneWatchdog_reports {s : State} {st up : Nat} (starts : (s.stage st).upAt = some up) (placed : (s.stage st).status = .placed)
    (counts : (s.stage st).swd ≠ 0) (due : up + (s.stage st).swd ≤ s.tick) (fresh : (s.stage st).stat.wdog = false) :
    let u := s.stage st
    ∃ t l, exec (.sceneWatchdog st) s = .next t ∧ (t.stage st).stat.wdog = true ∧ t.cells = s.cells ∧
      (u.flog.length < 4096 → (t.stage st).flog = u.flog ++ [l]) ∧
      ((s.egress u.cqn).bound = some st → Posts s t u.cqn (ceWords 2 l)) ∧
      ((l[0]?).getD 0).toNat % 2 ^ 9 = 12 + 1 * 2 ^ 4 ∧ (l[4]?).getD 0 = BitVec.ofNat 32 (u.scene % 2 ^ 16 + 2 ^ 16) ∧
      (l[7]?).getD 0 = BitVec.ofNat 32 (st % 4096) := by
  intro u
  let s1 := s.setStage st { u with stat := { u.stat with wdog := true } }
  have block : s1.stage st = { u with stat := { u.stat with wdog := true } } := stage_setStage_same ..
  let r := stageRecord s1 st u.scene 12 1 true 0 0 0 0 .host
  have run : exec (.sceneWatchdog st) s = .next (s1.hostRecord st r) := by
    show Host.Outcome.next (watchdog s st) = _
    unfold watchdog
    dsimp only
    rw [if_pos ⟨placed, counts, fresh, by rw [starts, Option.any_some, decide_eq_true_iff]; exact due⟩]
  have writes := hostWrites_complete (s1.logFault st r 1 false) st 2 (flogEntry st r 1 false)
  have logged : (s1.logFault st r 1 false).cells = s.cells ∧ ((s1.logFault st r 1 false).stage st).stat.wdog = true ∧
      ((s1.logFault st r 1 false).stage st).cqn = u.cqn ∧ (s1.logFault st r 1 false).host = s.host ∧
      (s1.logFault st r 1 false).strip = s.strip := by
    rw [logFault_eq, block]
    split
    · rw [stage_setStage_same]; exact ⟨rfl, rfl, rfl, rfl, rfl⟩
    · rw [stage_setStage_same]; exact ⟨rfl, rfl, rfl, rfl, rfl⟩
  obtain ⟨cells, wdog, queue, host, strip⟩ := logged
  have fields := watchdogEntry_fields s1 st
  rw [watchdogEntry, block] at fields
  refine ⟨_, flogEntry st r 1 false, run, ?_, writes.cells.trans cells, fun room => ?_, fun own => ?_, fields⟩
  · exact (congrArg (fun t : Stage => t.stat.wdog) (writes.stage st)).trans wdog
  · have flog := hostRecord_flog (s := s1) (st := st) r (by rw [block]; exact room)
    rw [flog, block]
  · exact complete_posts_of (s := s) host strip queue own 2 _ (by decide)

theorem sceneWatchdog_told {s : State} {st : Nat} (told : (s.stage st).stat.wdog = true) : exec (.sceneWatchdog st) s = .next s :=
  congrArg Host.Outcome.next (watchdog_done (.inr told))

/-! ## Clocks that are stretched -/

/-- The throttle records of some positions. -/
theorem throttle_fold (l : List Nat) : ∀ s : State, ∃ m f, l.foldl State.throttle s = { s with slow := m, flags := f } ∧ ∀ p,
    let hit := decide (p ∈ l) && !s.clearKey p
    AMap.getD m p (false, false) = ((s.slowAt p).1, (s.slowAt p).2 || hit) ∧
      AMap.getD f p (false, false) = ((s.flagAt p).1 || hit, (s.flagAt p).2) := by
  induction l with
  | nil =>
    intro s
    refine ⟨s.slow, s.flags, rfl, fun p => ?_⟩
    simp only [List.not_mem_nil, decide_false, Bool.false_and, Bool.or_false]
    exact ⟨rfl, rfl⟩
  | cons k l ih =>
    intro s
    have step : ∃ m f, s.throttle k = { s with slow := m, flags := f } ∧ ∀ p,
        let hit := decide (p = k) && !s.clearKey p
        AMap.getD m p (false, false) = ((s.slowAt p).1, (s.slowAt p).2 || hit) ∧
          AMap.getD f p (false, false) = ((s.flagAt p).1 || hit, (s.flagAt p).2) := by
      unfold State.throttle
      split
      case isTrue clear =>
        refine ⟨s.slow, s.flags, rfl, fun p => ?_⟩
        have none : (decide (p = k) && !s.clearKey p) = false := by
          by_cases eq : p = k
          · rw [eq, clear, Bool.not_true, Bool.and_false]
          · rw [decide_eq_false eq, Bool.false_and]
        dsimp only
        rw [none, Bool.or_false, Bool.or_false]
        exact ⟨rfl, rfl⟩
      case isFalse open' =>
        refine ⟨_, _, rfl, fun p => ?_⟩
        dsimp only
        by_cases eq : p = k
        · rw [eq, AMap.getD_put_same, AMap.getD_put_same, decide_eq_true rfl, Bool.true_and, Bool.eq_false_iff.mpr open', Bool.not_false,
            Bool.or_true, Bool.or_true]
          exact ⟨rfl, rfl⟩
        · rw [AMap.getD_put_ne _ _ _ eq, AMap.getD_put_ne _ _ _ eq, decide_eq_false eq, Bool.false_and, Bool.or_false, Bool.or_false]
          exact ⟨rfl, rfl⟩
    obtain ⟨m, f, eq, at'⟩ := step
    obtain ⟨m', f', eq', rest⟩ := ih (s.throttle k)
    refine ⟨m', f', ?_, fun p => ?_⟩
    · rw [List.foldl_cons, eq', eq]
    · obtain ⟨slow, flag⟩ := at' p
      obtain ⟨slow', flag'⟩ := rest p
      have here : (s.throttle k).slowAt p = AMap.getD m p (false, false) ∧ (s.throttle k).flagAt p = AMap.getD f p (false, false) ∧
          (s.throttle k).clearKey p = s.clearKey p := by
        rw [eq]
        exact ⟨rfl, rfl, rfl⟩
      obtain ⟨hs, hf, hc⟩ := here
      have mem : decide (p ∈ k :: l) = (decide (p = k) || decide (p ∈ l)) := by
        rw [← Bool.decide_or]
        exact decide_eq_decide.mpr List.mem_cons
      dsimp only at slow flag slow' flag' ⊢
      rw [slow', flag', hs, hf, hc, slow, flag, mem, Bool.and_or_distrib_right]
      exact ⟨by rw [Bool.or_assoc], by rw [Bool.or_assoc]⟩

/-- A position that lists no clock of a neighbour runs from its own. -/
theorem runs_iff (s : State) (key p : Nat) :
    p ∈ (key :: s.clocks.map (·.1)).filter (fun k => decide (s.clockKey k = key)) ↔ s.clockKey p = key := by
  rw [List.mem_filter, decide_eq_true_iff]
  refine ⟨And.right, fun eq => ⟨?_, eq⟩⟩
  by_cases listed : p ∈ s.clocks.map (·.1)
  · exact List.mem_cons_of_mem _ listed
  · have none : AMap.get? s.clocks p = none := by
      rw [Option.eq_none_iff_forall_ne_some]
      intro d h
      exact listed (List.mem_map_of_mem (f := (·.1)) (mem_of_get? h))
    unfold State.clockKey at eq
    rw [none] at eq
    exact List.mem_cons.mpr (.inl eq)

theorem clockStretch_spec (s : State) (key : Nat) (on : Bool) :
    ∃ m f : AMap (Bool × Bool), exec (.clockStretch key on) s = .next { s with slow := m, flags := f } ∧
      ∀ p, let hit := on && decide (s.clockKey p = key) && !s.clearKey p
        AMap.getD m p (false, false) = (if p = key then on else (s.slowAt p).1, (s.slowAt p).2 || hit) ∧
        AMap.getD f p (false, false) = ((s.flagAt p).1 || hit, (s.flagAt p).2) := by
  let s1 : State := { s with slow := s.slow.put key (on, (s.slowAt key).2) }
  have slow (p : Nat) : s1.slowAt p = (if p = key then on else (s.slowAt p).1, (s.slowAt p).2) := by
    by_cases eq : p = key
    · rw [if_pos eq, eq]
      exact AMap.getD_put_same ..
    · rw [if_neg eq]
      exact AMap.getD_put_ne _ _ _ eq
  have run : exec (.clockStretch key on) s = .next (if on then
      ((key :: s.clocks.map (·.1)).filter fun k => decide (s.clockKey k = key)).foldl State.throttle s1 else s1) := rfl
  rw [run]
  cases on with
  | false =>
    refine ⟨s1.slow, s1.flags, rfl, fun p => ?_⟩
    simp only [Bool.false_and, Bool.or_false]
    exact ⟨slow p, rfl⟩
  | true =>
    obtain ⟨m, f, eq, all⟩ := throttle_fold ((key :: s.clocks.map (·.1)).filter fun k => decide (s.clockKey k = key)) s1
    refine ⟨m, f, congrArg Host.Outcome.next eq, fun p => ?_⟩
    obtain ⟨hm, hf⟩ := all p
    dsimp only
    rw [hm, hf, slow p, decide_eq_decide.mpr (runs_iff s key p), Bool.true_and]
    exact ⟨rfl, rfl⟩

end Sys2Proof.Watches
end

section
/-! # Polls and retirement -/

namespace Sys2Proof.Watches

open Sys2Proof.Machine Sys2Proof.Safety Sys2Proof.Rules

/-! ## Polls -/

section
variable {s : State} {row col : Nat} (serves : inService s row col = true) (ready : 1 ≤ s.host.modState) (well : s.host.modState < 14)

theorem pollDue_iff (s : State) (key : Nat) : pollDue s key = true ↔ ∀ t, AMap.get? s.polled key = some t → t + 1000 ≤ s.tick := by
  unfold pollDue
  simp only [Option.all_eq_true, decide_eq_true_iff]

theorem poll_waits (answer : Bool)
    (waits : s.ctrlHeld (4096 + row) = true ∨ ¬ ∀ t, AMap.get? s.polled (row * 384 + col) = some t → t + 1000 ≤ s.tick) :
    exec (.heartbeatPoll row col answer) s = .next s := by
  refine if_pos ?_
  rcases waits with held | early
  · rw [held, Bool.or_true, Bool.true_or]
  · have no : pollDue s (pollKey row col) = false := by
      rw [← Bool.not_eq_true, pollDue_iff]
      exact early
    rw [no, Bool.not_false, Bool.or_true]

include ready well in
theorem managed_ready : s.managed = true := by
  unfold State.managed
  rw [Bool.and_eq_true_iff, decide_eq_true_iff, decide_eq_true_iff]
  omega

/-- What a poll comes to whose answer comes, or not, with the state that a gap on its way leaves. -/
def polled (s : State) (row col : Nat) (answer : Bool) : Out :=
  let key := pollKey row col
  let missed := (s.silent.getD key (0, false)).1 + (if (s.slowAt key).2 then 0 else 1)
  let masked := ((logicalAt s row col).bind fun n => AMap.get? s.cells n).any fun c => (s.stage c.stage).mask.isSome
  let next : Nat × Bool := if answer then (0, false) else (missed, true)
  let on := (s.stretchedAt key || masked) && !next.2
  let s1 := { s with
    silent := s.silent.put key next, polled := s.polled.put key s.tick
    slow := s.slow.put key ((s.slowAt key).1, on)
    flags := if answer then s.flags.put key (on, (s.flagAt key).1) else s.flags }
  if !answer && decide (3 ≤ missed) then .next (retire s1 row col) else .next s1

include serves ready well in
theorem poll_runs (answer : Bool) (free : s.ctrlHeld (4096 + row) = false)
    (due : ∀ t, AMap.get? s.polled (row * 384 + col) = some t → t + 1000 ≤ s.tick) :
    exec (.heartbeatPoll row col answer) s =
      (pollGap s row (logicalAt s row col)).elim (polled s row col answer) fun g => polled (s.routerRecord g.1 g.2) row col false := by
  show execHeartbeatPoll row col answer s = _
  unfold execHeartbeatPoll
  rw [serves, managed_ready ready well, free, (pollDue_iff s (pollKey row col)).mpr due]
  dsimp only
  generalize pollGap s row (logicalAt s row col) = gap
  cases gap with
  | none => cases answer <;> rfl
  | some g => cases answer <;> rfl

theorem polled_answered (s : State) (row col : Nat) :
    let key := row * 384 + col
    let masked := ((logicalAt s row col).bind fun n => AMap.get? s.cells n).any fun c => (s.stage c.stage).mask.isSome
    polled s row col true = .next { s with
      silent := s.silent.put key (0, false), polled := s.polled.put key s.tick
      slow := s.slow.put key ((s.slow.getD key (false, false)).1, s.stretchedAt key || masked)
      flags := s.flags.put key (s.stretchedAt key || masked, (s.flagAt key).1) } := by
  have on (b : Bool) : (b && !false) = b := Bool.and_true b
  intro key masked
  rw [← on (s.stretchedAt key || masked)]
  rfl

/-- What a missed poll leaves: one more missed, and no throttle record. -/
def missedState (s : State) (row col : Nat) : State :=
  let key := row * 384 + col
  { s with
    silent := s.silent.put key ((s.silent.getD key (0, false)).1 + (if (s.slow.getD key (false, false)).2 then 0 else 1), true)
    polled := s.polled.put key s.tick, slow := s.slow.put key ((s.slow.getD key (false, false)).1, false) }

theorem polled_missed (s : State) (row col : Nat) :
    polled s row col false =
      if 3 ≤ (s.silent.getD (row * 384 + col) (0, false)).1 + (if (s.slow.getD (row * 384 + col) (false, false)).2 then 0 else 1) then
        .next (retire (missedState s row col) row col)
      else .next (missedState s row col) := by
  have same (s1 : State) (h : s1 = missedState s row col) (m : Nat) :
      (if (!false && decide (3 ≤ m)) = true then Host.Outcome.next (retire s1 row col) else .next s1 : Out) =
        if 3 ≤ m then .next (retire (missedState s row col) row col) else .next (missedState s row col) := by
    rw [h]
    exact if_congr (by rw [Bool.not_false, Bool.true_and, decide_eq_true_iff]) rfl rfl
  unfold polled
  dsimp only
  refine same _ ?_ _
  exact congrArg (fun on : Bool => { missedState s row col with
    slow := s.slow.put (row * 384 + col) ((s.slow.getD (row * 384 + col) (false, false)).1, on) }) (Bool.and_false _)

end

/-! ## Positions that retire -/

/-- Cells that differ from those of before at most in what does not say whose they are. -/
def SameStages (s t : State) : Prop := ∀ e ∈ t.cells, ∃ c, (e.1, c) ∈ s.cells ∧ e.2.stage = c.stage

theorem SameStages.trans {s t u : State} (h : SameStages s t) (g : SameStages t u) : SameStages s u := by
  intro e mem
  obtain ⟨c, mem, eq⟩ := g e mem
  obtain ⟨d, mem, eq'⟩ := h _ mem
  exact ⟨d, mem, eq.trans eq'⟩

theorem SameStages.of_map {s t : State} (f : CellState → CellState) (keeps : ∀ c, (f c).stage = c.stage)
    (h : t.cells = s.cells.map fun e => (e.1, f e.2)) : SameStages s t := by
  intro e mem
  rw [h, List.mem_map] at mem
  obtain ⟨d, mem, rfl⟩ := mem
  exact ⟨d.2, mem, keeps d.2⟩

theorem sameStages_of_eq {s t : State} (h : t.cells = s.cells) : SameStages s t := fun e mem => ⟨e.2, h ▸ mem, rfl⟩

/-- A retired position enters the casting table, under the next generation. -/
theorem recastOne_casting (s : State) (p : Nat × Nat) (fresh : (s.casting.dead.any fun d => decide (d.1 = p.1 ∧ d.2.1 = p.2)) = false) :
    (p.1, p.2, true) ∈ (recastOne s p).casting.dead ∧ (recastOne s p).casting.gen = s.casting.gen + 1 ∧
      (recastOne s p).retiring = s.retiring := by
  unfold recastOne
  extract_lets k again k1 k2 s1 s2 s3
  have dead : k2.dead = s.casting.dead ++ [(p.1, p.2, true)] := if_neg (by rw [show again = false from fresh]; exact Bool.false_ne_true)
  have last : (p.1, p.2, true) ∈ k2.dead := by
    rw [dead]
    exact List.mem_append_right _ List.mem_cons_self
  split
  · exact ⟨last, rfl, rfl⟩
  · exact ⟨last, rfl, rfl⟩

theorem recastOne_keeps (s : State) (p : Nat × Nat) : (recastOne s p).stages = s.stages ∧ SameStages s (recastOne s p) := by
  unfold recastOne
  extract_lets k again k1 k2 s1 s2 s3
  have cells : SameStages s s3 := .of_map (fun c => { c with names := [], nameWalk := [] }) (fun _ => rfl) rfl
  split
  · exact ⟨rfl, cells⟩
  · exact ⟨rfl, cells⟩

theorem recastReady_keeps (s : State) : (recastReady s).stages = s.stages ∧ SameStages s (recastReady s) := by
  have fold (l : List (Nat × Nat)) : ∀ s : State, (l.foldl recastOne s).stages = s.stages ∧ SameStages s (l.foldl recastOne s) := by
    induction l with
    | nil => exact fun s => ⟨rfl, sameStages_of_eq rfl⟩
    | cons p l ih =>
      intro s
      obtain ⟨stages, cells⟩ := ih (recastOne s p)
      obtain ⟨stages', cells'⟩ := recastOne_keeps s p
      exact ⟨stages.trans stages', cells'.trans cells⟩
  unfold recastReady
  split
  · exact ⟨rfl, sameStages_of_eq rfl⟩
  · exact fold s.retiring { s with retiring := [] }

/-- Without stages and cells nothing keeps a recast waiting. -/
theorem retire_empty {s : State} {row col : Nat} (stages : s.stages = []) (idle : s.retiring = [])
    (fresh : (s.casting.dead.any fun e => decide (e.1 = row ∧ e.2.1 = col)) = false) :
    (row, col, true) ∈ (retire s row col).casting.dead ∧ (retire s row col).casting.gen = s.casting.gen + 1 ∧ (retire s row col).retiring = [] := by
  have run : retire s row col = recastOne { s with
      retiring := [], silent := s.silent.del (pollKey row col), slow := s.slow.del (pollKey row col)
      flags := s.flags.del (pollKey row col), polled := s.polled.del (pollKey row col) } (row, col) := by
    unfold retire
    extract_lets a right hit b
    have ha : a = s := by
      show (match logicalAt s row col with | none => s | some n => _) = s
      cases logicalAt s row col with
      | none => rfl
      | some n =>
        show (match (s.stages.find? _).or (s.stages.find? _) with | some e => _ | none => s) = s
        rw [stages]
        rfl
    have hb : b = s := by
      show List.foldl _ a ((a.stages.filter fun e => right e.2).map (·.1)) = s
      rw [ha, stages]
      rfl
    rw [hb]
    unfold recastReady
    dsimp only
    rw [stages, idle]
    rfl
  rw [run]
  exact recastOne_casting _ _ fresh

/-! ## Jobs that end -/

end Sys2Proof.Watches
end

section
/-! # Jobs that end with a retired position -/

namespace Sys2Proof.Watches

open Sys2Proof.Machine Sys2Proof.Safety Sys2Proof.Rules

/-! ## One stage of the job -/

/-- What is logged before a stage of a job ends. -/
def broken (s : State) (st code x y : Nat) : State :=
  let t := logAll (watchdog s st) st
  t.hostRecord st (stageRecord t st (t.stage st).scene 12 code true 0 x y 0 .host)

theorem breakStage_eq (s : State) (st code x y : Nat) : breakStage s st code x y = (broken s st code x y).endStage st := rfl

theorem logs_broken (s : State) (st code x y : Nat) : Logs st s (broken s st code x y) :=
  ((logs_watchdog s st).trans (logs_logAll ..)).trans (logs_hostRecord ..)

theorem breakStage_others (s : State) (st code x y : Nat) {i : Nat} (ne : i ≠ st) :
    ∃ p, (breakStage s st code x y).stage i = { s.stage i with portals := p } := by
  obtain ⟨p, h⟩ := (endStage_ends (broken s st code x y) st).others i ne
  exact ⟨p, by rw [breakStage_eq, h, (logs_broken s st code x y).others i ne]⟩

theorem breakStage_ended (s : State) (st code x y : Nat) : ((breakStage s st code x y).stage st).status = .ended := by
  rw [breakStage_eq]
  exact (endStage_ends ..).status

theorem breakStage_cells (s : State) (st code x y : Nat) {e : Nat × CellState} (mem : e ∈ (breakStage s st code x y).cells) :
    e ∈ s.cells ∧ e.2.stage ≠ st := by
  obtain ⟨mem, out⟩ := (endStage_ends (broken s st code x y) st).mem_cells mem
  exact ⟨(logs_broken s st code x y).cells ▸ mem, out⟩

/-- A stage with room in its fault log, no losses and no records of cells that wait. -/
structure Plain (s : State) (st : Nat) (log : List (List Word)) : Prop where
  flog : (s.stage st).flog = log
  room : log.length < 4096
  done : (s.stage st).swd = 0 ∨ (s.stage st).stat.wdog = true
  here : ∀ e ∈ s.cellsOf st, e.2.records = []
  away : (s.stage st).saved = []
  portal : (s.stage st).stat.portalLost = 0
  egress : (s.stage st).stat.egressLost = []

/-- The record of a stage that ends with a position: its class and code, and the place. -/
def Tells (l : List Word) (code x y : Nat) : Prop :=
  ((l[0]?).getD 0).toNat % 2 ^ 9 = 12 + code % 32 * 2 ^ 4 ∧ ((l[1]?).getD 0).toNat % 2 ^ 18 = x % 2 ^ 9 + y % 2 ^ 9 * 2 ^ 9

theorem stageRecord_tells (s : State) (st scene code x y : Nat) :
    Tells (flogEntry st (stageRecord s st scene 12 code true 0 x y 0 .host) 1 false) code x y := by
  refine ⟨mkRecord_class _ _ 0 true _ .host, ?_⟩
  obtain ⟨hx, hy, -⟩ := mkRecord_w2_w4 (s.setStage st { (s.stage st) with scene := scene }) (CellState.blank st x y) 0 0 true
    { cls := 12, code := code, opnd := 0 } .host
  unfold bits at hx hy
  show (stageRecord s st scene 12 code true 0 x y 0 .host).w2.toNat % 2 ^ 18 = _
  unfold stageRecord
  simp only [CellState.blank] at hx hy ⊢
  omega

theorem Plain.breakStage {s : State} {st : Nat} {flog : List (List Word)} (h : Plain s st flog) (code x y : Nat) :
    ∃ l, ((breakStage s st code x y).stage st).flog = flog ++ [l] ∧ Tells l code x y := by
  have quiet : logAll (watchdog s st) st = s := by
    rw [watchdog_done h.done]
    exact logAll_none h.here fun e mem => by rw [h.away] at mem; cases mem
  let r := stageRecord s st (s.stage st).scene 12 code true 0 x y 0 .host
  have eq : broken s st code x y = s.hostRecord st r := by
    unfold broken
    rw [quiet]
  have block := hostRecord_flog r (h.flog.symm ▸ h.room)
  obtain ⟨m, p, ended⟩ := (endStage_ends (s.hostRecord st r) st).block
  refine ⟨flogEntry st r 1 false, ?_, stageRecord_tells ..⟩
  have none : logLosses (s.hostRecord st r) st = (s.hostRecord st r).setStage st ((s.hostRecord st r).stage st) :=
    logLosses_none (by rw [block]; exact h.portal) (by rw [block]; exact h.egress)
  rw [breakStage_eq, eq, ended, none, stage_setStage_same, block]
  exact congrArg (· ++ [flogEntry st r 1 false]) h.flog

/-- Another stage's end leaves that. -/
theorem Plain.other {s : State} {st : Nat} {flog : List (List Word)} (h : Plain s st flog) {i : Nat} (code x y : Nat) (ne : st ≠ i) :
    Plain (Machine.breakStage s i code x y) st flog := by
  obtain ⟨p, block⟩ := breakStage_others s i code x y ne
  refine ⟨?_, h.room, ?_, fun e mem => ?_, ?_, ?_, ?_⟩
  · rw [block]; exact h.flog
  · rw [block]; exact h.done
  · obtain ⟨mem, mine⟩ := List.mem_filter.mp mem
    exact h.here e (List.mem_filter.mpr ⟨(breakStage_cells s i code x y mem).1, mine⟩)
  · rw [block]; exact h.away
  · rw [block]; exact h.portal
  · rw [block]; exact h.egress

/-! ## All stages of the job -/

/-- Some stages end one after another. -/
def breakAll (l : List (Nat × Stage)) (code x y : Nat) (s : State) : State := l.foldl (fun s e => breakStage s e.1 code x y) s

theorem breakAll_cons (e : Nat × Stage) (l : List (Nat × Stage)) (code x y : Nat) (s : State) :
    breakAll (e :: l) code x y s = breakAll l code x y (breakStage s e.1 code x y) := by
  rw [breakAll, List.foldl_cons, breakAll]

theorem breakAll_others (code x y : Nat) {i : Nat} : ∀ (l : List (Nat × Stage)) (s : State), i ∉ l.map (·.1) →
    ∃ p, (breakAll l code x y s).stage i = { s.stage i with portals := p }
  | [], s, _ => ⟨_, rfl⟩
  | e :: l, s, out => by
    rw [List.map_cons, List.mem_cons, not_or] at out
    obtain ⟨p, h⟩ := breakAll_others code x y l (breakStage s e.1 code x y) out.2
    obtain ⟨q, g⟩ := breakStage_others s e.1 code x y out.1
    exact ⟨p, by rw [breakAll_cons, h, g]⟩

theorem breakAll_status (code x y : Nat) {i : Nat} : ∀ (l : List (Nat × Stage)) (s : State), i ∈ l.map (·.1) →
    ((breakAll l code x y s).stage i).status = .ended
  | e :: l, s, mem => by
    rw [breakAll_cons]
    by_cases rest : i ∈ l.map (·.1)
    · exact breakAll_status code x y l _ rest
    · have eq : i = e.1 := (List.mem_cons.mp mem).resolve_right rest
      obtain ⟨p, h⟩ := breakAll_others code x y l (breakStage s e.1 code x y) rest
      rw [h, eq]
      dsimp only
      exact breakStage_ended ..

theorem breakAll_cells (code x y : Nat) : ∀ (l : List (Nat × Stage)) (s : State), ∀ e ∈ (breakAll l code x y s).cells,
    e ∈ s.cells ∧ ∀ a ∈ l, e.2.stage ≠ a.1
  | [], s, e, mem => ⟨mem, fun a h => absurd h List.not_mem_nil⟩
  | b :: l, s, e, mem => by
    rw [breakAll_cons] at mem
    obtain ⟨mem, rest⟩ := breakAll_cells code x y l _ e mem
    obtain ⟨mem, first⟩ := breakStage_cells s b.1 code x y mem
    exact ⟨mem, List.forall_mem_cons.mpr ⟨first, rest⟩⟩

theorem breakAll_flog {st : Nat} {flog : List (List Word)} (code x y : Nat) : ∀ (l : List (Nat × Stage)) (s : State), (l.map (·.1)).Nodup →
    st ∈ l.map (·.1) → Plain s st flog → ∃ w, ((breakAll l code x y s).stage st).flog = flog ++ [w] ∧ Tells w code x y
  | e :: l, s, nodup, mem, plain => by
    rw [List.map_cons, List.nodup_cons] at nodup
    obtain ⟨once, nodup⟩ := nodup
    rw [breakAll_cons]
    by_cases eq : st = e.1
    · obtain ⟨w, h, tells⟩ := plain.breakStage code x y
      obtain ⟨p, rest⟩ := breakAll_others code x y l (breakStage s e.1 code x y) (eq ▸ once)
      refine ⟨w, ?_, tells⟩
      rw [← eq] at rest ⊢
      rw [rest]
      dsimp only
      exact h
    · exact breakAll_flog code x y l _ nodup ((List.mem_cons.mp mem).resolve_left eq) (plain.other code x y eq)

/-! ## The retirement -/

/-- Stop orders for a recast concern the ordered stages alone. -/
theorem recastOrders_keep (hit : List Nat) : ∀ s : State,
    let t := hit.foldl (fun s id =>
      let s := s.setStage id { (s.stage id) with recast := true }
      s.orderStop id (s.stopStage id)) s
    (∀ i, i ∉ hit → t.stage i = s.stage i) ∧ SameStages s t := by
  have order (s : State) (id : Nat) : (∀ i, i ≠ id → (s.orderStop id (s.stopStage id)).stage i = s.stage i) ∧
      SameStages s (s.orderStop id (s.stopStage id)) := by
    unfold State.orderStop
    split
    · cases s.stageGap id with
      | none =>
        refine ⟨fun i ne => stage_setStage_ne s _ ne, .of_map (fun c => if c.stage = id then { c with live := false } else c) ?_ ?_⟩
        · intro c
          split <;> rfl
        · refine List.map_congr_left fun e _ => ?_
          split <;> rfl
      | some g => exact ⟨fun _ _ => rfl, sameStages_of_eq rfl⟩
    · exact ⟨fun _ _ => rfl, sameStages_of_eq rfl⟩
  induction hit with
  | nil => exact fun s => ⟨fun _ _ => rfl, sameStages_of_eq rfl⟩
  | cons id l ih =>
    intro s
    obtain ⟨stages, cells⟩ := ih ((s.setStage id { (s.stage id) with recast := true }).orderStop id
      ((s.setStage id { (s.stage id) with recast := true }).stopStage id))
    obtain ⟨stages', cells'⟩ := order (s.setStage id { (s.stage id) with recast := true }) id
    refine ⟨fun i out => ?_, SameStages.trans (t := s.setStage id _) (sameStages_of_eq rfl) (cells'.trans cells)⟩
    rw [List.mem_cons, not_or] at out
    exact ((stages i out.2).trans (stages' i out.1)).trans (stage_setStage_ne s _ out.1)

/-- A position of a stage retires: the stages of the job have ended, and nothing else of them changes. -/
theorem retire_via {s : State} {row col n st : Nat} {u : Stage} (at' : logicalAt s row col = some n) (tables : TablesOk s)
    (entry : AMap.get? s.stages st = some u) (owns : u.owns n = true) (only : ∀ e ∈ s.stages, e.2.owns n = true → e.1 = st) :
    let l := s.stages.filter (fun e => decide (e.2.job = u.job) && decide (e.2.status ≠ .ended))
    let b := breakAll l 2 (n % 320 - u.x0) (n / 320 - u.y0) s
    (∀ i, (b.stage i).status = .ended → (retire s row col).stage i = b.stage i) ∧ SameStages b (retire s row col) := by
  intro l b
  have found : s.stages.find? (fun e => e.2.owns n) = some (st, u) := by
    have some' : (s.stages.find? (fun e => e.2.owns n)).isSome = true :=
      List.find?_isSome.mpr ⟨(st, u), mem_of_get? entry, owns⟩
    obtain ⟨e, he⟩ := Option.isSome_iff_exists.mp some'
    have mem := List.mem_of_find?_eq_some he
    have key := only e mem (List.find?_some (p := fun e : Nat × Stage => e.2.owns n) he)
    have same := get?_of_mem tables.2 mem
    rw [key, entry] at same
    rw [he, ← key, Option.some.inj same]
  have tabs : TablesOk b := by
    have inv : Invariant.Inv False True s := ⟨False.elim, fun _ => tables⟩
    exact (inv.endJob (job := u.job) (code := 2) (x := n % 320 - u.x0) (y := n / 320 - u.y0)).2 trivial
  unfold retire
  extract_lets a right hit c
  have ha : a = b := by
    show (match logicalAt s row col with | none => s | some n => _) = _
    rw [at']
    show (match (s.stages.find? fun e => e.2.owns n).or _ with | some e => _ | none => s) = _
    rw [found]
    rfl
  obtain ⟨stages, cells⟩ := recastOrders_keep hit a
  obtain ⟨stages', cells'⟩ := recastReady_keeps { c with
    retiring := c.retiring ++ [(row, col)]
    silent := c.silent.del (pollKey row col), slow := c.slow.del (pollKey row col), flags := c.flags.del (pollKey row col)
    polled := c.polled.del (pollKey row col) }
  refine ⟨fun i ended => ?_, ?_⟩
  · have out : i ∉ hit := by
      intro ordered
      obtain ⟨e, listed, rfl⟩ := List.mem_map.mp ordered
      obtain ⟨mem, placed⟩ := List.mem_filter.mp listed
      have same := stage_of_get? (get?_of_mem tabs.2 (ha ▸ mem))
      rw [same] at ended
      have : e.2.status = .placed := of_decide_eq_true (Bool.and_eq_true_iff.mp placed).1
      rw [this] at ended
      cases ended
    exact (stage_of_stages stages' i).trans ((stages i out).trans (by rw [ha]))
  · rw [← ha]
    exact cells.trans cells'

end Sys2Proof.Watches
end

section
/-! # The director's watches, settled -/

namespace Sys2Proof.Watches

open Sys2Proof.Machine Sys2Proof.Safety Sys2Proof.Rules

/-- The stages of the job of a retired position end, each with no cell left. -/
theorem retire_ends {s : State} {row col n st : Nat} {u : Stage} (at' : logicalAt s row col = some n) (tables : TablesOk s)
    (entry : AMap.get? s.stages st = some u) (owns : u.owns n = true) (only : ∀ e ∈ s.stages, e.2.owns n = true → e.1 = st)
    {i : Nat} {v : Stage} (here : AMap.get? s.stages i = some v) (job : v.job = u.job) (going : v.status ≠ .ended) :
    ((retire s row col).stage i).status = .ended ∧ ∀ e ∈ (retire s row col).cells, e.2.stage ≠ i := by
  obtain ⟨stages, cells⟩ := retire_via at' tables entry owns only
  have mem : (i, v) ∈ s.stages.filter (fun e => decide (e.2.job = u.job) && decide (e.2.status ≠ .ended)) :=
    List.mem_filter.mpr ⟨mem_of_get? here, by rw [decide_eq_true job, decide_eq_true going]; rfl⟩
  have ended := breakAll_status 2 (n % 320 - u.x0) (n / 320 - u.y0) _ s (List.mem_map_of_mem (f := (·.1)) mem)
  refine ⟨by rw [stages i ended]; exact ended, fun e he => ?_⟩
  obtain ⟨c, hc, eq⟩ := cells e he
  rw [eq]
  exact (breakAll_cells 2 _ _ _ s _ hc).2 _ mem

/-- The record of the position in the log of its stage. -/
theorem retire_logs {s : State} {row col n st : Nat} {u : Stage} (at' : logicalAt s row col = some n) (tables : TablesOk s)
    (entry : AMap.get? s.stages st = some u) (owns : u.owns n = true) (only : ∀ e ∈ s.stages, e.2.owns n = true → e.1 = st)
    (plain : Plain s st u.flog) :
    ∃ l, ((retire s row col).stage st).flog = u.flog ++ [l] ∧ Tells l 2 (n % 320 - u.x0) (n / 320 - u.y0) := by
  obtain ⟨stages, -⟩ := retire_via at' tables entry owns only
  have placed : u.status = .placed := (of_decide_eq_true owns).1
  have mem : st ∈ (s.stages.filter (fun e => decide (e.2.job = u.job) && decide (e.2.status ≠ .ended))).map (·.1) :=
    List.mem_map_of_mem (f := (·.1)) (List.mem_filter.mpr ⟨mem_of_get? entry, by rw [decide_eq_true rfl, placed]; rfl⟩)
  have nodup : ((s.stages.filter (fun e => decide (e.2.job = u.job) && decide (e.2.status ≠ .ended))).map (·.1)).Nodup :=
    (List.Pairwise.imp Nat.ne_of_lt tables.2).sublist (List.filter_sublist.map _)
  obtain ⟨l, flog, tells⟩ := breakAll_flog 2 (n % 320 - u.x0) (n / 320 - u.y0) _ s nodup mem plain
  refine ⟨l, ?_, tells⟩
  rw [stages st (breakAll_status 2 _ _ _ s mem)]
  exact flog

section
variable {s : State} {row col : Nat} (serves : inService s row col = true) (ready : 1 ≤ s.host.modState) (well : s.host.modState < 14)

include serves ready well in
theorem selfTest_fails (stages : s.stages = []) : exec (.cellSelfTest row col false) s = .next (retire s row col) := by
  show execCellSelfTest row col false s = _
  unfold execCellSelfTest
  rw [serves, managed_ready ready well, stages]
  cases logicalAt s row col <;> rfl

theorem selfTest_passes : exec (.cellSelfTest row col true) s = .next s :=
  if_pos (Bool.or_true _)

variable (free : s.ctrlHeld (4096 + row) = false) (due : ∀ t, AMap.get? s.polled (row * 384 + col) = some t → t + 1000 ≤ s.tick)
include serves ready well free due

theorem poll_clear (answer : Bool) (gap : pollGap s row (logicalAt s row col) = none) :
    exec (.heartbeatPoll row col answer) s = polled s row col answer := by
  rw [poll_runs serves ready well answer free due, gap]
  rfl

theorem poll_lost (answer : Bool) {r : Nat × Nat} (gap : pollGap s row (logicalAt s row col) = some r)
    (few : (s.silent.getD (row * 384 + col) (0, false)).1 + (if (s.slow.getD (row * 384 + col) (false, false)).2 then 0 else 1) < 3) :
    exec (.heartbeatPoll row col answer) s = .next (missedState (s.routerRecord r.1 r.2) row col) := by
  rw [poll_runs serves ready well answer free due, gap]
  exact (polled_missed (s.routerRecord r.1 r.2) row col).trans (if_neg (Nat.not_le.mpr few))

end

/-- Settles O47: the end of a stage leaves other blocks all but their portals, so the stages of a job end one after another, and the
recast and its stop orders leave those as they are; the rest follows the branches of each watch. -/
theorem directorWatches : Obligations.DirectorWatches := by
  unfold Obligations.DirectorWatches
  refine ⟨fun s st row col up on => ?_, stalled_iff⟩
  intro u key slow missed due place gap masked flag retired ended entry
  refine ⟨stallReport_spec, ?_, ?_, ?_, clockStretch_spec s key on⟩
  · intro calm
    exact if_pos (by rw [calm]; rfl)
  · intro starts placed counts late
    exact ⟨sceneWatchdog_reports starts placed counts late, sceneWatchdog_told⟩
  · intro serves ready well
    refine ⟨selfTest_passes, ?_, ?_, ?_, ?_⟩
    · intro waits answer
      exact poll_waits answer waits
    · intro free now clear
      have run (answer : Bool) := poll_clear serves ready well free now answer clear
      have again (many : 3 ≤ missed) : exec (.heartbeatPoll row col false) s = .next (retire (missedState s row col) row col) :=
        (run false).trans ((polled_missed s row col).trans (if_pos many))
      refine ⟨(run true).trans (polled_answered s row col), ?_, ?_, ?_⟩
      · intro few
        exact (run false).trans ((polled_missed s row col).trans (if_neg (Nat.not_le.mpr few)))
      · intro many stages _ idle fresh
        exact ⟨_, again many, retire_empty (s := missedState s row col) stages idle fresh⟩
      · intro n many at' tables here owns only
        refine ⟨_, again many, fun i v hi job going => ?_, fun room done records saved portal egress => ?_⟩
        · exact retire_ends (s := missedState s row col) (u := u) at' tables here owns only hi job going
        · obtain ⟨l, flog, cls, place⟩ := retire_logs (s := missedState s row col) (u := u) at' tables here owns only
            ⟨rfl, room, done, records, saved, portal, egress⟩
          exact ⟨l, flog, cls, place⟩
    · intro r free now lost few answer
      exact poll_lost serves ready well free now answer lost few
    · intro stages _ idle fresh
      exact ⟨_, selfTest_fails serves ready well stages, retire_empty stages idle fresh⟩

end Sys2Proof.Watches
end

section
/-! # Changes of mappings, releases by the host -/

namespace Sys2Proof.Mapping

open Sys2Proof.Machine Sys2Proof.Safety Sys2Proof.Rules

/-! ## Frames -/

theorem leaves_iff (s : State) (f : Nat) : s.leaves f = true ↔ ∃ m ∈ s.maps, f ∈ m.frames := by
  unfold State.leaves
  simp only [List.any_eq_true, List.contains_iff_mem]

theorem takeable_iff (s : State) (f : Nat) :
    takeable s f = true ↔ ¬ (∃ m ∈ s.maps, f ∈ m.frames) ∧ (AMap.get? s.frames f = none → ∀ i, i < f / 24576 →
      AMap.get? s.frames (i * 24576 + f % 24576) ≠ none ∨ ∃ m ∈ s.maps, i * 24576 + f % 24576 ∈ m.frames) := by
  unfold takeable State.allocated
  rw [Bool.and_eq_true_iff, Bool.not_eq_true', ← Bool.not_eq_true, leaves_iff, and_comm, Bool.or_eq_true_iff, Option.isSome_iff_ne_none,
    List.all_eq_true]
  simp only [List.mem_range, Bool.or_eq_true_iff, Option.isSome_iff_ne_none, leaves_iff]
  rw [Classical.or_iff_not_imp_left, not_not]

/-- A byte of a memory is zero where no entry of it stands. -/
theorem read_zero_of_no {m : Mem} {a : Nat} (h : ∀ e ∈ m, e.1 ≠ a) : m.read a = 0 := by
  induction m with
  | nil => rfl
  | cons e r ih =>
    rw [Mem.read, if_neg (Ne.symm (h e List.mem_cons_self))]
    exact ih fun e mem => h e (List.mem_cons_of_mem _ mem)

theorem read_filter (p : Nat → Bool) (m : Mem) (a : Nat) : Mem.read (m.filter fun e => p e.1) a = if p a then m.read a else 0 := by
  induction m with
  | nil => exact (ite_self 0).symm
  | cons e r ih =>
    rw [List.filter_cons]
    by_cases keep : p e.1 = true
    · rw [if_pos keep, Mem.read, Mem.read, ih]
      by_cases eq : a = e.1
      · rw [if_pos eq, if_pos eq, eq, if_pos keep]
      · rw [if_neg eq, if_neg eq]
    · rw [if_neg keep, ih, Mem.read]
      by_cases eq : a = e.1
      · rw [eq, if_neg keep, if_neg keep]
      · rw [if_neg eq]

theorem frameKey_zero (f b : Nat) : frameKey f b = frameKey f 0 + b := by
  have move (n : Nat) : n + b = n + 0 + b := by rw [Nat.add_zero]
  unfold frameKey
  exact move _

/-- Frames lie apart. -/
theorem frameKey_inj {f g a b : Nat} (hf : f < 786432) (hg : g < 786432) (ha : a < 2 ^ 21) (hb : b < 2 ^ 21)
    (eq : frameKey f a = frameKey g b) : f = g := by
  unfold frameKey at eq
  omega

theorem zeroFrame_read (s : State) {f b : Nat} (hb : b < 2 ^ 21) : (s.zeroFrame f).firn.read (frameKey f b) = 0 := by
  refine read_zero_of_no fun e mem eq => ?_
  have keep := (List.mem_filter.mp mem).2
  rw [eq, frameKey_zero f b] at keep
  simp only [Bool.not_eq_true', Bool.and_eq_false_iff, decide_eq_false_iff_not] at keep
  omega

/-! ## Frames that a change takes -/

/-- Some frames are taken for a job: of the free ones a table holds them, and what another job left in them is gone. -/
structure Taken (job : Nat) (l : List Nat) (s t : State) : Prop where
  rest : t = { s with firn := t.firn, frames := t.frames, dirty := t.dirty }
  firn : ∃ p : Nat → Bool, t.firn = s.firn.filter fun e => p e.1
  frames : ∀ f, AMap.get? t.frames f = if AMap.get? s.frames f = none ∧ f ∈ l then some job else AMap.get? s.frames f
  dirty : ∀ f, AMap.get? t.dirty f = if AMap.get? s.frames f = none ∧ f ∈ l then none else AMap.get? s.dirty f
  clean : ∀ f ∈ l, AMap.get? s.frames f = none → ∀ j, AMap.get? s.dirty f = some j → j ≠ job →
    ∀ b < 2 ^ 21, t.firn.read (frameKey f b) = 0

/-- Whether a place lies outside a frame. -/
def outside (f a : Nat) : Bool := !(decide (frameKey f 0 ≤ a) && decide (a < frameKey f 0 + 2 ^ 21))

theorem zeroFrame_firn (s : State) (f : Nat) : (s.zeroFrame f).firn = s.firn.filter fun e => outside f e.1 := by
  unfold State.zeroFrame outside
  dsimp only

theorem taken_one (job : Nat) (s : State) (f : Nat) : Taken job [f] s (takeFrame job s f) := by
  unfold takeFrame
  by_cases held : (AMap.get? s.frames f).isSome = true
  · have no (g : Nat) : ¬ (AMap.get? s.frames g = none ∧ g ∈ [f]) := by
      rintro ⟨free, mem⟩
      rw [List.mem_singleton.mp mem] at free
      rw [free] at held
      cases held
    rw [if_pos held]
    exact ⟨rfl, ⟨fun _ => true, (List.filter_eq_self.mpr fun _ _ => rfl).symm⟩, fun g => (if_neg (no g)).symm, fun g => (if_neg (no g)).symm,
      fun g mem free => absurd ⟨free, mem⟩ (no g)⟩
  · have free : AMap.get? s.frames f = none := by rwa [Option.isSome_iff_ne_none, not_not] at held
    rw [if_neg held]
    have put (v : State) (same : v.frames = s.frames ∧ v.dirty = s.dirty) : ∀ g,
        AMap.get? (v.allocate f job).frames g = (if AMap.get? s.frames g = none ∧ g ∈ [f] then some job else AMap.get? s.frames g) ∧
        AMap.get? (v.allocate f job).dirty g = if AMap.get? s.frames g = none ∧ g ∈ [f] then none else AMap.get? s.dirty g := by
      intro g
      show AMap.get? (v.frames.put f job) g = _ ∧ AMap.get? (v.dirty.del f) g = _
      rw [same.1, same.2]
      by_cases eq : g = f
      · subst eq
        rw [if_pos ⟨free, List.mem_singleton_self g⟩, if_pos ⟨free, List.mem_singleton_self g⟩]
        exact ⟨AMap.get?_put_same .., get?_del_same ..⟩
      · rw [if_neg fun h => eq (List.mem_singleton.mp h.2), if_neg fun h => eq (List.mem_singleton.mp h.2)]
        exact ⟨AMap.get?_put_ne _ _ eq, get?_del_ne _ eq⟩
    split
    case isTrue other =>
      have at' := put (s.zeroFrame f) ⟨rfl, rfl⟩
      refine ⟨rfl, ⟨_, zeroFrame_firn s f⟩, fun g => (at' g).1, fun g => (at' g).2, fun g mem _ j _ _ b hb => ?_⟩
      rw [List.mem_singleton.mp mem]
      exact zeroFrame_read s hb
    case isFalse own =>
      have at' := put s ⟨rfl, rfl⟩
      refine ⟨rfl, ⟨fun _ => true, (List.filter_eq_self.mpr fun _ _ => rfl).symm⟩, fun g => (at' g).1, fun g => (at' g).2,
        fun g mem _ j hj ne => absurd ?_ own⟩
      rw [List.mem_singleton.mp mem] at hj
      rw [hj, Option.any_some, decide_eq_true_iff]
      exact ne

theorem Taken.append {job : Nat} {l r : List Nat} {s t u : State} (h : Taken job l s t) (g : Taken job r t u) : Taken job (l ++ r) s u := by
  obtain ⟨p, hp⟩ := h.firn
  obtain ⟨q, hq⟩ := g.firn
  have none (f : Nat) : AMap.get? t.frames f = none ↔ AMap.get? s.frames f = none ∧ f ∉ l := by
    rw [h.frames]
    by_cases hn : AMap.get? s.frames f = none
    · by_cases mem : f ∈ l
      · simp [hn, mem]
      · simp [hn, mem]
    · simp [hn]
  refine ⟨?_, ⟨fun a => p a && q a, ?_⟩, fun f => ?_, fun f => ?_, fun f mem hn j hj ne b hb => ?_⟩
  · rw [g.rest, h.rest]
  · rw [hq, hp, List.filter_filter]
    exact List.filter_congr fun e _ => Bool.and_comm ..
  · rw [g.frames, h.frames]
    by_cases hn : AMap.get? s.frames f = Option.none <;> by_cases hl : f ∈ l <;> by_cases hr : f ∈ r <;> simp [hn, hl, hr]
  · rw [g.dirty, h.dirty, h.frames]
    by_cases hn : AMap.get? s.frames f = Option.none <;> by_cases hl : f ∈ l <;> by_cases hr : f ∈ r <;> simp [hn, hl, hr]
  · by_cases hl : f ∈ l
    · rw [hq, read_filter, h.clean f hl hn j hj ne b hb, ite_self]
    · have hr := (List.mem_append.mp mem).resolve_left hl
      refine g.clean f hr ((none f).mpr ⟨hn, hl⟩) j ?_ ne b hb
      rw [h.dirty, if_neg fun h => hl h.2]
      exact hj

theorem taken_all (job : Nat) (l : List Nat) : ∀ s : State, Taken job l s (l.foldl (takeFrame job) s) := by
  induction l with
  | nil =>
    intro s
    have no (f : Nat) : ¬ (AMap.get? s.frames f = none ∧ f ∈ ([] : List Nat)) := fun h => List.not_mem_nil h.2
    exact ⟨rfl, ⟨fun _ => true, (List.filter_eq_self.mpr fun _ _ => rfl).symm⟩, fun f => (if_neg (no f)).symm, fun f => (if_neg (no f)).symm,
      fun f mem => absurd mem List.not_mem_nil⟩
  | cons f l ih => exact fun s => (taken_one job s f).append (ih _)

/-! ## Frames that a change gives up -/

theorem released_spec (s : State) (job : Nat) (l : List Nat) :
    let t := s.released job l
    t = { s with frames := t.frames, dirty := t.dirty } ∧
      ∀ f, (f ∈ l ∧ f ∉ s.allMapped → AMap.get? t.frames f = none ∧ AMap.get? t.dirty f = some job) ∧
        (¬ (f ∈ l ∧ f ∉ s.allMapped) → AMap.get? t.frames f = AMap.get? s.frames f ∧ AMap.get? t.dirty f = AMap.get? s.dirty f) := by
  have fold (m : List Nat) : ∀ s : State,
      let t := m.foldl (fun s f => { s with frames := s.frames.del f, dirty := s.dirty.put f job }) s
      t = { s with frames := t.frames, dirty := t.dirty } ∧
        ∀ f, (f ∈ m → AMap.get? t.frames f = none ∧ AMap.get? t.dirty f = some job) ∧
          (f ∉ m → AMap.get? t.frames f = AMap.get? s.frames f ∧ AMap.get? t.dirty f = AMap.get? s.dirty f) := by
    induction m with
    | nil => exact fun s => ⟨rfl, fun f => ⟨fun h => absurd h List.not_mem_nil, fun _ => ⟨rfl, rfl⟩⟩⟩
    | cons g m ih =>
      intro s
      obtain ⟨rest, at'⟩ := ih { s with frames := s.frames.del g, dirty := s.dirty.put g job }
      refine ⟨rest, fun f => ⟨fun mem => ?_, fun out => ?_⟩⟩
      · by_cases later : f ∈ m
        · exact (at' f).1 later
        · obtain ⟨frames, dirty⟩ := (at' f).2 later
          have eq := (List.mem_cons.mp mem).resolve_right later
          subst eq
          exact ⟨frames.trans (get?_del_same ..), dirty.trans (AMap.get?_put_same ..)⟩
      · rw [List.mem_cons, not_or] at out
        obtain ⟨frames, dirty⟩ := (at' f).2 out.2
        exact ⟨frames.trans (get?_del_ne _ out.1), dirty.trans (AMap.get?_put_ne _ _ out.1)⟩
  obtain ⟨rest, at'⟩ := fold (l.filter fun f => !s.allMapped.contains f) s
  have mem (f : Nat) : f ∈ l.filter (fun f => !s.allMapped.contains f) ↔ f ∈ l ∧ f ∉ s.allMapped := by
    rw [List.mem_filter, Bool.not_eq_true', ← Bool.not_eq_true, List.contains_iff_mem]
  exact ⟨rest, fun f => ⟨fun h => (at' f).1 ((mem f).mpr h), fun h => (at' f).2 fun k => h ((mem f).mp k)⟩⟩

/-! ## What a table maps -/

theorem mem_of_read {m : Mem} {a : Nat} (h : m.read a ≠ 0) : ∃ e ∈ m, e.1 = a := by
  by_contra none
  exact h (read_zero_of_no fun e mem eq => none ⟨e, mem, eq⟩)

/-- An entry with its valid bit is listed among a frame's. -/
theorem frameEntries_of_valid (s : State) {f i : Nat} (hi : i < 2 ^ 18) (valid : entryF (s.frameWord f (i * 8)) 0 1 = 1) :
    (i, s.frameWord f (i * 8)) ∈ s.frameEntries f := by
  have byte : s.firn.read (frameKey f (i * 8)) ≠ 0 := by
    intro zero
    unfold entryF bits State.frameWord at valid
    rw [BitVec.toNat_ofNat, Mem.readN, zero] at valid
    have none : (0 : Byte).toNat = 0 := rfl
    rw [none] at valid
    omega
  obtain ⟨e, mem, eq⟩ := mem_of_read byte
  rw [frameKey_zero] at eq
  have index : i ∈ ((s.firn.filter (fun e => decide (frameKey f 0 ≤ e.1 ∧ e.1 < frameKey f 0 + 2 ^ 21))).map
      fun e => (e.1 - frameKey f 0) / 8).dedup := by
    rw [List.mem_dedup, List.mem_map]
    refine ⟨e, List.mem_filter.mpr ⟨mem, ?_⟩, ?_⟩
    · rw [decide_eq_true_iff]
      omega
    · omega
  exact List.mem_map_of_mem (f := fun i => (i, s.frameWord f (i * 8))) index

/-- What an entry of a table maps, the table maps. -/
theorem entryFrames_mapped (s : State) {root i f : Nat} (hi : i < 2 ^ 18) (mem : f ∈ entryFrames s (s.frameWord root (i * 8)) false) :
    f ∈ mappedFrames s root := by
  have valid : entryF (s.frameWord root (i * 8)) 0 1 = 1 := by
    have two : entryF (s.frameWord root (i * 8)) 0 1 < 2 := Nat.mod_lt _ (by norm_num)
    by_contra no
    have zero : entryF (s.frameWord root (i * 8)) 0 1 = 0 := by omega
    rw [entryFrames, if_pos zero] at mem
    exact List.not_mem_nil mem
  have listed := frameEntries_of_valid s hi valid
  have live : ¬ entryF (s.frameWord root (i * 8)) 0 1 = 0 := by omega
  generalize s.frameWord root (i * 8) = e at mem valid listed live
  unfold mappedFrames State.tableFrames State.pageFrames
  rw [entryFrames, if_neg live, if_neg Bool.false_ne_true] at mem
  refine List.mem_cons_of_mem _ (List.mem_append.mpr ?_)
  by_cases pointer : isPointer e = true
  · rw [if_pos pointer] at mem
    rcases List.mem_cons.mp mem with eq | below
    · exact .inl (List.mem_filterMap.mpr ⟨_, listed, by rw [if_pos pointer, eq]⟩)
    · exact .inr (List.mem_flatMap.mpr ⟨_, listed, by rw [if_neg live, if_pos pointer]; exact below⟩)
  · rw [if_neg pointer] at mem
    exact .inr (List.mem_flatMap.mpr ⟨_, listed, by rw [if_neg live, if_neg pointer]; exact mem⟩)

/-- What a stage's table maps is mapped. -/
theorem allMapped_of_root {s : State} {st root f : Nat} {u : Stage} (entry : AMap.get? s.stages st = some u) (hr : u.root = some root)
    (mem : f ∈ mappedFrames s root) : f ∈ s.allMapped := by
  unfold State.allMapped allRoots
  refine List.mem_flatMap.mpr ⟨root, List.mem_append_left _ (List.mem_filterMap.mpr ⟨(st, u), mem_of_get? entry, hr⟩), mem⟩

/-! ## The update -/

/-- A change of a first-level entry that is carried out, but for the frames that it gives up and for its end. -/
def written (s : State) (job root idx : Nat) (entry : DWord) : State :=
  let key := frameKey root (idx % 2 ^ 18 * 8)
  let fs := entryFrames (newTable s entry false) entry false
  let old := entryFrames s (s.frameWord root (idx % 2 ^ 18 * 8)) false
  let s1 := (newTable (fs.foldl (takeFrame job) s) entry false).tagOld key (mapTag s.mapNo)
  { s1 with
    firn := s1.firn.writeN key 8 entry.toNat
    tlb := s1.tlb.filter fun e => !e.path.contains key
    maps := s1.maps ++ [⟨s1.mapNo, old.filter fun f => !fs.contains f⟩], mapNo := s1.mapNo + 1 }

section
variable {s : State} {st root idx : Nat} {u : Stage} {entry : DWord}

theorem update_run (ready : 1 ≤ s.host.modState) (well : s.host.modState < 14)
    (here : AMap.get? s.stages st = some u) (going : u.status ≠ .ended) (hr : u.root = some root)
    (apart : root ∉ entryFrames (newTable s entry false) entry false)
    (free : ∀ f ∈ entryFrames (newTable s entry false) entry false, mappable s f = true ∧ takeable s f = true)
    (keeps : keepsApart (newTable s entry false) entry false = true) :
    exec (.mappingUpdate (.stage st) false idx entry) s =
      .next ((written s u.job root idx entry).released u.job (entryFrames s (s.frameWord root (idx % 2 ^ 18 * 8)) false)).mapsDone := by
  have managed : s.managed = true := by
    unfold State.managed
    rw [Bool.and_eq_true_iff, decide_eq_true_iff, decide_eq_true_iff]
    omega
  have table : tableRef s (.stage st) = some ⟨some root, st, none, u.job⟩ := by
    unfold tableRef
    dsimp only
    rw [here, ← hr]
    exact if_neg going
  have all : (entryFrames (newTable s entry false) entry false).all (fun f => mappable s f && takeable s f) = true :=
    List.all_eq_true.mpr fun f mem => Bool.and_eq_true_iff.mpr (free f mem)
  have out : (entryFrames (newTable s entry false) entry false).contains root = false := by
    rw [← Bool.not_eq_true, List.contains_iff_mem]
    exact apart
  show execMappingUpdate (.stage st) false idx entry s = _
  unfold execMappingUpdate
  rw [managed, table]
  refine (if_neg Bool.false_ne_true).trans ((if_neg ?_).trans ((if_neg ?_).trans ?_))
  · rintro (no | no)
    · rw [all] at no
      cases no
    · rw [keeps] at no
      cases no
  · rw [out]
    exact Bool.false_ne_true
  · rfl

/-- An entry's path with the mark of a change behind it, where it leads through the changed place. -/
def marked (key tag : Nat) (p : List Nat) : List Nat := if p.contains key then p ++ [tag] else p

theorem newTable_firn (s : State) (e : DWord) : ∃ q : Nat → Bool, newTable s e false = { s with firn := s.firn.filter fun e => q e.1 } := by
  unfold newTable
  dsimp only
  split
  · exact ⟨outside (entryF e 12 20), by rw [← zeroFrame_firn]; rfl⟩
  · exact ⟨fun _ => true, by rw [List.filter_eq_self.mpr fun _ _ => rfl]⟩

/-- The parts of a change that is carried out. -/
structure Written (s w : State) (job key : Nat) (fs : List Nat) (entry : DWord) : Prop where
  firn : ∃ m : Mem, Taken job fs s { s with firn := m, frames := w.frames, dirty := w.dirty } ∧
    ∃ q : Nat → Bool, w.firn = Mem.writeN (m.filter fun e => q e.1) key 8 entry.toNat
  host : w.host = s.host
  tlb : w.tlb = s.tlb.filter fun e => !e.path.contains key
  maps : ∃ l, w.maps = s.maps ++ [⟨s.mapNo, l⟩]
  reqs : w.reqs = s.reqs.map fun r => { r with path := marked key (mapTag s.mapNo) r.path }
  cells : w.cells = s.cells.map fun e => (e.1, { e.2 with copyAct := e.2.copyAct.map fun x => x.map fun y =>
    { y with work := y.work.map fun b => { b with path := marked key (mapTag s.mapNo) b.path } } })

theorem written_spec (s : State) (job root idx : Nat) (entry : DWord) :
    Written s (written s job root idx entry) job (frameKey root (idx % 2 ^ 18 * 8)) (entryFrames (newTable s entry false) entry false) entry := by
  have taken := taken_all job (entryFrames (newTable s entry false) entry false) s
  have rest := taken.rest
  unfold written
  extract_lets key fs old s1
  have hs1 : s1 = (newTable (fs.foldl (takeFrame job) s) entry false).tagOld key (mapTag s.mapNo) := rfl
  clear_value s1
  change Taken job fs s (fs.foldl (takeFrame job) s) at taken
  change fs.foldl (takeFrame job) s = _ at rest
  generalize fs.foldl (takeFrame job) s = t at taken rest hs1
  obtain ⟨q, new⟩ := newTable_firn t entry
  rw [new, rest] at hs1
  subst hs1
  refine ⟨⟨t.firn, ?_, q, rfl⟩, rfl, rfl, ⟨_, rfl⟩, rfl, rfl⟩
  exact rest ▸ taken

end

theorem marked_of_mem {key tag : Nat} {p : List Nat} (h : key ∈ p) : tag ∈ marked key tag p := by
  unfold marked
  rw [if_pos (List.contains_iff_mem.mpr h)]
  exact List.mem_append_right _ List.mem_cons_self

theorem marked_fresh {key no : Nat} {p : List Nat} (h : ∀ a ∈ p, a ≠ key ∧ a < 2 ^ 64) : mapTag no ∉ marked key (mapTag no) p := by
  unfold marked
  rw [if_neg fun mem => (h key (List.contains_iff_mem.mp mem)).1 rfl]
  intro mem
  have lt := (h _ mem).2
  unfold mapTag at lt
  omega

section
variable {s w : State} {job key : Nat} {fs : List Nat} {entry : DWord} (spec : Written s w job key fs entry)
include spec

theorem Written.used (h : ∃ r ∈ s.reqs, key ∈ r.path) : w.usesOld (mapTag s.mapNo) = true := by
  obtain ⟨r, mem, path⟩ := h
  unfold State.usesOld
  rw [Bool.or_eq_true_iff, List.any_eq_true, spec.reqs]
  exact .inl ⟨_, List.mem_map_of_mem mem, List.contains_iff_mem.mpr (marked_of_mem path)⟩

theorem Written.unused (reqs : ∀ r ∈ s.reqs, ∀ p ∈ r.path, p ≠ key ∧ p < 2 ^ 64)
    (copies : ∀ e ∈ s.cells, ∀ i : Fin 2, ∀ x, e.2.copyAct[i] = some x → ∀ b ∈ x.work, ∀ p ∈ b.path, p ≠ key ∧ p < 2 ^ 64) :
    w.usesOld (mapTag s.mapNo) = false := by
  unfold State.usesOld
  rw [Bool.or_eq_false_iff, List.any_eq_false, List.any_eq_false, spec.reqs, spec.cells]
  refine ⟨fun r mem used => ?_, fun e mem used => ?_⟩
  · obtain ⟨q, hq, rfl⟩ := List.mem_map.mp mem
    exact marked_fresh (reqs q hq) (List.contains_iff_mem.mp used)
  · obtain ⟨d, hd, rfl⟩ := List.mem_map.mp mem
    obtain ⟨i, hi, used⟩ := Vector.any_eq_true.mp used
    rw [Vector.getElem_map] at used
    obtain ⟨y, hy, used⟩ := (Option.any_eq_true _ _).mp used
    obtain ⟨x, hx, rfl⟩ := Option.map_eq_some_iff.mp hy
    obtain ⟨b, hb, used⟩ := List.any_eq_true.mp used
    obtain ⟨c, hc, rfl⟩ := List.mem_map.mp hb
    exact marked_fresh (copies d hd ⟨i, hi⟩ x hx c hc) (List.contains_iff_mem.mp used)

/-- The frames that a change takes, and what they hold, behind it. -/
theorem Written.frames {f : Nat} : AMap.get? w.frames f = if AMap.get? s.frames f = none ∧ f ∈ fs then some job else AMap.get? s.frames f := by
  obtain ⟨m, taken, -⟩ := spec.firn
  exact taken.frames f

theorem Written.dirty {f : Nat} : AMap.get? w.dirty f = if AMap.get? s.frames f = none ∧ f ∈ fs then none else AMap.get? s.dirty f := by
  obtain ⟨m, taken, -⟩ := spec.firn
  exact taken.dirty f

theorem Written.stands (ok : MemOk s) : w.firn.readN key 8 = entry.toNat := by
  obtain ⟨m, taken, q, eq⟩ := spec.firn
  obtain ⟨p, firn⟩ := taken.firn
  have wf : Mem.wf (m.filter fun e => q e.1) = true := by
    refine Mem.wf_filter ?_ _
    rw [show m = _ from firn]
    exact Mem.wf_filter ok.1 _
  rw [eq, Mem.readN_writeN_same wf]
  exact Nat.mod_eq_of_lt entry.isLt

end

/-- A frame that is taken from another job is empty, but for what the entry itself changes. -/
theorem Written.clean {s w : State} {job root o : Nat} {fs : List Nat} {entry : DWord} (spec : Written s w job (frameKey root o) fs entry)
    (inside : o + 8 ≤ 2 ^ 21) {f j : Nat} (mem : f ∈ fs) (apart : f ≠ root) (hf : f < 786432) (hr : root < 786432)
    (free : AMap.get? s.frames f = none) (left : AMap.get? s.dirty f = some j) (other : j ≠ job) :
    ∀ b < 2 ^ 21, w.firn.read (frameKey f b) = 0 := by
  intro b hb
  obtain ⟨m, taken, q, eq⟩ := spec.firn
  have zero := taken.clean f mem free j left other b hb
  have away : frameKey f b < frameKey root o ∨ frameKey root o + 8 ≤ frameKey f b := by
    by_contra no
    have same : frameKey f b = frameKey root (o + (frameKey f b - frameKey root o)) := by
      rw [frameKey_zero root (o + _), frameKey_zero root o] at *
      omega
    exact apart (frameKey_inj hf hr hb (by omega) same)
  rw [eq, Mem.read_writeN_out _ _ _ _ away, read_filter, show Mem.read m _ = 0 from zero, ite_self]

/-! ## Changes that are complete -/

theorem mapsDone_used {s : State} {m : MapJob} (maps : s.maps = [m]) (used : s.usesOld (mapTag m.no) = true) :
    s.mapsDone.host.mapDone = s.host.mapDone ∧ s.mapsDone.maps ≠ [] := by
  have none : s.maps.filter (fun m => !s.usesOld (mapTag m.no)) = [] := by
    rw [maps, List.filter_singleton, used]
    rfl
  unfold State.mapsDone
  dsimp only
  rw [none, maps]
  exact ⟨List.append_nil _, List.cons_ne_nil _ _⟩

theorem mapsDone_unused {s : State} {m : MapJob} (maps : s.maps = [m]) (unused : s.usesOld (mapTag m.no) = false) :
    s.mapsDone.host.mapDone = s.host.mapDone ++ [m.no] ∧ s.mapsDone.maps = [] := by
  have all : s.maps.filter (fun m => !s.usesOld (mapTag m.no)) = [m] := by
    rw [maps, List.filter_singleton, unused]
    rfl
  unfold State.mapsDone
  dsimp only
  rw [all, maps]
  refine ⟨rfl, ?_⟩
  rw [List.filter_singleton, List.contains_iff_mem.mpr (List.mem_singleton_self m)]
  rfl

/-! ## Releases by the host -/

section
variable {s : State} {st num : Nat} {k : Fin 4} {val : Word} (word : (AMap.getD s.host.release st 0).toNat = num + k.val * 2 ^ 18)
  (small : num < 2 ^ 18) (placed : (s.stage st).status = .placed) (inside : num < (s.stage st).w * (s.stage st).h) (idle : s.host.releases = [])
include word small placed inside idle

theorem release_enters : exec (.hostRelease st val) s =
    .next (State.landReleases { s with host := { s.host with releases := [(st, num, k, val)] } }) := by
  have low : (AMap.getD s.host.release st 0).toNat % 2 ^ 18 = num := by omega
  have high : Fin.ofNat 4 ((AMap.getD s.host.release st 0).toNat / 2 ^ 18) = k := by
    refine Fin.ext ?_
    show _ % 4 = k.val
    omega
  show execHostRelease st val s = _
  unfold execHostRelease
  dsimp only
  rw [low, high, idle, if_pos ⟨.inl placed, inside⟩]
  rfl

theorem release_waits (stops : (s.stage st).stopping = true) :
    exec (.hostRelease st val) s = .next { s with host := { s.host with releases := [(st, num, k, val)] } } := by
  rw [release_enters word small placed inside idle]
  have none : releaseWrite { s with host := { s.host with releases := [(st, num, k, val)] } } st num k val = none :=
    if_pos (.inr (.inl stops))
  unfold State.landReleases
  rw [List.foldl_cons, List.foldl_nil]
  dsimp only
  rw [none]
  refine congrArg Host.Outcome.next (if_neg ?_)
  show (s.stage st).status ≠ _
  rw [placed]
  exact nofun

theorem release_lands (goes : (s.stage st).stopping = false)
    (open' : ∀ h ∈ (s.cell ((s.stage st).cellNum num)).putHeld, h.ctx ≠ k ∨ h.r ≠ 7)
    (takes : ((s.cell ((s.stage st).cellNum num)).ctx k).takesPut 7 = true) :
    exec (.hostRelease st val) s =
      .next (s.setCell ((s.stage st).cellNum num) ((s.cell ((s.stage st).cellNum num)).putWrite k 7 val)) := by
  rw [release_enters word small placed inside idle]
  have free : (s.cell ((s.stage st).cellNum num)).putHeld.any (fun h => decide (h.ctx = k) && decide (h.r = 7)) = false := by
    rw [List.any_eq_false]
    intro h mem both
    rw [Bool.and_eq_true_iff, decide_eq_true_iff, decide_eq_true_iff] at both
    exact (open' h mem).elim (fun no => no both.1) fun no => no both.2
  have lands : releaseWrite { s with host := { s.host with releases := [(st, num, k, val)] } } st num k val =
      some (State.setCell { s with host := { s.host with releases := [(st, num, k, val)] } } ((s.stage st).cellNum num)
        ((s.cell ((s.stage st).cellNum num)).putWrite k 7 val)) := by
    refine (if_neg ?_).trans (if_pos takes)
    rintro (no | no | no)
    · exact no placed
    · exact Bool.false_ne_true (goes.symm.trans no)
    · exact Bool.false_ne_true (free.symm.trans no)
  unfold State.landReleases
  rw [List.foldl_cons, List.foldl_nil]
  dsimp only
  rw [lands]
  refine congrArg Host.Outcome.next ((if_neg ?_).trans ?_)
  · show (s.stage st).status ≠ _
    rw [placed]
    exact nofun
  · have erase : [(st, num, k, val)].erase (st, num, k, val) = [] := by simp
    show ({ s.setCell ((s.stage st).cellNum num) _ with host := { s.host with releases := [(st, num, k, val)].erase (st, num, k, val) } } : State) = _
    rw [erase, ← idle]
    rfl

end

/-! ## The statement -/

theorem update_idle {s : State} {st idx : Nat} {entry : DWord}
    (bad : ¬ (∀ f ∈ entryFrames (newTable s entry false) entry false, mappable s f = true ∧ takeable s f = true) ∨
      keepsApart (newTable s entry false) entry false = false) :
    exec (.mappingUpdate (.stage st) false idx entry) s = .next s := by
  have refused : (entryFrames (newTable s entry false) entry false).all (fun f => mappable s f && takeable s f) = false ∨
      keepsApart (newTable s entry false) entry false = false := by
    refine bad.imp_left fun no => ?_
    rw [← Bool.not_eq_true, List.all_eq_true]
    exact fun all => no fun f mem => Bool.and_eq_true_iff.mp (all f mem)
  show execMappingUpdate (.stage st) false idx entry s = _
  unfold execMappingUpdate
  split
  · rfl
  · cases tableRef s (.stage st) with
    | none => rfl
    | some r => exact if_pos refused

theorem mappable_lt {s : State} {f : Nat} (h : mappable s f = true) : f < 786432 := by
  unfold mappable frameOk at h
  rw [Bool.and_eq_true_iff, Bool.and_eq_true_iff, decide_eq_true_iff] at h
  exact h.1.1

/-- Settles O49: a change takes its frames one after another, writes its entry, and gives up what only the old entry mapped; the frames of
the old entry are all mapped, so no new one is given up. -/
theorem mappingsAndReleases : Obligations.MappingsAndReleases := by
  unfold Obligations.MappingsAndReleases
  intro s st root idx entry k num u s' frames free new key leaves
  refine ⟨takeable_iff s, ?_, update_idle, ?_⟩
  · intro ready well ok here going hr small apart all keeps
    have hkey : key = frameKey root (idx % 2 ^ 18 * 8) := by rw [frameKey]
    rw [hkey]
    have index : idx % 2 ^ 18 < 2 ^ 18 := Nat.mod_lt _ (Nat.two_pow_pos 18)
    have spec := written_spec s u.job root idx entry
    obtain ⟨rest, gives⟩ := released_spec (written s u.job root idx entry) u.job (entryFrames s (s.frameWord root (idx % 2 ^ 18 * 8)) false)
    refine ⟨_, update_run ready well here going hr apart all keeps, ?_⟩
    have oldMapped (f : Nat) (mem : f ∈ entryFrames s (s.frameWord root (idx % 2 ^ 18 * 8)) false) : f ∈ s.allMapped :=
      allMapped_of_root here hr (entryFrames_mapped s index mem)
    generalize written s u.job root idx entry = w at spec rest gives ⊢
    generalize entryFrames s (s.frameWord root (idx % 2 ^ 18 * 8)) false = old at rest gives oldMapped ⊢
    obtain ⟨l, maps⟩ := spec.maps
    have gone (f : Nat) : f ∈ old → f ∉ (w.released u.job old).mapsDone.allMapped → f ∉ w.allMapped := by
      intro _ out
      have same : (w.released u.job old).mapsDone.allMapped = w.allMapped := by
        show (w.released u.job old).allMapped = _
        rw [rest]
        rfl
      rwa [same] at out
    have firn : (w.released u.job old).mapsDone.firn = w.firn := by
      show (w.released u.job old).firn = _
      rw [rest]
    have change : (w.released u.job old).maps = w.maps ∧ (w.released u.job old).host = w.host ∧
        (w.released u.job old).usesOld (mapTag s.mapNo) = w.usesOld (mapTag s.mapNo) := by
      rw [rest]
      exact ⟨rfl, rfl, rfl⟩
    obtain ⟨sameMaps, sameHost, sameUse⟩ := change
    have one (none : s.maps = []) : (w.released u.job old).maps = [⟨s.mapNo, l⟩] := by
      rw [sameMaps, maps, none]
      rfl
    refine ⟨?_, ?_, ?_, ?_, ?_, ?_, ?_⟩
    · rw [firn]
      exact spec.stands ok
    · rintro f ⟨mem, fresh⟩ none
      obtain ⟨-, kept⟩ := gives f
      obtain ⟨hf, hd⟩ := kept fun h => fresh (oldMapped f h.1)
      exact ⟨hf.trans (spec.frames.trans (if_pos ⟨none, mem⟩)), hd.trans (spec.dirty.trans (if_pos ⟨none, mem⟩))⟩
    · intro f mem out
      exact (gives f).1 ⟨mem, gone f mem out⟩
    · intro f j mem none left other
      rw [firn]
      exact spec.clean (by omega) mem (fun eq => apart (eq ▸ mem)) (mappable_lt (all f mem).1) small none left other
    · show (w.released u.job old).tlb = _
      rw [rest]
      refine spec.tlb.trans (List.filter_congr fun e _ => ?_)
      by_cases mem : frameKey root (idx % 2 ^ 18 * 8) ∈ e.path
      · rw [List.contains_iff_mem.mpr mem, decide_eq_false (not_not_intro mem)]
        rfl
      · rw [Bool.eq_false_iff.mpr fun h => mem (List.contains_iff_mem.mp h), decide_eq_true mem]
        rfl
    · intro none used
      obtain ⟨done, left⟩ := mapsDone_used (one none) (sameUse.trans (spec.used used))
      exact ⟨done.trans (by rw [sameHost, spec.host]), left⟩
    · intro none reqs copies
      obtain ⟨done, left⟩ := mapsDone_unused (one none) (sameUse.trans (spec.unused reqs copies))
      exact ⟨done.trans (by rw [sameHost, spec.host]), left⟩
  · intro w n x word small placed inside idle val
    refine ⟨fun goes open' pres resv was => ?_, fun stops => release_waits word small placed inside idle stops⟩
    refine release_lands word small placed inside idle goes open' ?_
    show (!x.pres.getLsbD 7 && !x.resv.getLsbD 7 && !x.was.getLsbD 7) = true
    rw [pres, resv, was]
    rfl

end Sys2Proof.Mapping
end

section
/-! # Words and tile units that leave, and routers that forward them -/

namespace Sys2Proof.MeshMoves

open Sys2Proof.Machine Sys2Proof.Safety Sys2Proof.Rules Sys2Proof.Streams

/-! ## Sending -/

theorem countItem_of_route {c : CellState} {q : Fin 8} {r : Route} (h : c.routes[q] = some r) :
    c.countItem q = { c with routes := vset c.routes q (some { r with items := r.items + 1 }) } := by
  unfold CellState.countItem
  rw [h]
  rfl

section
variable {s : State} {n : Nat} {q : Fin 8} {r : Route} {g : Fin 8} {dx dy : Int}

theorem wordSend_goes {w : QWord} {rest : List QWord} (words : (s.cell n).oq[q] = w :: rest) (route : (s.cell n).routes[q] = some r)
    (target : r.target = .queue g dx dy) (going : (s.stage (s.cell n).stage).stopping = false) (stood : (s.cell n).oqAt[q] ≠ 0)
    (behind : ∀ k, (s.cell n).tsend = some k → k.q ≠ q) :
    let c := s.cell n
    let m := routeCell (s.stage c.stage) c dx dy
    (((s.cell m).iq[g]).length * 4 + s.flying (.queue m g) + 4 ≤ 32) →
      exec (.oqWordSend n q) s = .next { s.setCell n { { c with oq := vset c.oq q rest, oqAt := vset c.oqAt q (c.oqAt[q] - 1) } with
          routes := vset c.routes q (some { r with items := r.items + 1 }) } with
        packets := s.packets ++ [s.packet n q c.stage (.queue m g) (.word w) r.items] } := by
  intro c m room
  have free : ((s.stage c.stage).stopping || decide (c.oqAt[q] = 0) || c.tsend.any (fun k => decide (k.q = q))) = false := by
    have tile : c.tsend.any (fun k => decide (k.q = q)) = false := by
      rw [← Bool.not_eq_true, Option.any_eq_true]
      rintro ⟨k, hk, same⟩
      exact behind k hk (of_decide_eq_true same)
    rw [tile, going, decide_eq_false stood]
    rfl
  have target' : sending s c r = .go c.stage (.queue m g) := by
    unfold sending
    rw [target]
  have credit : roomAt s (.queue m g) 4 = true := decide_eq_true room
  have count : CellState.countItem { c with oq := vset c.oq q rest, oqAt := vset c.oqAt q (c.oqAt[q] - 1) } q = _ :=
    countItem_of_route (c := { c with oq := vset c.oq q rest, oqAt := vset c.oqAt q (c.oqAt[q] - 1) }) route
  show execOqWordSend n q s = _
  unfold execOqWordSend
  dsimp only
  rw [words, route]
  dsimp only
  rw [if_neg (by rw [free]; exact Bool.false_ne_true), target']
  dsimp only
  rw [if_pos credit, count]
  rfl

theorem wordSend_waits (h : (s.cell n).oqAt[q] = 0 ∨ ∃ k, (s.cell n).tsend = some k ∧ k.q = q) :
    exec (.oqWordSend n q) s = .next s := by
  have held : ((s.stage (s.cell n).stage).stopping || decide ((s.cell n).oqAt[q] = 0) ||
      (s.cell n).tsend.any (fun k => decide (k.q = q))) = true := by
    rcases h with none | ⟨k, hk, same⟩
    · rw [decide_eq_true none, Bool.or_true, Bool.true_or]
    · rw [hk, Option.any_some, decide_eq_true same, Bool.or_true]
  show execOqWordSend n q s = _
  unfold execOqWordSend
  dsimp only
  split
  · rw [if_pos held]
  · rfl

/-! ## Tile units -/

theorem popRing_plain {c : CellState} {g : Fin 8} (h : (c.rings[g]).prod ≠ 3) :
    c.popRing g = { c with rings := vset c.rings g (c.rings[g]).pop, ringAt := vset c.ringAt g (c.ringAt[g] - 1) } :=
  if_neg h

theorem active_sent (s : State) (n : Nat) (c : CellState) (l : List Packet) :
    ({ s.setCell n c with packets := l } : State).active n = { s.setCell n { c with lastAct := s.tick } with packets := l } :=
  congrArg (fun t : State => { t with packets := l }) (active_setCell s n c)

/-- A unit that leaves, with what its cell has become. -/
theorem unitSend {k : TSend} (tile : (s.cell n).tsend = some k) (route : (s.cell n).routes[k.q] = some r) (target : r.target = .ring g dx dy)
    (going : (s.stage (s.cell n).stage).stopping = false) (whole : (s.cell n).badSram = []) :
    let c := s.cell n
    let m := routeCell (s.stage c.stage) c dx dy
    let own := c.rings[k.g]
    let a := own.tile own.head + k.sent * 64
    ((s.cell m).rings[g]).bytes + s.flying (.ring m g) + 64 ≤
        (((s.cell m).rings[g]).depth + 1 - ((s.cell m).rings[g]).count) * ((s.cell m).rings[g]).size →
      exec (.tsendUnit n) s =
        let c1 := if k.sent + 1 < k.units then { c with tsend := some { k with sent := k.sent + 1 } }
          else ({ (c.popRing k.g) with tsend := none } : CellState).countItem k.q
        .next { s.setCell n { mended c1 a 64 with lastAct := s.tick } with
          packets := s.packets ++ [s.packet n k.q c.stage (.ring m g) (.unit (BitVec.ofNat 512 (c.sram.readN a 64)) own.mark) r.items] } := by
  intro c m own a room
  have credit : roomAt s (.ring m g) 64 = true := decide_eq_true room
  have bad : c.badWord a 64 = none := badWord_none whole a 64
  show execTsendUnit n s = _
  unfold execTsendUnit
  dsimp only
  rw [tile]
  dsimp only
  rw [route]
  dsimp only [Option.map_some]
  rw [target]
  dsimp only
  refine (if_neg ?_).trans ?_
  · rw [going, show roomAt s (.ring (routeCell (s.stage (s.cell n).stage) (s.cell n) dx dy) g) 64 = true from credit]
    exact Bool.false_ne_true
  · have mark : (own.mark || (none : Option Nat).isSome) = own.mark := Bool.or_false _
    rw [show (s.cell n).badWord (((s.cell n).rings[k.g]).tile ((s.cell n).rings[k.g]).head + k.sent * 64) 64 = none from bad]
    rw [show (((s.cell n).rings[k.g]).mark || (none : Option Nat).isSome) = own.mark from mark, mend_eq]
    exact congrArg Host.Outcome.next (active_sent s n _ _)

end

/-! ## Routers -/

theorem linkOk_eq_false {s : State} {k b : Nat} {p : Packet} (hp : s.packets[k]? = some p) (local' : ∀ h, p.target ≠ .egress h) :
    linkOk s (.packet k) p.goal b = false ↔ ∃ e ∈ s.stages, e.2.owns b = true ∧ e.1 ≠ p.stage ∧ e.2.owns p.goal = true := by
  have stage : flitStage s (.packet k) = some p.stage := by
    unfold flitStage
    dsimp only
    rw [hp]
    cases target : p.target with
    | egress h => exact absurd target (local' h)
    | queue m q => dsimp only [Option.bind_some]; rw [target]
    | ring m q => dsimp only [Option.bind_some]; rw [target]
  unfold linkOk
  rw [stage]
  dsimp only
  rw [List.all_eq_false]
  refine exists_congr fun e => and_congr_right fun _ => ?_
  rw [Bool.or_eq_true_iff, Bool.or_eq_true_iff, decide_eq_true_iff, Bool.not_eq_true', Bool.not_eq_true', not_or, not_or,
    Bool.not_eq_false, Bool.not_eq_false, and_assoc]

theorem linkOk_egress {s : State} {k b : Nat} {p : Packet} {h : Nat} (hp : s.packets[k]? = some p) (out : p.target = .egress h) (goal : Nat) :
    linkOk s (.packet k) goal b = true := by
  have stage : flitStage s (.packet k) = none := by
    unfold flitStage
    dsimp only
    rw [hp]
    dsimp only [Option.bind_some]
    rw [out]
  unfold linkOk
  rw [stage]

theorem lastOf_eq (p : Packet → Bool) (l : List Packet) : lastOf p l = (l.filter p).getLast? := by
  unfold lastOf
  rw [← List.head?_filter, List.filter_reverse, List.head?_reverse]

/-- The ways of a packet: the minimal ones of the turn rule, or the way of the packet of its route before it. -/
theorem packetFlit_ways (s : State) (k : Nat) (p : Packet) : (packetFlit s k p).ways =
    match ((s.packets.take k).filter fun e => decide (e.src = p.src ∧ e.oq = p.oq)).getLast? with
    | none => p.hop.ways p.goal
    | some o => (o.hop.trail.reverse[p.hop.trail.length]?).toList := by
  unfold packetFlit Hop.follow
  dsimp only
  rw [lastOf_eq]
  cases ((s.packets.take k).filter fun e => decide (e.src = p.src ∧ e.oq = p.oq)).getLast? <;> rfl

/-- A way that the turn rule gives leads nearer. -/
theorem oddEven_nearer {sx x y tx ty : Nat} {dir : Dir} (h : oddEven sx x y tx ty dir = true) :
    ((((dirMove dir x y).1 : Int) - tx).natAbs + (((dirMove dir x y).2 : Int) - ty).natAbs) + 1 =
      ((x : Int) - tx).natAbs + ((y : Int) - ty).natAbs := by
  cases dir with
  | north =>
    have lt := of_decide_eq_true (Bool.and_eq_true_iff.mp h).1
    simp only [dirMove]
    omega
  | east =>
    have lt := of_decide_eq_true (Bool.and_eq_true_iff.mp h).1
    simp only [dirMove]
    omega
  | south =>
    have lt := of_decide_eq_true (Bool.and_eq_true_iff.mp h).1
    simp only [dirMove]
    omega
  | west =>
    have lt : tx < x := of_decide_eq_true h
    simp only [dirMove]
    omega

section
variable {s : State} {i k : Nat} {p : Packet} {dir : Dir} (hf : s.flits[i]? = some (.packet k, packetFlit s k p))
include hf

/-- A packet that stands elsewhere than at its goal, in its turn. -/
theorem forward_runs (away : p.hop.router ≠ p.goal)
    (free : (portRoom s 0 ((dirMove dir p.hop.x p.hop.y).2 * 320 + (dirMove dir p.hop.x p.hop.y).1) dir &&
      linkFree s (packetFlit s k p) dir && hasTurn s s.takes (.packet k) (packetFlit s k p) (some dir)) = true) :
    exec (.meshFlitForward i dir) s =
      let b := (dirMove dir p.hop.x p.hop.y).2 * 320 + (dirMove dir p.hop.x p.hop.y).1
      let key := linkKey p.hop.router dir
      let s1 := { (s.turned (packetFlit s k p) (some dir)) with links := s.links.put key (AMap.getD s.links key 0 + p.data.size) }
      if linkOk s1 (.packet k) p.goal b then .next ((edgeMark s1 (.packet k) p.hop.router b).moveFlit (.packet k) dir)
      else .next (({ s1 with packets := s.packets.eraseIdx k } : State).routerRecord b (dirEntry dir)) := by
  show execMeshFlitForward i dir s = _
  unfold execMeshFlitForward
  rw [hf]
  refine (if_neg ?_).trans ((if_neg Bool.false_ne_true).trans (if_pos free))
  exact fun there => away (of_decide_eq_true there)

theorem forward_waits (h : p.hop.router = p.goal ∨
    (portRoom s 0 ((dirMove dir p.hop.x p.hop.y).2 * 320 + (dirMove dir p.hop.x p.hop.y).1) dir &&
      linkFree s (packetFlit s k p) dir && hasTurn s s.takes (.packet k) (packetFlit s k p) (some dir)) = false) :
    exec (.meshFlitForward i dir) s = .next s := by
  show execMeshFlitForward i dir s = _
  unfold execMeshFlitForward
  rw [hf]
  by_cases there : p.hop.router = p.goal
  · exact if_pos (decide_eq_true there)
  · refine (if_neg fun at' => there (of_decide_eq_true at')).trans ((if_neg Bool.false_ne_true).trans (if_neg ?_))
    exact fun free => Bool.false_ne_true ((h.resolve_left there).symm.trans free)

end

end Sys2Proof.MeshMoves
end

section
/-! # What a router forwards -/

namespace Sys2Proof.MeshMoves

open Sys2Proof.Machine Sys2Proof.Safety Sys2Proof.Rules Sys2Proof.Streams

theorem dirMove_x (dir : Dir) (x y : Nat) : (if dir = .east then x + 1 else if dir = .west then x - 1 else x) = (dirMove dir x y).1 := by
  cases dir <;> rfl

theorem dirMove_y (dir : Dir) (x y : Nat) : (if dir = .south then y + 1 else if dir = .north then y - 1 else y) = (dirMove dir x y).2 := by
  cases dir <;> rfl

/-- A packet that stands at the next router. -/
theorem movePacket {s : State} {k : Nat} {p : Packet} (hp : s.packets[k]? = some p) (dir : Dir) :
    s.moveFlit (.packet k) dir = { s with packets := s.packets.set k { p with
      hop := ⟨p.hop.sx, (dirMove dir p.hop.x p.hop.y).1, (dirMove dir p.hop.x p.hop.y).2, dir :: p.hop.trail, s.strip⟩ } } := by
  have moved : s.packets.modify k (fun p => { p with hop := p.hop.go dir s.strip }) = s.packets.set k { p with hop := p.hop.go dir s.strip } := by
    rw [List.modify_eq_set_getElem?, hp]
    rfl
  exact congrArg (fun l : List Packet => { s with packets := l }) moved

/-- A marked word that crosses the edge of its stage is logged. -/
theorem edgeMark_word {s : State} {k a b : Nat} {p : Packet} {w : QWord} (hp : s.packets[k]? = some p) (word : p.data = .word w) :
    edgeMark s (.packet k) a b =
      if w.x && (s.stage (s.cell p.src).stage).owns a && !(s.stage (s.cell p.src).stage).owns b then
        s.logMark (s.cell p.src).stage (s.cell p.src).cx (s.cell p.src).cy p.oq p.item else s := by
  unfold edgeMark
  dsimp only
  rw [hp]
  dsimp only
  rw [word]

theorem edgeMark_none {s : State} {k a b : Nat} {p : Packet} (hp : s.packets[k]? = some p)
    (h : (∀ w, p.data = .word w → w.x = false) ∨
      ¬ ((s.stage (s.cell p.src).stage).owns a = true ∧ (s.stage (s.cell p.src).stage).owns b = false)) :
    edgeMark s (.packet k) a b = s := by
  cases data : p.data with
  | word w =>
    rw [edgeMark_word hp data]
    refine if_neg fun marks => ?_
    rw [Bool.and_eq_true_iff, Bool.and_eq_true_iff, Bool.not_eq_true'] at marks
    obtain ⟨⟨marked, inside⟩, out⟩ := marks
    rcases h with plain | stays
    · rw [plain w data] at marked
      cases marked
    · exact stays ⟨inside, out⟩
  | unit d x =>
    unfold edgeMark
    dsimp only
    rw [hp]
    dsimp only
    rw [data]

theorem logMark_keeps (s : State) (st cx cy : Nat) (oq : Fin 8) (item : Nat) :
    (s.logMark st cx cy oq item).packets = s.packets ∧ (s.logMark st cx cy oq item).strip = s.strip := by
  unfold State.logMark
  dsimp only
  split <;> exact ⟨rfl, rfl⟩

/-! ## A packet's turn -/

/-- The router that a packet comes to. -/
def nextRouter (p : Packet) (dir : Dir) : Nat := (dirMove dir p.hop.x p.hop.y).2 * 320 + (dirMove dir p.hop.x p.hop.y).1

/-- Whether a packet may go: a free slot there, a free slot of the link, its turn. -/
def mayGo (s : State) (k : Nat) (p : Packet) (dir : Dir) : Bool :=
  portRoom s 0 (nextRouter p dir) dir && linkFree s (packetFlit s k p) dir && hasTurn s s.takes (.packet k) (packetFlit s k p) (some dir)

theorem mayGo_iff (s : State) (k : Nat) (p : Packet) (dir : Dir) : mayGo s k p dir = true ↔
    portRoom s 0 (nextRouter p dir) dir = true ∧
      AMap.getD s.links (linkKey p.hop.router dir) 0 + p.data.size ≤ (if s.strip % 8 = 7 then 1 else 2) ∧
      hasTurn s s.takes (.packet k) (packetFlit s k p) (some dir) = true := by
  have data : ((packetFlit s k p).cls ≠ 3 ∧ s.strip % 8 = 7) ↔ s.strip % 8 = 7 := ⟨And.right, fun h => ⟨nofun, h⟩⟩
  unfold mayGo linkFree
  rw [Bool.and_eq_true_iff, Bool.and_eq_true_iff, decide_eq_true_iff, if_congr data rfl rfl, and_assoc]
  rfl

/-- The state of a packet that takes its turn. -/
def linked (s : State) (p : Packet) (dir : Dir) : State :=
  { s with
    rr := s.rr.put (arbKey 0 p.hop.router (some dir)) (p.hop.trail.head?.elim 4 dirEntry)
    links := s.links.put (linkKey p.hop.router dir) (AMap.getD s.links (linkKey p.hop.router dir) 0 + p.data.size) }

/-- The state of a packet that stands at the next router. -/
def stepped (t : State) (k : Nat) (p : Packet) (dir : Dir) : State :=
  { t with packets := t.packets.set k { p with
    hop := ⟨p.hop.sx, (dirMove dir p.hop.x p.hop.y).1, (dirMove dir p.hop.x p.hop.y).2, dir :: p.hop.trail, t.strip⟩ } }

section
variable {s : State} {i k : Nat} {p : Packet} {dir : Dir} (hp : s.packets[k]? = some p) (hf : s.flits[i]? = some (.packet k, packetFlit s k p))
  (away : p.hop.router ≠ p.goal) (free : mayGo s k p dir = true)
include hp hf away free

theorem forward_refused (local' : ∀ h, p.target ≠ .egress h)
    (foreign : ∃ e ∈ s.stages, e.2.owns (nextRouter p dir) = true ∧ e.1 ≠ p.stage ∧ e.2.owns p.goal = true) :
    exec (.meshFlitForward i dir) s =
      .next (({ linked s p dir with packets := s.packets.eraseIdx k } : State).routerRecord (nextRouter p dir) (dirEntry dir)) := by
  have no : linkOk (linked s p dir) (.packet k) p.goal (nextRouter p dir) = false := (linkOk_eq_false (s := linked s p dir) hp local').mpr foreign
  exact (forward_runs hf away free).trans (if_neg fun ok => Bool.false_ne_true (no.symm.trans ok))

theorem forward_passes (ok : ¬ (∃ e ∈ s.stages, e.2.owns (nextRouter p dir) = true ∧ e.1 ≠ p.stage ∧ e.2.owns p.goal = true) ∨ ∃ h, p.target = .egress h) :
    exec (.meshFlitForward i dir) s =
      .next ((edgeMark (linked s p dir) (.packet k) p.hop.router (nextRouter p dir)).moveFlit (.packet k) dir) := by
  have yes : linkOk (linked s p dir) (.packet k) p.goal (nextRouter p dir) = true := by
    by_cases out : ∃ h, p.target = .egress h
    · obtain ⟨h, target⟩ := out
      exact linkOk_egress (s := linked s p dir) hp target _
    · rw [← Bool.not_eq_false, linkOk_eq_false (s := linked s p dir) hp fun h target => out ⟨h, target⟩]
      exact ok.resolve_right out
  exact (forward_runs hf away free).trans (if_pos yes)

variable (ok : ¬ (∃ e ∈ s.stages, e.2.owns (nextRouter p dir) = true ∧ e.1 ≠ p.stage ∧ e.2.owns p.goal = true) ∨ ∃ h, p.target = .egress h)
include ok

/-- A marked word that crosses the edge of its stage is logged as it goes. -/
theorem forward_logs {w : QWord} (data : p.data = .word w) (marked : w.x = true)
    (crosses : (s.stage (s.cell p.src).stage).owns p.hop.router = true ∧ (s.stage (s.cell p.src).stage).owns (nextRouter p dir) = false) :
    exec (.meshFlitForward i dir) s = .next (stepped ((linked s p dir).logMark (s.cell p.src).stage (s.cell p.src).cx (s.cell p.src).cy p.oq p.item)
      k p dir) := by
  have log : edgeMark (linked s p dir) (.packet k) p.hop.router (nextRouter p dir) =
      (linked s p dir).logMark (s.cell p.src).stage (s.cell p.src).cx (s.cell p.src).cy p.oq p.item := by
    refine (edgeMark_word (s := linked s p dir) hp data).trans (if_pos ?_)
    rw [marked, Bool.true_and, Bool.and_eq_true_iff, Bool.not_eq_true']
    exact crosses
  obtain ⟨packets, -⟩ := logMark_keeps (linked s p dir) (s.cell p.src).stage (s.cell p.src).cx (s.cell p.src).cy p.oq p.item
  rw [forward_passes hp hf away free ok, log, movePacket (by rw [packets]; exact hp)]
  rfl

theorem forward_moves (plain : (∀ w, p.data = .word w → w.x = false) ∨
      ¬ ((s.stage (s.cell p.src).stage).owns p.hop.router = true ∧ (s.stage (s.cell p.src).stage).owns (nextRouter p dir) = false)) :
    exec (.meshFlitForward i dir) s = .next (stepped (linked s p dir) k p dir) := by
  rw [forward_passes hp hf away free ok, edgeMark_none (s := linked s p dir) hp plain, movePacket (s := linked s p dir) hp]
  rfl

end

end Sys2Proof.MeshMoves
end

section
/-! # Words and units that arrive -/

namespace Sys2Proof.MeshMoves

open Sys2Proof.Machine Sys2Proof.Safety Sys2Proof.Rules Sys2Proof.Streams

/-! ## The order of a buffer -/

theorem getElem?_indexed {α : Type} {l : List α} {i : Nat} {a : α} (h : l[i]? = some a) : (indexed l)[i]? = some (i, a) := by
  have lt : i < l.length := (List.getElem?_eq_some_iff.mp h).1
  exact List.getElem?_zip_eq_some.mpr ⟨by simp [lt], h⟩

/-- Packets stand first among the flits, each under its number. -/
theorem flits_packet {s : State} {j : Nat} {o : Packet} (h : s.packets[j]? = some o) : s.flits[j]? = some (.packet j, packetFlit s j o) := by
  have first : ((indexed s.packets).map fun e => ((.packet e.1, packetFlit s e.1 e.2) : FlitRef × Flit))[j]? = some (.packet j, packetFlit s j o) := by
    rw [List.getElem?_map, getElem?_indexed h]
    rfl
  have lt := (List.getElem?_eq_some_iff.mp first).1
  unfold State.flits
  simp only [List.append_assoc]
  rw [List.getElem?_append_left lt]
  exact first

theorem flits_packet_index {s : State} {i j : Nat} {f : Flit} (h : s.flits[j]? = some (.packet i, f)) : j = i := by
  by_cases lt : j < s.packets.length
  · have at' := flits_packet (List.getElem?_eq_getElem lt)
    rw [at'] at h
    exact FlitRef.packet.inj (Prod.mk.inj (Option.some.inj h)).1
  · exfalso
    have length : ((indexed s.packets).map fun e => ((.packet e.1, packetFlit s e.1 e.2) : FlitRef × Flit)).length ≤ j := by
      simp [indexed]
      omega
    unfold State.flits at h
    simp only [List.append_assoc] at h
    rw [List.getElem?_append_right length] at h
    have mem := List.mem_of_getElem? h
    simp at mem

/-- What leaves came to its buffer before all that stands in it, and of what came with it, it has the lowest number. -/
theorem leaving_first {s : State} {i : Nat} {p : Packet} {f : Flit} (hp : s.packets[i]? = some p) (leaves : s.leaving (.packet i) = some f)
    {j : Nat} {o : Packet} (ho : s.packets[j]? = some o) (hx : o.hop.x = p.hop.x) (hy : o.hop.y = p.hop.y)
    (port : o.hop.trail.head? = p.hop.trail.head?) : (j < i → p.hop.came < o.hop.came) ∧ (i < j → p.hop.came ≤ o.hop.came) := by
  obtain ⟨mem, -, turn⟩ := leaving_some leaves
  obtain ⟨q, hq, rfl⟩ := mem_flits_packet.mp mem
  obtain rfl : p = q := Option.some.inj (hp.symm.trans hq)
  unfold hasTurn at turn
  dsimp only at turn
  rw [Bool.and_eq_true_iff, Bool.and_eq_true_iff, List.contains_iff_mem] at turn
  obtain ⟨⟨heads, -⟩, -⟩ := turn
  unfold State.heads at heads
  dsimp only at heads
  obtain ⟨⟨m, e⟩, listed, eq⟩ := List.mem_map.mp heads
  obtain ⟨listed, head⟩ := List.mem_filter.mp listed
  dsimp only at eq head
  subst eq
  have index := flits_packet_index (mem_indexed.mp listed)
  subst index
  unfold isHead at head
  rw [Bool.and_eq_true_iff, Bool.not_eq_true', Bool.not_eq_true', List.any_eq_false, List.any_eq_false] at head
  obtain ⟨before, behind⟩ := head
  have at' := flits_packet ho
  have beside : (packetFlit s j o).beside (packetFlit s m p) = true := by
    unfold Flit.beside
    rw [decide_eq_true_iff]
    refine ⟨rfl, ?_, ?_⟩
    · show o.hop.y * 320 + o.hop.x = p.hop.y * 320 + p.hop.x
      rw [hx, hy]
    · show o.hop.trail.head?.elim 4 dirEntry = p.hop.trail.head?.elim 4 dirEntry
      rw [port]
  refine ⟨fun lt => ?_, fun gt => ?_⟩
  · have no := before (.packet j, packetFlit s j o) (List.mem_of_getElem? (by rw [List.getElem?_take_of_lt lt]; exact at'))
    rw [Bool.and_eq_true_iff, decide_eq_true_iff, not_and] at no
    exact Nat.lt_of_not_le (no beside)
  · have no := behind (.packet j, packetFlit s j o) (List.mem_of_getElem? (i := j - (m + 1)) (by
      rw [List.getElem?_drop, show m + 1 + (j - (m + 1)) = j by omega]
      exact at'))
    rw [Bool.and_eq_true_iff, decide_eq_true_iff, not_and] at no
    exact Nat.le_of_not_lt (no beside)

/-! ## What a target takes -/

/-- A packet that leaves the mesh at a cell of its stage. -/
theorem deliver_runs {s : State} {i n : Nat} {p : Packet} {f : Flit} {c : CellState} (hp : s.packets[i]? = some p)
    (leaves : s.leaving (.packet i) = some f) (target : p.target.cell = some n) (ok : PktData → Bool) (takes : ok p.data = true)
    (here : AMap.get? s.cells n = some c) (own : c.stage = p.stage) :
    let t : State := { s with
      rr := s.rr.put (arbKey 0 (p.hop.y * 320 + p.hop.x) none) (p.hop.trail.head?.elim 4 dirEntry), packets := s.packets.eraseIdx i }
    deliver i s ok = .next (match p.target, p.data with
      | .queue _ q, .word w => badWord (t.setCell n { c with iq := vset c.iq q (c.iq[q] ++ [{ w with x := w.x || !p.good }]) }) p n q.val
      | .ring _ g, .word w => badWord (t.setCell n (c.ringWord g w.data (w.x || !p.good))) p n g.val
      | .ring _ g, .unit d x => badTile (t.setCell n (c.ringUnit g d (x || !p.good))) p n g
      | _, _ => t) := by
  intro t
  obtain ⟨mem, -, -⟩ := leaving_some leaves
  obtain ⟨q, hq, rfl⟩ := mem_flits_packet.mp mem
  obtain rfl : p = q := Option.some.inj (hp.symm.trans hq)
  unfold deliver
  rw [hp, leaves]
  dsimp only
  rw [target]
  dsimp only
  rw [if_pos takes]
  unfold consume
  dsimp only
  have here' : AMap.get? (s.turned (packetFlit s i p) none).cells n = some c := here
  rw [here']
  dsimp only
  rw [if_neg (not_not_intro own)]
  rfl

/-! ## Words of a ring -/

/-- A ring whose tail tile has taken some bytes, and is pushed when they fill it. -/
def grown (r : Ring) (bytes : Nat) (buf : List Word) (x : Bool) : Ring :=
  if r.bytes + bytes = (r.tsz + 1) * 64 then
    { r with
      tail := (r.tail + 1) % (r.depth + 1), count := r.count + 1, marks := r.marks ++ [r.acc || x], part := 0, acc := false, bytes := 0
      buf := [] }
  else { r with bytes := r.bytes + bytes, buf := buf, acc := r.acc || x }

/-- A ring that has taken one word: what is left in its buffer, and a push where that fills the tile. -/
theorem grown_word (r : Ring) (buf : List Word) (x : Bool) :
    (if ({ r with bytes := r.bytes + 4, buf := buf, acc := r.acc || x } : Ring).bytes =
          ({ r with bytes := r.bytes + 4, buf := buf, acc := r.acc || x } : Ring).size then
        ({ r with bytes := r.bytes + 4, buf := buf, acc := r.acc || x } : Ring).push (r.acc || x)
      else { r with bytes := r.bytes + 4, buf := buf, acc := r.acc || x }) = grown r 4 buf x := rfl

theorem ringWord_fills {c : CellState} {g : Fin 8} (v : Word) (x : Bool) (short : (c.rings[g]).buf.length < 15) :
    c.ringWord g v x = { c with rings := vset c.rings g (grown (c.rings[g]) 4 ((c.rings[g]).buf ++ [v]) x) } := by
  have part : decide (16 ≤ ((c.rings[g]).buf ++ [v]).length) = false := by
    rw [decide_eq_false_iff_not, List.length_append, List.length_singleton]
    omega
  unfold CellState.ringWord
  dsimp only
  rw [part, if_neg Bool.false_ne_true, if_neg Bool.false_ne_true, grown_word]
  rfl

/-- The last word of a block takes it into the SRAM. -/
theorem ringWord_writes {c : CellState} {g : Fin 8} (v : Word) (x : Bool) (full : (c.rings[g]).buf.length = 15) :
    c.ringWord g v x = { c with
      sram := c.sram.writeN ((c.rings[g]).tile (c.rings[g]).tail + ((c.rings[g]).bytes + 4 - 64)) 64 (packWords ((c.rings[g]).buf ++ [v]))
      rings := vset c.rings g (grown (c.rings[g]) 4 [] x) } := by
  have whole : decide (16 ≤ ((c.rings[g]).buf ++ [v]).length) = true := by
    rw [decide_eq_true_iff, List.length_append, List.length_singleton]
    omega
  have set (m : Mem) (r : Ring) : ({ c with sram := m } : CellState).setRing g r = { c with sram := m, rings := vset c.rings g r } := rfl
  unfold CellState.ringWord
  dsimp only
  rw [whole, if_pos rfl, if_pos rfl, grown_word, set]

/-- A ring whose tail tile holds so many bytes, with words of the next block and a mark. -/
def partly (r : Ring) (bytes : Nat) (buf : List Word) (acc : Bool) : Ring := { r with bytes := bytes, buf := buf, acc := acc }

/-- A ring with some words more in its buffer. -/
def buffered (r : Ring) (l : List Word) (x : Bool) : Ring := partly r (r.bytes + 4 * l.length) (r.buf ++ l) (r.acc || x)

theorem buffered_buffered (r : Ring) (w : Word) (l : List Word) (x : Bool) : buffered (buffered r [w] x) l x = buffered r (w :: l) x := by
  have bytes : r.bytes + 4 * [w].length + 4 * l.length = r.bytes + 4 * (w :: l).length := by
    simp only [List.length_cons, List.length_nil]
    omega
  have buf : r.buf ++ [w] ++ l = r.buf ++ w :: l := List.append_assoc ..
  have acc : (r.acc || x || x) = (r.acc || x) := by rw [Bool.or_assoc, Bool.or_self]
  show partly r (r.bytes + 4 * [w].length + 4 * l.length) (r.buf ++ [w] ++ l) (r.acc || x || x) = _
  rw [bytes, buf, acc]
  rfl

theorem ringWord_buffers {c : CellState} {g : Fin 8} (v : Word) (x : Bool) (short : (c.rings[g]).buf.length < 15)
    (room : (c.rings[g]).bytes + 4 < (c.rings[g]).size) : c.ringWord g v x = { c with rings := vset c.rings g (buffered (c.rings[g]) [v] x) } := by
  have open' : ¬ (c.rings[g]).bytes + 4 = ((c.rings[g]).tsz + 1) * 64 := Nat.ne_of_lt room
  rw [ringWord_fills v x short, grown, if_neg open']
  rfl

/-- Fewer words than a block stay in the buffer. -/
theorem ringWords_buffer (g : Fin 8) (x : Bool) : ∀ (l : List Word) (c : CellState), (c.rings[g]).buf.length + l.length ≤ 15 →
    (c.rings[g]).bytes + 4 * l.length < (c.rings[g]).size → l ≠ [] →
    l.foldl (fun c w => c.ringWord g w x) c = { c with rings := vset c.rings g (buffered (c.rings[g]) l x) }
  | [], _, _, _, some' => absurd rfl some'
  | [w], c, short, room, _ => by
    rw [List.length_singleton] at short room
    exact ringWord_buffers w x (by omega) (by omega)
  | w :: v :: l, c, short, room, _ => by
    rw [List.length_cons, List.length_cons] at short room
    have same : (vset c.rings g (buffered (c.rings[g]) [w] x))[g] = buffered (c.rings[g]) [w] x := vset_same ..
    have length : (buffered (c.rings[g]) [w] x).buf.length = (c.rings[g]).buf.length + 1 := List.length_append
    have bytes : (buffered (c.rings[g]) [w] x).bytes = (c.rings[g]).bytes + 4 := rfl
    rw [List.foldl_cons, ringWord_buffers w x (by omega) (by omega),
      ringWords_buffer g x (v :: l) { c with rings := vset c.rings g (buffered (c.rings[g]) [w] x) }]
    · dsimp only
      rw [same, vset_vset, buffered_buffered]
    · dsimp only
      rw [same, length, List.length_cons]
      omega
    · dsimp only
      rw [same, bytes, List.length_cons]
      show _ < (c.rings[g]).size
      omega
    · exact List.cons_ne_nil _ _

theorem packWords_cons (w : Word) (l : List Word) : packWords (w :: l) = w.toNat + 2 ^ 32 * packWords l := by
  rw [packWords, List.foldr_cons, packWords]

/-- The words of a packed number. -/
theorem packWords_word : ∀ (l : List Word) (k : Nat) (v : Word), l[k]? = some v → packWords l / 2 ^ (32 * k) % 2 ^ 32 = v.toNat
  | w :: l, 0, v, h => by
    obtain rfl := Option.some.inj h
    rw [packWords_cons]
    have lt := w.isLt
    omega
  | w :: l, k + 1, v, h => by
    have rest := packWords_word l k v h
    rw [packWords_cons]
    have lt := w.isLt
    rw [show 32 * (k + 1) = 32 + 32 * k by omega, Nat.pow_add, ← Nat.div_div_eq_div_mul, Nat.add_mul_div_left _ _ (Nat.two_pow_pos 32),
      Nat.div_eq_of_lt lt, Nat.zero_add]
    exact rest

/-- The words of a number, packed again. -/
theorem packWords_words : ∀ (n d : Nat), packWords ((List.range n).map fun k => word (d / 2 ^ (32 * k))) = d % 2 ^ (32 * n)
  | 0, d => (Nat.mod_one d).symm
  | n + 1, d => by
    have rest : (fun k => word (d / 2 ^ (32 * (k + 1)))) = fun k => word (d / 2 ^ 32 / 2 ^ (32 * k)) := by
      funext k
      rw [Nat.div_div_eq_div_mul, ← Nat.pow_add, show 32 + 32 * k = 32 * (k + 1) by omega]
    have later : (List.range n).map ((fun k => word (d / 2 ^ (32 * k))) ∘ Nat.succ) = (List.range n).map fun k => word (d / 2 ^ (32 * (k + 1))) :=
      rfl
    rw [List.range_succ_eq_map, List.map_cons, List.map_map, packWords_cons, later]
    have low : (word d).toNat = d % 2 ^ 32 := BitVec.toNat_ofNat ..
    rw [rest, packWords_words n (d / 2 ^ 32), Nat.mul_zero, Nat.pow_zero, Nat.div_one, show 32 * (n + 1) = 32 + 32 * n by omega, Nat.pow_add,
      Nat.mod_mul, low]

theorem packWords_unit (d : VWord) : packWords (unitWords d) = d.toNat :=
  have bits : 32 * 16 = 512 := rfl
  (packWords_words 16 d.toNat).trans (by rw [bits]; exact Nat.mod_eq_of_lt d.isLt)

theorem unitWords_eq (d : VWord) : unitWords d = ((List.range 15).map fun k => word (d.toNat / 2 ^ (32 * k))) ++ [word (d.toNat / 2 ^ (32 * 15))] := by
  rw [unitWords, List.range_succ, List.map_append]
  rfl

/-- A unit enters the tail tile as one block. -/
theorem ringUnit_eq {c : CellState} {g : Fin 8} (d : VWord) (x : Bool) (fits : (c.rings[g]).bytes + 64 ≤ ((c.rings[g]).tsz + 1) * 64)
    (empty : (c.rings[g]).buf = []) :
    c.ringUnit g d x = { c with
      sram := c.sram.writeN ((c.rings[g]).tile (c.rings[g]).tail + (c.rings[g]).bytes) 64 d.toNat
      rings := vset c.rings g (grown (c.rings[g]) 64 [] x) } := by
  let l : List Word := (List.range 15).map fun k => word (d.toNat / 2 ^ (32 * k))
  have length : l.length = 15 := by rw [List.length_map, List.length_range]
  have some' : l ≠ [] := fun none => by rw [none] at length; cases length
  have first : l.foldl (fun c w => c.ringWord g w x) c = { c with rings := vset c.rings g (buffered (c.rings[g]) l x) } := by
    refine ringWords_buffer g x l c ?_ ?_ some'
    · rw [empty, length]
      exact Nat.le_refl _
    · rw [length]
      exact Nat.lt_of_lt_of_le (by omega) fits
  have same : (vset c.rings g (buffered (c.rings[g]) l x))[g] = buffered (c.rings[g]) l x := vset_same ..
  have buf : (buffered (c.rings[g]) l x).buf = l := by rw [buffered, empty]; exact List.nil_append l
  have bytes : (buffered (c.rings[g]) l x).bytes = (c.rings[g]).bytes + 60 := by rw [buffered, length]; rfl
  have place : (buffered (c.rings[g]) l x).tile (buffered (c.rings[g]) l x).tail + ((buffered (c.rings[g]) l x).bytes + 4 - 64) =
      (c.rings[g]).tile (c.rings[g]).tail + (c.rings[g]).bytes := by
    rw [bytes]
    exact congrArg _ (by omega)
  have tile : grown (buffered (c.rings[g]) l x) 4 [] x = grown (c.rings[g]) 64 [] x := by
    have acc : ((buffered (c.rings[g]) l x).acc || x) = ((c.rings[g]).acc || x) := by
      show ((c.rings[g]).acc || x || x) = _
      rw [Bool.or_assoc, Bool.or_self]
    unfold grown
    rw [acc, bytes]
    rfl
  rw [CellState.ringUnit, unitWords_eq, List.foldl_append, first, List.foldl_cons, List.foldl_nil, ringWord_writes]
  · dsimp only
    rw [same, vset_vset, place, tile, buf, ← unitWords_eq, packWords_unit]
  · dsimp only
    rw [same, buf, length]

end Sys2Proof.MeshMoves
end

section
/-! # Words and units on the mesh, settled -/

namespace Sys2Proof.MeshMoves

open Sys2Proof.Machine Sys2Proof.Safety Sys2Proof.Rules Sys2Proof.Streams

section
variable {s : State} {i n : Nat} {p : Packet} {c : CellState} {q : Fin 8} {f : Flit} (hp : s.packets[i]? = some p)
  (here : AMap.get? s.cells n = some c) (own : c.stage = p.stage) (good : p.good = true) (leaves : s.leaving (.packet i) = some f)

/-- The state of a packet that has been taken by a cell. -/
def taken (s : State) (i n : Nat) (p : Packet) (x : CellState) : State :=
  ({ s with
    rr := s.rr.put (arbKey 0 (p.hop.y * 320 + p.hop.x) none) (p.hop.trail.head?.elim 4 dirEntry), packets := s.packets.eraseIdx i } : State).setCell n x

include good in
theorem badWord_good (t : State) (m o : Nat) : badWord t p m o = t := if_pos good

include good in
theorem badTile_good (t : State) (m : Nat) (g : Fin 8) : badTile t p m g = t := if_pos (by rw [good]; rfl)

include hp here own good leaves

theorem word_enters {w : QWord} (target : p.target = .queue n q) (data : p.data = .word w) :
    exec (.wordDeliver i) s = .next (taken s i n p { c with iq := vset c.iq q (c.iq[q] ++ [w]) }) := by
  have run := deliver_runs hp leaves (by rw [target]; rfl) PktData.isWord (by rw [data]; rfl) here own
  dsimp only at run
  rw [target, data] at run
  dsimp only at run
  rw [badWord_good good, good, Bool.not_true, Bool.or_false] at run
  exact run

theorem ringWord_enters {w : QWord} (target : p.target = .ring n q) (data : p.data = .word w) :
    exec (.wordDeliver i) s = .next (taken s i n p (c.ringWord q w.data w.x)) := by
  have run := deliver_runs hp leaves (by rw [target]; rfl) PktData.isWord (by rw [data]; rfl) here own
  dsimp only at run
  rw [target, data] at run
  dsimp only at run
  rw [badWord_good good, good, Bool.not_true, Bool.or_false] at run
  exact run

theorem unit_enters {d : VWord} {x : Bool} (target : p.target = .ring n q) (data : p.data = .unit d x) :
    exec (.tileArrive i) s = .next (taken s i n p (c.ringUnit q d x)) := by
  have run := deliver_runs hp leaves (by rw [target]; rfl) (fun d => !d.isWord) (by rw [data]; rfl) here own
  dsimp only at run
  rw [target, data] at run
  dsimp only at run
  rw [badTile_good good, good, Bool.not_true, Bool.or_false] at run
  exact run

end

/-- A cell whose tile has left it. -/
def tileLeft (c : CellState) (k : TSend) (r : Route) : CellState :=
  { c with
    tsend := none
    ringAt := vset c.ringAt k.g (c.ringAt[k.g] - 1)
    rings := vset c.rings k.g (c.rings[k.g]).pop
    routes := vset c.routes k.q (some { r with items := r.items + 1 }) }

theorem tileLeft_eq {c : CellState} {k : TSend} {r : Route} (route : c.routes[k.q] = some r) (plain : (c.rings[k.g]).prod ≠ 3) :
    ({ (c.popRing k.g) with tsend := none } : CellState).countItem k.q = tileLeft c k r := by
  rw [popRing_plain plain]
  exact countItem_of_route
    (c := { c with rings := vset c.rings k.g (c.rings[k.g]).pop, ringAt := vset c.ringAt k.g (c.ringAt[k.g] - 1), tsend := none }) route

theorem mended_tileLeft (c : CellState) (k : TSend) (r : Route) (a n : Nat) : mended (tileLeft c k r) a n = tileLeft (mended c a n) k r := rfl

theorem mended_more (c : CellState) (k : Option TSend) (a n : Nat) : mended { c with tsend := k } a n = { mended c a n with tsend := k } := rfl

theorem dataSize (d : PktData) : (match d with
    | .word _ => 1
    | .unit _ _ => 2) = d.size := by
  cases d <;> rfl

/-- Settles O39: a flit's ways, its buffer and its turn are told by the list of flits; what a cell takes goes through one lemma for a
delivery, and the words of a block through one for a word. -/
theorem meshItems : Obligations.MeshItems := by
  unfold Obligations.MeshItems
  refine ⟨fun s n q r g dx dy => ⟨?_, ?_, ?_, ?_⟩, fun s i n p c q f hp here own good leaves => ⟨?_, ?_, ?_, ?_⟩⟩
  · intro w rest words route target going stood behind room
    exact wordSend_goes words route target going stood behind room
  · exact wordSend_waits
  · intro k tile hq route target going whole ring own at0 data sent room
    subst hq
    have run := unitSend tile route target going whole room
    refine ⟨fun more => ?_, fun last plain => ?_⟩
    · rw [run]
      dsimp only
      rw [if_pos more, mended_more]
      rfl
    · rw [run]
      dsimp only
      rw [if_neg (Nat.not_lt.mpr last), tileLeft_eq route plain, mended_tileLeft]
      rfl
  · intro i k p f dir hp hf
    obtain ⟨q, hq, eq⟩ := mem_flits_packet.mp (List.mem_of_getElem? hf)
    obtain rfl : p = q := Option.some.inj (hp.symm.trans hq)
    subst eq
    intro a x y b far ahead link size s1 moved free foreign run
    have hx : x = (dirMove dir p.hop.x p.hop.y).1 := dirMove_x ..
    have hy : y = (dirMove dir p.hop.x p.hop.y).2 := dirMove_y ..
    have hb : b = nextRouter p dir := by
      show y * 320 + x = _
      rw [hx, hy]
      rfl
    have hsize : size = p.data.size := dataSize p.data
    have hs1 : s1 = linked s p dir := by
      show ({ s with rr := _, links := s.links.put link (AMap.getD s.links link 0 + size) } : State) = _
      rw [hsize]
      rfl
    have hfree : free ↔ mayGo s k p dir = true := by
      refine Iff.trans ?_ (mayGo_iff s k p dir).symm
      show (portRoom s 0 b dir = true ∧ AMap.getD s.links link 0 + size ≤ _ ∧ _) ↔ _
      rw [hb, hsize]
      rfl
    have hmoved (t : State) (packets : t.packets = s.packets) (strip : t.strip = s.strip) : moved t = .next (stepped t k p dir) := by
      show Host.Outcome.next ({ t with packets := s.packets.set k { p with hop := ⟨p.hop.sx, x, y, dir :: p.hop.trail, s.strip⟩ } } : State) = _
      rw [hx, hy, ← packets, ← strip]
      rfl
    have hforeign : foreign ↔ ∃ e ∈ s.stages, e.2.owns (nextRouter p dir) = true ∧ e.1 ≠ p.stage ∧ e.2.owns p.goal = true := by
      show (∃ e ∈ s.stages, e.2.owns b = true ∧ _) ↔ _
      rw [hb]
    clear_value size s1 moved
    have ways := packetFlit_ways s k p
    refine ⟨fun h => ?_, fun none way => ?_, fun o l last => ?_, fun away go bad local' => ?_, fun away go ok => ⟨fun w data marked crosses => ?_, fun plain => ?_⟩⟩
    · refine forward_waits hf (h.imp_right fun no => ?_)
      rw [← Bool.not_eq_true]
      exact fun go => no (hfree.mpr go)
    · rw [ways, show (s.packets.take k).filter _ = [] from none] at way
      have turn : oddEven p.hop.sx p.hop.x p.hop.y (p.goal % 320) (p.goal / 320) dir = true := (List.mem_filter.mp way).2
      refine ⟨turn, ?_⟩
      have near := oddEven_nearer turn
      rw [← hx, ← hy] at near
      rw [Int.natCast_emod, Int.natCast_ediv] at near
      exact near
    · rw [ways, show (s.packets.take k).filter _ = l ++ [o] from last, List.getLast?_concat]
      exact Option.mem_toList
    · rw [hs1, hb]
      exact forward_refused hp hf away (hfree.mp go) local' (hforeign.mp bad)
    · obtain ⟨packets, strip⟩ := logMark_keeps s1 (s.cell p.src).stage (s.cell p.src).cx (s.cell p.src).cy p.oq p.item
      rw [hmoved _ (packets.trans (by rw [hs1]; rfl)) (strip.trans (by rw [hs1]; rfl)), hs1]
      exact forward_logs hp hf away (hfree.mp go) (ok.imp_left fun no bad => no (hforeign.mpr bad)) data marked (hb ▸ crosses)
    · rw [hmoved s1 (by rw [hs1]; rfl) (by rw [hs1]; rfl), hs1]
      exact forward_moves hp hf away (hfree.mp go) (ok.imp_left fun no bad => no (hforeign.mpr bad)) (hb ▸ plain)
  · intro j o ho hx hy port
    exact leaving_first hp leaves ho hx hy port
  · intro w target data
    exact word_enters hp here own good leaves target data
  · intro w target data
    have run := ringWord_enters hp here own good leaves target data
    refine ⟨fun short => ?_, fun full => ⟨packWords (c.rings[q].buf ++ [w.data]), packWords_word _, ?_⟩⟩
    · rw [run, ringWord_fills _ _ short]
      rfl
    · rw [run, ringWord_writes _ _ full]
      rfl
  · intro d x target data fits empty
    rw [unit_enters hp here own good leaves target data, ringUnit_eq d x fits empty]
    rfl

end Sys2Proof.MeshMoves
end

section
/-! # Requests on their way -/

namespace Sys2Proof.Homing

open Sys2Proof.Machine Sys2Proof.Safety Sys2Proof.Rules

/-! ## Out of the station, and out of the module -/

theorem station_issues {s : State} {n : Nat} {k : Fin 4} {r : Req} (station : ((s.cell n).ctx k).station = some (.req r))
    (zero : ((s.cell n).ctx k).uack = 0) (cell : r.cell = n) (ctx : r.ctx = k) :
    exec (.releaseStationIssue n k) s = .next { s.setCell n ((s.cell n).setCtx k { (s.cell n).ctx k with station := none, uack := 1 }) with
      reqs := s.reqs ++ [{ r with ordered := (s.cell n).suuord }] } := by
  subst cell ctx
  have may : s.mayRelease r.cell r.ctx = true := decide_eq_true zero
  show Host.Outcome.next (stationIssue s r.cell r.ctx (s.cell r.cell).suuord) = _
  unfold stationIssue
  dsimp only
  rw [station]
  dsimp only
  rw [if_pos may]
  unfold State.issueStation State.issue
  dsimp only
  rw [State.cell_setCell_same, setCell_setCell, ctx_setCtx, setCtx_setCtx, zero]
  rfl

section
variable {s : State} {i port : Nat} {r : Req} (req : s.reqs[i]? = some r)
include req

theorem walk_waits (issued : r.loc = .issued) (own : modOf r.addr = s.host.modNum)
    (may : walkMay s (walkReads s (s.fieldOf r.cell) r.stage none (s.stage r.stage).root (offOf r.addr)) r.who r.qp = false) :
    exec (.translationWalk (.own i)) s = .next s := by
  have reads : ownReads s r = walkReads s (s.fieldOf r.cell) r.stage none (s.stage r.stage).root (offOf r.addr) := if_pos ⟨issued, own⟩
  show walkOwn i s = _
  unfold walkOwn
  rw [req]
  refine (if_neg ?_).trans ((if_neg (not_not_intro issued)).trans ((if_neg (not_not_intro own)).trans (if_pos ?_)))
  · rw [issued]; exact nofun
  · rw [reads, may]; rfl

theorem walk_settles (issued : r.loc = .issued) (own : modOf r.addr = s.host.modNum)
    (may : walkMay s (walkReads s (s.fieldOf r.cell) r.stage none (s.stage r.stage).root (offOf r.addr)) r.who r.qp = true) :
    let page := pageOf { s with reqs := s.reqs.eraseIdx i } r.kind (s.fieldOf r.cell) r.stage none (s.stage r.stage).root (offOf r.addr)
    exec (.translationWalk (.own i)) s = settlePage page.2 r (page.2.pathOf (s.fieldOf r.cell) r.stage none (offOf r.addr)) page.1 := by
  have reads : ownReads s r = walkReads s (s.fieldOf r.cell) r.stage none (s.stage r.stage).root (offOf r.addr) := if_pos ⟨issued, own⟩
  show walkOwn i s = _
  unfold walkOwn
  rw [req]
  refine (if_neg ?_).trans ((if_neg (not_not_intro issued)).trans ((if_neg (not_not_intro own)).trans (if_neg ?_)))
  · rw [issued]; exact nofun
  · rw [reads, may]; exact Bool.false_ne_true

theorem walk_setsOut (issued : r.loc = .issued) (other : modOf r.addr ≠ s.host.modNum) :
    exec (.translationWalk (.own i)) s = .next (setOut s i r) := by
  show walkOwn i s = _
  unfold walkOwn
  rw [req]
  refine (if_neg ?_).trans ((if_neg (not_not_intro issued)).trans (if_pos other))
  rw [issued]
  exact nofun

theorem walk_departs (away : r.loc = .away) : exec (.translationWalk (.own i)) s = .next (departs s i r) := by
  show walkOwn i s = _
  unfold walkOwn
  rw [req]
  exact if_pos away

end

theorem noteWatch_keeps (s : State) (r : Req) (m id : Nat) :
    (noteWatch s r m id).reqs = s.reqs ∧ (noteWatch s r m id).edge = s.edge := by
  unfold noteWatch
  split <;> exact ⟨rfl, rfl⟩

theorem send_reqs (s : State) (m : EdgeMsg) : (s.send m).reqs = s.reqs := by
  unfold State.send
  split <;> rfl

/-- A request that leaves through the edge, under a fresh number. -/
theorem departs_leaves {s : State} {i port : Nat} {r : Req} {f : Flit} (leaves : s.leaving (.req i) = some f)
    (way : s.toward (modOf r.addr) = some port) :
    (departs s i r).reqs = s.reqs.eraseIdx i ++ [{ r with loc := .edge s.edge.ids }] ∧
      (s.openTo (modOf r.addr) = true → (∀ w ∈ s.edge.waiting, w.to ≠ modOf r.addr) →
        (departs s i r).edge.outbox = s.edge.outbox ++ [.request (modOf r.addr) s.edge.ids r]) := by
  let t : State := { s.turned f none with edge := { s.edge with ids := s.edge.ids + 1, via := s.edge.via.put s.edge.ids port } }
  let m : EdgeMsg := .request (modOf r.addr) s.edge.ids r
  have eq : departs s i r = noteWatch { t.send m with reqs := (t.send m).reqs.eraseIdx i ++ [{ r with loc := .edge s.edge.ids }] } r
      (modOf r.addr) s.edge.ids := by
    unfold departs
    rw [leaves, way]
    rfl
  obtain ⟨reqs, edge⟩ := noteWatch_keeps { t.send m with reqs := (t.send m).reqs.eraseIdx i ++ [{ r with loc := .edge s.edge.ids }] } r
    (modOf r.addr) s.edge.ids
  refine ⟨?_, fun free alone => ?_⟩
  · rw [eq, reqs, send_reqs]
    rfl
  · have none : s.edge.waiting.any (fun w => decide (w.to = modOf r.addr)) = false := by
      rw [List.any_eq_false]
      exact fun w mem same => alone w mem (of_decide_eq_true same)
    have goes : (t.openTo m.to && !t.edge.waiting.any (fun w => decide (w.to = m.to))) = true := by
      show (s.openTo (modOf r.addr) && !s.edge.waiting.any (fun w => decide (w.to = modOf r.addr))) = true
      rw [free, none]
      rfl
    rw [eq, edge]
    show (t.send m).edge.outbox = _
    unfold State.send
    rw [if_pos goes]

/-! ## Into the window -/

section
variable {s : State} {i key : Nat} {r : Req} (req : s.reqs[i]? = some r) (loc : r.loc = .homed (key / 2 ^ 27) key)
include req loc

theorem flit_of_homed {f : Flit} : (FlitRef.req i, f) ∈ s.flits ↔ f = ⟨1, r.hop, s.overStrip (key / 2 ^ 27), r.kind.flits, r.hop.ways (s.overStrip (key / 2 ^ 27))⟩ := by
  have flit : reqFlit s r = some ⟨1, r.hop, s.overStrip (key / 2 ^ 27), r.kind.flits, r.hop.ways (s.overStrip (key / 2 ^ 27))⟩ := by
    unfold reqFlit
    rw [loc]
  rw [mem_flits_req]
  constructor
  · rintro ⟨q, hq, hf⟩
    obtain rfl : r = q := Option.some.inj (req.symm.trans hq)
    exact (Option.some.inj (flit.symm.trans hf)).symm
  · rintro rfl
    exact ⟨r, req, flit⟩

theorem takes_homed : s.takes (.req i) = (decide ((s.reqs.filter (·.inWindow (key / 2 ^ 27))).length < 64) && budgetsAllow s r (key / 2 ^ 27)) := by
  unfold State.takes
  dsimp only
  rw [req]
  dsimp only
  rw [loc]

theorem leaving_homed {f : Flit} (leaves : s.leaving (.req i) = some f) :
    f = ⟨1, r.hop, s.overStrip (key / 2 ^ 27), r.kind.flits, r.hop.ways (s.overStrip (key / 2 ^ 27))⟩ ∧
      r.hop.router = s.overStrip (key / 2 ^ 27) ∧ (s.reqs.filter (·.inWindow (key / 2 ^ 27))).length < 64 ∧
      budgetsAllow s r (key / 2 ^ 27) = true := by
  obtain ⟨mem, there, turn⟩ := leaving_some leaves
  have hf := (flit_of_homed req loc).mp mem
  subst hf
  unfold hasTurn wants at turn
  dsimp only at turn
  rw [Bool.and_eq_true_iff, Bool.and_eq_true_iff, Bool.and_eq_true_iff, takes_homed req loc, Bool.and_eq_true_iff, decide_eq_true_iff] at turn
  obtain ⟨⟨-, -, few, budget⟩, -⟩ := turn
  exact ⟨rfl, of_decide_eq_true there, few, budget⟩

theorem accept_takes {f : Flit} (leaves : s.leaving (.req i) = some f) :
    let st := key / 2 ^ 27
    let counted := if r.kind.onPort then (s.serve st 0 r.who).serve st 1 r.who else s.serve st 0 r.who
    exec (.suuAccept i) s = .next { s with
      rr := s.rr.put (arbKey 1 (s.overStrip st) none) f.port, served := counted.served
      reqs := s.reqs.eraseIdx i ++ [{ r with loc := .window st key }] } := by
  intro st counted
  obtain ⟨hf, there, -⟩ := leaving_homed req loc leaves
  have turned : s.turned f none = { s with rr := s.rr.put (arbKey 1 (s.overStrip st) none) f.port } := by
    rw [hf]
    show ({ s with rr := s.rr.put (arbKey 1 r.hop.router none) _ } : State) = _
    rw [there]
  show execSuuAccept i s = _
  unfold execSuuAccept
  rw [req, leaves]
  dsimp only
  rw [loc]
  dsimp only
  rw [turned]
  show _ = Host.Outcome.next ({ s with
    rr := _, served := (if r.kind.onPort then (s.serve st 0 r.who).serve st 1 r.who else s.serve st 0 r.who).served, reqs := _ } : State)
  cases r.kind.onPort <;> rfl

omit loc in
theorem accept_waits (none : s.leaving (.req i) = none) : exec (.suuAccept i) s = .next s := by
  show execSuuAccept i s = _
  unfold execSuuAccept
  rw [req, none]

/-- A request that stands at its strip with no other flit there has its turn. -/
theorem leaving_alone (there : r.hop.router = s.overStrip (key / 2 ^ 27)) (few : (s.reqs.filter (·.inWindow (key / 2 ^ 27))).length < 64)
    (budget : budgetsAllow s r (key / 2 ^ 27) = true)
    (alone : ∀ e ∈ s.flits, e.1 ≠ .req i → e.2.hop.router ≠ s.overStrip (key / 2 ^ 27)) : (s.leaving (.req i)).isSome = true := by
  let f : Flit := ⟨1, r.hop, s.overStrip (key / 2 ^ 27), r.kind.flits, r.hop.ways (s.overStrip (key / 2 ^ 27))⟩
  have same (e : FlitRef × Flit) (mem : e ∈ s.flits) (near : e.2.hop.router = f.hop.router) : e = (.req i, f) := by
    have ref : e.1 = .req i := by
      by_contra ne
      exact alone e mem ne (near.trans there)
    obtain ⟨ref', g⟩ := e
    obtain rfl : ref' = .req i := ref
    rw [(flit_of_homed req loc).mp mem]
  have listed : (.req i, f) ∈ s.flits := (flit_of_homed req loc).mpr rfl
  obtain ⟨e, found⟩ : ∃ e, s.flits.find? (fun e => decide (e.1 = .req i)) = some e :=
    Option.isSome_iff_exists.mp (List.find?_isSome.mpr ⟨_, listed, decide_eq_true rfl⟩)
  have first := found
  rw [List.find?_eq_some_iff_append] at first
  obtain ⟨ref, before, behind, flits, fresh⟩ := first
  have he : e = (.req i, f) := by
    have mem : e ∈ s.flits := by rw [flits]; exact List.mem_append_right _ List.mem_cons_self
    obtain ⟨ref', g⟩ := e
    obtain rfl : ref' = .req i := of_decide_eq_true ref
    rw [(flit_of_homed req loc).mp mem]
  subst he
  have near (g : FlitRef × Flit) (beside : g.2.beside f = true) : g.2.hop.router = f.hop.router := (of_decide_eq_true beside).2.1
  have head : isHead s.flits before.length f = true := by
    unfold isHead
    rw [flits, List.take_left, Bool.and_eq_true_iff, Bool.not_eq_true', Bool.not_eq_true', List.any_eq_false, List.any_eq_false]
    refine ⟨fun g mem both => ?_, fun g mem both => ?_⟩
    · have eq := same g (by rw [flits]; exact List.mem_append_left _ mem) (near g (Bool.and_eq_true_iff.mp both).1)
      have no := fresh g mem
      rw [eq, decide_eq_true rfl] at no
      cases no
    · have mem : g ∈ behind := by
        have tail : (before ++ (FlitRef.req i, f) :: behind).drop (before.length + 1) = behind := by simp
        rwa [tail] at mem
      have eq := same g (by rw [flits]; exact List.mem_append_right _ (List.mem_cons_of_mem _ mem)) (near g (Bool.and_eq_true_iff.mp both).1)
      have lt := of_decide_eq_true (Bool.and_eq_true_iff.mp both).2
      rw [eq] at lt
      exact Nat.lt_irrefl _ lt
  have heads : (.req i, f) ∈ s.heads := by
    have index : s.flits[before.length]? = some (.req i, f) := by
      rw [flits, List.getElem?_append_right (Nat.le_refl _), Nat.sub_self]
      rfl
    unfold State.heads
    exact List.mem_map.mpr ⟨(before.length, (.req i, f)), List.mem_filter.mpr ⟨mem_indexed.mpr index, head⟩, rfl⟩
  have at' : f.there = true := decide_eq_true there
  have wanted : wants s.takes none (.req i, f) = true := by
    show (f.there && s.takes (.req i)) = true
    rw [at', takes_homed req loc, decide_eq_true few, budget]
    rfl
  have turn : hasTurn s s.takes (.req i) f none = true := by
    unfold hasTurn
    dsimp only
    rw [List.contains_iff_mem.mpr heads, wanted, Bool.true_and, Bool.true_and, Bool.not_eq_true', List.any_eq_false]
    intro g mem both
    rw [Bool.and_eq_true_iff, Bool.and_eq_true_iff, decide_eq_true_iff, decide_eq_true_iff] at both
    obtain ⟨⟨⟨-, router⟩, -⟩, lt⟩ := both
    have listed : g ∈ s.flits := by
      unfold State.heads at mem
      obtain ⟨⟨m, g'⟩, kept, eq⟩ := List.mem_map.mp mem
      obtain rfl : g' = g := eq
      exact List.mem_of_getElem? (mem_indexed.mp (List.mem_filter.mp kept).1)
    rw [same g listed router] at lt
    exact Nat.lt_irrefl _ lt
  unfold State.leaving
  rw [found]
  dsimp only [Option.bind_some]
  rw [at', turn]
  rfl

end

/-! ## Budgets of a stage that asks alone -/

theorem mayServe_alone {s : State} {strip cls who share : Nat} {demand users : List (Nat × Nat)} (alone : ∀ e ∈ users, e.1 = who) :
    mayServe s strip cls demand users who share = true := by
  have none : (users.any fun e => decide (e.1 ≠ who) && shareLeft s strip cls demand e.1 e.2) = false := by
    rw [List.any_eq_false]
    intro e mem other
    exact of_decide_eq_true (Bool.and_eq_true_iff.mp other).1 (alone e mem)
  unfold mayServe
  dsimp only
  rw [none, Bool.not_false, Bool.or_true]

theorem mem_reqsAt {s : State} {st : Nat} {q : Req} (mem : q ∈ reqsAt s st) : q ∈ s.reqs ∧ q.before st = true := by
  unfold reqsAt at mem
  obtain ⟨⟨ref, f⟩, -, hq⟩ := List.mem_filterMap.mp mem
  cases ref with
  | req j =>
    dsimp only at hq
    split at hq
    · obtain ⟨hj, before⟩ := Option.filter_eq_some_iff.mp hq
      exact ⟨List.mem_of_getElem? hj, before⟩
    · cases hq
  | packet j => cases hq
  | ack j => cases hq
  | put m j => cases hq
  | block m c j => cases hq
  | item j => cases hq

theorem budgets_alone {s : State} {st : Nat} {r : Req} (one : ∀ q ∈ s.reqs, q.before st = true → q.who = r.who) (blocks : blockDemand s st = [])
    (walks' : walkDemand s st = []) : budgetsAllow s r st = true := by
  have users (q : Req) (mem : q ∈ suuUsers s st) : q.who = r.who := by
    obtain ⟨listed, before⟩ := mem_reqsAt (List.mem_filter.mp mem).1
    exact one q listed before
  have suu : mayServe s st 0 (suuDemand s st) ((suuUsers s st).map fun q => (q.who, q.qs)) r.who r.qs = true := by
    refine mayServe_alone fun e mem => ?_
    obtain ⟨q, asks, rfl⟩ := List.mem_map.mp mem
    exact users q asks
  have walkers : walkUsers s st = [] := by
    unfold walkDemand at walks'
    have idle := List.filter_eq_nil_iff.mp (List.map_eq_nil_iff.mp walks')
    unfold walkUsers
    rw [List.filter_eq_nil_iff.mpr fun w mem both => idle w mem (Bool.and_eq_true_iff.mp both).1]
    rfl
  have port : portMay s st r.who r.qp = true := by
    refine mayServe_alone fun e mem => ?_
    unfold portUsers at mem
    rw [blocks, walkers, List.append_nil, List.append_nil] at mem
    obtain ⟨q, asks, rfl⟩ := List.mem_map.mp mem
    exact users q (List.mem_filter.mp asks).1
  unfold budgetsAllow
  rw [suu, port, Bool.or_true]
  rfl

end Sys2Proof.Homing
end

section
/-! # The two table levels -/

namespace Sys2Proof.Homing

open Sys2Proof.Machine Sys2Proof.Safety Sys2Proof.Rules

/-! ## A walk without a cached entry -/

theorem foldl_serve_firn (who : Nat) (l : List Nat) (s : State) : (l.foldl (fun s k => s.serve (k / 2 ^ 27) 1 who) s).firn = s.firn := by
  induction l generalizing s with
  | nil => rfl
  | cons k l ih => exact ih (s.serve (k / 2 ^ 27) 1 who)

theorem walk_congr {s t : State} (firn : t.firn = s.firn) (root : Option Nat) (off : Nat) : walk t root off = walk s root off := by
  unfold walk State.frameWord
  rw [firn]

theorem translate_fst {s : State} {field stage off : Nat} {guest : Option Nat} (fresh : s.cached field stage guest off = none) (root : Option Nat) :
    (Machine.translate s field stage guest root off).1 = walk s root off := by
  unfold Machine.translate
  rw [fresh]
  dsimp only
  rw [walk_congr (foldl_serve_firn ..)]
  cases walk s root off <;> rfl

section
variable {s : State} {field stage off : Nat} {guest root : Option Nat} {k : ReqKind} (fresh : s.cached field stage guest off = none)
include fresh

theorem pageOf_bad {c : Nat} (walked : walk s root off = .bad c) : (pageOf s k field stage guest root off).1 = .fault 6 c := by
  have eq := (translate_fst fresh root).trans walked
  unfold pageOf
  generalize Machine.translate s field stage guest root off = w at eq
  obtain ⟨w, t⟩ := w
  obtain rfl : w = .bad c := eq
  rfl

variable {e : DWord} {huge : Bool} (walked : walk s root off = .leaf e huge)
include walked

theorem pageOf_leaf : (pageOf s k field stage guest root off).1 =
    match denied k e with
    | some c => .fault 7 c
    | none =>
      if entryF e 5 1 = 1 then .window (entryF e 12 20) (off % (if huge then 2 ^ 30 else 2 ^ 21))
      else if frameOk (leafFrame e huge off) then .home (frameKey (leafFrame e huge off) (off % 2 ^ 21)) else .nowhere := by
  have eq := (translate_fst fresh root).trans walked
  unfold pageOf
  generalize Machine.translate s field stage guest root off = w at eq
  obtain ⟨w, t⟩ := w
  obtain rfl : w = .leaf e huge := eq
  dsimp only
  cases denied k e with
  | some c => rfl
  | none =>
    dsimp only
    split <;> rfl

theorem pageOf_denied {c : Nat} (no : denied k e = some c) : (pageOf s k field stage guest root off).1 = .fault 7 c := by
  rw [pageOf_leaf fresh walked, no]

theorem pageOf_window (may : denied k e = none) (host : entryF e 5 1 = 1) :
    (pageOf s k field stage guest root off).1 = .window (entryF e 12 20) (off % (if huge then 2 ^ 30 else 2 ^ 21)) := by
  rw [pageOf_leaf fresh walked, may]
  exact if_pos host

theorem pageOf_home (may : denied k e = none) (own : entryF e 5 1 = 0) (frame : leafFrame e huge off < 786432) :
    (pageOf s k field stage guest root off).1 = .home (frameKey (leafFrame e huge off) (off % 2 ^ 21)) := by
  have other : entryF e 5 1 ≠ 1 := by rw [own]; exact Nat.zero_ne_one
  rw [pageOf_leaf fresh walked, may]
  exact (if_neg other).trans (if_pos (decide_eq_true frame))

end

/-! ## The entries of the two levels -/

section
variable {s : State} {root off : Nat} (frame : root < 786432)
include frame

theorem walk_first : walk s (some root) off =
    let e := s.frameWord root (bits off 30 18 * 8)
    if entryF e 0 1 = 0 then .bad 1
    else if badEntry e true then .bad 3
    else if entryF e 1 1 = 1 then .leaf e true
    else if !frameOk (entryF e 12 20) then .nowhere
    else
      let e2 := s.frameWord (entryF e 12 20) (entryF e 32 9 * 4096 + bits off 21 9 * 8)
      if entryF e2 0 1 = 0 then .bad 2 else if badEntry e2 false then .bad 3 else .leaf e2 false := by
  have ok : frameOk root = true := decide_eq_true frame
  unfold walk
  dsimp only
  rw [ok]
  rfl

variable {e1 : DWord} (first : s.frameWord root (bits off 30 18 * 8) = e1)
include first

theorem walk_invalid (invalid : entryF e1 0 1 = 0) : walk s (some root) off = .bad 1 := by
  rw [walk_first frame, first]
  exact if_pos invalid

variable (valid : entryF e1 0 1 = 1)
include valid

theorem walk_broken (bad : badEntry e1 true = true) : walk s (some root) off = .bad 3 := by
  rw [walk_first frame, first]
  exact (if_neg (by omega)).trans (if_pos bad)

variable (sound : badEntry e1 true = false)
include sound

theorem walk_huge (leaf : entryF e1 1 1 = 1) : walk s (some root) off = .leaf e1 true := by
  have good : ¬ badEntry e1 true = true := by rw [sound]; exact Bool.false_ne_true
  rw [walk_first frame, first]
  exact (if_neg (by omega)).trans ((if_neg good).trans (if_pos leaf))

variable (pointer : entryF e1 1 1 = 0) (table : entryF e1 12 20 < 786432) {e2 : DWord}
  (second : s.frameWord (entryF e1 12 20) (entryF e1 32 9 * 4096 + bits off 21 9 * 8) = e2)
include pointer table second

theorem walk_second : walk s (some root) off =
    if entryF e2 0 1 = 0 then .bad 2 else if badEntry e2 false then .bad 3 else .leaf e2 false := by
  have good : ¬ badEntry e1 true = true := by rw [sound]; exact Bool.false_ne_true
  have ok : ¬ (!frameOk (entryF e1 12 20)) = true := by
    rw [show frameOk (entryF e1 12 20) = true from decide_eq_true table]
    exact Bool.false_ne_true
  rw [walk_first frame, first]
  dsimp only
  rw [second]
  exact (if_neg (by omega)).trans ((if_neg good).trans ((if_neg (by omega)).trans (if_neg ok)))

end

/-! ## What a request lacks of its page -/

/-- Whether a page lacks a right that a request needs (R323). -/
def lacking (k : ReqKind) (e : DWord) : Bool :=
  (k.wants.1 && decide (entryF e 3 1 = 0)) || (k.wants.2.1 && decide (entryF e 2 1 = 0)) || (k.wants.2.2 && decide (entryF e 4 1 = 0))

theorem denied_putBlock (d : BitVec 256) (e : DWord) : denied (.putBlock d) e = if lacking (.putBlock d) e then some 1 else none := rfl

theorem denied_other {k : ReqKind} (other : ¬ ∃ d, k = .putBlock d) (e : DWord) :
    denied k e = if entryF e 5 1 = 1 then some 2 else if lacking k e then some 1 else none := by
  cases k with
  | putBlock d => exact absurd ⟨d, rfl⟩ other
  | _ => rfl

theorem denied_lacking {k : ReqKind} {e : DWord} (page : entryF e 5 1 = 0 ∨ ∃ d, k = .putBlock d) (lacks : lacking k e = true) :
    denied k e = some 1 := by
  by_cases put : ∃ d, k = .putBlock d
  · obtain ⟨d, rfl⟩ := put
    rw [denied_putBlock, if_pos lacks]
  · have own := page.resolve_right put
    rw [denied_other put, if_neg (by omega), if_pos lacks]

theorem denied_none {k : ReqKind} {e : DWord} (page : entryF e 5 1 = 0 ∨ ∃ d, k = .putBlock d) (has : lacking k e = false) :
    denied k e = none := by
  by_cases put : ∃ d, k = .putBlock d
  · obtain ⟨d, rfl⟩ := put
    rw [denied_putBlock, has]
    rfl
  · have own := page.resolve_right put
    rw [denied_other put, if_neg (by omega), has]
    rfl

/-! ## The layout of an entry -/

theorem frameKey_eq (f o : Nat) : frameKey f o =
    f % 24576 / 2 * 2 ^ 27 + f % 24576 % 2 * 2 ^ 26 + (64 * 2 ^ 20 - 2 * 2 ^ 20 * (f / 24576 + 1)) + o := by
  unfold frameKey
  norm_num

theorem entryF_bit (e : DWord) (lo : Nat) : entryF e lo 1 = 0 ∨ entryF e lo 1 = 1 := by
  unfold entryF bits
  omega

theorem badEntry_first (e : DWord) : badEntry e true = true ↔
    (entryF e 6 6 ≠ 0 ∨ entryF e 41 23 ≠ 0) ∨ (entryF e 1 1 = 0 ∧ entryF e 2 4 ≠ 0) ∨ (entryF e 1 1 = 1 ∧ entryF e 12 20 % 512 ≠ 0) := by
  unfold badEntry
  rw [if_pos rfl, Bool.or_eq_true, Bool.or_eq_true, decide_eq_true_iff, decide_eq_true_iff]
  refine or_congr_right ?_
  rcases entryF_bit e 1 with pointer | leaf
  · rw [if_pos pointer, decide_eq_true_iff]
    omega
  · rw [if_neg (by omega), decide_eq_true_iff]
    omega

theorem badEntry_second (e : DWord) : badEntry e false = true ↔
    (entryF e 6 6 ≠ 0 ∨ entryF e 41 23 ≠ 0) ∨ entryF e 1 1 = 0 ∨ entryF e 32 9 ≠ 0 := by
  unfold badEntry
  rw [if_neg Bool.false_ne_true, Bool.or_eq_true, Bool.or_eq_true, Bool.or_eq_true, decide_eq_true_iff, decide_eq_true_iff, decide_eq_true_iff,
    decide_eq_true_iff]

end Sys2Proof.Homing
end

section
/-! # Requests reach their home -/

namespace Sys2Proof.Homing

open Sys2Proof.Machine Sys2Proof.Safety Sys2Proof.Rules

/-- Own requests: the walk waits for the budgets, then settles. -/
theorem own_settles {s : State} {i key : Nat} {r : Req} (req : s.reqs[i]? = some r) (issued : r.loc = .issued)
    (own : modOf r.addr = s.host.modNum)
    (may : walkMay s (walkReads s (s.fieldOf r.cell) r.stage none (s.stage r.stage).root (offOf r.addr)) r.who r.qp = true) (t : State) :
    let page := pageOf { s with reqs := s.reqs.eraseIdx i } r.kind (s.fieldOf r.cell) r.stage none (s.stage r.stage).root (offOf r.addr)
    (page = (.home key, t) →
      exec (.translationWalk (.own i)) s = .next { t with reqs := t.reqs ++ [{ r with
        loc := .homed (key / 2 ^ 27) key, path := t.pathOf (s.fieldOf r.cell) r.stage none (offOf r.addr)
        hop := { r.hop with came := t.strip } }] }) ∧
    (∀ cls code, page = (.fault cls code, t) → r.origin = none →
      exec (.translationWalk (.own i)) s =
        .next { t with acks := t.acks ++ [⟨r, .fault cls code, Hop.at r.cell t.strip, true⟩] }) := by
  intro page
  have run := walk_settles req issued own may
  refine ⟨fun home => ?_, fun cls code fault origin => ?_⟩
  · rw [run, show pageOf { s with reqs := s.reqs.eraseIdx i } r.kind (s.fieldOf r.cell) r.stage none (s.stage r.stage).root (offOf r.addr) =
      (.home key, t) from home]
    rfl
  · rw [run, show pageOf { s with reqs := s.reqs.eraseIdx i } r.kind (s.fieldOf r.cell) r.stage none (s.stage r.stage).root (offOf r.addr) =
      (.fault cls code, t) from fault]
    unfold settlePage State.answer
    dsimp only
    rw [origin]
    rfl

theorem setOut_toward {s : State} {i port : Nat} {r : Req} (way : s.toward (modOf r.addr) = some port) :
    setOut s i r = { s with reqs := s.reqs.set i { r with loc := .away, hop := { r.hop with came := s.strip } } } := by
  unfold setOut
  rw [way]
  rfl

theorem setOut_nowhere {s : State} {i : Nat} {r : Req} (way : s.toward (modOf r.addr) = none) (origin : r.origin = none) :
    setOut s i r = { s with reqs := s.reqs.eraseIdx i, acks := s.acks ++ [⟨r, .fault 8 1, Hop.at r.cell s.strip, true⟩] } := by
  unfold setOut State.answer
  rw [way, origin]
  rfl

/-- What a page gives a request (R323). -/
theorem page_gives {s : State} {field stage off : Nat} {guest root : Option Nat} {k : ReqKind} {e : DWord} {huge : Bool} {lacks : Prop}
    (fresh : s.cached field stage guest off = none) (walked : walk s root off = .leaf e huge) (iff : lacks ↔ lacking k e = true) :
    let page := (pageOf s k field stage guest root off).1
    (entryF e 5 1 = 1 → ¬ (∃ d, k = .putBlock d) → page = .fault 7 2) ∧
    (entryF e 5 1 = 0 ∨ (∃ d, k = .putBlock d) → lacks → page = .fault 7 1) ∧
    (entryF e 5 1 = 1 → (∃ d, k = .putBlock d) → ¬ lacks →
      page = .window (entryF e 12 20) (off % (if huge then 2 ^ 30 else 2 ^ 21))) ∧
    (entryF e 5 1 = 0 → ¬ lacks → leafFrame e huge off < 786432 →
      page = .home (frameKey (leafFrame e huge off) (off % 2 ^ 21))) := by
  refine ⟨fun host other => ?_, fun may no => ?_, fun host put has => ?_, fun own has frame => ?_⟩
  · exact pageOf_denied fresh walked ((denied_other other e).trans (if_pos host))
  · exact pageOf_denied fresh walked (denied_lacking may (iff.mp no))
  · exact pageOf_window fresh walked (denied_none (.inr put) (Bool.eq_false_iff.mpr fun no => has (iff.mpr no))) host
  · exact pageOf_home fresh walked (denied_none (.inl own) (Bool.eq_false_iff.mpr fun no => has (iff.mpr no))) own frame

/-- Settles O40: each event by its own rule, and the two table levels entry by entry. -/
theorem requestsReachTheirHome : Obligations.RequestsReachTheirHome := by
  unfold Obligations.RequestsReachTheirHome
  constructor
  · intro s i n k r key port c u left at' page
    refine ⟨station_issues, ?_, fun req other => ⟨fun issued way => ?_, fun issued way origin => ?_, fun f away leaves way => ?_⟩, ?_⟩
    · intro req issued own may
      exact ⟨walk_waits req issued own, fun yes t => own_settles req issued own yes t⟩
    · rw [walk_setsOut req issued other, setOut_toward way]
    · exact (walk_setsOut req issued other).trans (congrArg _ (setOut_nowhere way origin))
    · obtain ⟨reqs, sends⟩ := departs_leaves leaves way
      exact ⟨departs s i r, walk_departs req away, reqs, sends⟩
    · intro req loc st full there counted
      refine ⟨fun f leaves => ?_, accept_waits req, fun free stands budget alone => ?_, budgets_alone⟩
      · obtain ⟨-, stands, few, budget⟩ := leaving_homed req loc leaves
        exact ⟨Nat.not_le_of_lt few, stands, budget, accept_takes req loc leaves⟩
      · exact leaving_alone req loc stands (Nat.lt_of_not_le free) budget alone
  · intro s k field stage root off guest place fld entry e1 e2 stray broken1 broken2 page put lacks gives empty frame
    have fresh : s.cached field stage guest off = none := by
      unfold State.cached
      rw [List.find?_eq_none]
      intro e mem same
      obtain ⟨hf, hs, hg, hp⟩ := of_decide_eq_true same
      exact empty e mem hf hs hg hp
    have places (f o : Nat) : place f o = frameKey f o := (frameKey_eq f o).symm
    have entries (f o : Nat) : entry f o = s.frameWord f o := by
      show BitVec.ofNat 64 (s.firn.readN (place f o) 8) = _
      rw [places]
      rfl
    have first : s.frameWord root (bits off 30 18 * 8) = e1 := (entries ..).symm
    have second : s.frameWord (entryF e1 12 20) (entryF e1 32 9 * 4096 + bits off 21 9 * 8) = e2 := (entries ..).symm
    have lacksIff (e : DWord) : lacks e ↔ lacking k e = true := by
      unfold lacks lacking fld
      cases k with
      | amo fn dbl acquire opnd cnew dst p => cases fn <;> simp [ReqKind.wants, entryF, bits, or_assoc]
      | _ => simp [ReqKind.wants, entryF, bits]
    have grants (e : DWord) (huge : Bool) (walked : walk s (some root) off = .leaf e huge) :
        gives e (leafFrame e huge off) (off % 2 ^ 21) (if huge then 2 ^ 30 else 2 ^ 21) := by
      obtain ⟨host, lack, window, home⟩ := page_gives (k := k) fresh walked (lacksIff e)
      refine ⟨host, lack, window, fun own has fits => ?_⟩
      rw [places]
      exact home own has fits
    refine ⟨pageOf_bad fresh rfl, fun invalid => pageOf_bad fresh (walk_invalid frame first invalid), fun valid => ⟨fun bad => ?_,
      fun sound leaf => ?_, fun sound pointer table => ⟨fun invalid => ?_, fun valid2 => ⟨fun bad => ?_, fun sound2 => ?_⟩⟩⟩⟩
    · exact pageOf_bad fresh (walk_broken frame first valid ((badEntry_first e1).mpr bad))
    · exact grants e1 true (walk_huge frame first valid (Bool.eq_false_iff.mpr fun bad => sound ((badEntry_first e1).mp bad)) leaf)
    all_goals
      have walked := walk_second frame first valid (Bool.eq_false_iff.mpr fun bad => sound ((badEntry_first e1).mp bad)) pointer table second
    · exact pageOf_bad fresh (walked.trans (if_pos invalid))
    · exact pageOf_bad fresh (walked.trans ((if_neg (by rw [show entryF e2 0 1 = 1 from valid2]; exact Nat.one_ne_zero)).trans
        (if_pos ((badEntry_second e2).mpr bad))))
    · exact grants e2 false (walked.trans ((if_neg (by rw [show entryF e2 0 1 = 1 from valid2]; exact Nat.one_ne_zero)).trans
        (if_neg fun bad => sound2 ((badEntry_second e2).mp bad))))

end Sys2Proof.Homing
end

section
/-! # What a save reads of a slice (O48) -/

namespace Sys2Proof.Saving

open Sys2Proof.Machine Sys2Proof.Safety Sys2Proof.Rules

/-! ## The image of a cell -/

theorem layPieces_read (base : Nat) (l : List Piece) (m : Mem) {o : Nat} (below : o < base) : (layPieces m base l).read o = m.read o := by
  induction l generalizing m with
  | nil => rfl
  | cons p l ih => exact (ih _).trans (Mem.read_writeN_out m (base + p.off) p.len p.val (.inl (by omega)))

/-- Below its save area an image holds the slice. -/
theorem withArea_read (c : CellState) (t : Stage) (no n : Nat) (slice : Mem) {o : Nat} (below : o < c.sliceReach) :
    (c.withArea t no n slice).read o = slice.read o := by
  refine (layPieces_read _ _ _ below).trans ((Mapping.read_filter (fun a => !(decide (c.sliceReach ≤ a) && decide (a < c.sliceReach + 2 ^ 19)))
    slice o).trans (if_pos ?_))
  rw [decide_eq_false (Nat.not_le_of_lt below)]
  rfl

theorem flush_stages (s : State) (n : Nat) : (s.flush n).stages = s.stages := by
  have each {α : Type} (line data : α → Nat) (l : List α) :
      ∀ s : State, (l.foldl (fun s w => s.sliceWrite n (line w * 32) 32 (data w)) s).stages = s.stages := by
    induction l with
    | nil => exact fun _ => rfl
    | cons w l ih =>
      intro s
      rw [List.foldl_cons, ih, sliceWrite_frame]
  exact (each Line.line (fun e => e.data.toNat) _ _).trans (each WriteBack.line (fun w => w.data.toNat) _ s)

/-- A cell's image joins those of its stage. -/
theorem saveCell_saved (st : Nat) (s : State) (n : Nat) :
    let c := ((s.flush n).cell n).saved (s.flush n).strip
    ((saveCell st s n).stage st).saved = (s.stage st).saved.put (((s.flush n).cell n).num (s.stage st))
      (c, c.withArea (s.stage st) ((s.flush n).strip * 163840 + n) n ((s.flush n).sliceTake n)) := by
  intro c
  have same : (s.flush n).stage st = s.stage st := stage_of_stages (flush_stages s n) st
  show (((s.flush n).setStage st { (s.flush n).stage st with saved := _ }).stage st).saved = _
  rw [stage_setStage_same, same]

/-! ## A line beyond the slice -/

/-- A line whose number lies beyond 8 MiB of slice, the most that R15 gives a slice; the statement bounds no line. -/
def strayLine : Line := ⟨2 ^ 18, 1, true, false⟩

/-- A stopped stage of nine columns. -/
def stoppedStage : Stage := { Stage.blank with status := .placed, stopping := true, w := 9 }

/-- Two cells of it whose half strips differ and whose positions agree: the first one's stray line lies where the second one's slice
begins. -/
def straying : State :=
  { State.reset with
    cells := [(0, { CellState.blank 0 0 0 with cache := [strayLine] }), (8, CellState.blank 0 8 0)], stages := [(0, stoppedStage)] }

theorem straying_settled : settled straying 0 = true := by decide +kernel

/-- The model saves the second cell with the byte that the write-back of the first one left there. -/
theorem straying_takes : (((saveCell 0 straying 0).flush 8).sliceTake 8).read 0 = 1 := by decide +kernel

/-- The image of the second cell, saved behind the first one. -/
theorem straying_saved : ∃ c m, AMap.get? ((recastReady (saveStage straying 0)).stage 0).saved 8 = some (c, m) ∧ m.read 0 = 1 := by
  let t := saveCell 0 straying 0
  have cells : (watchdog straying 0).cellsOf 0 = straying.cells := by decide +kernel
  have stands : watchdog straying 0 = straying := watchdog_done (.inl rfl)
  have images : ((recastReady (saveStage straying 0)).stage 0).saved = ((saveCell 0 t 8).stage 0).saved := by
    rw [stage_of_stages (Watches.recastReady_keeps (saveStage straying 0)).1]
    unfold saveStage
    dsimp only
    rw [stage_setStage_same, cells, stands]
    rfl
  have number : ((t.flush 8).cell 8).num (t.stage 0) = 8 := by decide +kernel
  have reach : 0 < (((t.flush 8).cell 8).saved (t.flush 8).strip).sliceReach := by decide +kernel
  have image := images.trans (saveCell_saved 0 t 8)
  rw [number] at image
  exact ⟨_, _, (congrArg (AMap.get? · 8) image).trans (AMap.get?_put_same ..), (withArea_read _ _ _ _ _ reach).trans straying_takes⟩

/-- Refutes O48: a dirty line whose number lies beyond 8 MiB, which the statement admits, is written back into the slice of another
cell, which is saved behind it with that byte, where the statement takes the lines of that cell alone into account. -/
theorem not_stagesMoveAndEnd : ¬ Obligations.StagesMoveAndEnd := by
  intro h
  obtain ⟨save, -⟩ := h.1 straying 0 0 0
  obtain ⟨t, run, -, -, -, saved⟩ := save rfl rfl rfl straying_settled (by unfold Rising; decide) (by decide +kernel) (by decide)
  obtain ⟨m, image, slice⟩ := saved 8 (CellState.blank 0 8 0) rfl rfl
  have stated : m.read 0 = (straying.flush 8).firn.read (straying.sliceKey 8 0) :=
    slice (by unfold MemOk; decide +kernel) (by unfold Apart; decide +kernel) (by decide) 0 (by decide) (by decide +kernel)
  have saves : exec (.preempt 0) straying = .next (recastReady (saveStage straying 0)) :=
    if_pos ⟨rfl, rfl, .inl rfl, straying_settled⟩
  obtain ⟨c, m', image', byte⟩ := straying_saved
  obtain rfl : recastReady (saveStage straying 0) = t := Host.Outcome.next.inj (saves.symm.trans run)
  obtain rfl : m' = m := (Prod.mk.inj (Option.some.inj (image'.symm.trans image))).2
  have zero : (straying.flush 8).firn.read (straying.sliceKey 8 0) = 0 := by decide +kernel
  exact absurd ((byte.symm.trans stated).trans zero) (by decide)

end Sys2Proof.Saving
end
